-- ==== Sys2Proof/Word.lean ====
section
/-! DEFINITION. The word types of the Henard Keahild and the sparse tables the state is made of. -/

namespace Sys2Proof

/-- One byte (R4). -/
abbrev Byte := BitVec 8
/-- One 32-bit lane register (R92). -/
abbrev Word := BitVec 32
/-- One 64-bit uniform register (R92). -/
abbrev DWord := BitVec 64
/-- A mask of lanes, bit l for lane l (R92). -/
abbrev Mask := BitVec 64

/-- A table keyed by numbers, keys strictly rising. -/
abbrev Tbl (α : Type) := List (Nat × α)

/-- The entry of a key. -/
def Tbl.get {α : Type} : Tbl α → Nat → Option α
  | [], _ => none
  | (k, v) :: t, n => if k = n then some v else Tbl.get t n

/-- The table with a key's entry set. -/
def Tbl.put {α : Type} : Tbl α → Nat → α → Tbl α
  | [], n, x => [(n, x)]
  | (k, v) :: t, n, x =>
    if k = n then (n, x) :: t
    else if n < k then (n, x) :: (k, v) :: t
    else (k, v) :: Tbl.put t n x

/-- The table without a key. -/
def Tbl.del {α : Type} (t : Tbl α) (n : Nat) : Tbl α := t.filter fun e => e.1 ≠ n

/-- The table with a key's entry changed, where there is one. -/
def Tbl.upd {α : Type} (t : Tbl α) (n : Nat) (f : α → α) : Tbl α :=
  t.map fun e => if e.1 = n then (e.1, f e.2) else e

end Sys2Proof
end

