-- ==== Sys2Proof/Config.lean ====
section
/-! DEFINITION. What the specification leaves without a value: free values, opaque constants that no proof can see. -/

namespace Sys2Proof.Config

/-- The byte that a read of HBM delivers under a key domain's present key where nothing has been written under
that key: what lies there, decrypted under the key, is not defined (R247).
Arguments: physical address, domain, the domain's key generation, and what was last written there under another
key (0 for nothing, else 1 + byte + 256 x the other domain). -/
opaque hbmResidue : Nat → Nat → Nat → Nat → Byte

/-- The stack, taken modulo 12, in which a 64 KiB page of HBM lies: R18 gives the stacks, no rule gives the map.
Argument: the page's number. -/
opaque stackOfPage : Nat → Nat

/-- Which of the values that a byte has held a reader of R214 gets.
Arguments: the physical address, the model's counter `State.fresh`. -/
opaque staleChoice : Nat → Nat → Nat

/-- Whether a resume uses a changed byte of a save record as it is now, or as it was saved (R375).
Arguments: the byte's place in the record, the model's counter `State.fresh`. -/
opaque savedByteNew : Nat → Nat → Bool

/-- Bits [119:0] of the keyed BLAKE3 hash of a line's contents and its kind byte (R251).
The key never leaves the security engine. Arguments: domain, key generation, node?, contents. -/
opaque lineHash : Nat → Nat → Bool → List Byte → BitVec 120

/-- The first 8 bytes of the AES-CMAC of a remote notify's bytes [55:0] under the queue's key (R350).
The key never leaves the security engine. Arguments: the key's number, the bytes. -/
opaque notifyTag : Nat → List Byte → BitVec 64

/-- The AES-GMAC tag of a folio's bytes under the context's trace key (R403, R404).
Arguments: the trace key's number, the bytes. -/
opaque folioTag : Nat → List Byte → BitVec 128

/-- The answer of an SPDM responder to a request (R386 names the protocol and not its bytes).
Arguments: the port, the request code, the request's bytes. -/
opaque spdmAnswer : Nat → Nat → List Byte → List Byte

/-- The bytes of the hash of the Custodian image, which measurements report (R386, R406): no rule gives the image.
Argument: the byte's place. -/
opaque custodianHash : Nat → Byte

/-- Ranges of 64 KiB that the archive namespace has (R403): no rule gives its size. -/
opaque archiveRanges : Nat

/-- Bytes that one entry of a core's undo journal or input log takes in the journal area (R397): no rule gives its
layout. -/
opaque journalEntry : Nat

/-- A byte of an entry of the undo journal or the input log, as it stands in the journal area (R397).
Arguments: the model's counter `State.fresh`, the byte's place in the area. -/
opaque entryByte : Nat → Nat → Byte

/-- The bits that a damaged array returns (R249 delivers them unmarked and does not say which).
Arguments: the count of errors so far, the byte's index in the access. -/
opaque damagedByte : Nat → Nat → Byte

/-- A byte that an engine, a walk or an atomic reads from a peer's HBM: the peer is another device (R383).
Arguments: the physical address, the model's counter `State.fresh`, which every instruction and event advances. -/
opaque peerByte : Nat → Nat → Byte

/-- A byte of a completion-ring slot that lies outside every window, read by CRPOLL: no rule gives it (R195, R197).
Arguments: its window address, the wave's accession count. -/
opaque strayByte : Nat → Nat → Byte

/-- The doorbell field of QNOTIFY's result where the operand names no queue: there is no doorbell to report (R352).
Argument: the wave's accession count. -/
opaque noDoorbell : Nat → BitVec 24

end Sys2Proof.Config
end

