-- ==== Sys2Proof/Syntax.lean ====
section
/-! DEFINITION. The instructions and the device's operations and events: one constructor per row of the opcode table,
with the operands and modifiers that the specification gives it, and the outside inputs of an event. -/

namespace Sys2Proof

/-- Roles of waves; codes 0 to 3 (R40, R271). -/
inductive Role where
  | general | copy | matrix | vector
  deriving DecidableEq, Repr

/-- Causes and notices (Table 22.3). -/
inductive Cause where
  | illegalOp | illegalOperand | illegalMod | illegalHint
  | roleViolation
  | windowBounds | windowKind | misaligned | permission | pageFault
  | noRegion | nameAbsent | rootShape
  | claimScope | claimOverflow | claimPhase | claimMiss
  | pcRange | barrierState | ringState | tileState | launchPacket
  | steerEmpty | steerNest | steerMode | rejoinStall
  | trap | brk | syscall
  | uncorrectable | seqError
  | launchCoop | launchResource | savePool
  | loadNote | loadArch | loadHint | loadClass | loadResource
  deriving DecidableEq, Repr

/-- The assigned operations (Table 3.7). -/
inductive Op where
  | nop | br | brx | call | ret | exit | yield_ | trap | sysc | brkpt | icinv
  | jenrol | jwait | jstrike | hret | pcmin | pcmaj | pceq
  | iadd | isub | imul | imulh | imad | imin | imax | iabs | ineg
  | and | or | xor | andn | not | shl | shr | sar | rotl | popc | clz | brev | bfe | bfi | logt
  | mov | movi | sel | icvt
  | isetp | fsetp | plogt | vote | shfl
  | fadd | fsub | fmul | ffma | fmin | fmax | fdiv | fsqrt | frcp | frsq | fexp2 | flog2 | fsin | fcos
  | fclass | frnd | fabs | fneg
  | fcvt | f2i | i2f | pack | unpk
  | dot4i8 | dot8i4 | dot4f8 | dot2bf | dotb32
  | ld | st | atom | fence
  | cpy | cpyo | bulk | arrinit | arrwait | arrtest | crpoll | crsleep
  | waitc | waitt
  | bararr | barwait | barsync | barq
  | sracq | srpost | srwait | srfree | srbind
  | tzero | tldw | tmma | tmmas | tbin | tlut | tscacc | tdrain | tcvt | tsetph
  | dlaunch | dlwait | nodeput | qclaim | qnotify
  | claim | claimend | itemend
  | clook | cfetch | cref | cunref | crootcas | ccopyout
  deriving DecidableEq, Repr

/-- Guard and scheduling hints of an instruction word (R46, R48, R59). -/
structure Head where
  /-- G.neg -/
  neg : Bool := false
  /-- G.pred -/
  pred : BitVec 3 := 0
  stall : BitVec 4 := 0
  yld : Bool := false
  /-- reuse.A, reuse.B, reuse.D in bits 2, 1, 0 -/
  reuse : BitVec 3 := 0
  ign : BitVec 2 := 0
  chk : BitVec 2 := 0
  deriving DecidableEq, Repr

/-- An operand field (R52). -/
inductive Operand where
  /-- lane register -/
  | lane (n : BitVec 8)
  /-- uniform register -/
  | uni (n : BitVec 6)
  /-- signed 18-bit immediate -/
  | imm (v : BitVec 18)
  /-- special register or predicate, numbered by Table 3.3 -/
  | spec (n : BitVec 8)
  deriving DecidableEq, Repr

/-- Integer types of Table 3.5. -/
inductive IType where
  | s32 | z32 | s64 | z64 | s16x2 | z16x2 | b32
  deriving DecidableEq, Repr

/-- Float types of Table 3.6. -/
inductive FType where
  | f32 | f64 | f16 | bf16 | f16x2 | bf16x2
  deriving DecidableEq, Repr

/-- Float formats by the format code of the conversion class (R154). -/
inductive FFmt where
  | f32 | f64 | f16 | bf16 | e4m3 | e5m2 | e2m1 | ue8m0
  deriving DecidableEq, Repr

/-- Rounding modes (Table 4.3). -/
inductive Rnd where
  | rne | rtz | rdn | rup | rna | sr
  deriving DecidableEq, Repr

/-- Integer types of ICVT, F2I and I2F (Table 6.6). -/
inductive CType where
  | s8 | z8 | s16 | z16 | s32 | z32 | s64 | z64
  deriving DecidableEq, Repr

/-- Comparisons of ISETP (Table 6.8). -/
inductive ICmp where
  | eq | ne | lt | le | gt | ge
  deriving DecidableEq, Repr

/-- Comparisons of FSETP (Table 7.7). -/
inductive FCmp where
  | eq | ne | lt | le | gt | ge | num | nan
  deriving DecidableEq, Repr

/-- Combination of a comparison with the old predicate (Table 6.8). -/
inductive Comb where
  | put | conj | disj
  deriving DecidableEq, Repr

/-- Modes of VOTE (Table 6.9). -/
inductive VoteMode where
  | any | all | eq | ballot
  deriving DecidableEq, Repr

/-- Source rules of SHFL (Table 6.10). -/
inductive ShflMode where
  | idx | up | dn | xor
  deriving DecidableEq, Repr

/-- Segments of SHFL (Table 6.10). -/
inductive Seg where
  | segw | seg2 | seg4 | seg8 | seg16 | seg32
  deriving DecidableEq, Repr

/-- Destination types of PACK (Table 7.12). -/
inductive PackType where
  | f16x2 | bf16x2 | e4m3x2 | e5m2x2
  deriving DecidableEq, Repr

/-- Source types of UNPK (Table 7.13). -/
inductive UnpkType where
  | f16x2 | bf16x2 | e4m3 | e5m2 | e2m1 | ue8m0
  deriving DecidableEq, Repr

/-- Access types of LD and ST (Table 9.4). -/
inductive MemType where
  | z8 | s8 | z16 | s16 | b32 | b64 | b128
  deriving DecidableEq, Repr

/-- Operations of ATOM (Table 9.5). -/
inductive AtomOp where
  | add | smin | umin | smax | umax | and | or | xor | xchg | cas | fadd
  deriving DecidableEq, Repr

/-- Ordering kinds of ATOM (Table 9.5). -/
inductive AtomOrd where
  | rlx | acq | rel | ar
  deriving DecidableEq, Repr

/-- Kinds of FENCE (Table 9.5). -/
inductive FenceKind where
  | acq | rel | full
  deriving DecidableEq, Repr

/-- Bytes per lane of CPY and CPYO (Table 9.7). -/
inductive CpySize where
  | sz4 | sz8 | sz16 | sz32
  deriving DecidableEq, Repr

/-- Vitrine slot widths (Table 18.2). -/
inductive SlotWidth where
  | w4 | w8 | w16 | w64 | w1
  deriving DecidableEq, Repr

/-- Product formats (Table 18.4). -/
inductive TileFmt where
  | e4m3 | e5m2 | e4m3e5m2 | e5m2e4m3 | e2m1 | bf16 | f16 | f64
  deriving DecidableEq, Repr

/-- Element widths of TDRAIN (R333). -/
inductive DrainWidth where
  | w32 | w16 | w8 | w4 | w64
  deriving DecidableEq, Repr

/-- Modes of TDRAIN (Table 18.3). -/
inductive DrainMode where
  | store | add | seq
  deriving DecidableEq, Repr

/-- Sources of TCVT (R331). -/
inductive TcvtSrc where
  | f32 | s32 | f64
  deriving DecidableEq, Repr

/-- Generic integer modifier (Table 3.5). -/
structure IMod where
  ty : IType := .s32
  sat : Bool := false
  deriving DecidableEq, Repr

/-- Generic float modifier (Table 3.6). -/
structure FMod where
  ty : FType := .f32
  rnd : Rnd := .rne
  ftz : Bool := false
  deriving DecidableEq, Repr

/-! ### Outside inputs of events -/

/-- The fields of a context descriptor that Curator writes (Table 22.1). -/
structure CtxDesc where
  savePool : BitVec 64 := 0
  /-- in units of 4 KiB -/
  poolSize : BitVec 32 := 0
  slice : BitVec 32 := 3000000
  drainBudget : BitVec 24 := 150000
  /-- bit 0 DLG_TRAP, 1 DLG_ARITH, 2 SEALED, 3 REPLAY, 4 DEBUG_EDITED -/
  flags : BitVec 8 := 0
  trapHandler : BitVec 16 := 0
  owner : BitVec 16 := 0
  /-- slots 1 to 4; 0xffff for none -/
  shared : List (BitVec 16) := [0xffff, 0xffff, 0xffff, 0xffff]
  ownDomain : BitVec 16 := 0
  tableRoot : BitVec 64 := 0
  deriving DecidableEq, Repr

/-- A data block of a code object (R37), with the address the loader chose and the page-table entries it writes. -/
structure DataBlock where
  reg : Nat
  name : List Byte := []
  /-- a read-only image -/
  ro : Bool := false
  va : BitVec 64
  /-- physical address of its first byte -/
  pa : BitVec 64
  bytes : List Byte
  /-- (physical address of the entry, the entry) -/
  leaves : List (Nat × BitVec 64)
  deriving DecidableEq, Repr

/-- A note of `.note.henard` (R40). -/
structure Note where
  /-- the owner name is `Henard` ending in NUL -/
  owner : List Byte
  kind : BitVec 32
  desc : List Byte
  deriving DecidableEq, Repr

/-- A section of the file's section table (R39): its name and its alignment. -/
structure ElfSection where
  name : List Byte
  align : Nat := 1
  deriving DecidableEq, Repr

/-- The ELF64 container of a code object (R39). -/
structure Elf where
  class64 : Bool := true
  lsb : Bool := true
  dyn : Bool := true
  machine : BitVec 16 := 0x4a6b
  relocations : Bool := false
  interpreter : Bool := false
  /-- by section index -/
  sections : List ElfSection := []
  /-- names in the symbol table -/
  symbols : List (List Byte) := []
  deriving DecidableEq, Repr

/-- One kernel of a code object: its note where present, its name, its text, its data blocks, its labels (R39); and the physical
address at which the loader puts its text. -/
structure KernelImage where
  note : Option Note
  name : List Byte := []
  place : Nat := 0
  text : List Byte
  data : List DataBlock
  /-- its labels, each with the PC that it names (R39) -/
  labels : List (List Byte × Nat) := []
  deriving DecidableEq, Repr

/-- A code object (R39): its container, and its kernels in the order of their notes. -/
structure CodeObject where
  elf : Elf
  kernels : List KernelImage
  deriving DecidableEq, Repr

/-- The granules that a block receives on one core (R410 leaves the choice undefined): its allocation in offset
order, and the granules of its spill stacks. -/
structure Granules where
  alloc : List Nat
  spill : List Nat
  deriving DecidableEq, Repr

/-- An uncorrectable memory error met by an access (R249): the array kind's number (Table 24.3 order) and the
index of the first damaged byte. -/
structure MemError where
  array : Nat
  byte : Nat
  deriving DecidableEq, Repr

/-- What another member's collective card says at the pairing (R393). -/
structure PeerCard where
  rank : Nat
  op : Nat
  ty : Nat
  count : Nat
  members : List Nat
  deriving DecidableEq, Repr

/-- A supervisor's access to memory (R213, R248): the domain it names, and the bytes. -/
inductive SupAccess where
  | readLds (addr : BitVec 32) (n : Nat) (dom : Nat)
  | writeLds (addr : BitVec 32) (bytes : List Byte) (dom : Nat)
  | readHbm (pa : Nat) (n : Nat) (dom : Nat)
  | writeHbm (pa : Nat) (bytes : List Byte) (dom : Nat)
  /-- the descriptor of a context (Table 22.1) -/
  | readContext (ctx : Nat)
  deriving DecidableEq, Repr

/-- The next fall of a wave's tile count, and the error that the oldest tile instruction has met (R249, R320). -/
structure TileFall where
  wave : Nat
  err : Option MemError := none
  deriving DecidableEq, Repr

/-- Where a wave of a reserving launch goes: the granules of its spill stacks, and the offset in the save pool of the block's
record, which grows with it (R364, R410). -/
structure WavePlace where
  spill : List Nat
  rec_ : Nat
  deriving DecidableEq, Repr

/-- Where a reserving launch starts: the granules of its home allocation, and the offset of its record. -/
structure LaunchPlace where
  granules : Granules
  rec_ : Nat
  deriving DecidableEq, Repr

/-- A request about the debug right of a context, and the agent that makes it (R378, R380). -/
structure RightAsk where
  ctx : Nat
  by_ : Nat
  deriving DecidableEq, Repr

/-- What the members of a collective contribute, in rank order, and the error that their transfers have met (R249, R392). -/
structure Contributions where
  data : List (List Byte)
  err : Option MemError := none
  deriving DecidableEq, Repr

/-- Algorithms that an SPDM message offers (R386). -/
inductive SpdmAlg where
  | ecdsaP384Sha384 | ecdheSecp384r1 | aes256Gcm | other
  deriving DecidableEq, Repr

/-- What an SPDM message asks for: the algorithms that NEGOTIATE_ALGORITHMS offers, and mutual authentication without
certificates (R386). -/
structure SpdmTerms where
  offers : List SpdmAlg := [.ecdsaP384Sha384, .ecdheSecp384r1, .aes256Gcm]
  bareMutual : Bool := false
  deriving DecidableEq, Repr

/-- An SPDM message: what it asks for, and its bytes. -/
structure SpdmMsg where
  terms : SpdmTerms := {}
  bytes : List Byte
  deriving DecidableEq, Repr

/-- A peer's request (R384, R387). -/
inductive PeerReq where
  | read (n : Nat)
  | write (bytes : List Byte)
  | atomAdd (v : BitVec 64)
  | atomXchg (v : BitVec 64)
  | atomCas (cmp new : BitVec 64)
  /-- any other atomic -/
  | atomOther (code : Nat)
  deriving DecidableEq, Repr

/-- An export range (R384). -/
structure ExportRange where
  /-- in units of 64 KiB -/
  base : Nat
  length : Nat
  dom : Nat
  rd : Bool
  wr : Bool
  atom : Bool
  peers : BitVec 1024
  deriving DecidableEq, Repr

/-- What a debugger writes (R166, R379). -/
inductive DbgWrite where
  | laneReg (lane reg : Nat) (v : BitVec 32)
  | uniReg (reg : Nat) (v : BitVec 64)
  | pred (lane p : Nat) (v : Bool)
  | lpc (lane : Nat) (v : BitVec 32)
  | pc (v : BitVec 32)
  | special (n : BitVec 8) (v : BitVec 64)
  | spill (lane off : Nat) (bytes : List Byte)
  deriving DecidableEq, Repr

/-- A cell of a matrix sequencer or another entry of the lifetime record (Table 24.3). -/
inductive LifeEntry where
  | corrected (array : Nat)
  | uncorrectable (array : Nat)
  | thermal (bin : Nat)
  | residency (island state : Nat)
  | retrains (port : Nat)
  | safeguard
  | pinned
  | startFail (step : Nat)
  | starts
  deriving DecidableEq, Repr

/-- The outcome of one start step (R406): whether its main method and its alternate would pass. -/
structure StartStep where
  mainOk : Bool
  altOk : Bool
  deriving DecidableEq, Repr

/-- States of an island (Table 24.5). -/
inductive IslandState where
  | run | reduced | stopped | off
  deriving DecidableEq, Repr

/-- Fields of a context descriptor that Curator may write after creation (R360). -/
inductive DescWrite where
  | slice (v : BitVec 32)
  | drainBudget (v : BitVec 24)
  | delegation (trap arith : Bool)
  /-- replay mode, with the journal areas of the context's cores: their virtual base and the bytes of each -/
  | replay (on : Bool) (base : BitVec 64) (journalArea : Nat)
  | trapHandler (v : BitVec 16)
  | savePool (base : BitVec 64) (size : BitVec 32)
  | tableRoot (v : BitVec 64)
  | attach (slot : Nat) (dom : Nat)
  | detach (slot : Nat)
  deriving DecidableEq, Repr

/-- A stop of a replay (R399). -/
structure StopName where
  die : Nat
  core : Nat
  interval : Nat
  wave : Nat
  accn : BitVec 64
  deriving DecidableEq, Repr

/-- The instructions and events: one constructor per row of the opcode table, in its order. -/
inductive Instr where
  -- control (Table 5.5)
  | nop (h : Head)
  | br (h : Head) (count : BitVec 18)
  | brx (h : Head) (a : Operand)
  | call (h : Head) (d b : Operand)
  | ret (h : Head) (a : Operand)
  | exit (h : Head)
  | yield_ (h : Head)
  | trap (h : Head) (code : BitVec 18)
  | sysc (h : Head) (code : BitVec 18)
  | brkpt (h : Head) (code : BitVec 18)
  | icinv (h : Head)
  -- steering (Table 5.6)
  | jenrol (h : Head) (d : Operand)
  | jwait (h : Head) (d : Operand)
  | jstrike (h : Head) (d : Operand)
  | hret (h : Head) (a : Operand)
  | pcmin (h : Head) (d a : Operand)
  | pcmaj (h : Head) (d a : Operand)
  | pceq (h : Head) (d a b : Operand)
  -- integer (Table 6.1)
  | iadd (h : Head) (d a b : Operand) (m : IMod)
  | isub (h : Head) (d a b : Operand) (m : IMod)
  | imul (h : Head) (d a b : Operand) (m : IMod)
  | imulh (h : Head) (d a b : Operand) (m : IMod)
  | imad (h : Head) (d a b : Operand) (m : IMod)
  | imin (h : Head) (d a b : Operand) (m : IMod)
  | imax (h : Head) (d a b : Operand) (m : IMod)
  | iabs (h : Head) (d a : Operand) (m : IMod)
  | ineg (h : Head) (d a : Operand) (m : IMod)
  -- logic (Table 6.3)
  | and (h : Head) (d a b : Operand) (m : IMod)
  | or (h : Head) (d a b : Operand) (m : IMod)
  | xor (h : Head) (d a b : Operand) (m : IMod)
  | andn (h : Head) (d a b : Operand) (m : IMod)
  | not (h : Head) (d a : Operand) (m : IMod)
  | shl (h : Head) (d a b : Operand) (m : IMod)
  | shr (h : Head) (d a b : Operand) (m : IMod)
  | sar (h : Head) (d a b : Operand) (m : IMod)
  | rotl (h : Head) (d a b : Operand) (m : IMod)
  | popc (h : Head) (d a : Operand) (m : IMod)
  | clz (h : Head) (d a : Operand) (m : IMod)
  | brev (h : Head) (d a : Operand) (m : IMod)
  | bfe (h : Head) (d a b : Operand) (m : IMod)
  | bfi (h : Head) (d a b : Operand) (m : IMod)
  | logt (h : Head) (d a b : Operand) (t : BitVec 8)
  -- move (Table 6.4)
  | mov (h : Head) (d a : Operand) (ty : IType)
  | movi (h : Head) (d : Operand) (v : BitVec 32)
  | sel (h : Head) (d a b : Operand) (neg : Bool) (p : BitVec 3)
  | icvt (h : Head) (d a : Operand) (dt st : CType) (sat : Bool)
  -- predicate and lane (Tables 6.7, 7.6)
  | isetp (h : Head) (d a b : Operand) (ty : IType) (cmp : ICmp) (comb : Comb)
  | fsetp (h : Head) (d a b : Operand) (ty : FType) (cmp : FCmp) (comb : Comb)
  | plogt (h : Head) (d a b : Operand) (t : BitVec 8)
  | vote (h : Head) (d a : Operand) (mode : VoteMode)
  | shfl (h : Head) (d a b : Operand) (seg : Seg) (mode : ShflMode)
  -- float (Table 7.1)
  | fadd (h : Head) (d a b : Operand) (m : FMod)
  | fsub (h : Head) (d a b : Operand) (m : FMod)
  | fmul (h : Head) (d a b : Operand) (m : FMod)
  | ffma (h : Head) (d a b : Operand) (m : FMod)
  | fmin (h : Head) (d a b : Operand) (m : FMod)
  | fmax (h : Head) (d a b : Operand) (m : FMod)
  | fdiv (h : Head) (d a b : Operand) (m : FMod)
  | fsqrt (h : Head) (d a : Operand) (m : FMod)
  | frcp (h : Head) (d a : Operand) (m : FMod)
  | frsq (h : Head) (d a : Operand) (m : FMod)
  | fexp2 (h : Head) (d a : Operand) (m : FMod)
  | flog2 (h : Head) (d a : Operand) (m : FMod)
  | fsin (h : Head) (d a : Operand) (m : FMod)
  | fcos (h : Head) (d a : Operand) (m : FMod)
  | fclass (h : Head) (d a : Operand) (m : FMod)
  | frnd (h : Head) (d a : Operand) (m : FMod)
  | fabs (h : Head) (d a : Operand) (m : FMod)
  | fneg (h : Head) (d a : Operand) (m : FMod)
  -- conversion (Table 7.8)
  | fcvt (h : Head) (d a : Operand) (dt st : FFmt) (rnd : Rnd) (ftz ovf : Bool) (se de : BitVec 3)
  | f2i (h : Head) (d a : Operand) (dt : CType) (st : FType) (rnd : Rnd)
  | i2f (h : Head) (d a : Operand) (dt : FType) (st : CType) (rnd : Rnd)
  | pack (h : Head) (d a b : Operand) (dt : PackType) (rnd : Rnd) (ftz hi : Bool)
  | unpk (h : Head) (d a : Operand) (st : UnpkType) (g : BitVec 2)
  -- packed dot (Table 7.14)
  | dot4i8 (h : Head) (d a b : Operand) (sa sb : Bool)
  | dot8i4 (h : Head) (d a b : Operand) (sa sb : Bool)
  | dot4f8 (h : Head) (d a b : Operand) (ea eb sc : Bool) (rnd : Rnd)
  | dot2bf (h : Head) (d a b : Operand) (rnd : Rnd)
  | dotb32 (h : Head) (d a b : Operand) (conj : Bool)
  -- memory (Table 9.3)
  | ld (h : Head) (d a : Operand) (b : Option Operand) (ty : MemType)
  | st (h : Head) (d a : Operand) (b : Option Operand) (ty : MemType)
  | atom (h : Head) (d a : Operand) (b : Option Operand) (op : AtomOp) (ord : AtomOrd) (w64 : Bool)
  | fence (h : Head) (a : Operand) (b : Option Operand) (kind : FenceKind)
  -- copy and wait (Table 9.6)
  | cpy (h : Head) (d a b : Operand) (size : CpySize) (tag : BitVec 3) (arr : Bool)
  | cpyo (h : Head) (d a b : Operand) (size : CpySize) (tag : BitVec 3) (arr : Bool)
  | bulk (h : Head) (a : Operand) (b : Option Operand) (tag : BitVec 3)
  | arrinit (h : Head) (a b : Operand)
  | arrwait (h : Head) (d a b : Operand)
  | arrtest (h : Head) (d a b : Operand)
  | crpoll (h : Head) (d a : Operand)
  | crsleep (h : Head) (a : Operand)
  | waitc (h : Head) (l s c t : BitVec 6)
  | waitt (h : Head) (tag : BitVec 3) (n : BitVec 6)
  -- barrier (Table 12.1) and ring (Table 12.4)
  | bararr (h : Head) (b : BitVec 18)
  | barwait (h : Head) (b : BitVec 18)
  | barsync (h : Head) (b : BitVec 18)
  | barq (h : Head) (d : Operand) (b : BitVec 18)
  | sracq (h : Head) (d : Operand) (ring : BitVec 3)
  | srpost (h : Head) (a : Operand) (ring : BitVec 3)
  | srwait (h : Head) (d : Operand) (ring : BitVec 3)
  | srfree (h : Head) (a : Operand) (ring : BitVec 3)
  | srbind (h : Head) (d a b : Operand) (ring : BitVec 3)
  -- tile (Table 18.3)
  | tzero (h : Head) (n : BitVec 3)
  | tldw (h : Head) (a b : Operand) (wd : SlotWidth) (s24 : Bool)
  | tmma (h : Head) (n : BitVec 3) (a b : Operand) (fmt : TileFmt) (acc : Bool)
  | tmmas (h : Head) (n : BitVec 3) (a b : Operand) (fmt : TileFmt) (acc : Bool)
  | tbin (h : Head) (n : BitVec 3) (a b : Operand) (conj acc : Bool)
  | tlut (h : Head) (n : BitVec 3) (a b : Operand) (z4 acc : Bool)
  | tscacc (h : Head) (n : BitVec 3) (a : Operand) (p : BitVec 18)
  | tdrain (h : Head) (d : Operand) (n : BitVec 3) (b : Option Operand) (wd : DrainWidth) (mode : DrainMode) (hbm : Bool)
  | tcvt (h : Head) (n : BitVec 3) (dt : FFmt) (st : TcvtSrc) (rnd : Rnd) (ovf : Bool)
  | tsetph (h : Head) (a : Operand)
  -- launch, queue and reserving (Tables 15.5, 21.3)
  | dlaunch (h : Head) (d a : Operand)
  | dlwait (h : Head) (d a : Operand)
  | nodeput (h : Head) (d : Option Operand) (a b : Operand)
  | qclaim (h : Head) (d a : Operand) (b : Option Operand)
  | qnotify (h : Head) (d : Option Operand) (a b : Operand)
  | claim (h : Head) (a : Operand) (b : Option Operand)
  | claimend (h : Head) (b : Operand)
  | itemend (h : Head)
  -- collection (Table 14.8)
  | clook (h : Head) (d a : Operand) (dom tag : BitVec 3) (node : Bool)
  | cfetch (h : Head) (d a : Operand) (b : Option Operand) (dom tag : BitVec 3)
  | cref (h : Head) (d a : Operand) (dom : BitVec 3)
  | cunref (h : Head) (d a : Operand) (dom : BitVec 3)
  | crootcas (h : Head) (d a b : Operand)
  | ccopyout (h : Head) (a b : Operand) (tag : BitVec 3)
  -- words and effects inside a wave
  | hintSpaceWord (bits : BitVec 92)
  | writeRunm (w : Nat) (v : BitVec 64)
  | writeParkm (w : Nat) (v : BitVec 64)
  | writeLpc (w : Nat) (lanes : BitVec 64) (vals : List (BitVec 32))
  | writeHrun2 (w : Nat) (v : BitVec 64)
  | writeSglim (w : Nat) (v : BitVec 32)
  | writeSgq (w : Nat) (v : BitVec 32)
  | writeDither (w : Nat) (v : BitVec 32)
  | writeFflags (w : Nat) (v : BitVec 32)
  | readFflags (w : Nat) (d : Operand)
  | writeHvec (w : Nat) (v : BitVec 32)
  | writeSpecialRegister (w : Nat) (n : BitVec 8) (v : BitVec 64)
  | serialSteering (w : Nat)
  | quantumEnd (w : Nat)
  | handlerOverrun (w : Nat)
  | waveEnd (w : Nat)
  -- completions and waits
  | loadComplete (w : Nat) (err : Option MemError)
  | storePerformed (w : Nat)
  | translationWalkDone (die idx : Nat) (evict : Nat) (memErr : Option Nat)
  | pageFaultResolution (die core : Nat) (resolved : Bool)
  | translationInvalidation (ctx : Nat) (range : Option (BitVec 64 × BitVec 64))
  | invalidationComplete (idx : Nat)
  | copyLaneDone (w op lane : Nat) (peer : List Byte) (err : Option MemError)
  | copyTagFall (w : Nat) (tag : BitVec 3)
  | arrwaitWake (w : Nat)
  | crsleepWake (w : Nat)
  | cardRead (die core : Nat)
  | cardStart (card : Nat) (others : List PeerCard)
  | cardDone (card : Nat) (err : Option MemError)
  | cardPartialFault (card : Nat)
  | cardResume (card : Nat)
  | cardCancel (card : Nat)
  | barrierWake (w : Nat)
  | ringWake (w : Nat)
  | ringBoundPost (block partner ring slot : Nat)
  | tileCountFall (f : TileFall)
  | seqContribution (w : Nat)
  | clookFinish (w op : Nat) (err : Option MemError)
  | cfetchFinish (w op : Nat) (err : Option MemError)
  | cascade (dom : Nat)
  -- loading, grids, reserving launches
  | loadCodeObject (ctx : Nat) (o : CodeObject)
  | kernelUnload (ctx obj : Nat)
  | kernelUnloaded (ctx obj : Nat)
  | gridRetire (grid : Nat)
  | gridCancel (grid : Nat)
  | dlwaitWake (w : Nat)
  | batchCountdown (die gatherer : Nat)
  | gathererUnbind (die gatherer : Nat)
  | claimWaveForm (die core : Nat) (p : WavePlace)
  | itemRetire (w : Nat)
  | bodyWaveForm (die core : Nat) (p : WavePlace)
  | reservingLaunchStart (die home : Nat) (p : LaunchPlace)
  -- dispatch
  | dieSlotReport (die : Nat)
  | pifoServe
  | globalDispatchBatch
  | coopGridPlace (grid : Nat) (g : List (List Granules)) (recs : List Nat)
  | blockAdmit (die : Nat) (g : List Granules) (rec : Nat)
  | preemptRequest (die : Nat) (block : Nat)
  | drainBudgetExpire (block : Nat)
  | blockSave (block : Nat)
  | blockResume (die block : Nat) (cores : List Nat) (g : List Granules)
  | blockFlush (block : Nat)
  | blockRetire (block : Nat)
  | sliceExpire (die ctx : Nat)
  -- queues
  | queueClaimRemote (q : Nat) (expected : BitVec 64) (n : Nat)
  | remoteNotify (port : Nat) (session : Nat) (bytes : List Byte)
  | slotReread (q : Nat)
  | packetTake (q : Nat)
  | launch (q : Nat)
  | node (q die : Nat)
  | copy (q : Nat)
  | signal (q : Nat)
  | wait (q : Nat)
  | waitSatisfied (q : Nat)
  | writeSignal (q : Nat)
  | barrier (q : Nat)
  | pifoReinsert (q : Nat) (rank : BitVec 20)
  | rankProgramInstall (idx : Nat) (steps : List (BitVec 32))
  | queueCreate (q ctx : Nat) (hdr : BitVec 64) (entries : Nat) (base : BitVec 64)
  | queueBind (q ctx program : Nat) (base : BitVec 20) (session : Option Nat)
  | queueOpen (q : Nat)
  | queueDrain (q : Nat)
  | queueClosed (q : Nat)
  | queueForceClose (q : Nat)
  | queueDestroy (q : Nat)
  -- contexts, faults, supervisor, debugger
  | contextCreate (ctx : Nat) (desc : CtxDesc)
  | makeResident (ctx : Nat)
  | contextEvict (ctx : Nat)
  | contextEnd (ctx : Nat)
  | faultRetry (w : Nat)
  | faultContinue (w : Nat)
  | faultRedirect (w : Nat) (pc : BitVec 32)
  | faultEnd (w : Nat)
  | faultLogLostClear (ctx : Nat)
  | heartbeat (cluster : Nat)
  | freezeDispatch
  | curatorRestart (ok : Bool)
  | debugGrant (ask : RightAsk) (agent : Nat)
  | debugAttach (ctx agent : Nat)
  | debugHalt (w : Nat)
  | haltReported (w : Nat)
  | debugStep (w : Nat)
  | debugResume (w : Nat)
  | debugStateWrite (w : Nat) (wr : DbgWrite)
  | breakpointSet (ctx kernel : Nat) (pc : BitVec 32)
  | debugRevoke (ask : RightAsk)
  -- links
  | linkPartnerDetect (port : Nat)
  | linkTrained (port lanes : Nat)
  | linkTrainingTimeout (port : Nat)
  | spdmSessionEstablished (port session : Nat)
  | authenticationFailure (port : Nat)
  | tagFailureLimit (port : Nat)
  | laneLoss (port lanes : Nat)
  | lossOfSignal (port : Nat)
  | retrain (port : Nat)
  | retrainComplete (port lanes : Nat) (within : Bool)
  | portQuarantine (port : Nat)
  | portRelease (port : Nat)
  | portDisable (port : Nat)
  | keyUpdate (port : Nat)
  | endSession (port : Nat)
  | peerPathTimeout (w op lane : Nat)
  | inboundRequest (port peer : Nat) (pa : Nat) (req : PeerReq)
  | exportRangeInstall (idx : Nat) (range : Option ExportRange)
  | collectiveGroupInstall (group ctx : Nat) (members : List Nat)
  | collectiveDone (card : Nat) (c : Contributions)
  -- start, power, lifetime, replay, trace
  | deviceStart (steps : List StartStep) (invalid : List LifeEntry) (powerLimit deviceNo : Nat)
  | startRecordClear
  | islandStateSet (island : Nat) (st : IslandState)
  | islandWake (island : Nat) (st : IslandState)
  | powerLimitSet (watts : Nat)
  | lifetimeUpdate (e : LifeEntry) (n : Nat)
  | checkpoint (die core : Nat)
  | journalFullCheckpoint (die core : Nat)
  | replayToStop (ctx : Nat) (stop : StopName)
  | replayStopReached (die core : Nat)
  | replayContinue (die core : Nat)
  | samplePeriodSet (ctx : Nat) (period : Nat)
  | stallSample (die core ctx : Nat) (held : Bool) (reason : Nat)
  | folioTimeout (ctx : Nat)
  | folioWritten (ok : Bool)
  | cardCredit (card n : Nat)
  | supervisorAccess (a : SupAccess)
  | contextDescriptorWrite (ctx : Nat) (wr : DescWrite)
  | collectionRegionCreate (dom capacity rootBase rootLen : Nat)
  | supervisorNotify (q : Nat) (idx : BitVec 24)
  | spdmMessage (port code : Nat) (m : SpdmMsg)
  | powerLoss (during : Option (LifeEntry × Nat)) (landed : Bool)
  deriving DecidableEq, Repr

end Sys2Proof
end

