-- ==== Sys2Proof/Decode.lean ====
section
/-! DEFINITION. The instruction word: its fields, the decode checks of Table 3.9, the decoder and the encoder. -/

namespace Sys2Proof

/-! ### The word and its fields (R46, R47) -/

/-- The fields of an instruction word (Table 3.1). -/
structure Raw where
  op : BitVec 12
  neg : Bool
  pred : BitVec 3
  hint : BitVec 12
  d : BitVec 20
  a : BitVec 20
  b : BitVec 20
  m : BitVec 8
  deriving DecidableEq, Repr

/-- The fields of a word (Table 3.1). -/
def Raw.ofWord (w : BitVec 96) : Raw where
  op := w.extractLsb' 84 12
  neg := w.getLsbD 83
  pred := w.extractLsb' 80 3
  hint := w.extractLsb' 68 12
  d := w.extractLsb' 48 20
  a := w.extractLsb' 28 20
  b := w.extractLsb' 8 20
  m := w.extractLsb' 0 8

/-- The word of the fields (Table 3.1). -/
def Raw.toWord (r : Raw) : BitVec 96 :=
  r.op ++ BitVec.ofBool r.neg ++ r.pred ++ r.hint ++ r.d ++ r.a ++ r.b ++ r.m

/-- A word outside the hint space is any but those with the guard 0b1000 (R50). -/
def Raw.inHintSpace (r : Raw) : Bool := r.neg && r.pred == 0

/-! ### Codes -/

/-- Every assigned operation with its OP value (Table 3.7). -/
def Op.code : Op → BitVec 12
  | .nop => 0x000 | .br => 0x001 | .brx => 0x002 | .call => 0x003 | .ret => 0x004 | .exit => 0x005
  | .yield_ => 0x006 | .trap => 0x007 | .sysc => 0x008 | .brkpt => 0x009 | .icinv => 0x00a
  | .jenrol => 0x040 | .jwait => 0x041 | .jstrike => 0x042 | .hret => 0x043 | .pcmin => 0x044
  | .pcmaj => 0x045 | .pceq => 0x046
  | .iadd => 0x080 | .isub => 0x081 | .imul => 0x082 | .imulh => 0x083 | .imad => 0x084
  | .imin => 0x085 | .imax => 0x086 | .iabs => 0x087 | .ineg => 0x088
  | .and => 0x0c0 | .or => 0x0c1 | .xor => 0x0c2 | .andn => 0x0c3 | .not => 0x0c4 | .shl => 0x0c5
  | .shr => 0x0c6 | .sar => 0x0c7 | .rotl => 0x0c8 | .popc => 0x0c9 | .clz => 0x0ca | .brev => 0x0cb
  | .bfe => 0x0cc | .bfi => 0x0cd | .logt => 0x0ce
  | .mov => 0x100 | .movi => 0x101 | .sel => 0x102 | .icvt => 0x103
  | .isetp => 0x140 | .fsetp => 0x141 | .plogt => 0x142 | .vote => 0x143 | .shfl => 0x144
  | .fadd => 0x200 | .fsub => 0x201 | .fmul => 0x202 | .ffma => 0x203 | .fmin => 0x204 | .fmax => 0x205
  | .fdiv => 0x206 | .fsqrt => 0x207 | .frcp => 0x208 | .frsq => 0x209 | .fexp2 => 0x20a
  | .flog2 => 0x20b | .fsin => 0x20c | .fcos => 0x20d | .fclass => 0x20e | .frnd => 0x20f
  | .fabs => 0x210 | .fneg => 0x211
  | .fcvt => 0x240 | .f2i => 0x241 | .i2f => 0x242 | .pack => 0x243 | .unpk => 0x244
  | .dot4i8 => 0x280 | .dot8i4 => 0x281 | .dot4f8 => 0x282 | .dot2bf => 0x283 | .dotb32 => 0x284
  | .ld => 0x400 | .st => 0x401 | .atom => 0x402 | .fence => 0x403
  | .cpy => 0x440 | .cpyo => 0x441 | .bulk => 0x442 | .arrinit => 0x443 | .arrwait => 0x444
  | .arrtest => 0x445 | .crpoll => 0x446 | .crsleep => 0x447
  | .waitc => 0x480 | .waitt => 0x481
  | .bararr => 0x4c0 | .barwait => 0x4c1 | .barsync => 0x4c2 | .barq => 0x4c3
  | .sracq => 0x500 | .srpost => 0x501 | .srwait => 0x502 | .srfree => 0x503 | .srbind => 0x504
  | .tzero => 0x600 | .tldw => 0x601 | .tmma => 0x602 | .tmmas => 0x603 | .tbin => 0x604
  | .tlut => 0x605 | .tscacc => 0x606 | .tdrain => 0x607 | .tcvt => 0x608 | .tsetph => 0x609
  | .dlaunch => 0x800 | .dlwait => 0x801 | .nodeput => 0x802 | .qclaim => 0x803 | .qnotify => 0x804
  | .claim => 0x840 | .claimend => 0x841 | .itemend => 0x842
  | .clook => 0x880 | .cfetch => 0x881 | .cref => 0x882 | .cunref => 0x883 | .crootcas => 0x884
  | .ccopyout => 0x885

/-- The assigned operations, in the order of Table 3.7, in five parts. -/
def Op.allA : List Op :=
  [.nop, .br, .brx, .call, .ret, .exit, .yield_, .trap, .sysc, .brkpt, .icinv,
   .jenrol, .jwait, .jstrike, .hret, .pcmin, .pcmaj, .pceq,
   .iadd, .isub, .imul, .imulh, .imad, .imin, .imax, .iabs, .ineg]
def Op.allB : List Op :=
  [.and, .or, .xor, .andn, .not, .shl, .shr, .sar, .rotl, .popc, .clz, .brev, .bfe, .bfi, .logt,
   .mov, .movi, .sel, .icvt, .isetp, .fsetp, .plogt, .vote, .shfl]
def Op.allC : List Op :=
  [.fadd, .fsub, .fmul, .ffma, .fmin, .fmax, .fdiv, .fsqrt, .frcp, .frsq, .fexp2, .flog2, .fsin, .fcos,
   .fclass, .frnd, .fabs, .fneg, .fcvt, .f2i, .i2f, .pack, .unpk,
   .dot4i8, .dot8i4, .dot4f8, .dot2bf, .dotb32]
def Op.allD : List Op :=
  [.ld, .st, .atom, .fence, .cpy, .cpyo, .bulk, .arrinit, .arrwait, .arrtest, .crpoll, .crsleep,
   .waitc, .waitt, .bararr, .barwait, .barsync, .barq, .sracq, .srpost, .srwait, .srfree, .srbind]
def Op.allE : List Op :=
  [.tzero, .tldw, .tmma, .tmmas, .tbin, .tlut, .tscacc, .tdrain, .tcvt, .tsetph,
   .dlaunch, .dlwait, .nodeput, .qclaim, .qnotify, .claim, .claimend, .itemend,
   .clook, .cfetch, .cref, .cunref, .crootcas, .ccopyout]

/-- Every assigned operation. -/
def Op.all : List Op := Op.allA ++ (Op.allB ++ (Op.allC ++ (Op.allD ++ Op.allE)))

/-- The operation of an OP value, where one is assigned (R64). -/
def Op.ofCode (c : BitVec 12) : Option Op := Op.all.find? fun o => o.code == c

/-- Operations that exist only at architecture level 2 (Table 3.7). -/
def Op.levelTwo : Op → Bool
  | .dot4f8 | .bulk | .arrinit | .arrwait | .arrtest | .crpoll | .crsleep
  | .sracq | .srpost | .srwait | .srfree | .srbind
  | .tmmas | .tbin | .tscacc | .tsetph
  | .nodeput | .qclaim | .qnotify | .claim | .claimend | .itemend
  | .clook | .cfetch | .cref | .cunref | .crootcas | .ccopyout => true
  | _ => false

def IType.code : IType → BitVec 3
  | .s32 => 0 | .z32 => 1 | .s64 => 2 | .z64 => 3 | .s16x2 => 4 | .z16x2 => 5 | .b32 => 6
def IType.ofCode (c : BitVec 3) : IType :=
  match c.toNat with
  | 0 => .s32 | 1 => .z32 | 2 => .s64 | 3 => .z64 | 4 => .s16x2 | 5 => .z16x2 | _ => .b32

def FType.code : FType → BitVec 3
  | .f32 => 0 | .f64 => 1 | .f16 => 2 | .bf16 => 3 | .f16x2 => 4 | .bf16x2 => 5
def FType.ofCode (c : BitVec 3) : FType :=
  match c.toNat with
  | 0 => .f32 | 1 => .f64 | 2 => .f16 | 3 => .bf16 | 4 => .f16x2 | _ => .bf16x2

def FFmt.code : FFmt → BitVec 3
  | .f32 => 0 | .f64 => 1 | .f16 => 2 | .bf16 => 3 | .e4m3 => 4 | .e5m2 => 5 | .e2m1 => 6 | .ue8m0 => 7
def FFmt.ofCode (c : BitVec 3) : FFmt :=
  match c.toNat with
  | 0 => .f32 | 1 => .f64 | 2 => .f16 | 3 => .bf16 | 4 => .e4m3 | 5 => .e5m2 | 6 => .e2m1 | _ => .ue8m0

def Rnd.code : Rnd → BitVec 3
  | .rne => 0 | .rtz => 1 | .rdn => 2 | .rup => 3 | .rna => 4 | .sr => 5
def Rnd.ofCode (c : BitVec 3) : Rnd :=
  match c.toNat with
  | 0 => .rne | 1 => .rtz | 2 => .rdn | 3 => .rup | 4 => .rna | _ => .sr

def CType.code : CType → BitVec 3
  | .s8 => 0 | .z8 => 1 | .s16 => 2 | .z16 => 3 | .s32 => 4 | .z32 => 5 | .s64 => 6 | .z64 => 7
def CType.ofCode (c : BitVec 3) : CType :=
  match c.toNat with
  | 0 => .s8 | 1 => .z8 | 2 => .s16 | 3 => .z16 | 4 => .s32 | 5 => .z32 | 6 => .s64 | _ => .z64

def ICmp.code : ICmp → BitVec 3
  | .eq => 0 | .ne => 1 | .lt => 2 | .le => 3 | .gt => 4 | .ge => 5
def ICmp.ofCode (c : BitVec 3) : ICmp :=
  match c.toNat with
  | 0 => .eq | 1 => .ne | 2 => .lt | 3 => .le | 4 => .gt | _ => .ge

def FCmp.code : FCmp → BitVec 3
  | .eq => 0 | .ne => 1 | .lt => 2 | .le => 3 | .gt => 4 | .ge => 5 | .num => 6 | .nan => 7
def FCmp.ofCode (c : BitVec 3) : FCmp :=
  match c.toNat with
  | 0 => .eq | 1 => .ne | 2 => .lt | 3 => .le | 4 => .gt | 5 => .ge | 6 => .num | _ => .nan

def Comb.code : Comb → BitVec 2
  | .put => 0 | .conj => 1 | .disj => 2
def Comb.ofCode (c : BitVec 2) : Comb :=
  match c.toNat with
  | 0 => .put | 1 => .conj | _ => .disj

def VoteMode.code : VoteMode → BitVec 2
  | .any => 0 | .all => 1 | .eq => 2 | .ballot => 3
def VoteMode.ofCode (c : BitVec 2) : VoteMode :=
  match c.toNat with
  | 0 => .any | 1 => .all | 2 => .eq | _ => .ballot

def ShflMode.code : ShflMode → BitVec 2
  | .idx => 0 | .up => 1 | .dn => 2 | .xor => 3
def ShflMode.ofCode (c : BitVec 2) : ShflMode :=
  match c.toNat with
  | 0 => .idx | 1 => .up | 2 => .dn | _ => .xor

def Seg.code : Seg → BitVec 3
  | .segw => 0 | .seg2 => 1 | .seg4 => 2 | .seg8 => 3 | .seg16 => 4 | .seg32 => 5
def Seg.ofCode (c : BitVec 3) : Seg :=
  match c.toNat with
  | 0 => .segw | 1 => .seg2 | 2 => .seg4 | 3 => .seg8 | 4 => .seg16 | _ => .seg32

def PackType.code : PackType → BitVec 3
  | .f16x2 => 0 | .bf16x2 => 1 | .e4m3x2 => 2 | .e5m2x2 => 3
def PackType.ofCode (c : BitVec 3) : PackType :=
  match c.toNat with
  | 0 => .f16x2 | 1 => .bf16x2 | 2 => .e4m3x2 | _ => .e5m2x2

def UnpkType.code : UnpkType → BitVec 3
  | .f16x2 => 0 | .bf16x2 => 1 | .e4m3 => 2 | .e5m2 => 3 | .e2m1 => 4 | .ue8m0 => 5
def UnpkType.ofCode (c : BitVec 3) : UnpkType :=
  match c.toNat with
  | 0 => .f16x2 | 1 => .bf16x2 | 2 => .e4m3 | 3 => .e5m2 | 4 => .e2m1 | _ => .ue8m0

def MemType.code : MemType → BitVec 3
  | .z8 => 0 | .s8 => 1 | .z16 => 2 | .s16 => 3 | .b32 => 4 | .b64 => 5 | .b128 => 6
def MemType.ofCode (c : BitVec 3) : MemType :=
  match c.toNat with
  | 0 => .z8 | 1 => .s8 | 2 => .z16 | 3 => .s16 | 4 => .b32 | 5 => .b64 | _ => .b128

def AtomOp.code : AtomOp → BitVec 4
  | .add => 0 | .smin => 1 | .umin => 2 | .smax => 3 | .umax => 4 | .and => 5 | .or => 6 | .xor => 7
  | .xchg => 8 | .cas => 9 | .fadd => 10
def AtomOp.ofCode (c : BitVec 4) : AtomOp :=
  match c.toNat with
  | 0 => .add | 1 => .smin | 2 => .umin | 3 => .smax | 4 => .umax | 5 => .and | 6 => .or | 7 => .xor
  | 8 => .xchg | 9 => .cas | _ => .fadd

def AtomOrd.code : AtomOrd → BitVec 2
  | .rlx => 0 | .acq => 1 | .rel => 2 | .ar => 3
def AtomOrd.ofCode (c : BitVec 2) : AtomOrd :=
  match c.toNat with
  | 0 => .rlx | 1 => .acq | 2 => .rel | _ => .ar

def FenceKind.code : FenceKind → BitVec 2
  | .acq => 1 | .rel => 2 | .full => 3
def FenceKind.ofCode (c : BitVec 2) : FenceKind :=
  match c.toNat with
  | 1 => .acq | 2 => .rel | _ => .full

def CpySize.code : CpySize → BitVec 2
  | .sz4 => 0 | .sz8 => 1 | .sz16 => 2 | .sz32 => 3
def CpySize.ofCode (c : BitVec 2) : CpySize :=
  match c.toNat with
  | 0 => .sz4 | 1 => .sz8 | 2 => .sz16 | _ => .sz32

def SlotWidth.code : SlotWidth → BitVec 3
  | .w4 => 0 | .w8 => 1 | .w16 => 2 | .w64 => 3 | .w1 => 4
def SlotWidth.ofCode (c : BitVec 3) : SlotWidth :=
  match c.toNat with
  | 0 => .w4 | 1 => .w8 | 2 => .w16 | 3 => .w64 | _ => .w1

def TileFmt.code : TileFmt → BitVec 3
  | .e4m3 => 0 | .e5m2 => 1 | .e4m3e5m2 => 2 | .e5m2e4m3 => 3 | .e2m1 => 4 | .bf16 => 5 | .f16 => 6 | .f64 => 7
def TileFmt.ofCode (c : BitVec 3) : TileFmt :=
  match c.toNat with
  | 0 => .e4m3 | 1 => .e5m2 | 2 => .e4m3e5m2 | 3 => .e5m2e4m3 | 4 => .e2m1 | 5 => .bf16 | 6 => .f16 | _ => .f64

def DrainWidth.code : DrainWidth → BitVec 3
  | .w32 => 0 | .w16 => 1 | .w8 => 2 | .w4 => 3 | .w64 => 4
def DrainWidth.ofCode (c : BitVec 3) : DrainWidth :=
  match c.toNat with
  | 0 => .w32 | 1 => .w16 | 2 => .w8 | 3 => .w4 | _ => .w64

def DrainMode.code : DrainMode → BitVec 2
  | .store => 0 | .add => 1 | .seq => 2
def DrainMode.ofCode (c : BitVec 2) : DrainMode :=
  match c.toNat with
  | 0 => .store | 1 => .add | _ => .seq

def TcvtSrc.code : TcvtSrc → BitVec 2
  | .f32 => 0 | .s32 => 1 | .f64 => 2
def TcvtSrc.ofCode (c : BitVec 2) : TcvtSrc :=
  match c.toNat with
  | 0 => .f32 | 1 => .s32 | _ => .f64

/-- The operand field of an operand (Table 3.2). -/
def Operand.enc : Operand → BitVec 20
  | .lane n => (0b00#2 ++ 0#10 ++ n : BitVec 20)
  | .uni n => (0b01#2 ++ 0#12 ++ n : BitVec 20)
  | .imm v => (0b10#2 ++ v : BitVec 20)
  | .spec n => (0b11#2 ++ 0#10 ++ n : BitVec 20)

/-- The operand of an operand field; the reserved bits are judged by the checks (Table 3.2). -/
def Operand.dec (f : BitVec 20) : Operand :=
  match (f.extractLsb' 18 2).toNat with
  | 0 => .lane (f.extractLsb' 0 8)
  | 1 => .uni (f.extractLsb' 0 6)
  | 2 => .imm (f.extractLsb' 0 18)
  | _ => .spec (f.extractLsb' 0 8)

/-- A field that may be unused holds 0x0_0000 when it is (R53). -/
def Operand.encOpt : Option Operand → BitVec 20
  | none => 0
  | some o => o.enc

def Operand.decOpt (f : BitVec 20) : Option Operand := if f = 0 then none else some (Operand.dec f)

/-- The value of an immediate field. -/
def immOf (f : BitVec 20) : BitVec 18 := f.extractLsb' 0 18

/-- The field of an immediate. -/
def immField (v : BitVec 18) : BitVec 20 := (Operand.imm v).enc

/-! ### Special registers (R58, Table 3.3) -/

/-- Access of a special register: read-only, readable and writable, or writable only in handler mode. -/
inductive SpecAccess where
  | r | rw | rh
  deriving DecidableEq, Repr

/-- A special register's width in bits, whether it is lane-valued, and its access. -/
structure SpecInfo where
  bits : Nat
  lane : Bool
  acc : SpecAccess
  deriving DecidableEq, Repr

/-- Table 3.3. -/
def specInfo (n : BitVec 8) : Option SpecInfo :=
  match n.toNat with
  | 0x00 => some ⟨1, true, .r⟩
  | 0x01 | 0x02 | 0x03 | 0x04 | 0x05 | 0x06 | 0x07 => some ⟨1, true, .rw⟩
  | 0x10 => some ⟨32, true, .r⟩
  | 0x11 | 0x12 | 0x13 | 0x14 | 0x15 | 0x16 | 0x17 => some ⟨32, false, .r⟩
  | 0x20 => some ⟨32, true, .rh⟩
  | 0x21 => some ⟨64, false, .rh⟩
  | 0x22 => some ⟨64, false, .r⟩
  | 0x23 => some ⟨64, false, .rh⟩
  | 0x24 => some ⟨64, false, .r⟩
  | 0x25 | 0x26 => some ⟨32, false, .r⟩
  | 0x27 => some ⟨32, false, .rw⟩
  | 0x28 | 0x29 => some ⟨32, false, .rh⟩
  | 0x2a | 0x2b => some ⟨64, false, .rh⟩
  | 0x2c | 0x2d => some ⟨32, false, .rw⟩
  | 0x2e | 0x2f => some ⟨32, false, .r⟩
  | 0x30 | 0x31 | 0x32 => some ⟨32, false, .rw⟩
  | 0x33 => some ⟨64, false, .r⟩
  | 0x34 | 0x35 | 0x36 => some ⟨32, false, .r⟩
  | _ => none

/-- Predicates are the numbers 0x00 to 0x07. -/
def isPredNo (n : BitVec 8) : Bool := n.toNat < 8

/-- The specials that a mask operand may name (R118). -/
def isMaskSpec (n : BitVec 8) : Bool :=
  n == 0x21 || n == 0x22 || n == 0x23 || n == 0x24 || n == 0x2a || n == 0x2b

/-! ### The decode checks (R67, Table 3.9) -/

/-- What the checks depend on beside the word: the wave's level, role and declared resources, and handler mode.
No role and every resource: the checks on the word alone. -/
structure DecodeCtx where
  levelTwo : Bool := true
  role : Option Role := none
  regs : Nat := 256
  handler : Bool := true
  /-- declared block barriers and grid barriers (R221) -/
  barriers : Nat := 16
  gridBarriers : Nat := 4
  ringMask : BitVec 8 := 0xff
  /-- producer and consumer of each ring (R40) -/
  ringRoles : List (Role × Role) := []
  deriving DecidableEq, Repr

/-- The classes that a field accepts; the number of registers a lane or a uniform operand names; whether the
field may be 0x0_0000 for "unused" (R53, R54). -/
structure FieldRule where
  lane : Bool := false
  uni : Bool := false
  imm : Bool := false
  spec : Bool := false
  pred : Bool := false
  opt : Bool := false
  lw : Nat := 1
  uw : Nat := 1
  deriving DecidableEq, Repr

/-- A field marked unused. -/
def FieldRule.unused : FieldRule := { opt := true }
/-- A source of R122: lane, uniform, immediate or special. -/
def FieldRule.src (w : Nat) : FieldRule := { lane := true, uni := true, imm := true, spec := true, lw := w }
/-- A result of R122: lane, or uniform under R56. -/
def FieldRule.dst (w : Nat) : FieldRule := { lane := true, uni := true, lw := w }
/-- A lane register (group). -/
def FieldRule.lanes (w : Nat) : FieldRule := { lane := true, lw := w }
/-- A uniform register (group). -/
def FieldRule.unis (w : Nat) : FieldRule := { uni := true, uw := w }
/-- A uniform register or an immediate. -/
def FieldRule.uniImm : FieldRule := { uni := true, imm := true }
/-- An immediate. -/
def FieldRule.imms : FieldRule := { imm := true }
/-- A predicate. -/
def FieldRule.preds : FieldRule := { pred := true }
/-- A 64-bit mask operand (R118). -/
def FieldRule.mask : FieldRule := { uni := true, imm := true, spec := true }
/-- The base of an address (R175). -/
def FieldRule.base : FieldRule := { lane := true, uni := true }
/-- The offset of an address: lane, uniform, immediate or unused (R175). -/
def FieldRule.off : FieldRule := { lane := true, uni := true, imm := true, opt := true }

/-- A field obeys its rule (R53, R54). -/
def fieldOk (regs : Nat) (r : FieldRule) (f : BitVec 20) : Bool :=
  if r.opt && f == 0 then true
  else
    match (f.extractLsb' 18 2).toNat with
    | 0 =>
      let n := (f.extractLsb' 0 8).toNat
      r.lane && f.extractLsb' 8 10 == 0 && n % r.lw == 0 && decide (n + r.lw ≤ regs)
    | 1 =>
      let n := (f.extractLsb' 0 6).toNat
      r.uni && f.extractLsb' 6 12 == 0 && n % r.uw == 0 && decide (n + r.uw ≤ 64)
    | 2 => r.imm
    | _ =>
      let n := f.extractLsb' 0 8
      f.extractLsb' 8 10 == 0 && (specInfo n).isSome && (if isPredNo n then r.pred else r.spec)

/-- Bits [7:5], [4:2] and [1:0] of M. -/
def mHi (m : BitVec 8) : BitVec 3 := m.extractLsb' 5 3
def mMid (m : BitVec 8) : BitVec 3 := m.extractLsb' 2 3
def mLo (m : BitVec 8) : BitVec 2 := m.extractLsb' 0 2

/-- Registers of a lane operand of the integer type in M (R123). -/
def intWords (m : BitVec 8) : Nat := if mHi m == 2 || mHi m == 3 then 2 else 1
/-- Registers of a lane operand of the float type in M (R143). -/
def floatWords (m : BitVec 8) : Nat := if mHi m == 1 then 2 else 1
/-- Registers of a lane operand of an ICVT type code (R136). -/
def ctypeWords (c : BitVec 3) : Nat := if c == 6 || c == 7 then 2 else 1
/-- Registers of a lane operand of a memory type code (R175). -/
def memWords (c : BitVec 3) : Nat := if c == 5 then 2 else if c == 6 then 4 else 1

/-- The rules of the fields D, A and B of an operation, which may depend on M. -/
def fieldRules (o : Op) (m : BitVec 8) : FieldRule × FieldRule × FieldRule :=
  let un := FieldRule.unused
  let iw := intWords m
  let fw := floatWords m
  match o with
  | .nop | .exit | .yield_ | .icinv | .itemend | .tzero => (un, un, un)
  | .br => (un, un, .imms)
  | .brx | .ret => (un, .base, un)
  | .call => (.lanes 1, un, { lane := true, uni := true, imm := true })
  | .trap | .sysc | .brkpt => (un, .imms, un)
  | .jenrol | .jwait | .jstrike => (.unis 2, un, un)
  | .hret => (un, .mask, un)
  | .pcmin | .pcmaj => (.unis 2, .mask, un)
  | .pceq => (.unis 1, .mask, .uniImm)
  | .iadd | .isub | .imul | .imulh | .imad | .imin | .imax => (.dst iw, .src iw, .src iw)
  | .iabs | .ineg => (.dst iw, .src iw, un)
  | .and | .or | .xor | .andn => (.dst iw, .src iw, .src iw)
  | .not | .brev => (.dst iw, .src iw, un)
  | .shl | .shr | .sar | .rotl | .bfe | .bfi => (.dst iw, .src iw, .src 1)
  | .popc | .clz => (.dst 1, .src iw, un)
  | .logt => (.dst 1, .src 1, .src 1)
  | .mov =>
    ({ lane := true, uni := true, spec := true, pred := true, lw := iw },
     { lane := true, uni := true, imm := true, spec := true, pred := true, lw := iw }, un)
  | .movi => (.dst 1, .imms, .imms)
  | .sel => (.lanes 1, .src 1, .src 1)
  | .icvt => (.dst (ctypeWords (mHi m)), .src (ctypeWords (mMid m)), un)
  | .isetp => (.preds, .src iw, .src iw)
  | .fsetp => (.preds, .src fw, .src fw)
  | .plogt => (.preds, .preds, .preds)
  | .vote => (if mLo m == 3 then .lanes 2 else .preds, .preds, un)
  | .shfl => (.lanes 1, .lanes 1, { lane := true, uni := true, imm := true })
  | .fadd | .fsub | .fmul | .ffma | .fmin | .fmax | .fdiv => (.dst fw, .src fw, .src fw)
  | .fsqrt | .frcp | .frsq | .fexp2 | .flog2 | .fsin | .fcos | .frnd | .fabs | .fneg => (.dst fw, .src fw, un)
  | .fclass => (.dst 1, .src fw, un)
  | .fcvt =>
    (.dst (if mHi m == 1 then 2 else 1), { FieldRule.base with lw := if mMid m == 1 then 2 else 1 }, .imms)
  | .f2i =>
    (.dst (ctypeWords (mHi m)), { FieldRule.base with lw := if m.extractLsb' 3 2 == 1 then 2 else 1 }, un)
  | .i2f => (.dst (if m.extractLsb' 3 2 == 1 then 2 else 1), .src (ctypeWords (mHi m)), un)
  | .pack => (.dst 1, .src 1, .src 1)
  | .unpk => (.lanes 2, .base, un)
  | .dot4i8 | .dot8i4 | .dot2bf | .dotb32 => (.dst 1, .base, .base)
  | .dot4f8 => (if m.getLsbD 5 then .lanes 2 else .dst 1, .base, .base)
  | .ld | .st =>
    ({ lane := true, uni := true, lw := memWords (mHi m), uw := if mHi m == 6 then 2 else 1 }, .base, .off)
  | .atom =>
    let w := if m.getLsbD 1 then 2 else 1
    (.lanes (if m.extractLsb' 4 4 == 9 then 2 * w else w), .base, .off)
  | .fence => (un, .base, .off)
  | .cpy | .cpyo => (.lanes 1, .unis 1, .lanes 2)
  | .bulk => (un, .unis 1, { imm := true, opt := true })
  | .arrinit => (un, .unis 1, .uniImm)
  | .arrwait | .arrtest => (.unis 1, .unis 1, .uniImm)
  | .crpoll => (.unis 4, .unis 1, un)
  | .crsleep => (un, .unis 1, un)
  | .waitc | .waitt => (un, .imms, .imms)
  | .bararr | .barwait | .barsync => (un, .imms, un)
  | .barq => (.unis 1, .imms, un)
  | .sracq | .srwait => (.unis 1, un, un)
  | .srpost | .srfree => (un, .uniImm, un)
  | .srbind => (.unis 1, .unis 1, .uniImm)
  | .tldw | .tmma | .tmmas | .tbin | .tlut => (un, .unis 1, .uniImm)
  | .tscacc => (un, .unis 1, .imms)
  | .tdrain => (.unis 1, .imms, if m.extractLsb' 3 2 == 2 then .unis 1 else un)
  | .tcvt => (un, un, .imms)
  | .tsetph => (un, .uniImm, un)
  | .dlaunch | .dlwait => (.unis 1, .unis 1, un)
  | .nodeput | .qnotify => ({ uni := true, opt := true }, .unis 1, .unis 1)
  | .qclaim => (.unis 1, .unis 1, { uni := true, imm := true, opt := true })
  | .claim => (un, .base, .off)
  | .claimend => (un, un, { lane := true, uni := true, imm := true })
  | .clook => (.unis 1, .unis 1, un)
  | .cfetch => (.unis 1, .unis 2, { uni := true, opt := true })
  | .cref | .cunref => (.unis 1, .unis 2, un)
  | .crootcas => (.unis 4, .unis 1, .uniImm)
  | .ccopyout => (un, .unis 1, .unis 1)

/-- A source field that is in use holds a value of each lane (R56, Table 3.3). -/
def laneValued (r : FieldRule) (f : BitVec 20) : Bool :=
  !(r.opt && f == 0) &&
  match Operand.dec f with
  | .lane _ => true
  | .spec n => match specInfo n with
    | some i => i.lane
    | none => false
  | _ => false

/-- Operations whose D is a result that may be uniform, under the condition of R56. -/
def uniformResult : Op → Bool
  | .iadd | .isub | .imul | .imulh | .imad | .imin | .imax | .iabs | .ineg
  | .and | .or | .xor | .andn | .not | .shl | .shr | .sar | .rotl | .popc | .clz | .brev | .bfe | .bfi | .logt
  | .mov | .movi | .icvt
  | .fadd | .fsub | .fmul | .ffma | .fmin | .fmax | .fdiv | .fsqrt | .frcp | .frsq | .fexp2 | .flog2
  | .fsin | .fcos | .fclass | .frnd | .fabs | .fneg
  | .fcvt | .f2i | .i2f | .pack | .dot4i8 | .dot8i4 | .dot4f8 | .dot2bf | .dotb32 | .ld => true
  | _ => false

/-- A field holds an immediate outside a range of unsigned values. -/
def immOutside (f : BitVec 20) (lo hi : Nat) : Bool :=
  f.extractLsb' 18 2 == 2 && (decide ((immOf f).toNat < lo) || decide (hi < (immOf f).toNat))

/-- A barrier number that the kernel declares (R221). -/
def barrierDeclared (c : DecodeCtx) (n : Nat) : Bool :=
  decide (n < c.barriers) || (decide (16 ≤ n) && decide (n < 16 + c.gridBarriers))

/-- What an operation asks of its fields beside their classes. -/
def operandExtra (c : DecodeCtx) (o : Op) (r : Raw) : Bool :=
  match o with
  | .trap | .sysc | .brkpt => !immOutside r.a 0 65535
  | .jenrol | .jwait | .jstrike => decide ((r.d.extractLsb' 0 6).toNat ≤ 30)
  | .hret | .pcmin | .pcmaj | .pceq =>
    match Operand.dec r.a with
    | .spec n => isMaskSpec n
    | _ => true
  | .mov =>
    match Operand.dec r.d with
    | .spec n =>
      match specInfo n with
      | some i =>
        (match i.acc with
          | .r => false
          | .rw => true
          | .rh => c.handler) && (intWords r.m == 1 || i.bits == 64)
      | none => false
    | _ => true
  | .movi => r.b.extractLsb' 14 4 == 0
  | .isetp | .fsetp | .plogt => r.d.extractLsb' 0 8 != 0
  | .vote => mLo r.m == 3 || r.d.extractLsb' 0 8 != 0
  | .fcvt => r.b.extractLsb' 9 9 == 0
  | .arrinit => !immOutside r.b 1 131071
  | .waitc => r.b.extractLsb' 6 12 == 0
  | .waitt => !immOutside r.a 0 7 && !immOutside r.b 0 63
  | .bararr | .barwait | .barsync | .barq => barrierDeclared c (immOf r.a).toNat
  | .tldw | .tmma | .tmmas | .tbin | .tlut => !immOutside r.b 0 191
  | .tscacc => !immOutside r.b 0 7
  | .tdrain => r.a.extractLsb' 3 15 == 0
  | .tcvt => r.b.extractLsb' 9 9 == 0
  | .tsetph => !immOutside r.a 0 63
  | .qclaim => !immOutside r.b 1 64
  | _ => true

/-- Check 2 of Table 3.9: D, A and B are valid (R53 to R57). -/
def operandsOk (c : DecodeCtx) (o : Op) (r : Raw) : Bool :=
  let fr := fieldRules o r.m
  fieldOk c.regs fr.1 r.d && fieldOk c.regs fr.2.1 r.a && fieldOk c.regs fr.2.2 r.b &&
  (!(uniformResult o && r.d.extractLsb' 18 2 == 1) || (!laneValued fr.2.1 r.a && !laneValued fr.2.2 r.b)) &&
  operandExtra c o r

/-- The generic integer modifier with the saturate bit allowed or not, and the packed types allowed or not
(Table 3.5). -/
def iModOk (m : BitVec 8) (sat packed : Bool) : Bool :=
  mMid m == 0 && !m.getLsbD 0 && (sat || !m.getLsbD 1) &&
  (match (mHi m).toNat with
    | 0 | 1 | 2 | 3 => true
    | 4 | 5 => packed
    | 6 => !packed
    | _ => false)

/-- The generic float modifier (Table 3.6): every rounding but sr, or only rne; ftz allowed or not; f64 allowed
or not. -/
def fModOk (m : BitVec 8) (anyRnd ftz f64 : Bool) : Bool :=
  !m.getLsbD 0 && (ftz || !m.getLsbD 1) && decide ((mHi m).toNat ≤ 5) && (f64 || mHi m != 1) &&
  decide ((mMid m).toNat ≤ if anyRnd then 4 else 0)

/-- Elements of a format in a 32-bit word, 1 for wider formats (R72). -/
def elemsOf (c : BitVec 3) : Nat :=
  match c.toNat with
  | 0 | 1 => 1
  | 2 | 3 => 2
  | 6 => 8
  | _ => 4

/-- Check 3 of Table 3.9: M is valid (R63), with the forms of level 2 (R65). Bits of M that Table 9.6 gives as 0 are checked
here too, so that they raise ILLEGAL_MOD: R179 has nonzero bits where that table gives 0 raise ILLEGAL_OPERAND, which is read
as the bits of the immediates (DEDUCED, log entry 9). -/
def modOk (c : DecodeCtx) (o : Op) (r : Raw) : Bool :=
  let m := r.m
  match o with
  | .iadd | .isub | .imul | .imad => iModOk m true true
  | .imulh | .imin | .imax => iModOk m false true
  | .ineg => iModOk m true true
  | .iabs => iModOk m true true && (mHi m == 0 || mHi m == 2 || mHi m == 4)
  | .and | .or | .xor | .andn | .not | .shl | .shr | .sar | .rotl | .popc | .clz | .brev | .bfe | .bfi =>
    iModOk m false false
  | .logt | .plogt => true
  | .mov => m.extractLsb' 0 5 == 0 && (decide ((mHi m).toNat ≤ 3) || mHi m == 6)
  | .sel => m.extractLsb' 4 4 == 0
  | .icvt => !m.getLsbD 0
  | .isetp => decide ((mHi m).toNat ≤ 3) && decide ((mMid m).toNat ≤ 5) && mLo m != 3
  | .fsetp => decide ((mHi m).toNat ≤ 3) && mLo m != 3
  | .vote => m.extractLsb' 2 6 == 0
  | .shfl => mHi m == 0 && decide ((mMid m).toNat ≤ 5)
  | .fadd | .fsub | .fmul | .ffma | .fdiv | .fsqrt | .frnd => fModOk m true true true
  | .fmin | .fmax | .frcp | .frsq => fModOk m false true true
  | .fexp2 | .flog2 | .fsin | .fcos => fModOk m false true false
  | .fclass | .fabs | .fneg => fModOk m false false true
  | .fcvt =>
    let rnd := r.b.extractLsb' 0 3
    let se := (r.b.extractLsb' 3 3).toNat
    let de := (r.b.extractLsb' 6 3).toNat
    decide (rnd.toNat ≤ 5) && !(rnd == 5 && mHi m == 7) && (!m.getLsbD 0 || mHi m == 4) &&
    decide (se < elemsOf (mMid m)) && decide (de < elemsOf (mHi m)) &&
    (c.levelTwo || (decide ((mHi m).toNat < 6) && decide ((mMid m).toNat < 6) && rnd != 5))
  | .f2i | .i2f => decide ((m.extractLsb' 0 3).toNat ≤ 4)
  | .pack =>
    decide ((mHi m).toNat ≤ 3) && decide ((mMid m).toNat ≤ 4) &&
    (!m.getLsbD 0 || decide (2 ≤ (mHi m).toNat))
  | .unpk =>
    decide ((mHi m).toNat ≤ 5) && mMid m == 0 &&
    decide ((mLo m).toNat < match (mHi m).toNat with
      | 0 | 1 => 1
      | 4 => 4
      | _ => 2) &&
    (c.levelTwo || decide ((mHi m).toNat < 4))
  | .dot4i8 | .dot8i4 => m.extractLsb' 2 6 == 0
  | .dot4f8 => mLo m == 0 && decide ((mMid m).toNat ≤ 4)
  | .dot2bf => mHi m == 0 && mLo m == 0 && decide ((mMid m).toNat ≤ 4)
  | .dotb32 => m.extractLsb' 1 7 == 0
  | .ld => m.extractLsb' 0 5 == 0 && mHi m != 7
  | .st => m.extractLsb' 0 5 == 0 && mHi m != 7 && mHi m != 1 && mHi m != 3
  | .atom =>
    !m.getLsbD 0 && decide ((m.extractLsb' 4 4).toNat ≤ 10) && !(m.getLsbD 1 && m.extractLsb' 4 4 == 10)
  | .fence => m.extractLsb' 2 6 == 0 && mLo m != 0
  | .cpy | .cpyo => mLo m == 0
  | .bulk => m.extractLsb' 6 2 == 0 && m.extractLsb' 0 3 == 0
  | .sracq | .srpost | .srwait | .srfree | .srbind =>
    m.extractLsb' 3 5 == 0 && c.ringMask.getLsbD (m.extractLsb' 0 3).toNat
  | .tzero | .tscacc => m.extractLsb' 0 5 == 0
  | .tldw =>
    m.extractLsb' 0 4 == 0 && decide ((mHi m).toNat ≤ 4) &&
    !(m.getLsbD 4 && decide (3 ≤ (mHi m).toNat)) &&
    (c.levelTwo || (!m.getLsbD 4 && mHi m != 4))
  | .tmma =>
    !m.getLsbD 0 && !(mMid m == 7 && m.getLsbD 5) && (c.levelTwo || decide (5 ≤ (mMid m).toNat))
  | .tmmas => !m.getLsbD 0 && mMid m != 7
  | .tbin | .tlut => m.extractLsb' 2 2 == 0 && !m.getLsbD 0
  | .tdrain =>
    let wd := r.a.extractLsb' 0 3
    let mode := m.extractLsb' 3 2
    mLo m == 0 && decide (wd.toNat ≤ 4) && mode != 3 && !(wd == 4 && m.getLsbD 5) &&
    (mode == 0 || wd == 0) && (c.levelTwo || mode != 2)
  | .tcvt =>
    let dt := r.b.extractLsb' 6 3
    let st := r.b.extractLsb' 4 2
    let rnd := r.b.extractLsb' 0 3
    m.extractLsb' 0 5 == 0 && dt != 1 && dt != 7 && st != 3 && decide (rnd.toNat ≤ 5) &&
    (!r.b.getLsbD 3 || dt == 4) && !(st == 2 && m.getLsbD 5) &&
    (c.levelTwo || (decide (dt.toNat < 4) && rnd != 5))
  | .clook => decide ((mHi m).toNat ≤ 4) && !m.getLsbD 0
  | .cfetch => decide ((mHi m).toNat ≤ 4) && mLo m == 0
  | .cref | .cunref => decide ((mHi m).toNat ≤ 4) && m.extractLsb' 0 5 == 0
  | .ccopyout => mHi m == 0 && mLo m == 0
  | _ => m == 0

/-- The classes a role may issue (Table 3.8), and the issuer of a ring instruction (R231). -/
def roleOk (c : DecodeCtx) (o : Op) (r : Raw) : Bool :=
  match c.role with
  | none => true
  | some role =>
    match o with
    | .cpy | .cpyo | .bulk => role == .general || role == .copy
    | .sracq | .srpost | .srbind =>
      (c.ringRoles[(r.m.extractLsb' 0 3).toNat]?).any fun p => p.1 == role
    | .srwait | .srfree =>
      (c.ringRoles[(r.m.extractLsb' 0 3).toNat]?).any fun p => p.2 == role
    | _ =>
      match (r.op.extractLsb' 6 6).toNat with
      | 0x08 | 0x09 | 0x0a => role == .general || role == .vector
      | 0x18 => role == .matrix
      | 0x20 | 0x22 => role != .matrix
      | 0x21 => role == .general
      | _ => true

/-- The first check of Table 3.9 that a word outside the hint space fails. -/
def decodeFault (c : DecodeCtx) (r : Raw) : Option Cause :=
  match Op.ofCode r.op with
  | none => some .illegalOp
  | some o =>
    if o.levelTwo && !c.levelTwo then some .illegalOp
    else if !operandsOk c o r then some .illegalOperand
    else if !modOk c o r then some .illegalMod
    else if r.hint.extractLsb' 0 2 != 0 then some .illegalHint
    else if !roleOk c o r then some .roleViolation
    else none

/-! ### Decoder -/

/-- Guard and hints of a word. -/
def Raw.head (r : Raw) : Head where
  neg := r.neg
  pred := r.pred
  stall := r.hint.extractLsb' 8 4
  yld := r.hint.getLsbD 7
  reuse := r.hint.extractLsb' 4 3
  ign := r.hint.extractLsb' 2 2
  chk := r.hint.extractLsb' 0 2

/-- The generic modifiers of M. -/
def iModOf (m : BitVec 8) : IMod := ⟨.ofCode (mHi m), m.getLsbD 1⟩
def fModOf (m : BitVec 8) : FMod := ⟨.ofCode (mHi m), .ofCode (mMid m), m.getLsbD 1⟩

/-- The instruction that the fields of a valid word stand for. -/
def Raw.build (r : Raw) (o : Op) : Instr :=
  let h := r.head
  let d := Operand.dec r.d
  let a := Operand.dec r.a
  let b := Operand.dec r.b
  let bo := Operand.decOpt r.b
  let m := r.m
  let im := iModOf m
  let fm := fModOf m
  let n := mHi m
  match o with
  | .nop => .nop h
  | .br => .br h (immOf r.b)
  | .brx => .brx h a
  | .call => .call h d b
  | .ret => .ret h a
  | .exit => .exit h
  | .yield_ => .yield_ h
  | .trap => .trap h (immOf r.a)
  | .sysc => .sysc h (immOf r.a)
  | .brkpt => .brkpt h (immOf r.a)
  | .icinv => .icinv h
  | .jenrol => .jenrol h d
  | .jwait => .jwait h d
  | .jstrike => .jstrike h d
  | .hret => .hret h a
  | .pcmin => .pcmin h d a
  | .pcmaj => .pcmaj h d a
  | .pceq => .pceq h d a b
  | .iadd => .iadd h d a b im
  | .isub => .isub h d a b im
  | .imul => .imul h d a b im
  | .imulh => .imulh h d a b im
  | .imad => .imad h d a b im
  | .imin => .imin h d a b im
  | .imax => .imax h d a b im
  | .iabs => .iabs h d a im
  | .ineg => .ineg h d a im
  | .and => .and h d a b im
  | .or => .or h d a b im
  | .xor => .xor h d a b im
  | .andn => .andn h d a b im
  | .not => .not h d a im
  | .shl => .shl h d a b im
  | .shr => .shr h d a b im
  | .sar => .sar h d a b im
  | .rotl => .rotl h d a b im
  | .popc => .popc h d a im
  | .clz => .clz h d a im
  | .brev => .brev h d a im
  | .bfe => .bfe h d a b im
  | .bfi => .bfi h d a b im
  | .logt => .logt h d a b m
  | .mov => .mov h d a (.ofCode (mHi m))
  | .movi => .movi h d (immOf r.a ++ r.b.extractLsb' 0 14 : BitVec 32)
  | .sel => .sel h d a b (m.getLsbD 3) (m.extractLsb' 0 3)
  | .icvt => .icvt h d a (.ofCode (mHi m)) (.ofCode (mMid m)) (m.getLsbD 1)
  | .isetp => .isetp h d a b (.ofCode (mHi m)) (.ofCode (mMid m)) (.ofCode (mLo m))
  | .fsetp => .fsetp h d a b (.ofCode (mHi m)) (.ofCode (mMid m)) (.ofCode (mLo m))
  | .plogt => .plogt h d a b m
  | .vote => .vote h d a (.ofCode (mLo m))
  | .shfl => .shfl h d a b (.ofCode (mMid m)) (.ofCode (mLo m))
  | .fadd => .fadd h d a b fm
  | .fsub => .fsub h d a b fm
  | .fmul => .fmul h d a b fm
  | .ffma => .ffma h d a b fm
  | .fmin => .fmin h d a b fm
  | .fmax => .fmax h d a b fm
  | .fdiv => .fdiv h d a b fm
  | .fsqrt => .fsqrt h d a fm
  | .frcp => .frcp h d a fm
  | .frsq => .frsq h d a fm
  | .fexp2 => .fexp2 h d a fm
  | .flog2 => .flog2 h d a fm
  | .fsin => .fsin h d a fm
  | .fcos => .fcos h d a fm
  | .fclass => .fclass h d a fm
  | .frnd => .frnd h d a fm
  | .fabs => .fabs h d a fm
  | .fneg => .fneg h d a fm
  | .fcvt =>
    .fcvt h d a (.ofCode (mHi m)) (.ofCode (mMid m)) (.ofCode (r.b.extractLsb' 0 3)) (m.getLsbD 1)
      (m.getLsbD 0) (r.b.extractLsb' 3 3) (r.b.extractLsb' 6 3)
  | .f2i => .f2i h d a (.ofCode (mHi m)) (.ofCode (0#1 ++ m.extractLsb' 3 2)) (.ofCode (m.extractLsb' 0 3))
  | .i2f => .i2f h d a (.ofCode (0#1 ++ m.extractLsb' 3 2)) (.ofCode (mHi m)) (.ofCode (m.extractLsb' 0 3))
  | .pack => .pack h d a b (.ofCode (mHi m)) (.ofCode (mMid m)) (m.getLsbD 1) (m.getLsbD 0)
  | .unpk => .unpk h d a (.ofCode (mHi m)) (mLo m)
  | .dot4i8 => .dot4i8 h d a b (m.getLsbD 1) (m.getLsbD 0)
  | .dot8i4 => .dot8i4 h d a b (m.getLsbD 1) (m.getLsbD 0)
  | .dot4f8 => .dot4f8 h d a b (m.getLsbD 7) (m.getLsbD 6) (m.getLsbD 5) (.ofCode (mMid m))
  | .dot2bf => .dot2bf h d a b (.ofCode (mMid m))
  | .dotb32 => .dotb32 h d a b (m.getLsbD 0)
  | .ld => .ld h d a bo (.ofCode (mHi m))
  | .st => .st h d a bo (.ofCode (mHi m))
  | .atom => .atom h d a bo (.ofCode (m.extractLsb' 4 4)) (.ofCode (m.extractLsb' 2 2)) (m.getLsbD 1)
  | .fence => .fence h a bo (.ofCode (mLo m))
  | .cpy => .cpy h d a b (.ofCode (m.extractLsb' 6 2)) (m.extractLsb' 3 3) (m.getLsbD 2)
  | .cpyo => .cpyo h d a b (.ofCode (m.extractLsb' 6 2)) (m.extractLsb' 3 3) (m.getLsbD 2)
  | .bulk => .bulk h a bo (m.extractLsb' 3 3)
  | .arrinit => .arrinit h a b
  | .arrwait => .arrwait h d a b
  | .arrtest => .arrtest h d a b
  | .crpoll => .crpoll h d a
  | .crsleep => .crsleep h a
  | .waitc => .waitc h (r.a.extractLsb' 0 6) (r.a.extractLsb' 6 6) (r.a.extractLsb' 12 6) (r.b.extractLsb' 0 6)
  | .waitt => .waitt h (r.a.extractLsb' 0 3) (r.b.extractLsb' 0 6)
  | .bararr => .bararr h (immOf r.a)
  | .barwait => .barwait h (immOf r.a)
  | .barsync => .barsync h (immOf r.a)
  | .barq => .barq h d (immOf r.a)
  | .sracq => .sracq h d (m.extractLsb' 0 3)
  | .srpost => .srpost h a (m.extractLsb' 0 3)
  | .srwait => .srwait h d (m.extractLsb' 0 3)
  | .srfree => .srfree h a (m.extractLsb' 0 3)
  | .srbind => .srbind h d a b (m.extractLsb' 0 3)
  | .tzero => .tzero h n
  | .tldw => .tldw h a b (.ofCode (mHi m)) (m.getLsbD 4)
  | .tmma => .tmma h n a b (.ofCode (mMid m)) (m.getLsbD 1)
  | .tmmas => .tmmas h n a b (.ofCode (mMid m)) (m.getLsbD 1)
  | .tbin => .tbin h n a b (m.getLsbD 4) (m.getLsbD 1)
  | .tlut => .tlut h n a b (m.getLsbD 4) (m.getLsbD 1)
  | .tscacc => .tscacc h n a (immOf r.b)
  | .tdrain => .tdrain h d n bo (.ofCode (r.a.extractLsb' 0 3)) (.ofCode (m.extractLsb' 3 2)) (m.getLsbD 2)
  | .tcvt =>
    .tcvt h n (.ofCode (r.b.extractLsb' 6 3)) (.ofCode (r.b.extractLsb' 4 2)) (.ofCode (r.b.extractLsb' 0 3))
      (r.b.getLsbD 3)
  | .tsetph => .tsetph h a
  | .dlaunch => .dlaunch h d a
  | .dlwait => .dlwait h d a
  | .nodeput => .nodeput h (Operand.decOpt r.d) a b
  | .qclaim => .qclaim h d a bo
  | .qnotify => .qnotify h (Operand.decOpt r.d) a b
  | .claim => .claim h a bo
  | .claimend => .claimend h b
  | .itemend => .itemend h
  | .clook => .clook h d a (mHi m) (mMid m) (m.getLsbD 1)
  | .cfetch => .cfetch h d a bo (mHi m) (mMid m)
  | .cref => .cref h d a (mHi m)
  | .cunref => .cunref h d a (mHi m)
  | .crootcas => .crootcas h d a b
  | .ccopyout => .ccopyout h a b (mMid m)

/-- The bits of a hint-space word beside its guard. -/
def hintBits (w : BitVec 96) : BitVec 92 := w.extractLsb' 84 12 ++ w.extractLsb' 0 80

/-- The instruction of a word, or the cause of the first check that the word alone fails (R50, R67). -/
def decodeWord (w : BitVec 96) : Except Cause Instr :=
  let r := Raw.ofWord w
  if r.inHintSpace then .ok (.hintSpaceWord (hintBits w))
  else
    match decodeFault {} r, Op.ofCode r.op with
    | none, some o => .ok (r.build o)
    | some c, _ => .error c
    | none, none => .error .illegalOp

/-- Twelve bytes, the first at the lowest address, as one word (R47). -/
def wordOfBytes (bs : List Byte) : BitVec 96 :=
  bs.foldr (fun b w => (w <<< 8) ||| b.setWidth 96) 0

/-- The bytes of a word, the first at the lowest address (R47). -/
def bytesOfWord (w : BitVec 96) : List Byte := (List.range 12).map fun i => w.extractLsb' (8 * i) 8

/-- The decoder on bytes: the instruction and the bytes after it. -/
def decodeBytes (bs : List Byte) : Except Cause (Instr × List Byte) :=
  if bs.length < 12 then .error .pcRange
  else (decodeWord (wordOfBytes (bs.take 12))).map fun i => (i, bs.drop 12)

/-- The instruction the decoder reads from an instruction whose bits are `w`, numbered from the least significant
bit of its first byte; bits above `nbits` are zero. -/
def decodeTableWord (_nbits w : Nat) : Option Instr :=
  match decodeWord (wordOfBytes (bytesOfWord (BitVec.ofNat 96 w))) with
  | .ok i => some i
  | .error _ => none

/-! ### Encoder -/

/-- The hint field (Table 3.4). -/
def Head.hint (h : Head) : BitVec 12 := h.stall ++ BitVec.ofBool h.yld ++ h.reuse ++ h.ign ++ h.chk

/-- A word's fields from its parts. -/
def mkRaw (h : Head) (o : Op) (d a b : BitVec 20) (m : BitVec 8) : Raw := ⟨o.code, h.neg, h.pred, h.hint, d, a, b, m⟩

/-- The generic modifiers as M (Tables 3.5, 3.6). -/
def IMod.enc (m : IMod) : BitVec 8 := m.ty.code ++ 0#3 ++ BitVec.ofBool m.sat ++ 0#1
def FMod.enc (m : FMod) : BitVec 8 := m.ty.code ++ m.rnd.code ++ BitVec.ofBool m.ftz ++ 0#1

/-- An instruction with three operands, or two. -/
def raw3 (h : Head) (o : Op) (d a b : Operand) (m : BitVec 8) : Option Raw := some (mkRaw h o d.enc a.enc b.enc m)
def raw2 (h : Head) (o : Op) (d a : Operand) (m : BitVec 8) : Option Raw := some (mkRaw h o d.enc a.enc 0 m)

/-- A Bool as one bit. -/
abbrev bit (b : Bool) : BitVec 1 := BitVec.ofBool b

/-- The fields of an instruction's word; events have no word, and a hint-space word is not made of them. -/
def Instr.toRaw : Instr → Option Raw
  | .nop h => some (mkRaw h .nop 0 0 0 0)
  | .br h c => some (mkRaw h .br 0 0 (immField c) 0)
  | .brx h a => some (mkRaw h .brx 0 a.enc 0 0)
  | .call h d b => some (mkRaw h .call d.enc 0 b.enc 0)
  | .ret h a => some (mkRaw h .ret 0 a.enc 0 0)
  | .exit h => some (mkRaw h .exit 0 0 0 0)
  | .yield_ h => some (mkRaw h .yield_ 0 0 0 0)
  | .trap h c => some (mkRaw h .trap 0 (immField c) 0 0)
  | .sysc h c => some (mkRaw h .sysc 0 (immField c) 0 0)
  | .brkpt h c => some (mkRaw h .brkpt 0 (immField c) 0 0)
  | .icinv h => some (mkRaw h .icinv 0 0 0 0)
  | .jenrol h d => some (mkRaw h .jenrol d.enc 0 0 0)
  | .jwait h d => some (mkRaw h .jwait d.enc 0 0 0)
  | .jstrike h d => some (mkRaw h .jstrike d.enc 0 0 0)
  | .hret h a => some (mkRaw h .hret 0 a.enc 0 0)
  | .pcmin h d a => raw2 h .pcmin d a 0
  | .pcmaj h d a => raw2 h .pcmaj d a 0
  | .pceq h d a b => raw3 h .pceq d a b 0
  | .iadd h d a b m => raw3 h .iadd d a b m.enc
  | .isub h d a b m => raw3 h .isub d a b m.enc
  | .imul h d a b m => raw3 h .imul d a b m.enc
  | .imulh h d a b m => raw3 h .imulh d a b m.enc
  | .imad h d a b m => raw3 h .imad d a b m.enc
  | .imin h d a b m => raw3 h .imin d a b m.enc
  | .imax h d a b m => raw3 h .imax d a b m.enc
  | .iabs h d a m => raw2 h .iabs d a m.enc
  | .ineg h d a m => raw2 h .ineg d a m.enc
  | .and h d a b m => raw3 h .and d a b m.enc
  | .or h d a b m => raw3 h .or d a b m.enc
  | .xor h d a b m => raw3 h .xor d a b m.enc
  | .andn h d a b m => raw3 h .andn d a b m.enc
  | .not h d a m => raw2 h .not d a m.enc
  | .shl h d a b m => raw3 h .shl d a b m.enc
  | .shr h d a b m => raw3 h .shr d a b m.enc
  | .sar h d a b m => raw3 h .sar d a b m.enc
  | .rotl h d a b m => raw3 h .rotl d a b m.enc
  | .popc h d a m => raw2 h .popc d a m.enc
  | .clz h d a m => raw2 h .clz d a m.enc
  | .brev h d a m => raw2 h .brev d a m.enc
  | .bfe h d a b m => raw3 h .bfe d a b m.enc
  | .bfi h d a b m => raw3 h .bfi d a b m.enc
  | .logt h d a b t => raw3 h .logt d a b t
  | .mov h d a ty => raw2 h .mov d a (ty.code ++ 0#5)
  | .movi h d v => some (mkRaw h .movi d.enc (immField (v.extractLsb' 14 18)) (immField (0#4 ++ v.extractLsb' 0 14)) 0)
  | .sel h d a b neg p => raw3 h .sel d a b (0#4 ++ bit neg ++ p)
  | .icvt h d a dt sty sat => raw2 h .icvt d a (dt.code ++ sty.code ++ bit sat ++ 0#1)
  | .isetp h d a b ty c k => raw3 h .isetp d a b (ty.code ++ c.code ++ k.code)
  | .fsetp h d a b ty c k => raw3 h .fsetp d a b (ty.code ++ c.code ++ k.code)
  | .plogt h d a b t => raw3 h .plogt d a b t
  | .vote h d a mode => raw2 h .vote d a (0#6 ++ mode.code)
  | .shfl h d a b seg mode => raw3 h .shfl d a b (0#3 ++ seg.code ++ mode.code)
  | .fadd h d a b m => raw3 h .fadd d a b m.enc
  | .fsub h d a b m => raw3 h .fsub d a b m.enc
  | .fmul h d a b m => raw3 h .fmul d a b m.enc
  | .ffma h d a b m => raw3 h .ffma d a b m.enc
  | .fmin h d a b m => raw3 h .fmin d a b m.enc
  | .fmax h d a b m => raw3 h .fmax d a b m.enc
  | .fdiv h d a b m => raw3 h .fdiv d a b m.enc
  | .fsqrt h d a m => raw2 h .fsqrt d a m.enc
  | .frcp h d a m => raw2 h .frcp d a m.enc
  | .frsq h d a m => raw2 h .frsq d a m.enc
  | .fexp2 h d a m => raw2 h .fexp2 d a m.enc
  | .flog2 h d a m => raw2 h .flog2 d a m.enc
  | .fsin h d a m => raw2 h .fsin d a m.enc
  | .fcos h d a m => raw2 h .fcos d a m.enc
  | .fclass h d a m => raw2 h .fclass d a m.enc
  | .frnd h d a m => raw2 h .frnd d a m.enc
  | .fabs h d a m => raw2 h .fabs d a m.enc
  | .fneg h d a m => raw2 h .fneg d a m.enc
  | .fcvt h d a dt sty rnd ftz ovf se de =>
    some (mkRaw h .fcvt d.enc a.enc (immField (0#9 ++ de ++ se ++ rnd.code)) (dt.code ++ sty.code ++ bit ftz ++ bit ovf))
  | .f2i h d a dt sty rnd => raw2 h .f2i d a (dt.code ++ sty.code.extractLsb' 0 2 ++ rnd.code)
  | .i2f h d a dt sty rnd => raw2 h .i2f d a (sty.code ++ dt.code.extractLsb' 0 2 ++ rnd.code)
  | .pack h d a b dt rnd ftz hi => raw3 h .pack d a b (dt.code ++ rnd.code ++ bit ftz ++ bit hi)
  | .unpk h d a sty g => raw2 h .unpk d a (sty.code ++ 0#3 ++ g)
  | .dot4i8 h d a b sa sb => raw3 h .dot4i8 d a b (0#6 ++ bit sa ++ bit sb)
  | .dot8i4 h d a b sa sb => raw3 h .dot8i4 d a b (0#6 ++ bit sa ++ bit sb)
  | .dot4f8 h d a b ea eb sc rnd => raw3 h .dot4f8 d a b (bit ea ++ bit eb ++ bit sc ++ rnd.code ++ 0#2)
  | .dot2bf h d a b rnd => raw3 h .dot2bf d a b (0#3 ++ rnd.code ++ 0#2)
  | .dotb32 h d a b c => raw3 h .dotb32 d a b (0#7 ++ bit c)
  | .ld h d a b ty => some (mkRaw h .ld d.enc a.enc (Operand.encOpt b) (ty.code ++ 0#5))
  | .st h d a b ty => some (mkRaw h .st d.enc a.enc (Operand.encOpt b) (ty.code ++ 0#5))
  | .atom h d a b op ord w => some (mkRaw h .atom d.enc a.enc (Operand.encOpt b) (op.code ++ ord.code ++ bit w ++ 0#1))
  | .fence h a b k => some (mkRaw h .fence 0 a.enc (Operand.encOpt b) (0#6 ++ k.code))
  | .cpy h d a b sz tag arr => raw3 h .cpy d a b (sz.code ++ tag ++ bit arr ++ 0#2)
  | .cpyo h d a b sz tag arr => raw3 h .cpyo d a b (sz.code ++ tag ++ bit arr ++ 0#2)
  | .bulk h a b tag => some (mkRaw h .bulk 0 a.enc (Operand.encOpt b) (0#2 ++ tag ++ 0#3))
  | .arrinit h a b => some (mkRaw h .arrinit 0 a.enc b.enc 0)
  | .arrwait h d a b => raw3 h .arrwait d a b 0
  | .arrtest h d a b => raw3 h .arrtest d a b 0
  | .crpoll h d a => raw2 h .crpoll d a 0
  | .crsleep h a => some (mkRaw h .crsleep 0 a.enc 0 0)
  | .waitc h l s c t => some (mkRaw h .waitc 0 (immField (c ++ s ++ l)) (immField (0#12 ++ t)) 0)
  | .waitt h tag n => some (mkRaw h .waitt 0 (immField (0#15 ++ tag)) (immField (0#12 ++ n)) 0)
  | .bararr h b => some (mkRaw h .bararr 0 (immField b) 0 0)
  | .barwait h b => some (mkRaw h .barwait 0 (immField b) 0 0)
  | .barsync h b => some (mkRaw h .barsync 0 (immField b) 0 0)
  | .barq h d b => some (mkRaw h .barq d.enc (immField b) 0 0)
  | .sracq h d r => some (mkRaw h .sracq d.enc 0 0 (0#5 ++ r))
  | .srpost h a r => some (mkRaw h .srpost 0 a.enc 0 (0#5 ++ r))
  | .srwait h d r => some (mkRaw h .srwait d.enc 0 0 (0#5 ++ r))
  | .srfree h a r => some (mkRaw h .srfree 0 a.enc 0 (0#5 ++ r))
  | .srbind h d a b r => raw3 h .srbind d a b (0#5 ++ r)
  | .tzero h n => some (mkRaw h .tzero 0 0 0 (n ++ 0#5))
  | .tldw h a b wd s => some (mkRaw h .tldw 0 a.enc b.enc (wd.code ++ bit s ++ 0#4))
  | .tmma h n a b f acc => some (mkRaw h .tmma 0 a.enc b.enc (n ++ f.code ++ bit acc ++ 0#1))
  | .tmmas h n a b f acc => some (mkRaw h .tmmas 0 a.enc b.enc (n ++ f.code ++ bit acc ++ 0#1))
  | .tbin h n a b c acc => some (mkRaw h .tbin 0 a.enc b.enc (n ++ bit c ++ 0#2 ++ bit acc ++ 0#1))
  | .tlut h n a b z acc => some (mkRaw h .tlut 0 a.enc b.enc (n ++ bit z ++ 0#2 ++ bit acc ++ 0#1))
  | .tscacc h n a p => some (mkRaw h .tscacc 0 a.enc (immField p) (n ++ 0#5))
  | .tdrain h d n b wd mode hbm =>
    some (mkRaw h .tdrain d.enc (immField (0#15 ++ wd.code)) (Operand.encOpt b) (n ++ mode.code ++ bit hbm ++ 0#2))
  | .tcvt h n dt sty rnd ovf =>
    some (mkRaw h .tcvt 0 0 (immField (0#9 ++ dt.code ++ sty.code ++ bit ovf ++ rnd.code)) (n ++ 0#5))
  | .tsetph h a => some (mkRaw h .tsetph 0 a.enc 0 0)
  | .dlaunch h d a => raw2 h .dlaunch d a 0
  | .dlwait h d a => raw2 h .dlwait d a 0
  | .nodeput h d a b => some (mkRaw h .nodeput (Operand.encOpt d) a.enc b.enc 0)
  | .qclaim h d a b => some (mkRaw h .qclaim d.enc a.enc (Operand.encOpt b) 0)
  | .qnotify h d a b => some (mkRaw h .qnotify (Operand.encOpt d) a.enc b.enc 0)
  | .claim h a b => some (mkRaw h .claim 0 a.enc (Operand.encOpt b) 0)
  | .claimend h b => some (mkRaw h .claimend 0 0 b.enc 0)
  | .itemend h => some (mkRaw h .itemend 0 0 0 0)
  | .clook h d a dom tag nd => raw2 h .clook d a (dom ++ tag ++ bit nd ++ 0#1)
  | .cfetch h d a b dom tag => some (mkRaw h .cfetch d.enc a.enc (Operand.encOpt b) (dom ++ tag ++ 0#2))
  | .cref h d a dom => raw2 h .cref d a (dom ++ 0#5)
  | .cunref h d a dom => raw2 h .cunref d a (dom ++ 0#5)
  | .crootcas h d a b => raw3 h .crootcas d a b 0
  | .ccopyout h a b tag => some (mkRaw h .ccopyout 0 a.enc b.enc (0#3 ++ tag ++ 0#2))
  | _ => none

/-- The word of an instruction, from the encoding tables; none for an event. -/
def encode : Instr → Option (BitVec 96)
  | .hintSpaceWord b => some (b.extractLsb' 80 12 ++ 0b1000#4 ++ b.extractLsb' 0 80)
  | i => i.toRaw.map Raw.toWord

end Sys2Proof
end

