-- ==== Sys2Proof/Machine/State.lean ====
section
/-! DEFINITION. The state of the device as plain data, the ways a step can stop, and the state after reset. -/

namespace Sys2Proof.Machine

/-- Why the machine stops with a fault. -/
inductive Fault where
  /-- Raised by a wave's instruction when `cur` names no wave that can issue. No program reaches it: `step` issues
  only for such a wave. Safe. -/
  | noWave
  deriving DecidableEq, Repr

/-- Why the machine refuses an instruction. -/
inductive Refusal where
  /-- Raised by an arm of `exec` without a meaning yet. Safe. -/
  | notModelled (mnemonic : String)
  deriving DecidableEq, Repr

/-- Bytes by address: addresses strictly rising, no entry equal to what an unlisted address reads as. -/
abbrev Memory := List Host.Cell

/-! ### Faults of waves (R365 to R370) -/

/-- A fault record without its place in a log (Table 22.4). -/
structure FaultRec where
  sequence : BitVec 16 := 0
  cause : Cause
  ctx : Nat := 0
  /-- [0] HANDLER, [1] IMPRECISE, [2] DEBUG_EDITED -/
  flags : BitVec 8 := 0
  die : Nat := 0
  core : Nat := 0
  slot : Nat := 0
  waveid : Nat := 0
  blockid : Nat := 0
  gridid : Nat := 0
  arg : Word := 0
  interval : Word := 0
  pc : Word := 0
  lanes : Mask := 0
  address : DWord := 0
  accn : DWord := 0
  /-- the service that takes it as the kernel trap handler; 0: Curator takes it (R366) -/
  service : BitVec 16 := 0
  deriving DecidableEq, Repr

/-! ### Waves (R92, R93) -/

/-- An item of a reserving launch in a lane: a lane of a claim wave, or of a body wave (R289 to R295). -/
structure Item where
  index : Nat
  /-- granules posted, in order (R290) -/
  granules : List Nat := []
  /-- the bit pairs of the claims, in order -/
  claims : List (Nat × Nat) := []
  /-- w0 to w3 at CLAIMEND (R291) -/
  words : List Word := []
  entry : Word := 0
  deriving DecidableEq, Repr

/-- The state that one lane holds (Table 5.1), and its item; its spill stack lies in the local store (R170). -/
structure Lane where
  regs : List Word
  /-- q1 to q7 in bits 1 to 7; bit 0 is not used -/
  q : BitVec 8 := 0
  lpc0 : Word := 0
  lpc1 : Word := 0
  age : Word := 0
  item : Option Item := none
  deriving DecidableEq, Repr

/-- Items that one instruction has ended together, and that retire once their lanes' earlier accesses are performed
(R295, R339); the number is the wave's accession count. -/
structure Pass where
  num : Nat
  items : List Item
  /-- the step after which it had become ready, by the model's counter: passes retire in that order (R339) -/
  since : Option Nat := none
  deriving DecidableEq, Repr

/-- A register that a pending operation writes when it completes. -/
inductive RegWrite where
  | lane (l r : Nat) (v : Word)
  | uni (r : Nat) (v : DWord)
  deriving DecidableEq, Repr

/-- Where a wave stood when it issued an instruction: what a record about it names (R368). -/
structure Issued where
  pc : Word := 0
  accn : DWord := 0
  /-- the wave was in handler mode -/
  handler : Bool := false
  deriving DecidableEq, Repr

/-- A load or atomic issued and not completed (R173): its instruction, and what it will write. -/
structure PendLoad where
  at_ : Issued := {}
  writes : List RegWrite
  /-- LD: its D operand, its type, and each lane with the bytes that it read, before they are extended (R176, R249) -/
  read : Option (Operand × MemType × List (Nat × List Byte)) := none
  /-- lanes whose later accesses wait until it completes: ATOM of an acquiring kind (R177) -/
  acq : Mask := 0
  /-- an ATOM whose updates still stand behind earlier stores: the values are not known yet -/
  owed : Bool := false
  /-- an ATOM: the error that it met as it read, reported when it completes (R249) -/
  err : Option MemError := none
  deriving DecidableEq, Repr

/-- An ATOM that waits for its turn behind the wave's earlier stores (R209): the first register of D, and for each lane
its device address, its operand, and the new value of a compare. -/
structure PendAtom where
  op : AtomOp
  bytes : Nat
  dst : Nat
  parts : List (Nat × Nat × Nat × Nat)
  deriving DecidableEq, Repr

/-- A store to another core's local store, or an ARRINIT, accepted and not performed (R172, R209): for each lane the
device address and the bytes. -/
structure PendStore where
  writes : List (Nat × List Byte)
  /-- the lane of each write; a write without one is the whole wave's -/
  lanes : List Nat := []
  /-- it is an ATOM, which the store counter does not count (R173) -/
  atom : Option PendAtom := none
  /-- numbers of the retirement passes that wait for it (R295) -/
  holds : List Nat := []
  deriving DecidableEq, Repr

/-- What a copy operation moves. -/
inductive CopyKind where
  /-- CPY: HBM to local store -/
  | load
  /-- CPYO: local store to HBM -/
  | store
  /-- CLOOK: bring a line into the collection -/
  | look
  /-- CFETCH: a line to local store -/
  | fetch
  /-- BULK or CCOPYOUT: until the engine has read the card -/
  | card
  deriving DecidableEq, Repr

/-- One lane's part of a copy. -/
structure CopyLane where
  lane : Nat
  /-- window or device-window address of the local part -/
  local_ : Nat
  va : DWord
  /-- physical address after translation, where the walk has ended -/
  pa : Option (Nat × Nat) := none
  /-- valid bytes, and the bytes of the whole lane -/
  bytes : Nat
  whole : Nat := 0
  /-- bytes read at issue, where the rule reads them then -/
  data : List Byte := []
  /-- bytes that have landed before the rest (R206) -/
  landed : List Nat := []
  /-- its page is shared by the die alone, and lies at another die's stacks: the count of writes of HBM from which on the
  page has been mapped (R214) -/
  foreign : Option Nat := none
  /-- bytes of HBM that it has written, by their place on this device: HBM's count of writes before each (R117, R202) -/
  wrote : Tbl Nat := []
  done : Bool := false
  deriving DecidableEq, Repr

/-- A copy operation of a wave, in issue order (R180). -/
structure PendCopy where
  op : Nat
  tag : Nat
  kind : CopyKind
  at_ : Issued := {}
  lanes : List CopyLane := []
  /-- device address of the arrival word that each lane credits -/
  arr : Option Nat := none
  /-- bytes of HBM that the wave has seen written when it issued this: HBM's count of writes from which on a read is fresh
  enough (R202) -/
  floor : Tbl Nat := []
  /-- domain with the epoch of its keys, name and kind of a collection operation (R265) -/
  dom : Nat := 0
  epoch : Nat := 0
  name : BitVec 128 := 0
  node : Bool := false
  /-- window addresses of its line and of its result record -/
  line : Word := 0
  rec_ : Option Word := none
  /-- CLOOK: bytes of its line that have been read already, by place (R258) -/
  early : Tbl Byte := []
  /-- CFETCH: the line that it delivers, once a byte has landed, and the bytes that have (R206) -/
  found : Option (List Byte × Word) := none
  landed : List Nat := []
  /-- CLOOK: its result record, once the lookup has been made and a byte of it may have landed (R206, R258) -/
  result : Option (List Byte) := none
  /-- its only part has finished: the card is read, or the collection operation is complete -/
  done : Bool := false
  deriving DecidableEq, Repr

/-- A tile instruction in the issue queue of a matrix sequencer (R319), operands read at issue; `addr` is a window
address, resolved when its bytes are read or written. -/
inductive TileOp where
  | zero (n : Nat)
  | load (addr : Word) (slot : Nat) (wd : SlotWidth) (s24 : Bool)
  | mma (n : Nat) (addr : Word) (slot : Nat) (fmt : TileFmt) (acc sparse : Bool)
  | bin (n : Nat) (addr : Word) (slot : Nat) (conj acc : Bool)
  | lut (n : Nat) (addr : Word) (slot : Nat) (z4 acc : Bool)
  | scale (n : Nat) (addr : Word) (p : Nat)
  /-- a drain; a destination in HBM is translated at issue into runs of physical address, domain and bytes; the
  sequence descriptor; the instruction -/
  | drain (n : Nat) (addr : Word) (wd : DrainWidth) (mode : DrainMode) (hbm : Option (List (Nat × Nat × Nat)))
      (seq : DWord) (at_ : Issued)
  /-- a sequence-indexed drain that has been applied or is held -/
  | arrived
  | cvt (n : Nat) (dt : FFmt) (st : TcvtSrc) (rnd : Rnd) (ovf : Bool)
  | setph (v : BitVec 6)
  deriving DecidableEq, Repr

/-- What a stalled wave waits for (Table 22.8); the registers are those its instruction names. -/
inductive Wait where
  | bar (b : Nat)
  | sracq (ring pos dst : Nat)
  | srwait (ring pos dst : Nat)
  | arrwait (addr : Word) (gen : Word) (dst : Nat)
  | crsleep (addr : Word)
  | dlwait (handle : DWord) (dst : Nat)
  deriving DecidableEq, Repr

/-- Where a wave stands in its life (Table 5.4). -/
inductive Phase where
  | starting | active | ending | ended | faulted
  deriving DecidableEq, Repr

/-- What a wave of a reserving launch does (R289, R294). -/
inductive WaveKind where
  | ordinary | claim | body
  deriving DecidableEq, Repr

/-- The state of one wave (Table 5.1). -/
structure Wave where
  block : Nat := 0
  waveid : Nat := 0
  die : Nat := 0
  core : Nat := 0
  slot : Nat := 0
  partner : Nat := 0
  role : Role := .general
  kind : WaveKind := .ordinary
  width : Nat := 8
  regs : Nat := 16
  lanes : List Lane := []
  k : List DWord := []
  pc : Word := 0
  run : Mask := 0
  live : Mask := 0
  park : Mask := 0
  hdep : BitVec 2 := 0
  hcause : BitVec 3 := 0
  hvec : Word := 0xffffffff
  evtm : Mask := 0
  hpc1 : Word := 0
  hpc2 : Word := 0
  hrun1 : Mask := 0
  hrun2 : Mask := 0
  keepMask : Mask := 0
  keepCause : BitVec 3 := 0
  sglim : Word := 4096
  sgq : Word := 256
  sgcnt : Word := 0
  serial : Bool := false
  quantum : Word := 0
  chosen : Nat := 0
  handlerIssues : Word := 0
  fflags : BitVec 5 := 0
  dither : BitVec 6 := 0
  arrw : Word := 0
  accn : DWord := 0
  item : Word := 0xffffffff
  pend : BitVec 20 := 0
  pphase : BitVec 20 := 0
  phase : Phase := .starting
  wait : Option Wait := none
  saved : Bool := false
  haltReq : Bool := false
  halted : Bool := false
  /-- BRKPT has halted the wave at this PC: resuming past it retires it (R116) -/
  atBrkpt : Bool := false
  /-- the breakpoint at this PC has been met: the next issue passes it, unless an event comes first (R166, R236) -/
  passBp : Bool := false
  /-- the debugger lets one instruction issue -/
  stepping : Bool := false
  fault : Option FaultRec := none
  loads : List PendLoad := []
  stores : List PendStore := []
  copies : List PendCopy := []
  /-- copy operations that have left their tags, and whose fall the wave has not observed, oldest first: the tag, and the
  bytes that a CPYO wrote to foreign pages, as in its lanes (R202) -/
  fell : List (Nat × Tbl Nat) := []
  /-- the bytes of those whose fall it has observed through WAITT or WAITC (R202) -/
  seen : Tbl Nat := []
  tiles : List TileOp := []
  /-- operand bytes that tile instructions have read before their count falls: the place in the queue x 2^20 + offset
  (R217) -/
  tileReads : Tbl Byte := []
  /-- bytes of the destination that the oldest tile instruction, a plain drain, has written already (R218) -/
  tileWrote : List Nat := []
  /-- peers to which no path has come in time for the oldest tile instruction, a drain (R383) -/
  tileLost : List Nat := []
  /-- items that the wave has ended, one pass for each instruction, oldest first (R295, R339) -/
  retiring : List Pass := []
  /-- granules of its spill stacks on its core, in the order of their offsets (R170, R410) -/
  granules : List Nat := []
  /-- bytes of its spill stacks while it is saved, by place in its granules (R373) -/
  spillImage : Tbl Byte := []
  deriving DecidableEq, Repr

/-! ### Blocks, grids and kernels -/

/-- A barrier's phase and counts (R222). -/
structure Barrier where
  phase : Bool := false
  arrived : Nat := 0
  expected : Nat := 0
  deriving DecidableEq, Repr

/-- States of a ring slot (R230). -/
inductive SlotState where
  | empty | acquired | full | taken
  deriving DecidableEq, Repr

/-- A ring slot (R230, R233). -/
structure RingSlot where
  state : SlotState := .empty
  phase : Bool := false
  fault : Bool := false
  /-- the bound arrival word's window address, and the generation -/
  bound : Option (Word × BitVec 24) := none
  deriving DecidableEq, Repr

/-- A core's ring instance (R230). -/
structure Ring where
  ap : Nat := 0
  wp : Nat := 0
  slots : List RingSlot := []
  /-- waves that have waited in SRACQ and in SRWAIT, in the order of their positions (R232) -/
  acquirers : List Nat := []
  takers : List Nat := []
  deriving DecidableEq, Repr

/-- Descriptor of a vitrine slot that holds a block (R323). -/
structure SlotDesc where
  wd : SlotWidth
  s24 : Bool
  deriving DecidableEq, Repr

/-- A matrix sequencer's state: cells and bytes sparse, an unlisted one 0 (R317). -/
structure Matrix where
  /-- cell (row, column) of tile n at n x 16384 + row x 128 + column -/
  acc : Tbl Word := []
  /-- byte i of slot v at v x 4096 + i -/
  vit : Tbl Byte := []
  desc : Tbl SlotDesc := []
  phase : BitVec 6 := 0
  deriving DecidableEq, Repr

/-- States of a block (Table 17.1). -/
inductive BlockPhase where
  | pending | admitted | running | draining | saving | flushing | saved | resumed | faulted | retired
  deriving DecidableEq, Repr

/-- A block. -/
structure Block where
  grid : Nat := 0
  num : Nat := 0
  die : Nat := 0
  span : Nat := 1
  phase : BlockPhase := .pending
  /-- `%coreid` by partner index -/
  cores : List Nat := []
  /-- granules of the allocation on each core, in offset order (R410) -/
  alloc : List (List Nat) := []
  /-- granules of the spill stacks on each core -/
  spill : List (List Nat) := []
  barriers : List Barrier := []
  /-- by partner index -/
  rings : List (List Ring) := []
  matrix : List Matrix := []
  exposed : Bool := false
  elapsed : Nat := 0
  /-- cycles since draining began (R312) -/
  drained : Nat := 0
  /-- reserved record in the save pool: offset and size (R364) -/
  record : Option (Nat × Nat) := none
  /-- allocation images of a saved block, by partner index -/
  image : List (Tbl Byte) := []
  /-- saved while waiting on a child (R283) -/
  waitedChild : Bool := false
  /-- the agent ended the block (R369) -/
  ending : Bool := false
  /-- records of a node block (R286) -/
  records : List (List Byte) := []
  /-- code of the cause of the first fault that ended it -/
  code : BitVec 16 := 0
  /-- the bytes of its record as the device wrote them last (R375) -/
  written : List Byte := []
  deriving DecidableEq, Repr

/-- States of a grid (Table 15.2). -/
inductive GridPhase where
  | pending | dispatching | running | retiring | retired | refused | cancelled
  deriving DecidableEq, Repr

/-- A grid. -/
structure Grid where
  ctx : Nat := 0
  num : Word := 0
  serial : Word := 0
  kernel : Nat := 0
  args : List DWord := []
  blocks : Nat := 0
  threads : Nat := 0
  span : Nat := 1
  coop : Bool := false
  parent : Option Nat := none
  depth : Nat := 0
  rank : BitVec 20 := 0
  /-- the die of a grid launched there (R281, R288) -/
  die : Option Nat := none
  phase : GridPhase := .pending
  /-- next block to hand out -/
  next : Nat := 0
  retired : Nat := 0
  faulted : Bool := false
  code : BitVec 16 := 0
  /-- queue whose LAUNCH packet made it -/
  queue : Option Nat := none
  /-- grid barriers 16 to 19 (R222) -/
  barriers : List Barrier := []
  /-- save-pool reservation of the grid record (R372), and its bytes as the device wrote them last (R375) -/
  record : Option (Nat × Nat) := none
  written : List Byte := []
  /-- the grid of a work-graph node (R285) -/
  node : Bool := false
  deriving DecidableEq, Repr

/-- A ring's declaration (R40). -/
structure RingDecl where
  depth : Nat
  producer : Role
  consumer : Role
  bound : Bool := false
  deriving DecidableEq, Repr

/-- A kernel's declarations (Table 2.4). -/
structure KernelDesc where
  level : Nat := 2
  hintLevel : Nat := 0
  stripFlag : Bool := false
  idempotent : Bool := false
  deviceClass : Nat := 0
  floorClass : Nat := 0
  width : Nat := 8
  regs : Nat := 16
  /-- bytes per lane -/
  spill : Nat := 0
  /-- bytes per core -/
  shared : Nat := 0
  energy : Nat := 0
  /-- count and width of copy waves, of vector waves; a matrix wave -/
  copyWaves : Nat := 0
  copyWidth : Nat := 8
  vectorWaves : Nat := 0
  vectorWidth : Nat := 8
  matrix : Bool := false
  barriers : Nat := 0
  gridBarriers : Nat := 0
  rings : List (Option RingDecl) := []
  /-- items, claims, checked -/
  reserve : Option (Nat × Nat × Bool) := none
  /-- records, size, countdown -/
  node : Option (Nat × Nat × Nat) := none
  hvec : Word := 0xffffffff
  deriving DecidableEq, Repr

/-- A loaded kernel (R266). -/
structure Kernel where
  ctx : Nat := 0
  obj : Nat := 0
  desc : KernelDesc := {}
  text : List Byte := []
  /-- uniform register and address of each data block -/
  data : List (Nat × DWord) := []
  /-- physical address of its text in HBM, under the context's own domain (R117) -/
  place : Option Nat := none
  unloading : Bool := false
  deriving DecidableEq, Repr

/-! ### Dies -/

/-- An entry of a die's block queue: a block, or a reserving launch by its grid (R288). -/
inductive QEntry where
  | block (b : Nat)
  | reserving (g : Nat)
  deriving DecidableEq, Repr

/-- A gatherer (R285). -/
structure Gatherer where
  ctx : Nat
  kernel : Nat
  grid : Nat
  filling : List (List Byte) := []
  /-- cycles left of the countdown, while the filling batch holds a record -/
  countdown : Nat := 0
  /-- blocks of closed batches, oldest first: one, or at an unbind two (R285, R356) -/
  closed : List Nat := []
  batch : Word := 0
  /-- unbound: it takes no more records (R356) -/
  unbound : Bool := false
  deriving DecidableEq, Repr

/-- A running reserving launch (R288 to R298). -/
structure Former where
  grid : Nat
  /-- the block that holds the home allocation and the launch's waves -/
  block : Nat
  home : Nat
  next : Nat := 0
  deferred : List Item := []
  /-- counter of each bit that is not 0 -/
  counters : Tbl Nat := []
  /-- admitted items waiting for a body wave, in admission order -/
  admitted : List Item := []
  /-- body waves formed and not started, in the order in which they were formed (R294, R298) -/
  ready : List (List Item) := []
  retired : Nat := 0
  /-- waves formed so far: their numbers in the block -/
  formed : Nat := 0
  deriving DecidableEq, Repr

/-- What an access to HBM asks of its page (R182, R255, R261, R263, R346). -/
inductive Need where
  /-- read bit of an ordinary, image or collection page -/
  | read
  /-- write bit of an ordinary page -/
  | write
  /-- both, of an ordinary page -/
  | readWrite
  /-- read bit of a collection page -/
  | slot
  /-- read and write bits of a collection page, in the root area -/
  | root
  deriving DecidableEq, Repr

/-- A wave that waits for a translation at issue (R174): its core, itself, the addresses of its lanes. -/
structure WalkReq where
  core : Nat
  wave : Nat
  vas : List (Nat × DWord)
  need : Need
  deriving DecidableEq, Repr

/-- A walk in progress (R242): the context, the 64 KiB virtual page, and who waits for it. -/
structure Walk where
  ctx : Nat
  page : Nat
  reqs : List WalkReq
  deriving DecidableEq, Repr

/-- One compute die. -/
structure Die where
  queue : List QEntry := []
  /-- the last free-slot report that the global dispatcher has (R304) -/
  report : Nat := 256
  /-- pending-launch pool (R280) -/
  pool : List Nat := []
  gatherers : List Gatherer := []
  former : Option Former := none
  /-- formers of saved reserving launches (R298) -/
  savedFormers : List Former := []
  /-- durations of the last 16 retired blocks, by kernel handle, oldest first (R310) -/
  history : Tbl (List Nat) := []
  /-- slice count by context (R363) -/
  slices : Tbl Nat := []
  walks : List Walk := []
  /-- the waiting entries for which freed resources are reserved, each with the cores chosen for it (R309, R312) -/
  reserved : List (QEntry × List Nat) := []
  /-- the waiting block for which SAVE_POOL has been noticed (R364) -/
  told : Option Nat := none
  deriving DecidableEq, Repr

/-- A translation held by a core (R242). -/
structure TlbEntry where
  ctx : Nat
  /-- first address and size of the page -/
  va : Nat
  size : Nat
  pa : Nat
  dom : Nat
  r : Bool
  w : Bool
  /-- 0 die, 1 device, 2 domain (Table 14.2) -/
  sharing : Nat := 0
  /-- 0 ordinary, 1 collection, 2 read-only image, 3 MMIO (Table 14.2) -/
  kind : Nat := 0
  deriving DecidableEq, Repr

/-- A page fault that stalls a core until Curator has resolved it (R174). -/
structure PageStall where
  ctx : Nat
  req : WalkReq
  reason : Nat
  va : DWord
  deriving DecidableEq, Repr

/-- Where a job card stands (R186 to R190). -/
inductive CardPhase where
  | unread | read | running | faulted | ended
  deriving DecidableEq, Repr

/-- How a card ends or stops next, its record having begun to be written: status and code, the reason and address of a fault;
the position of the record, and the bytes of it that are written (R196, R206). -/
structure Verdict where
  status : Nat
  code : Nat
  reason : Nat := 0
  va : DWord := 0
  tail : Nat := 0
  offs : List Nat := []
  deriving DecidableEq, Repr

/-- A job card. -/
structure Card where
  die : Nat
  core : Nat
  ctx : Nat
  /-- the block and kernel by which its window addresses are resolved (R186); none for a COPY packet's card -/
  win : Option (Block × KernelDesc) := none
  /-- wave whose tag counts it until it is read -/
  wave : Option Nat := none
  /-- where the card lies: device addresses of its bytes, or its virtual address -/
  place : List Nat := []
  va : DWord := 0
  bytes : List Byte := []
  phase : CardPhase := .unread
  /-- bytes moved so far -/
  moved : Nat := 0
  /-- order of reading -/
  order : Nat := 0
  queue : Option Nat := none
  /-- CCOPYOUT: domain and bytes of the root slot read at issue (R263) -/
  slot : Option (Nat × List Byte) := none
  /-- copy-out: domain of the tree, with the epoch of its keys, from the card's issue or start on (R265) -/
  treeDom : Option (Nat × Nat) := none
  /-- bytes of HBM that it has written, by their place on this device: HBM's count of writes before the first and before the
  latest write of each (R117) -/
  wrote : Tbl (Nat × Nat) := []
  /-- of a wave's card: bytes of HBM that the wave has seen written when it issued this (R202) -/
  floor : Tbl Nat := []
  verdict : Option Verdict := none
  /-- collective: own source bytes that have been read already, by place; every member's source bytes in rank order, once an
  element of a result has landed (R392) -/
  early : Tbl Byte := []
  srcs : Option (List (List Byte)) := none
  /-- gather: the element in progress and its index, which is read once (R188) -/
  elem : Option (Nat × Nat) := none
  /-- peers to which no path has come in time (R383) -/
  lost : List Nat := []
  deriving DecidableEq, Repr

/-! ### Memory side -/

/-- A key domain (R246, R247). -/
structure Domain where
  live : Bool := false
  epoch : Nat := 0
  deriving DecidableEq, Repr

/-- A line of a collection region (R250 to R253). -/
structure Line where
  name : BitVec 128
  node : Bool
  bytes : List Byte
  count : Word
  deriving DecidableEq, Repr

/-- A domain's collection region (R250). -/
structure Region where
  capacity : Nat
  rootBase : Nat
  rootLen : Nat
  lines : List Line := []
  deriving DecidableEq, Repr

/-- A value that a byte of HBM has held: the byte and the domain that wrote it, and HBM's count of writes when the next one
took its place (R214). -/
structure HeldByte where
  byte : Option Byte
  dom : Option Nat
  until_ : Nat
  deriving DecidableEq, Repr

/-- An invalidation in progress (R243). -/
structure Invalidation where
  ctx : Nat
  range : Option (BitVec 64 × BitVec 64)
  deriving DecidableEq, Repr

/-- A contribution of a sequence-indexed drain (R334). -/
structure Contribution where
  /-- sequence length and index -/
  len : Nat
  index : Nat
  values : List Word
  /-- place of each value: a device address, or a physical address and its domain -/
  lds : List Nat := []
  hbm : List (Nat × Nat) := []
  dom : Nat := 0
  rec_ : FaultRec
  deriving DecidableEq, Repr

/-- An open sequence (R334), named by its drains' destination base. -/
structure Seq where
  hbm : Bool
  base : Nat
  len : Nat
  next : Nat := 0
  held : List Contribution := []
  ctx : Nat
  deriving DecidableEq, Repr

/-! ### The hub -/

/-- States of a queue (Table 21.2); full is open with room 0. -/
inductive QueuePhase where
  | created | bound | opened | draining | closed
  deriving DecidableEq, Repr

/-- The hub's record of a queue (R342 to R351). -/
structure Queue where
  phase : QueuePhase := .created
  ctx : Nat := 0
  /-- virtual address of the header in its context -/
  header : DWord := 0
  program : Nat := 0
  base : BitVec 20 := 0
  session : Option Nat := none
  /-- the greatest nonce accepted in the session -/
  nonce : Option DWord := none
  /-- number of the queue key, derived at bind -/
  key : Nat := 0
  /-- cluster of the scheduling thread that serves it -/
  thread : Nat := 0
  /-- the hub has stopped at an unready slot (R349) -/
  stopped : Bool := false
  /-- grids of its LAUNCH packets, and cards of its COPY packets -/
  grids : List Nat := []
  cards : List Nat := []
  deriving DecidableEq, Repr

/-- An entry of the PIFO (R347, R354). -/
structure PifoEntry where
  rank : BitVec 20
  queue : Nat
  packet : List Byte
  /-- the grid that its LAUNCH made pending -/
  grid : Option Nat := none
  deriving DecidableEq, Repr

/-- A scheduling thread (R376). -/
structure Thread where
  beat : Word := 0
  /-- what it read last of the next cluster's counter, and how many reads in a row found it unchanged -/
  lastRead : Option Word := none
  unchanged : Nat := 0
  silent : Bool := false
  deriving DecidableEq, Repr

/-- Context states (Table 22.2). -/
inductive CtxState where
  | free | created | resident | standby | ending
  deriving DecidableEq, Repr

/-- A folio (Table 24.2) without the tag. -/
structure Folio where
  ctx : Nat
  traceId : Nat
  /-- number of the trace key of its tag -/
  key : Nat := 0
  sequence : Nat
  overwritten : Nat := 0
  sealed_ : Bool := false
  records : List Byte
  deriving DecidableEq, Repr

/-- A debug right (R378, R401 to R404). -/
structure DebugRight where
  agent : Nat
  attached : Bool := false
  breakpoints : List (Nat × Word) := []
  period : Option Nat := none
  traceId : Nat := 0
  /-- number of the trace key, which the security engine holds until the trace is sealed -/
  key : Nat := 0
  /-- bytes of the open folio -/
  folio : List Byte := []
  sequence : Nat := 0
  overwritten : Nat := 0
  deriving DecidableEq, Repr

/-- A context. -/
structure Context where
  state : CtxState := .free
  desc : CtxDesc := {}
  /-- Curator evicts it, and blocks of it are still on compute -/
  evicting : Bool := false
  edited : Bool := false
  log : List FaultRec := []
  sequence : BitVec 16 := 0
  lost : Nat := 0
  debug : Option DebugRight := none
  /-- replay journal area of each of its cores, in bytes, and the virtual address of the first (R397) -/
  area : Nat := 0
  areaBase : DWord := 0
  deriving DecidableEq, Repr

/-- Link states (Table 23.1). -/
inductive LinkState where
  | down | training | up | authenticated | degraded | quarantined
  deriving DecidableEq, Repr

/-- A port (R385, R386). -/
structure Link where
  state : LinkState := .down
  lanes : Nat := 0
  session : Option Nat := none
  /-- state before a retrain (R385) -/
  before : Option LinkState := none
  /-- link-key generation -/
  key : Nat := 0
  /-- tag and nonce failures of its session in the present second -/
  failures : Nat := 0
  refused : Nat := 0
  deriving DecidableEq, Repr

/-- A collective group (R390). -/
structure Group where
  ctx : Nat
  members : List Nat
  /-- cards paired or cancelled so far -/
  pairs : Nat := 0
  /-- the first pairing after the installation has been compared (R393) -/
  compared : Bool := false
  deriving DecidableEq, Repr

/-- The lifetime record (Table 24.3). -/
structure Lifetime where
  corrected : List DWord := List.replicate 7 0
  uncorrectable : List Word := List.replicate 7 0
  thermal : List Word := List.replicate 16 0
  /-- run, reduced, clock-stopped, off of each island -/
  residency : List (List DWord) := List.replicate 32 [0, 0, 0, 0]
  retrains : List Word := List.replicate 22 0
  safeguard : DWord := 0
  pinned : DWord := 0
  startFail : List Word := List.replicate 10 0
  starts : Word := 0
  deriving DecidableEq, Repr

/-- The start record (R406). -/
structure StartRec where
  steps : List Nat := List.replicate 10 0
  /-- entries of the lifetime record marked invalid (R405) -/
  invalid : List LifeEntry := []
  /-- the step at which the last start stopped, and how many starts in a row -/
  stoppedAt : Option Nat := none
  inARow : Nat := 0
  /-- alternates in force -/
  alternates : List Nat := []
  started : Bool := false
  deriving DecidableEq, Repr

/-- What the device tells an agent outside its waves. -/
inductive Report where
  /-- handles of an accepted code object, and words changed by STRIP -/
  | loaded (ctx : Nat) (handles : List Nat) (changed : Nat)
  /-- the cause, and the kernel that is refused: its place in the object and its name -/
  | loadRefused (ctx : Nat) (c : Cause) (kernel : Nat) (name : List Byte)
  /-- a request that a rule refuses -/
  | refused
  | sealed_
  | replaying
  | stop (ok tooOld : Bool) (stop : StopName)
  /-- with the counts of its eight tags and `%cnt` at the report (R200) -/
  | haltReported (w : Nat) (tags : List Nat) (cnt : DWord)
  /-- a wave's state as a debugger sees it, and the lane PC of each live lane (R166) -/
  | waveRead (n : Nat) (w : Wave) (lpc : List (Nat × Word))
  /-- the unread records of a context's fault log, in sequence order (R370) -/
  | log (ctx : Nat) (records : List FaultRec)
  /-- the trace key of a right, wrapped for the session of the context's owner (R404) -/
  | traceKey (ctx : Nat) (owner : BitVec 16)
  /-- an SPDM request of the device (R386) -/
  | spdmAsked (port code : Nat) (bs : List Byte)
  | bytes (bs : List Byte)
  | completionError (port : Nat)
  | peerAnswer (port : Nat) (bs : List Byte)
  | spdm (port : Nat) (bs : List Byte)
  | notice (c : Cause) (arg : Word) (ctx : Nat)
  | pageFault (die core ctx : Nat) (va : DWord) (reason : Nat)
  | cardFault (card : Nat) (va : DWord) (reason : Nat)
  | invalidationDone
  | startStopped (step : Nat)
  /-- the lost count of a fault log, as it was read -/
  | lost (ctx n : Nat)
  /-- the lifetime record, as Curator or the management interface reads it (R405) -/
  | lifetime (r : Lifetime)
  deriving DecidableEq, Repr

/-- Privilege modes of the supervisor complex (R359). -/
inductive PrivMode where
  | m | s | u
  deriving DecidableEq, Repr

/-- What code may ask over the hub's control interface beside the events of the table: reads of the supervisor's, and the
giving of a queue to a thread (R359). -/
inductive Ask where
  /-- a debugger, or the agent that took its cause, reads a wave's state (R166, R369, R378) -/
  | readWave (w : Nat)
  /-- the fault log of a context is read (R370) -/
  | readLog (ctx : Nat)
  /-- a queue is given to another scheduling thread (R376) -/
  | assignQueue (q cluster : Nat)
  /-- the lifetime record is read (R405) -/
  | readLifetime
  deriving DecidableEq, Repr

/-- How a card comes to its record (R196). -/
inductive CardEnd where
  /-- at its start, which turns it away: with what the cards of other members say -/
  | start (others : List PeerCard)
  /-- at the end of its bytes, or where they stop -/
  | work
  /-- a collective, with the contributions -/
  | collective (r : Contributions)
  | cancel
  deriving DecidableEq, Repr

/-- One turn of the agenda: a wave issues, an event comes about, cycles pass on a die, or an engine gets ahead with some
bytes of what it does. -/
inductive Turn where
  | issue (w : Nat)
  | event (e : Instr)
  | cycles (die n : Nat)
  /-- bytes of one lane's copy, or of a CFETCH's line or record, land before the rest (R206) -/
  | landSome (w op lane : Nat) (offs : List Nat)
  /-- bytes of a queued tile instruction's operand are read now (R217) -/
  | tileRead (w i : Nat) (offs : List Nat)
  /-- bytes of the oldest tile instruction's plain drain are written before the rest (R218) -/
  | tileWrite (w : Nat) (offs : List Nat)
  /-- no path to a peer has come in time for the transfers of a card (R383) -/
  | cardPeerTimeout (card : Nat)
  /-- the same for the oldest tile instruction of a wave, a drain -/
  | drainPeerTimeout (w : Nat)
  /-- an event asked for over the hub's control interface by code in a privilege mode (R359) -/
  | control (mode : PrivMode) (e : Instr)
  /-- another request over that interface (R359) -/
  | ask (mode : PrivMode) (a : Ask)
  /-- the management interface reads the lifetime record (R405) -/
  | readLifetime
  /-- bytes of the line of a CLOOK are read before the rest (R258) -/
  | lookRead (w op : Nat) (offs : List Nat)
  /-- a CLOOK makes its lookup, and bytes of its record land before the rest (R206, R258) -/
  | lookLand (w op : Nat) (err : Option MemError) (offs : List Nat)
  /-- bytes of a card's record are written before the rest, and before the tail rises (R196, R206) -/
  | cardRecord (card : Nat) (how : CardEnd) (offs : List Nat)
  /-- own source bytes of a collective card are read before the rest -/
  | collectiveRead (card : Nat) (offs : List Nat)
  /-- elements of a collective card's destination take the result of the first contributions, as many as are said (R392) -/
  | collectiveLand (card : Nat) (c : Contributions) (elems : List (Nat × Nat))
  /-- the walk of an engine, for one of the addresses that its card reaches next, meets an uncorrectable error in an entry, by
  its place on the walk (R241, R249) -/
  | cardWalkError (card i level : Nat)
  /-- the index of a gather's element meets an uncorrectable error as it is read (R188, R249) -/
  | cardIndexError (card : Nat) (e : MemError)
  /-- the next ATOM that is performed meets an uncorrectable error in the bytes that it reads (R177, R249) -/
  | atomError (e : MemError)
  /-- the accumulator that the oldest tile instruction of a wave reads, a sequence-indexed drain, is damaged (R320) -/
  | seqError (w : Nat) (e : MemError)
  /-- a message of the session over a port fails its tag or nonce, and a second of the count passes (R385) -/
  | linkTagFailure (port : Nat)
  | linkSecond (port : Nat)
  /-- the device, as requester, sends an SPDM request (R386) -/
  | spdmRequest (port code : Nat) (bytes : List Byte)
  /-- a core takes some instructions of a kernel's text anew (R117) -/
  | textRead (die core kernel : Nat) (words : List Nat)
  /-- a reference count or the name index meets an uncorrectable error, in a context and a domain (R249) -/
  | countError (ctx dom : Nat) (name : BitVec 128) (array : Nat) (w : Option Nat)
  /-- a core that replays re-executes one step of its log (R399, R400) -/
  | replay (die core : Nat)
  deriving DecidableEq, Repr

/-! ### Replaying cores (R397 to R400) -/

/-- What one core holds at one instruction boundary, with what its waves run by: the grids and kernels of its blocks, its
context and the key domains. -/
structure CoreImage where
  waves : Tbl Wave := []
  blocks : Tbl Block := []
  lds : Memory := []
  tags : Tbl Nat := []
  tlb : List TlbEntry := []
  stall : List PageStall := []
  unread : List Nat := []
  text : Tbl (List Byte) := []
  grids : Tbl Grid := []
  kernels : Tbl Kernel := []
  ctxs : Tbl Context := []
  domains : Tbl Domain := []
  deriving DecidableEq, Repr

/-- Values that reach a core from outside: what a step changed there that the core's own state does not yield. By key, the new
value, or none where the entry has gone. -/
structure Inputs where
  waves : List (Nat × Option Wave) := []
  blocks : List (Nat × Option Block) := []
  /-- bytes of the local store by device address -/
  lds : List (Nat × Byte) := []
  tags : List (Nat × Option Nat) := []
  tlb : Option (List TlbEntry) := none
  stall : Option (List PageStall) := none
  unread : Option (List Nat) := none
  text : List (Nat × Option (List Byte)) := []
  grids : List (Nat × Option Grid) := []
  kernels : List (Nat × Option Kernel) := []
  ctxs : List (Nat × Option Context) := []
  domains : List (Nat × Option Domain) := []
  deriving DecidableEq, Repr

/-- The model's counters in which its free values are read. -/
structure Counters where
  fresh : Nat := 1
  errors : Nat := 0
  hbmClock : Nat := 0
  readError : Option MemError := none
  deriving DecidableEq, Repr

/-- A step of a replaying core as its input log has it: its turn, the counters before it, and the values from outside. -/
structure LogStep where
  turn : Turn
  counters : Counters
  inputs : Inputs
  deriving DecidableEq, Repr

/-- A wave of an interval: its number, its grid's and its block's, and the accession counts at which it has stood. -/
structure SeenWave where
  ids : Nat × Nat × Nat
  first : DWord
  last : DWord
  deriving DecidableEq, Repr

/-- One interval of a replaying core: its checkpoint, with the bytes of its records; the undo journal, oldest entry first; the
input log. The checkpoint holds no byte of the local store: the journal leads back to those. -/
structure Interval where
  number : Word
  start : CoreImage
  records : List Byte := []
  /-- where it begins in the journal area, and the entries that have been written there -/
  base : Nat := 0
  written : Nat := 0
  /-- offset of a word, and its value before (R397) -/
  journal : List (Nat × Word) := []
  log : List LogStep := []
  seen : Tbl SeenWave := []
  deriving DecidableEq, Repr

/-- What a replay does (R399, R400). -/
inductive ReplayMode where
  /-- it re-executes until the named wave stands at the stop -/
  | toStop
  /-- it is at the stop, or where a step has led from it -/
  | held
  /-- it re-executes one instruction of a wave, which stands at this accession count and phase -/
  | step (w : Nat) (accn : DWord) (phase : Phase)
  deriving DecidableEq, Repr

/-- A replay in progress (R399, R400). The core's live point stays in the state meanwhile, its waves halted: no effect
of what is executed again leaves the core. -/
structure Replay where
  stop : StopName
  /-- the core at the boundary that the replay has come to -/
  view : CoreImage
  /-- steps of the log still to be re-executed before the live point -/
  ahead : List LogStep
  /-- waves that the replay has halted (R399) -/
  held : List Nat := []
  mode : ReplayMode := .toStop
  /-- the named wave has come to the stop, and the debugger has been told -/
  reached : Bool := false
  deriving DecidableEq, Repr

/-- A core of a context in replay mode (R397). -/
structure ReplayCore where
  ctx : Nat
  interval : Word := 1
  /-- it has come to hold no block of the context -/
  idle : Bool := false
  retired : Nat := 0
  /-- the retired instructions have passed a multiple of 2^20, and the checkpoint has not been taken -/
  due : Bool := false
  cur : Option Interval := none
  prev : Option Interval := none
  replay : Option Replay := none
  deriving DecidableEq, Repr

/-- What a core holds beside its waves and its local store. -/
structure Core where
  tlb : List TlbEntry := []
  stall : List PageStall := []
  /-- cards handed to the engine and not read (R186) -/
  unread : List Nat := []
  /-- text held, by kernel handle (R117) -/
  text : Tbl (List Byte) := []
  replay : Option ReplayCore := none
  /-- the wave sampled last, by context (R401) -/
  sampled : Tbl Nat := []
  deriving DecidableEq, Repr

/-- The state of the device. -/
structure State where
  waves : Tbl Wave := []
  blocks : Tbl Block := []
  grids : Tbl Grid := []
  kernels : Tbl Kernel := []
  contexts : Tbl Context := []
  dies : Tbl Die := []
  /-- by die x 48 + core -/
  cores : Tbl Core := []
  cards : Tbl Card := []
  /-- bytes of the local stores by device address: die x 2^28 + core x 2^22 + offset -/
  lds : Memory := []
  /-- key domain of a granule, by device address divided by 4096 (R248) -/
  ldsTags : Tbl Nat := []
  /-- bytes of HBM by physical address -/
  hbm : Memory := []
  /-- the domain under whose key each was written -/
  hbmDom : Tbl Nat := []
  /-- what each has held before, newest first (R214) -/
  hbmHeld : Tbl (List HeldByte) := []
  /-- writes of HBM so far -/
  hbmClock : Nat := 0
  domains : Tbl Domain := []
  regions : Tbl Region := []
  /-- names still to be decremented, by domain (R253) -/
  cascades : List (Nat × BitVec 128) := []
  invalidations : List Invalidation := []
  seqs : List Seq := []
  queues : Tbl Queue := []
  pifo : List PifoEntry := []
  rankPrograms : Tbl (List (BitVec 32)) := []
  threads : List Thread := List.replicate 4 {}
  frozen : Bool := false
  /-- faulted waves whose causes a restarted Curator takes before dispatch goes on (R377) -/
  taking : Option (List Nat) := none
  /-- stops that are judged once a save of their context has come to its end (R408) -/
  stopAsks : List (Nat × StopName) := []
  /-- restarts of Curator that failed in a row (R377) -/
  restarts : Nat := 0
  /-- die of the next batch (R304) -/
  rotation : Nat := 0
  /-- the cooperative grid that waits for its reservation (R305) -/
  coopWaiting : Option Nat := none
  /-- the cooperative grid for which SAVE_POOL has been noticed (R364) -/
  coopTold : Option Nat := none
  nextGrid : Word := 1
  nextSerial : Word := 1
  nextHandle : Word := 1
  nextTrace : Nat := 1
  nextKey : Nat := 1
  links : Tbl Link := []
  deviceNo : Nat := 0
  exports : Tbl ExportRange := []
  groups : Tbl Group := []
  staging : List Folio := []
  /-- the archive namespace, by range of 64 KiB, and the range that comes next (R403) -/
  archive : Tbl Folio := []
  archiveNext : Nat := 0
  lifetime : Lifetime := {}
  startRec : StartRec := {}
  islands : Tbl IslandState := []
  powerLimit : Nat := 2800
  /-- uncorrectable errors so far -/
  errors : Nat := 0
  /-- an error that the next ATOM meets in the bytes that it reads: the model's own -/
  readError : Option MemError := none
  /-- device addresses of the local stores written in the present step: the model's own, for the undo journals (R397) -/
  ldsWrote : List Nat := []
  reports : List Report := []
  agenda : List Turn := []
  cur : Nat := 0
  fresh : Nat := 1
  deriving DecidableEq, Repr

/-- The device right after reset: no context, kernel, grid, block or wave; memory with nothing listed; domain 0 live. -/
def State.reset : State :=
  { domains := [(0, { live := true, epoch := 0 })] }

end Sys2Proof.Machine
end

