-- ==== Sys2Proof/Machine/Ops.lean ====
section
/-! DEFINITION. The named operations over the state: records, masks, local store and HBM, window addresses,
translation, taking a cause, steering events, and the return from a handler. -/

namespace Sys2Proof

/-! ### Causes: codes and priority (R365) -/

/-- Codes of Table 22.3. -/
def Cause.code : Cause → BitVec 16
  | .illegalOp => 0x0101 | .illegalOperand => 0x0102 | .illegalMod => 0x0103 | .illegalHint => 0x0104
  | .pcRange => 0x0105 | .barrierState => 0x0106 | .ringState => 0x0107 | .tileState => 0x0108
  | .launchPacket => 0x0109 | .steerEmpty => 0x010a | .steerNest => 0x010b | .steerMode => 0x010c
  | .rejoinStall => 0x010d
  | .roleViolation => 0x0201
  | .windowBounds => 0x0301 | .windowKind => 0x0302 | .misaligned => 0x0303 | .permission => 0x0304
  | .pageFault => 0x0305 | .noRegion => 0x0306 | .nameAbsent => 0x0307 | .rootShape => 0x0308
  | .claimScope => 0x0309 | .claimOverflow => 0x030a | .claimPhase => 0x030b | .claimMiss => 0x030c
  | .trap => 0x0401 | .brk => 0x0402 | .syscall => 0x0403
  | .uncorrectable => 0x0601 | .seqError => 0x0602
  | .launchCoop => 0x0701 | .launchResource => 0x0702 | .savePool => 0x0703
  | .loadNote => 0x0801 | .loadArch => 0x0802 | .loadHint => 0x0803 | .loadClass => 0x0804 | .loadResource => 0x0805

/-- Rank among lanes that disagree, and the place in Table 22.3 within a rank: the smaller pair is delivered (R365). -/
def Cause.rank (c : Cause) : Nat :=
  match c with
  | .illegalOp | .illegalOperand | .illegalMod | .illegalHint => 1
  | .roleViolation => 2
  | .windowBounds | .windowKind => 3
  | .misaligned => 4
  | .permission => 5
  | .pageFault => 6
  | .noRegion | .nameAbsent | .rootShape => 7
  | .claimScope | .claimOverflow | .claimPhase | .claimMiss => 8
  | .pcRange | .barrierState | .ringState | .tileState | .launchPacket => 9
  | .steerEmpty | .steerNest | .steerMode | .rejoinStall => 10
  | _ => 11

/-- Order of delivery: rank first, then the place in the table, which the code gives. -/
def Cause.order (c : Cause) : Nat := c.rank * 65536 + c.code.toNat

end Sys2Proof

namespace Sys2Proof.Machine

/-! ### Reading and writing the records of the state -/

def State.setWave (s : State) (n : Nat) (w : Wave) : State := { s with waves := s.waves.put n w }
def State.updWave (s : State) (n : Nat) (f : Wave → Wave) : State := { s with waves := s.waves.upd n f }
def State.setBlock (s : State) (n : Nat) (b : Block) : State := { s with blocks := s.blocks.put n b }
def State.updBlock (s : State) (n : Nat) (f : Block → Block) : State := { s with blocks := s.blocks.upd n f }
def State.setGrid (s : State) (n : Nat) (g : Grid) : State := { s with grids := s.grids.put n g }
def State.updGrid (s : State) (n : Nat) (f : Grid → Grid) : State := { s with grids := s.grids.upd n f }

/-- A context's record; one that was never written is free (R361). -/
def State.ctx (s : State) (n : Nat) : Context := (s.contexts.get n).getD {}
def State.setCtx (s : State) (n : Nat) (c : Context) : State := { s with contexts := s.contexts.put n c }
def State.updCtx (s : State) (n : Nat) (f : Context → Context) : State := s.setCtx n (f (s.ctx n))

def State.die (s : State) (n : Nat) : Die := (s.dies.get n).getD {}
def State.setDie (s : State) (n : Nat) (d : Die) : State := { s with dies := s.dies.put n d }
def State.updDie (s : State) (n : Nat) (f : Die → Die) : State := s.setDie n (f (s.die n))

/-- A core's key. -/
def coreKey (die core : Nat) : Nat := die * 48 + core

def State.core (s : State) (die core : Nat) : Core := (s.cores.get (coreKey die core)).getD {}
def State.setCore (s : State) (die core : Nat) (c : Core) : State := { s with cores := s.cores.put (coreKey die core) c }
def State.updCore (s : State) (die core : Nat) (f : Core → Core) : State := s.setCore die core (f (s.core die core))

def State.domain (s : State) (n : Nat) : Domain := (s.domains.get n).getD {}
def State.link (s : State) (n : Nat) : Link := (s.links.get n).getD {}
def State.setLink (s : State) (n : Nat) (l : Link) : State := { s with links := s.links.put n l }

/-- A fresh key. -/
def State.newKey (s : State) : Nat × State := (s.fresh, { s with fresh := s.fresh + 1 })

def State.report (s : State) (r : Report) : State := { s with reports := s.reports ++ [r] }

/-- State of an island: 0 to 23 core islands, 24 to 27 base-die SRAM, 28 and 29 hub, 30 and on HBM PHYs; run unless
set (R407). -/
def State.island (s : State) (n : Nat) : IslandState := (s.islands.get n).getD .run

/-- The island of a core: eight cores each, six islands a die (R14). -/
def islandOf (die core : Nat) : Nat := die * 6 + core / 8

/-! ### Masks -/

/-- The mask of the lanes that a test picks. -/
def maskOf (p : Nat → Bool) : Mask :=
  (List.range 64).foldl (fun m l => if p l then m ||| (1#64 <<< l) else m) 0

/-- The lanes of a mask, lowest first. -/
def lanesOf (m : Mask) : List Nat := (List.range 64).filter fun l => m.getLsbD l

/-- The lowest lane of a mask. -/
def lowestLane (m : Mask) : Option Nat := (List.range 64).find? fun l => m.getLsbD l

/-- The first `n` lanes. -/
def firstLanes (n : Nat) : Mask := maskOf fun l => decide (l < n)

/-! ### Bytes (R47) -/

/-- A number as `n` bytes, the least significant first. -/
def leBytes (n v : Nat) : List Byte := (List.range n).map fun i => BitVec.ofNat 8 (v >>> (8 * i))

/-- The number that bytes hold, the least significant first. -/
def leNat (bs : List Byte) : Nat := bs.foldr (fun b n => b.toNat + 256 * n) 0

/-- Bytes `lo` to `lo + n - 1` of a list, as a number. -/
def leField (bs : List Byte) (lo n : Nat) : Nat := leNat ((bs.drop lo).take n)

/-! ### Order -/

/-- An element put into a list that rises by a number. -/
def insertBy {α : Type} (f : α → Nat) (a : α) : List α → List α
  | [] => [a]
  | b :: bs => if f a ≤ f b then a :: b :: bs else b :: insertBy f a bs

/-- A list in the order of a number, equal ones as they were. -/
def sortBy {α : Type} (f : α → Nat) (l : List α) : List α := l.foldr (insertBy f) []

/-! ### Memory in canonical form -/

/-- The byte listed at an address. -/
def Memory.find (m : Memory) (a : Nat) : Option Byte :=
  match m with
  | [] => none
  | (k, b) :: t => if k = a then some b else Memory.find t a

/-- The memory with one byte written; `dflt` is what an unlisted address reads as, where that is one value. -/
def Memory.set (dflt : Option Byte) (m : Memory) (a : Nat) (b : Byte) : Memory :=
  match m with
  | [] => if dflt = some b then [] else [(a, b)]
  | (k, x) :: t =>
    if k = a then (if dflt = some b then t else (a, b) :: t)
    else if a < k then (if dflt = some b then (k, x) :: t else (a, b) :: (k, x) :: t)
    else (k, x) :: Memory.set dflt t a b

/-- Addresses strictly rise from `lo` on, and no entry holds what an unlisted address reads as. -/
def Memory.wfFrom (dflt : Option Byte) (lo : Nat) : Memory → Bool
  | [] => true
  | (k, b) :: t => decide (lo ≤ k) && decide (dflt ≠ some b) && Memory.wfFrom dflt (k + 1) t

/-- The canonical form. -/
def Memory.wf (dflt : Option Byte) (m : Memory) : Bool := Memory.wfFrom dflt 0 m

/-! ### Local stores (R167, R171, R248) -/

/-- Device address of a byte of a core's local store. -/
def devAddr (die core off : Nat) : Nat := die * 0x10000000 + core * 0x400000 + off

/-- Die and core of a device address. -/
def dieOf (a : Nat) : Nat := a / 0x10000000
def coreOf (a : Nat) : Nat := a / 0x400000 % 64

/-- A block holds granules: from admission until it retires, is saved or is flushed. -/
def Block.placed (b : Block) : Bool :=
  match b.phase with
  | .pending | .saved | .retired => false
  | _ => true

/-- The byte lies in a granule of spill stacks (R171). -/
def State.inSpill (s : State) (a : Nat) : Bool :=
  (s.blocks.any fun e =>
    e.2.placed && decide (e.2.die = dieOf a) &&
    (List.zip e.2.cores e.2.spill).any fun p =>
      decide (p.1 = coreOf a) && p.2.contains (a % 0x400000 / 4096)) ||
  s.waves.any fun e =>
    !e.2.saved && e.2.die == dieOf a && e.2.core == coreOf a && e.2.granules.contains (a % 0x400000 / 4096)

/-- Device address of a byte of a lane's spill stack: the 4-byte words of the wave's lanes are interleaved, and the
granules are mapped in order (R170, R410). -/
def Wave.spillAddr (w : Wave) (l off : Nat) : Nat :=
  let i := (off / 4 * w.width + l) * 4 + off % 4
  devAddr w.die w.core (w.granules.getD (i / 4096) 0 * 4096 + i % 4096)

/-- The byte as it is held; an unlisted one is 0. -/
def State.ldsRaw (s : State) (a : Nat) : Byte := (Memory.find s.lds a).getD 0

/-- A read by a domain of a byte of a local store, whatever lies there (R248). -/
def State.coreRead (s : State) (dom a : Nat) : Byte := if s.ldsTags.get (a / 4096) = some dom then s.ldsRaw a else 0

/-- A read by a domain of a byte of a local store; by this path a byte of a spill stack reads as 0 (R171, R248). -/
def State.ldsRead (s : State) (dom a : Nat) : Byte := if s.inSpill a then 0 else s.coreRead dom a

/-- The granule's bytes set to 0. -/
def clearGranule (m : Memory) (g : Nat) : Memory := m.filter fun e => e.1 / 4096 ≠ g

/-- A write by a domain of a byte of a local store, whatever lies there: the first write by another domain retags and
zeroes the granule (R248). The address is noted for the undo journal of a core that replays (R397). -/
def State.coreWrite (s : State) (dom a : Nat) (b : Byte) : State :=
  if s.ldsTags.get (a / 4096) = some dom then
    { s with lds := Memory.set (some 0) s.lds a b, ldsWrote := a :: s.ldsWrote }
  else
    { s with
      lds := Memory.set (some 0) (clearGranule s.lds (a / 4096)) a b
      ldsTags := s.ldsTags.put (a / 4096) dom
      ldsWrote := a :: s.ldsWrote }

/-- A write by a domain of a byte of a local store; by this path a byte of a spill stack is not written (R171). -/
def State.ldsWrite (s : State) (dom a : Nat) (b : Byte) : State := if s.inSpill a then s else s.coreWrite dom a b

/-- `n` bytes from an address upward. -/
def State.ldsReads (s : State) (dom a n : Nat) : List Byte := (List.range n).map fun i => s.ldsRead dom (a + i)

def State.ldsWrites (s : State) (dom a : Nat) : List Byte → State
  | [] => s
  | b :: bs => State.ldsWrites (s.ldsWrite dom a b) dom (a + 1) bs

/-! ### HBM (R246, R247) -/

/-- What a byte reads as under a domain's key, from what was written last and under which domain's key. -/
def State.decipher (s : State) (dom pa : Nat) (b : Option Byte) (d : Option Nat) : Byte :=
  match b, d with
  | some b, some d =>
    if d = dom then b else Config.hbmResidue pa dom (s.domain dom).epoch (1 + b.toNat + 256 * d)
  | _, _ => Config.hbmResidue pa dom (s.domain dom).epoch 0

/-- A read of HBM under a domain's key: what was last written there under that key, else a value that is not
defined. -/
def State.hbmRead (s : State) (dom pa : Nat) : Byte := s.decipher dom pa (Memory.find s.hbm pa) (s.hbmDom.get pa)

/-- Bytes of HBM: twelve stacks of 64 GB, a GB of memory being 10^9 bytes (R6, R11, R18). -/
def hbmBytes : Nat := 12 * 64 * 10 ^ 9

/-- The stack that holds a byte of HBM, and the compute die that it is attached to, three stacks to a die (R18). Which
page lies in which stack the specification does not say (log entry 34). -/
def stackOf (pa : Nat) : Nat := Config.stackOfPage (pa / 65536) % 12
def stackDie (pa : Nat) : Nat := stackOf pa / 3

/-- What a byte of HBM holds, as it enters the record of what it has held. -/
def State.heldNow (s : State) (pa : Nat) : HeldByte := ⟨Memory.find s.hbm pa, s.hbmDom.get pa, s.hbmClock⟩

/-- What a byte of HBM has held before, newest first. -/
def State.heldBefore (s : State) (pa : Nat) : List HeldByte := (s.hbmHeld.get pa).getD []

/-- A write of HBM. The specification does not say what a physical address past the last stack does: the model has no
byte there, so that a write changes nothing and a read gives a free value (DESIGN CHOICE, log entry 34). The values that
a byte has held are kept for the readers of R117 and R214. -/
def State.hbmWrite (s : State) (dom pa : Nat) (b : Byte) : State :=
  if hbmBytes ≤ pa then s
  else
    { s with
      hbm := Memory.set none s.hbm pa b
      hbmDom := s.hbmDom.put pa dom
      hbmHeld := s.hbmHeld.put pa (s.heldNow pa :: s.heldBefore pa)
      hbmClock := s.hbmClock + 1 }

def State.hbmReads (s : State) (dom pa n : Nat) : List Byte := (List.range n).map fun i => s.hbmRead dom (pa + i)

/-- A read by an engine of another die of a page that only its own die shares: any value that the byte has held since a
count of writes, by a free choice (R214). -/
def State.hbmStale (s : State) (dom pa since : Nat) : Byte :=
  let held := s.heldNow pa :: (s.heldBefore pa).filter fun v => decide (since ≤ v.until_)
  let v := held.getD (Config.staleChoice pa s.fresh % held.length) (s.heldNow pa)
  s.decipher dom pa v.byte v.dom

/-- What a byte of HBM held at a count of writes (R117). -/
def State.hbmAt (s : State) (dom pa clock : Nat) : Byte :=
  let v := (((s.heldBefore pa).takeWhile fun v => decide (clock ≤ v.until_)).getLast?).getD (s.heldNow pa)
  s.decipher dom pa v.byte v.dom

/-- HBM's count of writes before the latest write of a byte. -/
def State.lastWrite (s : State) (pa : Nat) : Option Nat := (s.heldBefore pa).head?.map fun v => v.until_

def State.hbmWrites (s : State) (dom pa : Nat) : List Byte → State
  | [] => s
  | b :: bs => State.hbmWrites (s.hbmWrite dom pa b) dom (pa + 1) bs

/-- Discarding a domain's keys: what was written under them is lost, its collection region ceases, its granules
become untagged, and its pages are orphaned (R244, R247). -/
def State.discard (s : State) (dom : Nat) : State :=
  { s with
    hbm := s.hbm.filter fun e => s.hbmDom.get e.1 ≠ some dom
    hbmDom := s.hbmDom.filter fun e => e.2 ≠ dom
    hbmHeld := s.hbmHeld.map fun (e : Nat × List HeldByte) => (e.1, e.2.filter fun v => v.dom ≠ some dom)
    domains := s.domains.put dom { live := false, epoch := (s.domain dom).epoch + 1 }
    regions := s.regions.del dom
    cascades := s.cascades.filter fun c => c.1 ≠ dom
    cores := s.cores.map fun (e : Nat × Core) => (e.1, { e.2 with tlb := e.2.tlb.filter fun t => t.dom ≠ dom })
    ldsTags := s.ldsTags.filter fun e => e.2 ≠ dom }

/-- Assigning a domain: the security engine generates its keys (R246). -/
def State.enkey (s : State) (dom : Nat) : State :=
  { s with domains := s.domains.put dom { live := true, epoch := (s.domain dom).epoch + 1 } }

/-! ### A wave and what it belongs to -/

/-- The block, grid and kernel of a wave. -/
structure WCtx where
  block : Block
  grid : Grid
  kern : Kernel
  deriving DecidableEq, Repr

def State.wctx (s : State) (w : Wave) : Option WCtx :=
  match s.blocks.get w.block with
  | none => none
  | some b =>
    match s.grids.get b.grid with
    | none => none
    | some g =>
      match s.kernels.get g.kernel with
      | none => none
      | some k => some ⟨b, g, k⟩

/-- The own domain of a context (R246). -/
def State.ownDom (s : State) (c : Nat) : Nat := (s.ctx c).desc.ownDomain.toNat

/-- A kernel has roles (R271). -/
def KernelDesc.hasRoles (k : KernelDesc) : Bool := decide (0 < k.copyWaves) || decide (0 < k.vectorWaves) || k.matrix

/-- Bytes of the allocation on one core: `.shared` rounded up to 4 KiB (R37, R410). -/
def KernelDesc.alloc (k : KernelDesc) : Nat := (k.shared + 4095) / 4096 * 4096

/-- Narrow-wave mode (R96). -/
def WCtx.narrow (x : WCtx) : Bool := x.kern.desc.level == 1

/-- What the decode checks depend on (R67). -/
def WCtx.decode (x : WCtx) (w : Wave) : DecodeCtx where
  levelTwo := x.kern.desc.level == 2
  role := some w.role
  regs := w.regs
  handler := w.hdep != 0
  barriers := x.kern.desc.barriers
  gridBarriers := x.kern.desc.gridBarriers
  ringMask := (List.range 8).foldl
    (fun m i => if (x.kern.desc.rings.getD i none).isSome then m ||| (1#8 <<< i) else m) 0
  ringRoles := (List.range 8).map fun i =>
    match x.kern.desc.rings.getD i none with
    | some r => (r.producer, r.consumer)
    | none => (.general, .general)

/-- Length of the text section. -/
def WCtx.textLen (x : WCtx) : Nat := x.kern.text.length

/-- A PC that an instruction or event may go to (R95). -/
def WCtx.pcOk (x : WCtx) (pc : Word) : Bool := decide (pc.toNat % 12 = 0) && decide (pc.toNat < x.textLen)

/-! ### Lanes -/

def Wave.lane (w : Wave) (l : Nat) : Lane := w.lanes.getD l { regs := [] }

def Wave.updLane (w : Wave) (l : Nat) (f : Lane → Lane) : Wave :=
  { w with lanes := w.lanes.modify l f }

/-- Lanes that are live and not parked (R94). -/
def Wave.runnable (w : Wave) : Mask := w.live &&& ~~~w.park

def Wave.age (w : Wave) (l : Nat) : Word := (w.lane l).age

/-- `%sgage`: the largest age among runnable lanes (R103). -/
def Wave.sgage (w : Wave) : Word :=
  (lanesOf w.runnable).foldl (fun m l => if m < w.age l then w.age l else m) 0

/-- The oldest-starved lane: the lowest of the runnable lanes with the largest age (R103). -/
def Wave.oldest (w : Wave) : Option Nat := (lanesOf w.runnable).find? fun l => w.age l == w.sgage

/-- The lane-PC of bank 0 or 1. -/
def Wave.lpc (w : Wave) (bank l : Nat) : Word := if bank = 0 then (w.lane l).lpc0 else (w.lane l).lpc1

def Lane.setLpc (x : Lane) (bank : Nat) (pc : Word) : Lane :=
  if bank = 0 then { x with lpc0 := pc } else { x with lpc1 := pc }

/-- Lane-PCs of a bank set from a function, in the lanes of a mask. -/
def Wave.setLpcs (w : Wave) (bank : Nat) (m : Mask) (pc : Nat → Word) : Wave :=
  { w with lanes := w.lanes.mapIdx fun l x => if m.getLsbD l then x.setLpc bank (pc l) else x }

/-- The wave goes on at a PC: bank 0 follows at depth 0, bank 1 at depth 1 (R94). -/
def Wave.goto (w : Wave) (pc : Word) : Wave :=
  let w' := { w with pc := pc }
  if w.hdep = 0 then w'.setLpcs 0 w.run fun _ => pc
  else if w.hdep = 1 then w'.setLpcs 1 w.run fun _ => pc
  else w'

/-- The next instruction's PC. -/
def Wave.nextPc (w : Wave) : Word := w.pc + 12

/-- Ages after an instruction that retires at depth 0 (R103); the masks are those at its issue. -/
def Wave.aged (w : Wave) (lanes : List Lane) : List Lane :=
  lanes.mapIdx fun l x =>
    if !w.live.getLsbD l then x
    else if w.run.getLsbD l || w.park.getLsbD l then { x with age := 0 }
    else { x with age := if x.age = 0xffffffff then x.age else x.age + 1 }

/-- An instruction that the wave `w` issued retires, with the effects that `w'` holds: the accession count, the
ages, the serial quantum and the handler-issue count (R103, R105, R106, R396). -/
def Wave.retire (w w' : Wave) : Wave :=
  { w' with
    accn := w'.accn + 1
    lanes := if w.hdep = 0 then w.aged w'.lanes else w'.lanes
    quantum := if w.hdep = 0 && w.serial then w'.quantum - 1 else w'.quantum
    handlerIssues := if w.hdep ≠ 0 then w'.handlerIssues + 1 else w'.handlerIssues }

/-- The lanes of RUN in which the guard holds (R48). -/
def Wave.guard (w : Wave) (h : Head) : Mask :=
  maskOf fun l =>
    w.run.getLsbD l && ((h.pred == 0 || (w.lane l).q.getLsbD h.pred.toNat) != h.neg)

/-! ### Counters (R173) -/

/-- Stores counted: ST and ARRINIT; an ATOM that waits behind them counts as a load. -/
def Wave.storeCount (w : Wave) : Nat := (w.stores.filter fun p => p.atom.isNone).length
def Wave.copyCount (w : Wave) : Nat := w.copies.length
def Wave.tagCount (w : Wave) (t : Nat) : Nat := (w.copies.filter fun c => c.tag == t).length

/-- What an entry of the wave's stores still has to reach: the lane, none for the whole wave, and the first byte and
length. -/
def PendStore.targets (p : PendStore) : List (Option Nat × Nat × Nat) :=
  (p.writes.mapIdx fun i q => (p.lanes[i]?, q.1, q.2.length)) ++
  match p.atom with
  | none => []
  | some a => a.parts.map fun t => (some t.1, t.2.1, a.bytes)

/-- Every counter is 0. -/
def Wave.drained (w : Wave) : Bool := w.loads.isEmpty && w.stores.isEmpty && w.copies.isEmpty && w.tiles.isEmpty

/-! ### Window addresses (R167 to R170) -/

/-- A byte that a window address names. -/
inductive Loc where
  | spill (off : Nat)
  | lds (a : Nat)
  deriving DecidableEq, Repr

/-- Windows an instruction accepts: spill, block, die, device (R168). -/
structure Windows where
  spill : Bool := false
  block : Bool := true
  die : Bool := true
  device : Bool := true
  deriving DecidableEq, Repr

/-- Device address of an offset in the allocation of a partner. -/
def Block.allocAddr (b : Block) (partner off : Nat) : Nat :=
  devAddr b.die (b.cores.getD partner 0) (((b.alloc.getD partner []).getD (off / 4096) 0) * 4096 + off % 4096)

/-- The window rules of Table 9.1 for `n` bytes, first check of R168, for an agent of a block on a die. -/
def windowLoc (die : Nat) (b : Block) (k : KernelDesc) (a : Word) (n : Nat) : Option Loc :=
  let v := a.toNat
  let off := v % 0x400000
  match v / 0x40000000 with
  | 0 => if v % 0x40000000 + n ≤ k.spill then some (.spill (v % 0x40000000)) else none
  | 1 =>
    if v / 0x2000000 % 32 = 0 && decide (v / 0x400000 % 8 < b.span) && decide (off + n ≤ k.alloc) then
      some (.lds (b.allocAddr (v / 0x400000 % 8) off))
    else none
  | 2 =>
    if v / 0x10000000 % 4 = 0 && decide (v / 0x400000 % 64 ≤ 47) && decide (off + n ≤ 0x300000) then
      some (.lds (devAddr die (v / 0x400000 % 64) off))
    else none
  | _ =>
    if decide (v / 0x400000 % 64 ≤ 47) && decide (off + n ≤ 0x300000) then
      some (.lds (devAddr (v / 0x10000000 % 4) (v / 0x400000 % 64) off))
    else none

/-- The window of an address is one that is accepted. -/
def Windows.accepts (ws : Windows) (a : Word) : Bool :=
  match a.toNat / 0x40000000 with
  | 0 => ws.spill
  | 1 => ws.block
  | 2 => ws.die
  | _ => ws.device

/-- The three checks of R168, in order. -/
def checkWindow (w : Wave) (x : WCtx) (ws : Windows) (a : Word) (n align : Nat) : Except Cause Loc :=
  match windowLoc w.die x.block x.kern.desc a n with
  | none => .error .windowBounds
  | some loc =>
    if !ws.accepts a then .error .windowKind
    else if a.toNat % align ≠ 0 then .error .misaligned
    else .ok loc

/-- Block offset of the n-th byte of a run that starts at a window address: in the block window the granule map
may scatter the bytes of a run over 4 KiB granules (R410). -/
def windowByte (w : Wave) (x : WCtx) (a : Word) (i : Nat) : Loc :=
  (windowLoc w.die x.block x.kern.desc (a + BitVec.ofNat 32 i) 1).getD (.lds 0)

/-- The domain that a wave's accesses carry (R248). -/
def State.waveDom (s : State) (x : WCtx) : Nat := s.ownDom x.grid.ctx

/-- A byte of a lane's spill stack, as the lane's own accesses reach it: they carry its context's own domain (R170,
R248). -/
def State.spillRead (s : State) (dom : Nat) (w : Wave) (l off : Nat) : Byte := s.coreRead dom (w.spillAddr l off)

def State.spillWrites (s : State) (dom : Nat) (w : Wave) (l off : Nat) : List Byte → State
  | [] => s
  | b :: bs => State.spillWrites (s.coreWrite dom (w.spillAddr l off) b) dom w l (off + 1) bs

/-! ### Translation (R174, R182, R239 to R242, R383) -/

/-- One level of the walk: index bits start at `lo`, `bits` of them; a leaf here maps `page` bytes, 0 where a leaf is
malformed; `next` is the size of the next table, 0 where a table entry is malformed (Table 14.1). -/
structure Level where
  lo : Nat
  bits : Nat
  page : Nat
  next : Nat
  deriving DecidableEq, Repr

def walkLevels : List Level :=
  [⟨48, 9, 0, 0x1000⟩, ⟨39, 9, 0, 0x2000⟩, ⟨29, 10, 0x20000000, 0x800⟩, ⟨21, 8, 0x200000, 0x100⟩, ⟨16, 5, 0x10000, 0⟩]

/-- A context may use a domain: its own, or one attached, with keys (Table 14.3). -/
def State.domOk (s : State) (c dom : Nat) : Bool :=
  (decide (dom = (s.ctx c).desc.ownDomain.toNat) || (s.ctx c).desc.shared.any fun d => d != 0xffff && d.toNat == dom) &&
  (s.domain dom).live

/-- What a valid leaf gives for an address, or the reason that ends the walk (R240, R241, R383). -/
def leafEntry (s : State) (c va : Nat) (lv : Level) (e : Nat) : Except Nat TlbEntry :=
  let pa := e / 65536 % 2 ^ 36 * 65536
  let sharing := e / 64 % 4
  if lv.page = 0 || decide (pa % lv.page ≠ 0) || decide (sharing = 3) ||
      (decide (pa / 2 ^ 51 = 1) && (decide (pa / 2 ^ 50 % 2 = 1) || decide (sharing ≠ 2))) then .error 3
  else if !s.domOk c (e / 2 ^ 52 % 1024) then .error 4
  else
    .ok { ctx := c, va := va / lv.page * lv.page, size := lv.page, pa := pa, dom := e / 2 ^ 52 % 1024,
          r := e / 4 % 2 = 1, w := e / 8 % 2 = 1, sharing := sharing, kind := e / 16 % 4 }

/-- The table that a table entry of a level names, where the entry is well formed (R240, Table 14.3). -/
def tableOf (lv : Level) (e : Nat) : Option Nat :=
  let next := e / 256 % 2 ^ 44 * 256
  if lv.next = 0 || decide (next % lv.next ≠ 0) || decide (e / 2 ^ 52 % 1024 ≠ 0) || decide (e / 4 % 64 ≠ 0) then none
  else some next

/-- The bytes of an entry as the walker reads them, where an uncorrectable error damages one of the bytes of the path: the
entry's, if its number is below 8 (R249). -/
def entryRead (n : Nat) (err : Option Nat) (bs : List Byte) : List Byte :=
  match err with
  | some i => bs.set i (Config.damagedByte n i)
  | none => bs

/-- The walk from a table at a level (R239, R241). The tables are the supervisor's, read under domain 0. Every entry is checked
in the order of Table 14.3, on the bits that were read: that it is valid, well formed, of a domain in use, and without an
error; `err` counts the bytes of the entries read up to the damaged one. -/
def walkFrom (s : State) (c va : Nat) : Option Nat → List Level → Nat → Except Nat TlbEntry
  | _, [], _ => .error 3
  | err, lv :: rest, table =>
    let hurt := err.any fun i => decide (i < 8)
    let e := leNat (entryRead s.errors err (s.hbmReads 0 (table + 8 * (va / 2 ^ lv.lo % 2 ^ lv.bits)) 8))
    if e % 2 = 0 then .error 2
    else if e / 2 % 2 = 1 then
      match leafEntry s c va lv e with
      | .error r => .error r
      | .ok t => if hurt then .error 5 else .ok t
    else
      match tableOf lv e with
      | none => .error 3
      | some next => if hurt then .error 5 else walkFrom s c va (err.map fun i => i - 8) rest next

/-- The whole walk of an address of a context in which an error may be met; the error is the reason of Table 14.3. -/
def State.walkBy (s : State) (c : Nat) (va : DWord) (err : Option Nat) : Except Nat TlbEntry :=
  if va.toNat / 2 ^ 57 ≠ 0 then .error 1
  else walkFrom s c va.toNat err walkLevels (s.ctx c).desc.tableRoot.toNat

/-- The walk where no error is met. -/
def State.walk (s : State) (c : Nat) (va : DWord) : Except Nat TlbEntry := s.walkBy c va none

/-- Physical addresses of the entries that a walk reads, from a table at a level on. -/
def pathFrom (s : State) (va : Nat) : List Level → Nat → List Nat
  | [], _ => []
  | lv :: rest, table =>
    let a := table + 8 * (va / 2 ^ lv.lo % 2 ^ lv.bits)
    let e := leNat (s.hbmReads 0 a 8)
    match if e % 2 = 1 && e / 2 % 2 = 0 then tableOf lv e else none with
    | some next => a :: pathFrom s va rest next
    | none => [a]

/-- Physical addresses of the entries on the walk of an address of a context; the last is its leaf. -/
def State.pathOf (s : State) (c : Nat) (va : DWord) : List Nat :=
  pathFrom s va.toNat walkLevels (s.ctx c).desc.tableRoot.toNat

/-- The walk reads the entry that an error has damaged. -/
def State.walkMeets (s : State) (c : Nat) (va : DWord) (err : Option Nat) : Bool :=
  decide (va.toNat / 2 ^ 57 = 0) && err.any fun i => decide (i / 8 < (s.pathOf c va).length)

/-- Bits of a byte of an entry that say what it maps: in the first byte, that it is valid and a leaf; elsewhere all of them.
The permissions, the kind and the sharing are not among them. -/
def mapsBits (i : Nat) : Byte := if i = 0 then 0x03 else 0xff

/-- HBM's count of writes at the last change of what an entry maps, from what a byte of it holds and has held. -/
def changedAt (m : Byte) (now : Option Byte) : List HeldByte → Nat
  | [] => 0
  | v :: vs => if (now.getD 0) &&& m = (v.byte.getD 0) &&& m then changedAt m v.byte vs else v.until_ + 1

/-- HBM's count of writes from which on the page of an address has been mapped as it is: the last change of an entry on
its walk that bears on what is mapped (R214; DEDUCED, log entry 21). -/
def State.mappedAt (s : State) (c : Nat) (va : DWord) : Nat :=
  (s.pathOf c va).foldl (fun m a => (List.range 8).foldl (fun m i =>
    max m (changedAt (mapsBits i) (s.heldNow (a + i)).byte (s.heldBefore (a + i)))) m) 0

/-- The page permits the access (R182, Table 14.2). -/
def TlbEntry.permits (e : TlbEntry) : Need → Bool
  | .read => e.r && decide (e.kind ≠ 3)
  | .write => e.w && decide (e.kind = 0)
  | .readWrite => e.r && e.w && decide (e.kind = 0)
  | .slot => e.r && decide (e.kind = 1)
  | .root => e.r && e.w && decide (e.kind = 1)

/-- The physical address of an address in a page. -/
def TlbEntry.phys (e : TlbEntry) (va : Nat) : Nat := e.pa + (va - e.va)

/-- The physical address names another device (R383). -/
def State.isPeer (s : State) (pa : Nat) : Bool := decide (pa / 2 ^ 51 % 2 = 1) && decide (pa / 2 ^ 40 % 1024 ≠ s.deviceNo)

/-- The device number in a peer's physical address (R383). -/
def peerNo (pa : Nat) : Nat := pa / 2 ^ 40 % 1024

/-- The link carries load-store traffic and remote notifies (R385). -/
def Link.carrying (l : Link) : Bool := l.state == .authenticated || l.state == .degraded

/-- Some UALink port carries load-store traffic. The specification gives the ports and no map of the fabric beyond them:
any such port lies on a path to every peer (DEDUCED, log entry 35). -/
def State.peerPath (s : State) : Bool := s.links.any fun e => decide (e.1 < 18) && e.2.carrying

/-- A transfer to a physical address waits: it is a peer's, no path leads there, and the wait has not come to its end
(R383, R385). -/
def State.noPath (s : State) (lost : List Nat) (pa : Nat) : Bool := s.isPeer pa && !s.peerPath && !lost.contains (peerNo pa)

/-- The address in the device's own HBM: a leaf that names the device's own number reaches it (R383). -/
def localPa (pa : Nat) : Nat := if pa / 2 ^ 51 % 2 = 1 then pa % 2 ^ 40 else pa

/-- The page permits the access at a physical address: CROOTCAS only in the root area of the leaf's domain, where the
domain has a collection region; a leaf that names the device's own number reaches the same bytes (R250, R383). -/
def State.admits (s : State) (e : TlbEntry) (pa : Nat) (need : Need) : Bool :=
  e.permits need && match need, s.regions.get e.dom with
    | .root, some r => !s.isPeer pa && decide (r.rootBase ≤ localPa pa) && decide (localPa pa < r.rootBase + r.rootLen)
    | _, _ => true

/-- What translating an address gives at issue. -/
inductive Tr where
  | ok (pa dom sharing : Nat)
  | miss (page : Nat)
  | bad (c : Cause) (reason : Nat)
  deriving DecidableEq, Repr

/-- Translation in a core's translation cache (R174). -/
def State.translate (s : State) (die core c : Nat) (va : DWord) (need : Need) : Tr :=
  if va.toNat / 2 ^ 57 ≠ 0 then .bad .pageFault 1
  else
    match (s.core die core).tlb.find? fun e => e.ctx == c && decide (e.va ≤ va.toNat) && decide (va.toNat < e.va + e.size) with
    | none => .miss (va.toNat / 65536)
    | some e => if s.admits e (e.phys va.toNat) need then .ok (e.phys va.toNat) e.dom e.sharing else .bad .permission 0

/-- Translation by walking at once, as an engine translates (R174, R190), and as a fault is judged again when it is
resolved. -/
def State.translateNow (s : State) (c : Nat) (va : DWord) (need : Need) : Tr :=
  match s.walk c va with
  | .error r => .bad .pageFault r
  | .ok e => if s.admits e (e.phys va.toNat) need then .ok (e.phys va.toNat) e.dom e.sharing else .bad .permission 0

/-- A walk joined, or begun (R242). -/
def joinWalk (ws : List Walk) (c page : Nat) (r : WalkReq) : List Walk :=
  if ws.any fun w => w.ctx == c && w.page == page then
    ws.map fun w =>
      if w.ctx == c && w.page == page && !(w.reqs.any fun q => q.wave == r.wave) then { w with reqs := w.reqs ++ [r] } else w
  else ws ++ [⟨c, page, [r]⟩]

/-- A page fault stops issue on the core until Curator has resolved it; the hub signals it (R174). -/
def State.pageFault (s : State) (die : Nat) (p : PageStall) : State :=
  ((s.updCore die p.req.core fun k => { k with stall := k.stall ++ [p] })).report
    (.pageFault die p.req.core p.ctx p.va p.reason)

/-! ### Fault records and logs (R365 to R370) -/

/-- A fault record's 64 bytes (Table 22.4). -/
def FaultRec.bytes (r : FaultRec) : List Byte :=
  leBytes 2 r.sequence.toNat ++ leBytes 2 r.cause.code.toNat ++ leBytes 8 0 ++ leBytes 2 r.ctx ++
  leBytes 1 r.flags.toNat ++ leBytes 1 r.die ++ leBytes 1 r.core ++ leBytes 1 r.slot ++ leBytes 2 r.waveid ++
  leBytes 4 r.blockid ++ leBytes 4 r.gridid ++ leBytes 4 r.arg.toNat ++ leBytes 4 r.interval.toNat ++
  leBytes 4 r.pc.toNat ++ leBytes 8 r.lanes.toNat ++ leBytes 8 r.address.toNat ++ leBytes 8 r.accn.toNat

/-- Bytes of records that one folio holds (Table 24.2). -/
def folioRoom : Nat := 65456

/-- The archive queue was brought up at start (Table 24.4). -/
def State.archiveUp (s : State) : Bool := s.startRec.steps.getD 7 0 != 4

/-- A closed folio enters the staging ring of 64, in the place of the oldest unsent one when it is full; without an
archive queue it is only counted (R404). -/
def State.closeFolio (s : State) (c : Nat) (sealing : Bool) : State :=
  match (s.ctx c).debug with
  | none => s
  | some r =>
    if r.folio.isEmpty && !sealing then s
    else if !s.archiveUp then
      s.updCtx c fun x =>
        { x with debug := some { r with folio := [], sequence := r.sequence + 1, overwritten := r.overwritten + 1 } }
    else
      let full := decide (64 ≤ s.staging.length)
      let lost := if full then 1 else 0
      let f : Folio := ⟨c, r.traceId, r.key, r.sequence, r.overwritten + lost, sealing, r.folio⟩
      let s := { s with staging := (if full then s.staging.drop 1 else s.staging) ++ [f] }
      s.updCtx c fun x =>
        { x with debug := some { r with folio := [], sequence := r.sequence + 1, overwritten := r.overwritten + lost } }

/-- How many bytes the context's open folio holds; none without a debug right. -/
def State.folioBytes (s : State) (c : Nat) : Nat := ((s.ctx c).debug).elim 0 fun r => r.folio.length

/-- The context's open folio is closed where the condition holds. -/
def State.closeWhen (s : State) (c : Nat) (b : Bool) : State := if b then s.closeFolio c false else s

/-- A trace record enters the context's open folio, which closes once it is full; records never straddle two folios (R403). No record is made
without a debug right, or for a sealed context (R378). -/
def State.traceRecord (s : State) (c : Nat) (bs : List Byte) : State :=
  if ((s.ctx c).debug).isNone || (s.ctx c).desc.flags.getLsbD 2 then s
  else
    let s := s.closeWhen c (decide (folioRoom < s.folioBytes c + bs.length))
    let s := s.updCtx c fun x => { x with debug := (x.debug).map fun r => { r with folio := r.folio ++ bs } }
    s.closeWhen c (decide (folioRoom ≤ s.folioBytes c))

/-- The record appended to the context's fault log with the next sequence number, and entered in the trace (R370, R401).
The log holds 256 records: the oldest unread one gives way. The answer is the record with its number. -/
def State.logRecord (s : State) (r : FaultRec) : FaultRec × State :=
  let x := s.ctx r.ctx
  let r := { r with sequence := x.sequence, flags := if x.edited then r.flags ||| 4 else r.flags }
  let s := s.updCtx r.ctx fun x =>
    { x with log := (x.log ++ [r]).drop (x.log.length - 255), sequence := x.sequence + 1 }
  (r, s.traceRecord r.ctx ([0, 2] ++ leBytes 2 64 ++ r.bytes))

/-- A notice: it stops no wave; with 256 records unread it only adds to the lost count (R365, R370). -/
def State.notice (s : State) (r : FaultRec) : State :=
  let s := s.report (.notice r.cause r.arg r.ctx)
  if decide ((s.ctx r.ctx).log.length < 256) then (s.logRecord r).2
  else s.updCtx r.ctx fun x => { x with lost := x.lost + 1 }

/-- The service to which a cause is delegated: TRAP and BREAK go to the kernel trap handler where DLG_TRAP is set (R366). -/
def serviceOf (d : CtxDesc) (c : Cause) : BitVec 16 :=
  match c with
  | .trap | .brk => if d.flags.getLsbD 0 then d.trapHandler else 0
  | _ => 0

/-- The checkpoint interval of a core for a context: 0 outside replay mode (R368, R397, R401). -/
def State.intervalFor (s : State) (die core c : Nat) : Word :=
  match (s.core die core).replay with
  | some r => if r.ctx = c then r.interval else 0
  | none => 0

/-- The record of a cause or a notice at a wave (Table 22.4). -/
def State.waveRecord (s : State) (w : Wave) (x : WCtx) (c : Cause) (lanes : Mask) (addr : DWord) (arg : Word) : FaultRec where
  cause := c
  ctx := x.grid.ctx
  flags := if w.hdep = 0 then 0 else 1
  die := w.die
  core := w.core
  slot := w.slot
  waveid := w.waveid
  blockid := x.block.num
  gridid := x.grid.num.toNat
  arg := arg
  interval := s.intervalFor w.die w.core x.grid.ctx
  pc := w.pc
  lanes := lanes
  address := addr
  accn := w.accn
  service := serviceOf (s.ctx x.grid.ctx).desc c

/-- Where a wave stands as it issues an instruction. -/
def Wave.issuing (w : Wave) : Issued := ⟨w.pc, w.accn, w.hdep != 0⟩

/-- The record of a notice about an instruction that a wave has issued earlier: it is imprecise, and names the instruction as
the wave stood when it issued it (R368). -/
def State.lateRecord (s : State) (w : Wave) (x : WCtx) (i : Issued) (c : Cause) (lanes : Mask) (addr : DWord) (arg : Word) :
    FaultRec :=
  { s.waveRecord { w with pc := i.pc, accn := i.accn } x c lanes addr arg with flags := if i.handler then 3 else 2 }

/-- A wave that has raised a cause; it ends a single step, which has issued its instruction (R236). -/
def Wave.faultedWith (w : Wave) (r : FaultRec) : Wave :=
  { w with
    phase := .faulted
    fault := some r
    halted := w.halted || w.stepping
    haltReq := w.haltReq || w.stepping
    stepping := false }

/-- Taking a cause (R367 to R370): the fault record is made and logged, the wave is faulted and keeps the record,
and its block is faulted, a draining or flushing one being saved instead (R315). No lane has taken any effect, the PC
stays at the instruction and the accession count does not advance (R68). -/
def State.deliver (s : State) (key : Nat) (w : Wave) (x : WCtx) (c : Cause) (lanes : Mask) (addr : DWord) (arg : Word) :
    State :=
  let p := s.logRecord (s.waveRecord w x c lanes addr arg)
  (p.2.setWave key (w.faultedWith p.1)).updBlock w.block fun b =>
    { b with phase := match b.phase with
      | .draining | .saving | .flushing => .saving
      | _ => .faulted }

/-- Of causes that lanes raise, the one to deliver: highest rank; its lanes; its lowest lane's address (R367). -/
def worstCause (cs : List (Nat × Cause × DWord)) : Option (Cause × Mask × DWord) :=
  match cs with
  | [] => none
  | first :: rest =>
    let c := (rest.foldl (fun m p => if p.2.1.order < m.order then p.2.1 else m) first.2.1)
    let hit := cs.filter fun p => p.2.1 == c
    some (c, maskOf fun l => hit.any fun p => p.1 == l, (hit.head?.map fun p => p.2.2).getD 0)

/-! ### Steering events and the return from them (R97, R98, R120) -/

/-- Causes of steering events (Table 5.2). -/
inductive Event where
  | split | empty | nested | safeguard
  deriving DecidableEq, Repr

def Event.code : Event → BitVec 3
  | .split => 1 | .empty => 2 | .nested => 3 | .safeguard => 4

/-- `%evtm` of an event (Table 5.2). -/
def Event.lanes (e : Event) (w : Wave) : Mask :=
  match e with
  | .split | .nested => w.run
  | .empty | .safeguard => w.runnable

/-- The group of lanes of a mask that stand at the lowest PC of a bank, and that PC. -/
def Wave.lowestGroup (w : Wave) (bank : Nat) (m : Mask) : Option (Mask × Word) :=
  match lanesOf m with
  | [] => none
  | l :: ls =>
    let pc := ls.foldl (fun p i => if w.lpc bank i < p then w.lpc bank i else p) (w.lpc bank l)
    some (maskOf fun i => m.getLsbD i && w.lpc bank i == pc, pc)

/-- The registers that entering an event at depth d writes, up to the choice of what runs next (R98). -/
def Wave.eventRegs (w : Wave) (epc : Word) (next : Nat → Word) : Wave :=
  let w1 := { w.setLpcs w.hdep.toNat w.run next with passBp := false }
  if w.hdep = 0 then { w1 with hrun1 := w.run, hpc1 := epc, handlerIssues := 0, serial := false }
  else { w1 with keepMask := w.evtm, keepCause := w.hcause, hrun2 := w.run, hpc2 := epc }

/-- Entering an event (R98): to the handler at `%hvec`, or by the default policy where there is none; no event, and
PC_RANGE, where the place to go is bad. -/
def Wave.enterEvent (w : Wave) (x : WCtx) (e : Event) (epc : Word) (next : Nat → Word) : Option Wave :=
  let w1 := w.eventRegs epc next
  if w.hvec = 0xffffffff then
    match w1.lowestGroup 0 w.runnable with
    | none => none
    | some (g, pc) =>
      if x.pcOk pc then some { w1 with run := g, pc := pc, hdep := 0, hcause := 0, evtm := 0 } else none
  else if x.pcOk w.hvec then
    some ({ w1 with evtm := e.lanes w, hcause := e.code, hdep := w.hdep + 1, run := e.lanes w }.goto w.hvec)
  else none

/-- Candidate lanes of HRET and the handler assists (R120). -/
def Wave.candidates (w : Wave) : Mask := if w.hdep = 1 then w.runnable else w.hrun2 &&& w.live

/-- The return from handler mode with candidate lanes that are not empty (R120): the wave, or none where the PC to go
to is bad. -/
def Wave.handlerReturn (w : Wave) (x : WCtx) (cand : Mask) : Option Wave :=
  match lowestLane cand with
  | none => none
  | some l0 =>
    let bank := (w.hdep - 1).toNat
    let pc := w.lpc bank l0
    if x.pcOk pc then
      some { w with
        run := maskOf fun l => cand.getLsbD l && w.lpc bank l == pc
        pc := pc
        hdep := w.hdep - 1
        evtm := if w.hdep = 2 then w.keepMask else 0
        hcause := if w.hdep = 2 then w.keepCause else 0 }
    else none

/-- Serial steering starts (R105): the oldest-starved lane's group runs for a quantum. None where its PC is bad, or
no lane is runnable. -/
def Wave.startSerial (w : Wave) (x : WCtx) : Option Wave :=
  match w.oldest with
  | none => none
  | some c =>
    if x.pcOk (w.lpc 0 c) then
      some { w with
        run := maskOf fun l => w.runnable.getLsbD l && w.lpc 0 l == w.lpc 0 c
        pc := w.lpc 0 c
        serial := true
        quantum := w.sgq
        chosen := c
        sgcnt := if w.sgcnt = 0xffffffff then w.sgcnt else w.sgcnt + 1
        hdep := 0
        hcause := 0
        passBp := false }
    else none

/-- The quantum of serial steering has ended (R105). -/
def Wave.quantumOver (w : Wave) : Bool :=
  w.serial && w.hdep == 0 && (w.quantum == 0 || !w.run.getLsbD w.chosen || w.run == 0)

/-! ### Issue -/

/-- What the meaning of a wave's instruction comes to. -/
inductive Res where
  /-- its effects are in the state; the wave retires it and goes to the next instruction -/
  | done (s : State)
  /-- its effects, its retirement and the next PC are all in the state -/
  | over (s : State)
  /-- it waits at issue, and tries again -/
  | stall (s : State)
  /-- it has begun, and the wave waits: an event of the table ends the wait and retires it -/
  | wait (s : State)
  /-- it raises a cause: no effect -/
  | cause (c : Cause) (lanes : Mask) (addr : DWord) (arg : Word)
  /-- it raises a cause in a state that its issue alone has changed (R308) -/
  | causeIn (s : State) (c : Cause) (lanes : Mask) (addr : DWord) (arg : Word)

/-- A lane meets a page that does not permit the access (R182); where its translation is not held, the walk that it needs
is judged. -/
def State.denied (s : State) (w : Wave) (c : Nat) (va : DWord) (need : Need) : Bool :=
  match s.translate w.die w.core c va need with
  | .bad .permission _ => true
  | .miss _ => match s.translateNow c va need with
    | .bad .permission _ => true
    | _ => false
  | _ => false

/-- The translations of an instruction's lanes at issue: all of them, or PERMISSION, or the state in which the wave waits
for walks, and after them for Curator (R174, R182, R241, R245). -/
def State.translateAll (s : State) (w : Wave) (c : Nat) (vas : List (Nat × DWord)) (need : Need) :
    Except Res (List (Nat × Nat × Nat)) :=
  let rs := vas.map fun p => (p.1, p.2, s.translate w.die w.core c p.2 need)
  let req : WalkReq := ⟨w.core, s.cur, vas, need⟩
  let bad := fun (cs : Cause) => rs.find? fun r => match r.2.2 with
    | .bad k _ => k == cs
    | _ => false
  let pages := rs.filterMap fun r => match r.2.2 with
    | .miss p => some p
    | _ => none
  match bad .permission with
  | some _ =>
    let hit := vas.filter fun p => s.denied w c p.2 need
    .error (.cause .permission (maskOf fun l => hit.any fun p => p.1 == l) ((hit.head?.map fun p => p.2).getD 0) 0)
  | none =>
    if !pages.isEmpty then
      .error (.stall (s.updDie w.die fun d => { d with walks := pages.foldl (fun ws p => joinWalk ws c p req) d.walks }))
    else
      match bad .pageFault with
      | some r => .error (.stall (s.pageFault w.die ⟨c, req, 1, r.2.1⟩))
      | none =>
        .ok (rs.filterMap fun r => match r.2.2 with
          | .ok pa dom _ => some (r.1, pa, dom)
          | _ => none)

/-- Registers that a field names: lane registers, or uniform registers. -/
def fieldRegs (r : FieldRule) (f : BitVec 20) : List Nat × List Nat :=
  if r.opt && f == 0 then ([], [])
  else
    match Operand.dec f with
    | .lane n => ((List.range r.lw).map fun i => n.toNat + i, [])
    | .uni n => ([], (List.range r.uw).map fun i => n.toNat + i)
    | _ => ([], [])

/-- Registers that an instruction word names. -/
def wordRegs (o : Op) (r : Raw) : List Nat × List Nat :=
  let fr := fieldRules o r.m
  let d := fieldRegs fr.1 r.d
  let a := fieldRegs fr.2.1 r.a
  let b := fieldRegs fr.2.2 r.b
  (d.1 ++ a.1 ++ b.1, d.2 ++ a.2 ++ b.2)

/-- Registers that an earlier instruction has yet to write (R91). -/
def Wave.owed (w : Wave) : List Nat × List Nat :=
  let ws := (w.loads.map fun p => p.writes).flatten
  (ws.filterMap fun x => match x with
    | .lane _ r _ => some r
    | .uni _ _ => none,
   (ws.filterMap fun x => match x with
    | .uni r _ => some r
    | .lane _ _ _ => none))

/-- Instructions that access memory, or hand accesses to an engine. -/
def opAccesses : Op → Bool
  | .ld | .st | .atom | .cpy | .cpyo | .bulk | .arrinit | .arrwait | .arrtest | .crpoll | .crsleep
  | .clook | .cfetch | .cref | .cunref | .crootcas | .ccopyout | .dlaunch | .nodeput | .qclaim | .qnotify => true
  | _ => false

/-- Lanes whose later accesses wait for an acquiring ATOM (R177, R210). -/
def Wave.acquires (w : Wave) : Mask := w.loads.foldl (fun m p => m ||| p.acq) 0

/-- The instruction waits at issue: for the scoreboard (R91), or as a lane's access after an acquiring ATOM (R177). -/
def Wave.interlocked (w : Wave) (o : Op) (r : Raw) : Bool :=
  let named := wordRegs o r
  let owed := w.owed
  named.1.any (fun n => owed.1.contains n) || named.2.any (fun n => owed.2.contains n) ||
  opAccesses o && w.acquires &&& w.guard r.head ≠ 0

/-- The wave as it is after a meaning has put its effects into the state. -/
def State.curWave (s : State) (w : Wave) : Wave := (s.waves.get s.cur).getD w

/-- The block of a wave is exposed where it is exposed in another state: its instruction was issued, whatever came of it
(R308). -/
def State.exposedAs (s t : State) (w : Wave) : State :=
  match t.blocks.get w.block with
  | some b => if b.exposed then s.updBlock w.block fun k => { k with exposed := true } else s
  | none => s

/-- The end of an instruction without a branch (R95, R103, R396): the next PC is judged, and the wave retires it. -/
def State.finish (s : State) (key : Nat) (w : Wave) (x : WCtx) : Res → State
  | .over s' => s'
  | .stall s' => s'
  | .wait s' =>
    if decide (w.nextPc.toNat < x.textLen) then s' else (s.exposedAs s' w).deliver key w x .pcRange w.run 0 0
  | .cause c lanes addr arg => s.deliver key w x c lanes addr arg
  | .causeIn s' c lanes addr arg => s'.deliver key w x c lanes addr arg
  | .done s' =>
    if decide (w.nextPc.toNat < x.textLen) then
      s'.updWave key fun v => (w.retire v).goto w.nextPc
    else (s.exposedAs s' w).deliver key w x .pcRange w.run 0 0

/-- A wave that begins to issue is active (Table 5.4). -/
def Wave.begun (w : Wave) : Wave := { w with phase := if w.phase = .starting then .active else w.phase }

/-- The wave has begun to issue (Tables 5.4, 17.1). -/
def State.begun (s : State) (key : Nat) (w : Wave) : State :=
  (s.updWave key Wave.begun).updBlock w.block fun b =>
    { b with phase := match b.phase with
      | .admitted | .resumed => .running
      | p => p }

/-- An instruction of the current wave: the decode checks (R67), the scoreboard (R91), its meaning, its end. -/
def issue (i : Instr) (s : State) (body : State → Wave → WCtx → Res) : Host.Outcome State Fault Refusal :=
  match s.waves.get s.cur with
  | none => .fault .noWave
  | some w0 =>
    let s := s.begun s.cur w0
    let w := w0.begun
    match s.wctx w, i.toRaw with
    | some x, some r =>
      match decodeFault (x.decode w) r, Op.ofCode r.op with
      | some c, _ => .next (s.deliver s.cur w x c w.run 0 0)
      | none, some o =>
        if w.interlocked o r then .next s
        else .next (s.finish s.cur w x (body s w x))
      | none, none => .next s
    | _, _ => .fault .noWave

end Sys2Proof.Machine
end

