-- ==== Sys2Proof/Machine/Operands.lean ====
section
/-! DEFINITION. Operand forms: reading sources, special registers and predicates, writing destinations, and the
effects of writing a special register. -/

namespace Sys2Proof.Machine

/-! ### Special registers (R58, Table 3.3) -/

/-- `%cnt` (Table 3.3). -/
def Wave.cnt (w : Wave) : Nat :=
  w.loads.length + 64 * w.storeCount + 4096 * w.copyCount + 262144 * w.tiles.length

/-- Role codes (R40). -/
def roleCode : Role → Nat
  | .general => 0
  | .copy => 1
  | .matrix => 2
  | .vector => 3

/-- `%nthreads` (R270, R271, R286, R288). -/
def WCtx.nthreads (x : WCtx) : Nat :=
  let k := x.kern.desc
  match k.reserve with
  | some r => r.1
  | none =>
    if k.hasRoles then
      x.block.span * (k.copyWaves * k.copyWidth + k.vectorWaves * k.vectorWidth + if k.matrix then 1 else 0)
    else if k.node.isSome then x.block.records.length
    else x.grid.threads

/-- The lane-PC bank that `%lpc` names: d − 1 at depth d, and bank 0 at depth 0 (R94, R99). -/
def Wave.lpcBank (w : Wave) : Nat := if w.hdep = 2 then 1 else 0

/-- The value that a special register or predicate holds for a lane, zero-extended (Table 3.3, R99, R132). -/
def specRead (w : Wave) (x : WCtx) (l : Nat) (n : BitVec 8) : DWord :=
  if n.toNat < 8 then (if n = 0 || (w.lane l).q.getLsbD n.toNat then 1 else 0)
  else
    match n.toNat with
    | 0x10 => BitVec.ofNat 64 l
    | 0x11 => BitVec.ofNat 64 w.waveid
    | 0x12 => BitVec.ofNat 64 x.block.num
    | 0x13 => x.grid.num.setWidth 64
    | 0x14 => BitVec.ofNat 64 w.core
    | 0x15 => BitVec.ofNat 64 w.die
    | 0x16 => BitVec.ofNat 64 w.width
    | 0x17 => BitVec.ofNat 64 x.nthreads
    | 0x20 => (w.lpc w.lpcBank l).setWidth 64
    | 0x21 => w.run
    | 0x22 => w.live
    | 0x23 => w.park
    | 0x24 => w.evtm
    | 0x25 => w.hcause.setWidth 64
    | 0x26 => w.hdep.setWidth 64
    | 0x27 => w.hvec.setWidth 64
    | 0x28 => w.hpc1.setWidth 64
    | 0x29 => w.hpc2.setWidth 64
    | 0x2a => w.hrun1
    | 0x2b => w.hrun2
    | 0x2c => w.sglim.setWidth 64
    | 0x2d => w.sgq.setWidth 64
    | 0x2e => w.sgcnt.setWidth 64
    | 0x2f => w.sgage.setWidth 64
    | 0x30 => w.fflags.setWidth 64
    | 0x31 => w.dither.setWidth 64
    | 0x32 => w.arrw.setWidth 64
    | 0x33 => w.accn
    | 0x34 => BitVec.ofNat 64 w.cnt
    | 0x35 => w.item.setWidth 64
    | 0x36 => BitVec.ofNat 64 (roleCode w.role)
    | _ => 0

/-- A 64-bit mask as narrow-wave mode takes it (R96). -/
def WCtx.maskIn (x : WCtx) (v : DWord) : Mask := if x.narrow then v &&& 0xffffffff else v

/-- A value brought to the nearest one of a range (R104). -/
def clampWord (lo hi : Nat) (v : Word) : Word := BitVec.ofNat 32 (max lo (min hi v.toNat))

/-- `%lpc` for a lane at depth 1 or 2: bank d − 1 (R99). -/
def Wave.writeLpc (w : Wave) (m : Mask) (f : Nat → Word) : Wave := w.setLpcs w.lpcBank m f

/-- `%runm` (R99): a write can only remove lanes; none is left raises STEER_EMPTY. -/
def Wave.writeRunm (w : Wave) (x : WCtx) (v : DWord) : Except Cause Wave :=
  if w.run &&& x.maskIn v = 0 then .error .steerEmpty else .ok { w with run := w.run &&& x.maskIn v }

/-- `%parkm` (R99). -/
def Wave.writeParkm (w : Wave) (x : WCtx) (v : DWord) : Wave := { w with park := x.maskIn v &&& w.live }

/-- `%hrun2` (R99). -/
def Wave.writeHrun2 (w : Wave) (x : WCtx) (v : DWord) : Wave := { w with hrun2 := x.maskIn v }

/-- `%sglim` (R104). -/
def Wave.writeSglim (w : Wave) (v : Word) : Wave := { w with sglim := clampWord 16 0xfffffffe v }

/-- `%sgq` (R104). -/
def Wave.writeSgq (w : Wave) (v : Word) : Wave := { w with sgq := clampWord 16 65536 v }

/-- `%dither` (R82). -/
def Wave.writeDither (w : Wave) (v : Word) : Wave := { w with dither := v.setWidth 6 }

/-- `%fflags` (R79). -/
def Wave.writeFflags (w : Wave) (v : Word) : Wave := { w with fflags := v.setWidth 5 }

/-- `%hvec` (R109, R133). -/
def Wave.writeHvec (w : Wave) (v : Word) : Wave := { w with hvec := v }

/-- The effect of writing a wave-valued special register (R99, R104, R132). -/
def Wave.writeSpec (w : Wave) (x : WCtx) (n : BitVec 8) (v : DWord) : Except Cause Wave :=
  match n.toNat with
  | 0x21 => w.writeRunm x v
  | 0x23 => .ok (w.writeParkm x v)
  | 0x27 => .ok (w.writeHvec (v.setWidth 32))
  | 0x28 => .ok { w with hpc1 := v.setWidth 32 }
  | 0x29 => .ok { w with hpc2 := v.setWidth 32 }
  | 0x2a => .ok { w with hrun1 := x.maskIn v }
  | 0x2b => .ok (w.writeHrun2 x v)
  | 0x2c => .ok (w.writeSglim (v.setWidth 32))
  | 0x2d => .ok (w.writeSgq (v.setWidth 32))
  | 0x30 => .ok (w.writeFflags (v.setWidth 32))
  | 0x31 => .ok (w.writeDither (v.setWidth 32))
  | 0x32 => .ok { w with arrw := v.setWidth 32 }
  | _ => .ok w

/-! ### Registers -/

def Wave.uni (w : Wave) (n : Nat) : DWord := w.k.getD n 0
def Wave.setUni (w : Wave) (n : Nat) (v : DWord) : Wave := { w with k := w.k.set n v }
def Lane.reg (x : Lane) (n : Nat) : Word := x.regs.getD n 0
def Lane.setReg (x : Lane) (n : Nat) (v : Word) : Lane := { x with regs := x.regs.set n v }

/-- A register, or the pair that it begins (R54). -/
def Lane.pair (x : Lane) (n : Nat) : DWord := x.reg (n + 1) ++ x.reg n

/-- How an operation reads its operands: one 32-bit value, a 64-bit one, or two 16-bit elements (R55, R123). -/
inductive Shape where
  | one | wide | packed
  deriving DecidableEq, Repr

/-- An immediate as an integer operation of a shape takes it (R55). -/
def immShape (sh : Shape) (v : BitVec 18) : DWord :=
  match sh with
  | .one => (v.signExtend 32).setWidth 64
  | .wide => v.signExtend 64
  | .packed => (v.setWidth 16 ++ v.setWidth 16 : BitVec 32).setWidth 64

/-- A source operand's value in a lane; immediates by the operation's own rule (R54, R55, R122). -/
def readWith (w : Wave) (x : WCtx) (wide : Bool) (imm : BitVec 18 → DWord) (l : Nat) : Operand → DWord
  | .lane n => if wide then (w.lane l).pair n.toNat else ((w.lane l).reg n.toNat).setWidth 64
  | .uni n => if wide then w.uni n.toNat else ((w.uni n.toNat).setWidth 32).setWidth 64
  | .imm v => imm v
  | .spec n => if wide then specRead w x l n else ((specRead w x l n).setWidth 32).setWidth 64

/-- A source of an integer operation. -/
def readOp (w : Wave) (x : WCtx) (sh : Shape) (l : Nat) (o : Operand) : DWord :=
  readWith w x (sh == .wide) (immShape sh) l o

/-- A 32-bit source. -/
def readWord (w : Wave) (x : WCtx) (l : Nat) (o : Operand) : Word := (readOp w x .one l o).setWidth 32

/-- A source whose absence counts as 0. -/
def readOpt (w : Wave) (x : WCtx) (l : Nat) : Option Operand → Word
  | none => 0
  | some o => readWord w x l o

/-- A uniform source in full: a register, or an immediate sign-extended; a special mask (R118). -/
def readUni (w : Wave) (x : WCtx) (o : Operand) : DWord := readOp w x .wide 0 o

/-- One lane register written. -/
def Lane.write (x : Lane) (wide : Bool) (n : Nat) (v : DWord) : Lane :=
  if wide then (x.setReg n (v.setWidth 32)).setReg (n + 1) (v.extractLsb' 32 32) else x.setReg n (v.setWidth 32)

/-- Results written in the lanes of a mask, or once to a uniform register where the mask is not empty (R56, R124). -/
def Wave.writeD (w : Wave) (d : Operand) (wide : Bool) (g : Mask) (f : Nat → DWord) : Wave :=
  match d with
  | .lane n => { w with lanes := w.lanes.mapIdx fun l x => if g.getLsbD l then x.write wide n.toNat (f l) else x }
  | .uni n =>
    match lowestLane g with
    | none => w
    | some l => w.setUni n.toNat (if wide then f l else ((f l).setWidth 32).setWidth 64)
  | _ => w

/-- A predicate written in the lanes of a mask. -/
def Wave.writePred (w : Wave) (p : Nat) (g : Mask) (f : Nat → Bool) : Wave :=
  { w with lanes := w.lanes.mapIdx fun l x =>
      if g.getLsbD l then
        { x with q := if f l then x.q ||| (1#8 <<< p) else x.q &&& ~~~(1#8 <<< p) }
      else x }

/-- The predicate number of an operand. -/
def predNo : Operand → Nat
  | .spec n => n.toNat
  | _ => 0

/-- A predicate of a lane; q0 is true. -/
def Wave.predOf (w : Wave) (l p : Nat) : Bool := p == 0 || (w.lane l).q.getLsbD p

/-- Success reported through the guard predicate, in every lane of RUN (R49). -/
def Wave.reportPred (w : Wave) (h : Head) (ok : Bool) : Wave :=
  if h.pred = 0 then w else w.writePred h.pred.toNat w.run fun _ => ok

/-! ### The shapes of meanings -/

/-- A result computed in each guarded lane, or once (R48, R49, R56). -/
def alu (s : State) (w : Wave) (h : Head) (d : Operand) (wide : Bool) (f : Nat → DWord) : Res :=
  .done (s.setWave s.cur (w.writeD d wide (w.guard h) f))

/-- A result with exception flags: the flags of every lane that computes enter `%fflags` (R79). With a uniform D it is
computed in the lowest guarded lane, whose `%laneid` is the column of a stochastic rounding: no rule names the lane (R56,
R82; DESIGN CHOICE, log entry 9). -/
def aluF (s : State) (w : Wave) (h : Head) (d : Operand) (wide : Bool) (f : Nat → DWord × BitVec 5) : Res :=
  let g := w.guard h
  let ls := match d with
    | .uni _ => (lowestLane g).toList
    | _ => lanesOf g
  let w' := w.writeD d wide g fun l => (f l).1
  .done (s.setWave s.cur { w' with fflags := ls.foldl (fun a l => a ||| (f l).2) w'.fflags })

/-- An instruction that acts once for the wave, where the guard holds in some lane (R49). -/
def once (s : State) (w : Wave) (h : Head) (f : Mask → Res) : Res :=
  if w.guard h = 0 then .done s else f (w.guard h)

/-- A cause for the guarded lanes of an instruction that acts once (R367). -/
def onceCause (g : Mask) (c : Cause) (addr : DWord) : Res := .cause c g addr 0

end Sys2Proof.Machine
end

