-- ==== Sys2Proof/Machine/Former.lean ====
section
/-! DEFINITION. The wave former of a reserving launch: claims, signatures, counters, admission (R289 to R298). -/

namespace Sys2Proof.Machine

/-- The signature of an item: the bits of its claims (R290). -/
def Item.sig (i : Item) : List Nat := ((i.claims.map fun p => [p.1, p.2]).flatten).eraseDups

/-- Counter of a bit. -/
def Former.count (f : Former) (b : Nat) : Nat := (f.counters.get b).getD 0

/-- A candidate conflicts with the admitted items (R292). -/
def Former.conflict (f : Former) (i : Item) : Bool :=
  (i.claims.any fun p => decide (f.count p.1 ≠ 0) && decide (f.count p.2 ≠ 0)) ||
  i.sig.any fun b => f.count b == 255

/-- A candidate is held back for the lowest deferred one (R292). -/
def Former.held (f : Former) (i : Item) : Bool :=
  match f.deferred with
  | [] => false
  | l :: _ => decide (l.index < i.index) && i.sig.any fun b => l.sig.contains b

/-- An item put into a list that rises by index. -/
def insertItem (i : Item) : List Item → List Item
  | [] => [i]
  | j :: js => if i.index < j.index then i :: j :: js else j :: insertItem i js

/-- Admission: the counters of the signature rise (R292). -/
def Former.admitItem (f : Former) (i : Item) : Former :=
  { f with
    counters := i.sig.foldl (fun c b => c.put b ((c.get b).getD 0 + 1)) f.counters
    admitted := f.admitted ++ [i] }

/-- A candidate examined at its submission (R292). -/
def Former.submit (f : Former) (i : Item) : Former :=
  if f.conflict i || f.held i then { f with deferred := insertItem i f.deferred } else f.admitItem i

/-- One deferred candidate examined again. -/
def Former.reexamine (f : Former) (i : Item) : Former :=
  if f.conflict i || f.held i then f
  else { f with deferred := f.deferred.filter fun j => j.index ≠ i.index }.admitItem i

/-- Retirement of items together: their counters fall, then every deferred candidate is examined again in ascending
index order (R292, R295, R299). -/
def Former.retireItems (f : Former) (is : List Item) : Former :=
  let f := { f with
    counters := is.foldl (fun c (i : Item) => i.sig.foldl (fun c b =>
      let n := (c.get b).getD 0
      if n ≤ 1 then c.del b else c.put b (n - 1)) c) f.counters
    retired := f.retired + is.length }
  f.deferred.foldl (fun f i => f.reexamine i) f

/-- The wave belongs to the reserving launch that runs on its die. -/
def State.former (s : State) (w : Wave) : Option Former :=
  match (s.die w.die).former with
  | some f => if f.block = w.block then some f else none
  | none => none

def State.setFormer (s : State) (die : Nat) (f : Former) : State := s.updDie die fun d => { d with former := some f }

/-- Admitted items of one body entry, in admission order. -/
def Former.at (f : Former) (entry : Word) : List Item := f.admitted.filter fun i => i.entry == entry

/-- The items of the body wave to form next (R294): of the entry whose earliest item was admitted first, among those
with items for a full wave, or with any where a smaller wave may be formed. -/
def Former.bodyItems (f : Former) (width : Nat) (small : Bool) : List Item :=
  match f.admitted.find? fun i => small || decide (width ≤ (f.at i.entry).length) with
  | none => []
  | some i => (f.at i.entry).take width

/-- Body waves are formed as long as they can be (R294): at most as many as there are items. -/
def Former.form (width : Nat) (small : Bool) : Nat → Former → Former
  | 0, f => f
  | n + 1, f =>
    match f.bodyItems width small with
    | [] => f
    | is => Former.form width small n { f with
        admitted := f.admitted.filter fun i => !(is.any fun j => j.index == i.index)
        ready := f.ready ++ [is] }

/-- A claim wave of the launch runs: some lane of it is still live (R338). -/
def State.claimRuns (s : State) (f : Former) : Bool :=
  s.waves.any fun e => e.2.block == f.block && e.2.kind == .claim && e.2.live != 0

/-- The candidate buffer has room for a full wave; the lanes of running claim waves have their entries (R289). -/
def State.bufferRoom (s : State) (f : Former) (width : Nat) : Bool :=
  let running := (s.waves.map fun e =>
    if e.2.block == f.block && e.2.kind == .claim then (lanesOf e.2.live).length else 0).sum
  decide (f.deferred.length + running + width ≤ 512)

/-- A claim wave is formed, and waits for a core (R289, R338): the former forms it at once when it can. -/
def State.claimDue (s : State) (f : Former) (k : KernelDesc) : Bool :=
  decide (f.next < (k.reserve.getD (0, 0, false)).1) && !s.claimRuns f && s.bufferRoom f k.width

/-- The body waves of the launch that can be formed now are formed. Every event that changes what the former holds does
this first, so that the waves formed depend on the candidates and on the order of submissions and retirements alone
(R340). -/
def State.formed (s : State) (f : Former) (k : KernelDesc) : Former :=
  f.form k.width (!s.claimRuns f && !s.claimDue f k) f.admitted.length

/-- The launch of a block, as the former stands once its body waves are formed. -/
def State.formBodies (s : State) (die : Nat) : State :=
  match (s.die die).former with
  | none => s
  | some f =>
    match ((s.blocks.get f.block).bind fun b => s.grids.get b.grid).bind fun g => s.kernels.get g.kernel with
    | none => s
    | some k => s.setFormer die (s.formed f k.desc)

/-- Stores of the lanes of a mask that a retirement pass has to wait for (R295). -/
def Wave.holdStores (w : Wave) (g : Mask) (num : Nat) : List PendStore :=
  w.stores.map fun p =>
    if p.targets.any fun t => match t.1 with
      | some l => g.getLsbD l
      | none => true
    then { p with holds := num :: p.holds } else p

/-- Every access that a pass waits for is performed; loads are performed at issue (R205, R295). -/
def Wave.passReady (w : Wave) (p : Pass) : Bool := w.stores.all fun q => !q.holds.contains p.num || q.targets.isEmpty

/-- The lowest item index of a pass. -/
def Pass.lowest (p : Pass) : Nat := p.items.foldl (fun m i => min m i.index) (2 ^ 32)

/-- Passes in the order in which they retire: as they became ready, one after another; of those that became ready in one step
the one with the lowest item index first (R339). One that has become ready in the present step comes last. -/
def inPassOrder {α : Type} (pass : α → Pass) (ps : List α) : List α :=
  sortBy (fun a => ((pass a).since.getD 0) * 2 ^ 33 + (pass a).lowest) (ps.filter fun a => (pass a).since.isSome) ++
  sortBy (fun a => (pass a).lowest) (ps.filter fun a => (pass a).since.isNone)

/-- The passes of a wave that can be applied, in their order (R339). -/
def Wave.passesReady (w : Wave) : List Pass := inPassOrder (fun p => p) (w.retiring.filter w.passReady)

/-- The passes that have become ready in a step, by the model's counter, are marked with it (R339). -/
def Wave.stampPasses (w : Wave) (now : Nat) : Wave :=
  if w.retiring.isEmpty then w
  else
    { w with retiring := w.retiring.map fun p => if w.passReady p && p.since.isNone then { p with since := some now } else p }

/-- The same for every wave, after a step. -/
def State.stampPasses (s : State) : State :=
  { s with waves := s.waves.map fun (e : Nat × Wave) => (e.1, e.2.stampPasses s.fresh) }

/-- The pass of a wave that is applied next. -/
def Wave.readyPass (w : Wave) : Option Pass := w.passesReady.head?

/-- A pass is applied: the counters fall together, then every deferred candidate is examined again (R292, R339). -/
def State.applyPass (s : State) (key : Nat) (w : Wave) (p : Pass) : State :=
  let s := s.formBodies w.die
  let s := match s.former w with
    | some f => s.setFormer w.die (f.retireItems p.items)
    | none => s
  s.updWave key fun v => { v with retiring := v.retiring.filter fun q => q.num ≠ p.num }

/-- The passes of a launch's waves that can be applied now, in their order (R339). -/
def State.readyPasses (s : State) (block : Nat) : List (Nat × Wave × Pass) :=
  inPassOrder (fun e => e.2.2)
    ((s.waves.filter fun e => e.2.block == block).map fun e => e.2.passesReady.map fun p => (e.1, e.2, p)).flatten

/-- Retirements that are due come before a candidate that reaches the former (R299). -/
def State.retireFirst (s : State) (w : Wave) : State :=
  (s.readyPasses w.block).foldl (fun s e => s.applyPass e.1 e.2.1 e.2.2) s

/-- The lanes of a mask that have an item. -/
def Wave.itemLanes (w : Wave) (g : Mask) : Mask := maskOf fun l => g.getLsbD l && (w.lane l).item.isSome

/-- The items of lanes that leave: those of a claim wave are abandoned and count as retired; those of a body wave
retire once the lanes' accesses are performed (R291, R295). The wave is the one whose record `w'` already has the
lanes' other effects. -/
def State.exitItems (s : State) (w' : Wave) (g : Mask) : State × Wave :=
  let is := (lanesOf g).filterMap fun l => (w'.lane l).item
  let out := { w' with lanes := w'.lanes.mapIdx fun l x => if g.getLsbD l then { x with item := none } else x }
  match w'.kind, s.former w' with
  | .claim, some _ =>
    let t := s.formBodies w'.die
    (match t.former w' with
      | some f => t.setFormer w'.die { f with retired := f.retired + is.length }
      | none => t, out)
  | .body, some _ =>
    if is.isEmpty then (s, out)
    else
      (s, { out with
        retiring := w'.retiring ++ [{ num := w'.accn.toNat, items := is }]
        stores := w'.holdStores (w'.itemLanes g) w'.accn.toNat })
  | _, _ => (s, w')

end Sys2Proof.Machine
end

