-- ==== Sys2Proof/Machine/Control.lean ====
section
/-! DEFINITION. Control instructions, steering instructions and hint-space words (R50, R111 to R121). -/

namespace Sys2Proof.Machine

/-! ### Where an instruction leads -/

/-- The end of a branch (R95, R101, R105, R113): the next PC of each RUN lane is judged; agreement goes on; otherwise
the event of the depth, or the rule of serial steering. `w'` has the link registers written. -/
def branchEnd (s : State) (w : Wave) (x : WCtx) (w' : Wave) (next : Nat → Word) : Res :=
  let bad := maskOf fun l => w.run.getLsbD l && !x.pcOk (next l)
  if bad ≠ 0 then .cause .pcRange bad 0 0
  else
    match lowestLane w.run with
    | none => .done s
    | some l0 =>
      if (lanesOf w.run).all fun l => next l == next l0 then
        .over (s.setWave s.cur ((w.retire w').goto (next l0)))
      else if w.hdep = 2 then .cause .steerNest w.run 0 0
      else if w.hdep = 0 && w.serial then
        let v := (w.retire w').setLpcs 0 w.run next
        .over (s.setWave s.cur
          { v with run := maskOf fun l => w.run.getLsbD l && next l == next w.chosen, pc := next w.chosen })
      else
        match (w.retire w').enterEvent x (if w.hdep = 0 then .split else .nested) w.pc next with
        | some v => .over (s.setWave s.cur v)
        | none => .cause .pcRange w.run 0 0

/-- The end of an instruction that may have emptied RUN (R101, R105, R108, R114, R119). -/
def settle (s : State) (w : Wave) (x : WCtx) (w' : Wave) (g : Mask) : Res :=
  let nx := w.nextPc
  if w'.run ≠ 0 then
    if x.pcOk nx then .over (s.setWave s.cur ((w.retire w').goto nx)) else .cause .pcRange w'.run 0 0
  else if w'.live = 0 then .over (s.setWave s.cur { w.retire w' with pc := nx, phase := .ending })
  else if w.hdep ≠ 0 then .cause .steerEmpty g 0 0
  else if w.serial then .over (s.setWave s.cur { w.retire w' with pc := nx })
  else if w'.runnable = 0 then .cause .rejoinStall w'.live 0 0
  else
    match (w.retire w').enterEvent x .empty w.pc fun _ => nx with
    | some v => .over (s.setWave s.cur v)
    | none => .cause .pcRange w.run 0 0

/-- A branch's target from a count of instructions (R55, R113). -/
def countTarget (w : Wave) (c : BitVec 18) : Word := w.pc + 12 + 12 * c.signExtend 32

/-! ### Control (Table 5.5) -/

/-- NOP (R112). -/
def execNop (h : Head) (s : State) : Host.Outcome State Fault Refusal := issue (.nop h) s fun s _ _ => .done s

/-- A branch by a guarded target. -/
def branchRes (h : Head) (s : State) (w : Wave) (x : WCtx) (w' : Wave) (target : Nat → Word) : Res :=
  branchEnd s w x w' fun l => if (w.guard h).getLsbD l then target l else w.nextPc

/-- BR (R113). -/
def execBr (h : Head) (c : BitVec 18) (s : State) : Host.Outcome State Fault Refusal :=
  issue (.br h c) s fun s w x => branchRes h s w x w fun _ => countTarget w c

/-- BRX (R113). -/
def execBrx (h : Head) (a : Operand) (s : State) : Host.Outcome State Fault Refusal :=
  issue (.brx h a) s fun s w x => branchRes h s w x w fun l => readWord w x l a

/-- CALL (R113): the guarded lanes write the return offset first; the target register is read before. -/
def execCall (h : Head) (d b : Operand) (s : State) : Host.Outcome State Fault Refusal :=
  issue (.call h d b) s fun s w x =>
    branchRes h s w x (w.writeD d false (w.guard h) fun _ => w.nextPc.setWidth 64) fun l =>
      match b with
      | .imm c => countTarget w c
      | _ => readWord w x l b

/-- RET (R113). -/
def execRet (h : Head) (a : Operand) (s : State) : Host.Outcome State Fault Refusal :=
  issue (.ret h a) s fun s w x => branchRes h s w x w fun l => readWord w x l a

/-- Lanes leave LIVE, RUN and PARK (R114). -/
def Wave.leave (w : Wave) (g : Mask) : Wave :=
  { w with live := w.live &&& ~~~g, run := w.run &&& ~~~g, park := w.park &&& ~~~g }

/-- EXIT (R114, R291, R295). -/
def execExit (h : Head) (s : State) : Host.Outcome State Fault Refusal :=
  issue (.exit h) s fun s w x =>
    let g := w.guard h
    let p := s.exitItems (w.leave g) g
    settle p.1 w x p.2 g

/-- YIELD (R115). -/
def execYield (h : Head) (s : State) : Host.Outcome State Fault Refusal := issue (.yield_ h) s fun s _ _ => .done s

/-- TRAP (R116): it raises its cause and has not retired. -/
def execTrap (h : Head) (c : BitVec 18) (s : State) : Host.Outcome State Fault Refusal :=
  issue (.trap h c) s fun s w _ => once s w h fun g => .cause .trap g 0 (c.setWidth 32)

/-- SYSC (R116). -/
def execSysc (h : Head) (c : BitVec 18) (s : State) : Host.Outcome State Fault Refusal :=
  issue (.sysc h c) s fun s w _ => once s w h fun g => .cause .syscall g 0 (c.setWidth 32)

/-- A debugger is attached to a context (R378). -/
def State.attached (s : State) (c : Nat) : Bool :=
  match (s.ctx c).debug with
  | some r => r.attached
  | none => false

/-- BRKPT (R116): with a debugger attached it halts the wave before it retires; without one it raises BREAK. -/
def execBrkpt (h : Head) (c : BitVec 18) (s : State) : Host.Outcome State Fault Refusal :=
  issue (.brkpt h c) s fun s w x => once s w h fun g =>
    if s.attached x.grid.ctx then .over (s.updWave s.cur fun v => { v with halted := true, haltReq := true, atBrkpt := true })
    else .cause .brk g 0 (c.setWidth 32)

/-- The texts that a core holds, without those of a context (R117). -/
def State.dropText (s : State) (die core c : Nat) : State :=
  s.updCore die core fun k => { k with text := k.text.filter fun e => match s.kernels.get e.1 with
    | some n => n.ctx ≠ c
    | none => false }

/-- ICINV (R117). -/
def execIcinv (h : Head) (s : State) : Host.Outcome State Fault Refusal :=
  issue (.icinv h) s fun s w x => once s w h fun _ => .done (s.dropText w.die w.core x.grid.ctx)

/-- A word of the hint space: it retires and does nothing else, and raises no cause (R50). -/
def execHintSpaceWord (_bits : BitVec 92) (s : State) : Host.Outcome State Fault Refusal :=
  match s.waves.get s.cur with
  | none => .fault .noWave
  | some w => .next ((s.begun s.cur w).updWave s.cur fun v => (w.retire v).goto w.nextPc)

/-! ### Steering (Table 5.6) -/

/-- The rejoin register that an operand names: its even uniform register (R102). -/
def rejoinNo : Operand → Nat
  | .uni n => n.toNat
  | _ => 0

/-- A rejoin completes: its arrived mask is cleared, its lanes are released, and those that stand at the next PC join
RUN (R102). The released lanes are those that were in PARK; an enrolled lane outside PARK and RUN is none of them (DEDUCED, log
entry 12). -/
def Wave.rejoined (w : Wave) (r : Nat) (en : Mask) (nx : Word) : Wave :=
  let freed := w.park &&& en
  { w.setUni (r + 1) 0 with
    park := w.park &&& ~~~en
    run := w.run ||| maskOf fun l => freed.getLsbD l && w.live.getLsbD l && w.lpc 0 l == nx }

/-- A rejoin register written, and its completion judged (R102, R119). -/
def Wave.setRejoin (w : Wave) (r : Nat) (en ar : Mask) (nx : Word) : Wave :=
  let w := (w.setUni r en).setUni (r + 1) ar
  if en ≠ 0 && ar = en then w.rejoined r en nx else w

/-- A steering instruction of depth 0 (R101, R119); `m` ignores what R96 has it ignore of a mask. -/
def rejoinRes (h : Head) (d : Operand) (f : (Mask → Mask) → Mask → Wave → Nat → Wave) (s : State) (w : Wave) (x : WCtx) : Res :=
  once s w h fun g =>
    if w.hdep ≠ 0 then onceCause g .steerMode 0
    else if !x.pcOk w.nextPc then .cause .pcRange w.run 0 0
    else settle s w x (f x.maskIn g w (rejoinNo d)) g

/-- JENROL (R119). In narrow-wave mode it clears bits [63:32] of `k(2N)`, which it writes, and leaves `k(2N+1)` as it is;
JWAIT and JSTRIKE, which write both, clear them in both: R119 does not say what they hold (DESIGN CHOICE, log entry 12). -/
def execJenrol (h : Head) (d : Operand) (s : State) : Host.Outcome State Fault Refusal :=
  issue (.jenrol h d) s (rejoinRes h d fun m g w r => w.setUni r (m (w.uni r) ||| g))

/-- JWAIT (R119): the enrolled guarded lanes arrive and park. -/
def jwaitRes (m : Mask → Mask) (g : Mask) (w : Wave) (r : Nat) : Wave :=
  let en := m (w.uni r)
  let a := g &&& en
  let w' := w.setLpcs 0 a fun _ => w.nextPc
  { w' with park := w.park ||| a, run := w.run &&& ~~~a }.setRejoin r en (m (w.uni (r + 1)) ||| a) w.nextPc

/-- JWAIT (R119). -/
def execJwait (h : Head) (d : Operand) (s : State) : Host.Outcome State Fault Refusal :=
  issue (.jwait h d) s (rejoinRes h d jwaitRes)

/-- JSTRIKE (R119). -/
def execJstrike (h : Head) (d : Operand) (s : State) : Host.Outcome State Fault Refusal :=
  issue (.jstrike h d) s (rejoinRes h d fun m g w r =>
    w.setRejoin r (m (w.uni r) &&& ~~~g) (m (w.uni (r + 1)) &&& ~~~g) w.nextPc)

/-- The candidates that a mask operand leaves (R96, R120, R121). -/
def candOf (w : Wave) (x : WCtx) (a : Operand) : Mask := x.maskIn (readUni w x a) &&& w.candidates

/-- HRET (R120). -/
def execHret (h : Head) (a : Operand) (s : State) : Host.Outcome State Fault Refusal :=
  issue (.hret h a) s fun s w x => once s w h fun g =>
    if w.hdep = 0 then onceCause g .steerMode 0
    else if candOf w x a = 0 then onceCause g .steerEmpty 0
    else
      match w.handlerReturn x (candOf w x a) with
      | some v => .over (s.setWave s.cur (w.retire v))
      | none => onceCause g .pcRange 0

/-- A handler assist (R121): results in one or two uniform registers. -/
def assistRes (h : Head) (a : Operand) (f : Mask → Wave → Wave) (s : State) (w : Wave) (x : WCtx) : Res :=
  once s w h fun g =>
    if w.hdep = 0 then onceCause g .steerMode 0 else .done (s.setWave s.cur (f (candOf w x a) w))

/-- Mask and PC written to a pair of uniform registers. -/
def Wave.setGroup (w : Wave) (d : Operand) (r : Option (Mask × Word)) : Wave :=
  match r with
  | some p => (w.setUni (rejoinNo d) p.1).setUni (rejoinNo d + 1) (p.2.setWidth 64)
  | none => (w.setUni (rejoinNo d) 0).setUni (rejoinNo d + 1) 0xffffffff

/-- PCMIN (R121). -/
def execPcmin (h : Head) (d a : Operand) (s : State) : Host.Outcome State Fault Refusal :=
  issue (.pcmin h d a) s (assistRes h a fun c w => w.setGroup d (w.lowestGroup w.lpcBank c))

/-- The candidates that stand at a PC of a bank. -/
def Wave.standing (w : Wave) (bank : Nat) (c : Mask) (pc : Word) : Mask := maskOf fun l => c.getLsbD l && w.lpc bank l == pc

/-- The PC that most candidates share, the lower one of equal counts, with its group (R121). -/
def Wave.largestGroup (w : Wave) (bank : Nat) (c : Mask) : Option (Mask × Word) :=
  match lanesOf c with
  | [] => none
  | l :: ls =>
    let size := fun pc => (lanesOf (w.standing bank c pc)).length
    let pc := ls.foldl (fun p i =>
      let q := w.lpc bank i
      if decide (size p < size q) || (size p == size q && decide (q < p)) then q else p) (w.lpc bank l)
    some (w.standing bank c pc, pc)

/-- PCMAJ (R121). -/
def execPcmaj (h : Head) (d a : Operand) (s : State) : Host.Outcome State Fault Refusal :=
  issue (.pcmaj h d a) s (assistRes h a fun c w => w.setGroup d (w.largestGroup w.lpcBank c))

/-- PCEQ (R121). -/
def execPceq (h : Head) (d a b : Operand) (s : State) : Host.Outcome State Fault Refusal :=
  issue (.pceq h d a b) s fun s w x => assistRes h a (fun c w =>
    w.setUni (rejoinNo d) (w.standing w.lpcBank c ((readUni w x b).setWidth 32))) s w x

end Sys2Proof.Machine
end

