-- ==== Sys2Proof/Machine/Integer.lean ====
section
/-! DEFINITION. The integer class 0x02 (R126, R127). -/

namespace Sys2Proof.Machine

/-! ### Integer types (R69, R70, R127) -/

/-- How a type reads its operands. -/
def shapeOf : IType → Shape
  | .s64 | .z64 => .wide
  | .s16x2 | .z16x2 => .packed
  | _ => .one

def wideType (t : IType) : Bool := shapeOf t == .wide

/-- The type is signed. -/
def signedType : IType → Bool
  | .s32 | .s64 | .s16x2 => true
  | _ => false

/-- The exact integer of an `n`-bit element. -/
def intOf (signed : Bool) {n : Nat} (v : BitVec n) : Int := if signed then v.toInt else (v.toNat : Int)

/-- The elements of a value, element 0 first (Table 4.1). -/
def elems (t : IType) (v : DWord) : List Int :=
  match shapeOf t with
  | .one => [intOf (signedType t) (v.setWidth 32)]
  | .wide => [intOf (signedType t) v]
  | .packed => [intOf (signedType t) (v.extractLsb' 0 16), intOf (signedType t) (v.extractLsb' 16 16)]

/-- Element width. -/
def elemBits (t : IType) : Nat :=
  match shapeOf t with
  | .one => 32
  | .wide => 64
  | .packed => 16

/-- The ends of an `n`-bit range. -/
def minInt (signed : Bool) (n : Nat) : Int := if signed then -(2 ^ (n - 1) : Nat) else 0
def maxInt (signed : Bool) (n : Nat) : Int := if signed then (2 ^ (n - 1) : Nat) - 1 else (2 ^ n : Nat) - 1

/-- `fit`: the low `n` bits, or the nearest end of the range (R70, R127). -/
def fitInt (signed sat : Bool) (n : Nat) (v : Int) : BitVec n :=
  BitVec.ofInt n (if sat then max (minInt signed n) (min (maxInt signed n) v) else v)

/-- Elements put together again. -/
def unelems (t : IType) (sat : Bool) (es : List Int) : DWord :=
  let s := signedType t
  match shapeOf t with
  | .one => (fitInt s sat 32 (es.getD 0 0)).setWidth 64
  | .wide => fitInt s sat 64 (es.getD 0 0)
  | .packed => (fitInt s sat 16 (es.getD 1 0) ++ fitInt s sat 16 (es.getD 0 0) : BitVec 32).setWidth 64

/-- An integer instruction on two sources and the old destination, element by element (R127). -/
def intOp (m : IMod) (f : Int → Int → Int → Int) (a b d : DWord) : DWord :=
  unelems m.ty m.sat
    ((List.zip (elems m.ty a) (List.zip (elems m.ty b) (elems m.ty d))).map fun p => f p.1 p.2.1 p.2.2)

/-- An integer instruction with sources A and B. -/
def intRes (h : Head) (d a b : Operand) (m : IMod) (f : Int → Int → Int → Int) (s : State) (w : Wave) (x : WCtx) : Res :=
  alu s w h d (wideType m.ty) fun l =>
    intOp m f (readOp w x (shapeOf m.ty) l a) (readOp w x (shapeOf m.ty) l b) (readOp w x (shapeOf m.ty) l d)

/-- An integer instruction with source A alone. -/
def intRes1 (h : Head) (d a : Operand) (m : IMod) (f : Int → Int) (s : State) (w : Wave) (x : WCtx) : Res :=
  alu s w h d (wideType m.ty) fun l =>
    let v := readOp w x (shapeOf m.ty) l a
    intOp m (fun p _ _ => f p) v v v

/-- The upper half of a product: floor of the product over 2 to the element width. -/
def highPart (m : IMod) (p : Int) : Int := p.fdiv (2 ^ elemBits m.ty : Nat)

/-- IADD (Table 6.2). -/
def execIadd (h : Head) (d a b : Operand) (m : IMod) (s : State) : Host.Outcome State Fault Refusal :=
  issue (.iadd h d a b m) s (intRes h d a b m fun p q _ => p + q)

/-- ISUB (Table 6.2). -/
def execIsub (h : Head) (d a b : Operand) (m : IMod) (s : State) : Host.Outcome State Fault Refusal :=
  issue (.isub h d a b m) s (intRes h d a b m fun p q _ => p - q)

/-- IMUL (Table 6.2). -/
def execImul (h : Head) (d a b : Operand) (m : IMod) (s : State) : Host.Outcome State Fault Refusal :=
  issue (.imul h d a b m) s (intRes h d a b m fun p q _ => p * q)

/-- IMULH (Table 6.2). -/
def execImulh (h : Head) (d a b : Operand) (m : IMod) (s : State) : Host.Outcome State Fault Refusal :=
  issue (.imulh h d a b m) s (intRes h d a b m fun p q _ => highPart m (p * q))

/-- IMAD (Table 6.2). -/
def execImad (h : Head) (d a b : Operand) (m : IMod) (s : State) : Host.Outcome State Fault Refusal :=
  issue (.imad h d a b m) s (intRes h d a b m fun p q r => p * q + r)

/-- IMIN (Table 6.2). -/
def execImin (h : Head) (d a b : Operand) (m : IMod) (s : State) : Host.Outcome State Fault Refusal :=
  issue (.imin h d a b m) s (intRes h d a b m fun p q _ => min p q)

/-- IMAX (Table 6.2). -/
def execImax (h : Head) (d a b : Operand) (m : IMod) (s : State) : Host.Outcome State Fault Refusal :=
  issue (.imax h d a b m) s (intRes h d a b m fun p q _ => max p q)

/-- IABS (Table 6.2). -/
def execIabs (h : Head) (d a : Operand) (m : IMod) (s : State) : Host.Outcome State Fault Refusal :=
  issue (.iabs h d a m) s (intRes1 h d a m fun p => (p.natAbs : Int))

/-- INEG (Table 6.2). -/
def execIneg (h : Head) (d a : Operand) (m : IMod) (s : State) : Host.Outcome State Fault Refusal :=
  issue (.ineg h d a m) s (intRes1 h d a m fun p => -p)

end Sys2Proof.Machine
end

