-- ==== Sys2Proof/Machine/Flags.lean ====
section
/-! DEFINITION. Floating-point formats, rounding, overflow and the exception flags (R71 to R82). -/

namespace Sys2Proof.Machine

/-! ### Flags (Table 4.6) -/

abbrev FlagSet := BitVec 5

def flagNV : FlagSet := 16
def flagDZ : FlagSet := 8
def flagOF : FlagSet := 4
def flagUF : FlagSet := 2
def flagNX : FlagSet := 1

/-- A flag where a condition holds. -/
def flagIf (b : Bool) (f : FlagSet) : FlagSet := if b then f else 0

/-! ### Formats (R71, Table 4.2) -/

/-- What a format does with the all-ones exponent and with overflow. -/
inductive FKind where
  /-- infinities and NaNs -/
  | ieee
  /-- NaN in the all-ones code only; saturates -/
  | e4m3
  /-- finite values only; saturates -/
  | e2m1
  deriving DecidableEq, Repr

/-- A format with a sign. -/
structure Fmt where
  exp : Nat
  man : Nat
  bias : Nat
  kind : FKind
  /-- magnitude code of the largest finite value -/
  maxCode : Nat
  /-- canonical NaN; +0 where there is none -/
  nan : Nat
  deriving DecidableEq, Repr

def fmtF64 : Fmt := ⟨11, 52, 1023, .ieee, 0x7fefffffffffffff, 0x7ff8000000000000⟩
def fmtF32 : Fmt := ⟨8, 23, 127, .ieee, 0x7f7fffff, 0x7fc00000⟩
def fmtF16 : Fmt := ⟨5, 10, 15, .ieee, 0x7bff, 0x7e00⟩
def fmtBf16 : Fmt := ⟨8, 7, 127, .ieee, 0x7f7f, 0x7fc0⟩
def fmtE5m2 : Fmt := ⟨5, 2, 15, .ieee, 0x7b, 0x7e⟩
def fmtE4m3 : Fmt := ⟨4, 3, 7, .e4m3, 0x7e, 0x7f⟩
def fmtE2m1 : Fmt := ⟨2, 1, 1, .e2m1, 0x7, 0⟩

/-- Bits of the format. -/
def Fmt.bits (f : Fmt) : Nat := f.exp + f.man + 1
/-- Precision of a normal significand. -/
def Fmt.prec (f : Fmt) : Nat := f.man + 1
/-- Exponent of the smallest normal value. -/
def Fmt.emin (f : Fmt) : Int := 1 - f.bias
/-- Magnitude code of infinity. -/
def Fmt.infCode (f : Fmt) : Nat := (2 ^ f.exp - 1) * 2 ^ f.man

/-- A number as an operation reads it: the magnitude of a finite one is `m` x 2^`e`. -/
inductive Num where
  | nan (signalling : Bool)
  | inf (neg : Bool)
  | fin (neg : Bool) (m : Nat) (e : Int)
  deriving DecidableEq, Repr

/-- The number that a code of a format stands for (R71, R73). -/
def decodeNum (f : Fmt) (v : Nat) : Num :=
  let neg := v / 2 ^ (f.exp + f.man) % 2 = 1
  let e := v / 2 ^ f.man % 2 ^ f.exp
  let m := v % 2 ^ f.man
  let ones := e = 2 ^ f.exp - 1
  if f.kind == .ieee && ones then
    if m = 0 then .inf neg else .nan (decide (f.prec > 3) && decide (m < 2 ^ (f.man - 1)))
  else if f.kind == .e4m3 && ones && decide (m = 2 ^ f.man - 1) then .nan false
  else if e = 0 then .fin neg m (f.emin - f.man)
  else .fin neg (m + 2 ^ f.man) ((e : Int) - f.bias - f.man)

/-- The number of a ue8m0 code (R71). -/
def decodeScale (v : Nat) : Num := if v = 255 then .nan false else .fin false 1 ((v : Int) - 127)

/-- A finite number is subnormal in a format: its exponent field is zero and it is not zero. -/
def isSubnormal (f : Fmt) (v : Nat) : Bool := v / 2 ^ f.man % 2 ^ f.exp == 0 && v % 2 ^ f.man != 0

/-- A source as read under the flush modifier (R74). -/
def readNum (f : Fmt) (ftz : Bool) (v : Nat) : Num :=
  if ftz && isSubnormal f v then .fin (v / 2 ^ (f.exp + f.man) % 2 = 1) 0 0 else decodeNum f v

/-! ### The Sunflower pattern (R80) -/

/-- Table 4.7. -/
def sunflowerRows : List (List Nat) :=
  [[0, 128, 32, 160, 8, 136, 40, 168], [192, 64, 224, 96, 200, 72, 232, 104],
   [48, 176, 16, 144, 56, 184, 24, 152], [240, 112, 208, 80, 248, 120, 216, 88],
   [12, 140, 44, 172, 4, 132, 36, 164], [204, 76, 236, 108, 196, 68, 228, 100],
   [60, 188, 28, 156, 52, 180, 20, 148], [252, 124, 220, 92, 244, 116, 212, 84]]

def sunflower (i : Nat) : Nat := (sunflowerRows.getD (i / 8 % 8) []).getD (i % 8) 0

/-- Pattern value of an element (R81). -/
def ditherAt (row col ph : Nat) : Nat := sunflower ((row % 8 * 8 + col % 8 + ph) % 64)

/-! ### Rounding (R75, R76, R81) -/

/-- Bits of a number. -/
def bitLen (n : Nat) : Nat := if n = 0 then 0 else Nat.log2 n + 1

/-- The upper neighbour is taken: `rem` of 2^`d` is dropped, with something more below it where `sticky`; `odd` is
the last bit kept; `p` the pattern value for sr (Table 4.3). -/
def roundsUp (mode : Rnd) (neg odd : Bool) (rem d : Nat) (sticky : Bool) (p : Nat) : Bool :=
  let inexact := rem != 0 || sticky
  let twice := 2 * rem
  let unit := 2 ^ d
  match mode with
  | .rne => decide (unit < twice) || (twice == unit && (sticky || odd))
  | .rna => decide (unit ≤ twice)
  | .rtz => false
  | .rdn => inexact && neg
  | .rup => inexact && !neg
  | .sr => decide (256 ≤ rem * 256 / unit + p)

/-- A magnitude `m` x 2^`e`, and a little more where `sticky`, rounded to a multiple of 2^`q`: how many of them, and
whether it is inexact. -/
def roundAt (mode : Rnd) (neg : Bool) (m : Nat) (e q : Int) (sticky : Bool) (p : Nat) : Nat × Bool :=
  if q ≤ e then
    let k := m * 2 ^ (e - q).toNat
    (if roundsUp mode neg (k % 2 == 1) 0 0 sticky p then k + 1 else k, sticky)
  else
    let d := (q - e).toNat
    let k := m / 2 ^ d
    let rem := m % 2 ^ d
    (if roundsUp mode neg (k % 2 == 1) rem d sticky p then k + 1 else k, rem != 0 || sticky)

/-- A result's code, and the flags it sets. -/
structure FRes where
  code : Nat
  flags : FlagSet := 0
  deriving DecidableEq, Repr

/-- The sign of a code. -/
def signBit (f : Fmt) (neg : Bool) : Nat := if neg then 2 ^ (f.exp + f.man) else 0

/-- The canonical NaN; NV too for e2m1, which has none (R73). -/
def nanRes (f : Fmt) (flags : FlagSet) : FRes := ⟨f.nan, if f.kind == .e2m1 then flags ||| flagNV else flags⟩

def infRes (f : Fmt) (neg : Bool) (flags : FlagSet) : FRes := ⟨signBit f neg + f.infCode, flags⟩

def zeroRes (f : Fmt) (neg : Bool) (flags : FlagSet) : FRes := ⟨signBit f neg, flags⟩

/-- The result of an overflow (Table 4.4); `ovnan` is the overflow modifier of FCVT and TCVT on an e4m3 target. Under sr Table
4.4 gives an IEEE-like target infinity or max. A result that is rounded to the candidate beyond max gives infinity here; one
that is rounded to max itself has not overflowed, comes out as max, and sets no OF (R76; DEDUCED, log entry 9). -/
def overflowRes (f : Fmt) (mode : Rnd) (neg ovnan : Bool) : FRes :=
  let toInf := match mode with
    | .rne | .rna | .sr => true
    | .rtz => false
    | .rdn => neg
    | .rup => !neg
  if f.kind == .e4m3 && ovnan then ⟨f.nan, flagOF ||| flagNX⟩
  else ⟨signBit f neg + if f.kind == .ieee && toInf then f.infCode else f.maxCode, flagOF ||| flagNX⟩

/-- The code of a magnitude of `k` units of 2^`q`, at most the largest finite one. -/
def packMag (f : Fmt) (k : Nat) (q : Int) : Nat :=
  let l := bitLen k
  if k = 0 then 0
  else if (l : Int) - 1 + q < f.emin then k * 2 ^ (q - (f.emin - f.man)).toNat
  else
    let e := ((l : Int) - 1 + q + f.bias).toNat
    let m := if l ≤ f.prec then k * 2 ^ (f.prec - l) else k / 2 ^ (l - f.prec)
    e * 2 ^ f.man + (m - 2 ^ f.man)

/-- The magnitude of the largest finite value is exceeded by `k` units of 2^`q`. -/
def exceedsMax (f : Fmt) (k : Nat) (q : Int) : Bool :=
  match decodeNum f f.maxCode with
  | .fin _ m e => if q ≤ e then decide (m * 2 ^ (e - q).toNat < k) else decide (m < k * 2 ^ (q - e).toNat)
  | _ => false

/-- The magnitude of `k` units of 2^`q` lies below the smallest normal value. -/
def belowNormal (f : Fmt) (k : Nat) (q : Int) : Bool := decide ((bitLen k : Int) - 1 + q < f.emin)

/-- A nonzero magnitude rounded into a format (R74 to R76): tininess is judged after the rounding to full precision,
overflow on the result so rounded. -/
def roundMag (f : Fmt) (mode : Rnd) (p : Nat) (ftz ovnan neg : Bool) (m : Nat) (e : Int) (sticky : Bool) : FRes :=
  let top : Int := (bitLen m : Int) - 1 + e
  let qu := top - f.man
  let ku := roundAt mode neg m e qu sticky p
  if exceedsMax f ku.1 qu then overflowRes f mode neg ovnan
  else
    let tiny := belowNormal f ku.1 qu
    let q := max qu (f.emin - f.man)
    let k := roundAt mode neg m e q sticky p
    if tiny && ftz then zeroRes f neg (flagUF ||| flagNX)
    else ⟨signBit f neg + packMag f k.1 q, flagIf k.2 flagNX ||| flagIf (tiny && k.2) flagUF⟩

/-- An exact finite value rounded into a format; a zero keeps its sign. -/
def roundFin (f : Fmt) (mode : Rnd) (ftz neg : Bool) (m : Nat) (e : Int) : FRes :=
  if m = 0 then zeroRes f neg 0 else roundMag f mode 0 ftz false neg m e false

/-! ### Exact sums and products -/

/-- The exact integer of a finite magnitude in units of 2^`q`, `q` at most `e`. -/
def scaled (neg : Bool) (m : Nat) (e q : Int) : Int :=
  let v : Int := (m * 2 ^ (e - q).toNat : Nat)
  if neg then -v else v

/-- The sum of two finite values rounded once; an exact zero of operands of opposite signs is +0, and −0 under rdn
(R73). -/
def addFin (f : Fmt) (mode : Rnd) (ftz : Bool) (n1 : Bool) (m1 : Nat) (e1 : Int) (n2 : Bool) (m2 : Nat) (e2 : Int) : FRes :=
  let q := if m1 = 0 then e2 else if m2 = 0 then e1 else min e1 e2
  let v := (if m1 = 0 then 0 else scaled n1 m1 e1 q) + (if m2 = 0 then 0 else scaled n2 m2 e2 q)
  if v = 0 then zeroRes f (if n1 == n2 then n1 else mode == .rdn) 0
  else roundMag f mode 0 ftz false (decide (v < 0)) v.natAbs q false

/-- A NaN among the inputs, and a signalling one. -/
def Num.isNan : Num → Bool
  | .nan _ => true
  | _ => false
def Num.isSnan : Num → Bool
  | .nan s => s
  | _ => false
def Num.negate : Num → Num
  | .nan s => .nan s
  | .inf n => .inf (!n)
  | .fin n m e => .fin (!n) m e

/-- The flag of signalling inputs. -/
def snanFlag (xs : List Num) : FlagSet := flagIf (xs.any Num.isSnan) flagNV

/-- a + b (Table 7.2). -/
def addNum (f : Fmt) (mode : Rnd) (ftz : Bool) (a b : Num) : FRes :=
  match a, b with
  | .nan s, y => nanRes f (snanFlag [.nan s, y])
  | x, .nan s => nanRes f (snanFlag [x, .nan s])
  | .inf n, .inf k => if n == k then infRes f n 0 else nanRes f flagNV
  | .inf n, .fin _ _ _ => infRes f n 0
  | .fin _ _ _, .inf n => infRes f n 0
  | .fin n1 m1 e1, .fin n2 m2 e2 => addFin f mode ftz n1 m1 e1 n2 m2 e2

/-- An exact product: a number, or none for 0 x ∞. -/
def mulExact (a b : Num) : Option Num :=
  match a, b with
  | .nan s, .nan t => some (.nan (s || t))
  | .nan s, _ => some (.nan s)
  | _, .nan s => some (.nan s)
  | .inf n, .inf k => some (.inf (n != k))
  | .inf n, .fin k m _ => if m = 0 then none else some (.inf (n != k))
  | .fin k m _, .inf n => if m = 0 then none else some (.inf (n != k))
  | .fin n1 m1 e1, .fin n2 m2 e2 => some (.fin (n1 != n2) (m1 * m2) (e1 + e2))

/-- A number rounded into a format, NaN and infinity as they are (R73). -/
def roundNum (f : Fmt) (mode : Rnd) (ftz : Bool) (a : Num) : FRes :=
  match a with
  | .nan s => nanRes f (flagIf s flagNV)
  | .inf n => infRes f n 0
  | .fin n m e => roundFin f mode ftz n m e

/-- a x b (Table 7.2). -/
def mulNum (f : Fmt) (mode : Rnd) (ftz : Bool) (a b : Num) : FRes :=
  match mulExact a b with
  | none => nanRes f flagNV
  | some p => roundNum f mode ftz p

/-- a x b + c, rounded once; 0 x ∞ is invalid whatever c is (R87, R146). -/
def fmaNum (f : Fmt) (mode : Rnd) (ftz : Bool) (a b c : Num) : FRes :=
  match mulExact a b with
  | none => nanRes f flagNV
  | some p => addNum f mode ftz p c

/-! ### Quotients and roots -/

/-- a ÷ b (Table 7.2): the quotient to 3 bits below the precision, the rest in the sticky bit. -/
def divFin (f : Fmt) (mode : Rnd) (ftz neg : Bool) (m1 : Nat) (e1 : Int) (m2 : Nat) (e2 : Int) : FRes :=
  let k := f.prec + 3 + bitLen m2
  roundMag f mode 0 ftz false neg (m1 * 2 ^ k / m2) (e1 - e2 - k) (m1 * 2 ^ k % m2 != 0)

/-- a ÷ b with its special cases. -/
def divNum (f : Fmt) (mode : Rnd) (ftz : Bool) (a b : Num) : FRes :=
  match a, b with
  | .nan s, y => nanRes f (snanFlag [.nan s, y])
  | x, .nan s => nanRes f (snanFlag [x, .nan s])
  | .inf _, .inf _ => nanRes f flagNV
  | .inf n, .fin k _ _ => infRes f (n != k) 0
  | .fin n _ _, .inf k => zeroRes f (n != k) 0
  | .fin n m1 e1, .fin k m2 e2 =>
    if m2 = 0 then (if m1 = 0 then nanRes f flagNV else infRes f (n != k) flagDZ)
    else if m1 = 0 then zeroRes f (n != k) 0
    else divFin f mode ftz (n != k) m1 e1 m2 e2

/-- The integer square root, bit by bit from bit `b` down. -/
def sqrtBits (n : Nat) : Nat → Nat → Nat
  | 0, r => r
  | b + 1, r => sqrtBits n b (if (r + 2 ^ b) * (r + 2 ^ b) ≤ n then r + 2 ^ b else r)

def isqrt (n : Nat) : Nat := sqrtBits n (bitLen n / 2 + 1) 0

/-- √a (Table 7.2). -/
def sqrtFin (f : Fmt) (mode : Rnd) (ftz : Bool) (m : Nat) (e : Int) : FRes :=
  let k := 2 * (f.prec + 3) + if (e % 2 = 0) then 0 else 1
  let n := m * 2 ^ k
  let r := isqrt n
  roundMag f mode 0 ftz false false r ((e - k) / 2) (r * r != n)

def sqrtNum (f : Fmt) (mode : Rnd) (ftz : Bool) (a : Num) : FRes :=
  match a with
  | .nan s => nanRes f (flagIf s flagNV)
  | .inf n => if n then nanRes f flagNV else infRes f false 0
  | .fin n m e =>
    if m = 0 then zeroRes f n 0 else if n then nanRes f flagNV else sqrtFin f mode ftz m e

/-- 1 ÷ √a (R148, Table 7.4): the root of 2^2j ÷ m. -/
def rsqrtFin (f : Fmt) (ftz : Bool) (m : Nat) (e : Int) : FRes :=
  let m' := if e % 2 = 0 then m else 2 * m
  let e' := if e % 2 = 0 then e else e - 1
  let j := f.prec + 3 + bitLen m'
  let n := 2 ^ (2 * j) / m'
  let r := isqrt n
  roundMag f .rne 0 ftz false false r (-(j : Int) - e' / 2) (r * r * m' != 2 ^ (2 * j))

def rsqrtNum (f : Fmt) (ftz : Bool) (a : Num) : FRes :=
  match a with
  | .nan s => nanRes f (flagIf s flagNV)
  | .inf n => if n then nanRes f flagNV else zeroRes f false 0
  | .fin n m e =>
    if m = 0 then infRes f n flagDZ else if n then nanRes f flagNV else rsqrtFin f ftz m e

/-- 1 ÷ a (R148, Table 7.4). -/
def rcpNum (f : Fmt) (ftz : Bool) (a : Num) : FRes :=
  match a with
  | .nan s => nanRes f (flagIf s flagNV)
  | .inf n => zeroRes f n 0
  | .fin n m e => if m = 0 then infRes f n flagDZ else divFin f .rne ftz n 1 0 m e

/-! ### Elementary functions (R148, R149): fixed-point enclosures of 2^-P, rounded once -/

/-- Rounds an enclosure of a positive magnitude by [lo, lo + err] in units of 2^-`p`: both ends round to one code. -/
def enclosed (f : Fmt) (ftz neg : Bool) (lo err p : Nat) : Option FRes :=
  let a := roundMag f .rne 0 ftz false neg lo (-(p : Int)) true
  let b := roundMag f .rne 0 ftz false neg (lo + err) (-(p : Int)) true
  if lo ≠ 0 && a == b then some a else none

/-- The first of some precisions at which an enclosure decides. -/
def firstDecided (g : Nat → Nat × Nat) (f : Fmt) (ftz neg : Bool) : List Nat → FRes
  | [] => nanRes f 0
  | p :: ps =>
    match enclosed f ftz neg (g p).1 (g p).2 p with
    | some r => r
    | none =>
      match ps with
      | [] => roundMag f .rne 0 ftz false neg (g p).1 (-(p : Int)) true
      | _ => firstDecided g f ftz neg ps

/-- Precisions tried, in bits. -/
def precisions : List Nat := [256, 512, 1024]

/-- 2 atanh(1 ÷ n) terms: the sum of 2 ÷ ((2i + 1) n^(2i + 1)) in units of 2^-p. -/
def atanhSum (z2num z2den p : Nat) : Nat → Nat → Nat → Nat → Nat
  | 0, _, _, acc => acc
  | k + 1, i, t, acc => atanhSum z2num z2den p k (i + 1) (t * z2num / z2den) (acc + 2 * t / (2 * i + 1))

/-- ln of num ÷ den, between 1 and 2, in units of 2^-p: 2 atanh((num − den) ÷ (num + den)), from below; the error is
below 4 p units. -/
def lnFix (num den p : Nat) : Nat :=
  let z := (num - den) * 2 ^ p / (num + den)
  atanhSum ((num - den) * (num - den)) ((num + den) * (num + den)) p p 0 z 0

/-- arctan(1 ÷ n) in units of 2^-p: positive and negative terms apart. -/
def atanTerms (n p : Nat) : Nat → Nat → Nat → Int → Int
  | 0, _, _, acc => acc
  | k + 1, i, t, acc =>
    let u : Int := (t / (2 * i + 1) : Nat)
    atanTerms n p k (i + 1) (t / (n * n)) (if i % 2 = 0 then acc + u else acc - u)

/-- π in units of 2^-p (Machin's formula); the error is below 64 p units. -/
def piFix (p : Nat) : Nat :=
  (16 * atanTerms 5 p (p / 4 + 8) 0 (2 ^ p / 5) 0 - 4 * atanTerms 239 p (p / 15 + 8) 0 (2 ^ p / 239) 0).toNat

/-- e^x terms for x in [0, 1), in units of 2^-p. -/
def expTerms (x p : Nat) : Nat → Nat → Nat → Nat → Nat
  | 0, _, _, acc => acc
  | k + 1, i, t, acc => expTerms x p k (i + 1) (t * x / 2 ^ p / (i + 1)) (acc + t)

/-- sin and cos terms: alternating sums of x^n ÷ n!, from term `t` = x^i ÷ i!. -/
def trigTerms (x2 p : Nat) : Nat → Nat → Nat → Bool → Int → Int
  | 0, _, _, _, acc => acc
  | k + 1, i, t, plus, acc =>
    trigTerms x2 p k (i + 2) (t * x2 / 2 ^ p / ((i + 1) * (i + 2))) (!plus) (if plus then acc + t else acc - t)

/-- 2^a for a finite a that is no integer (R148): 2^n x e^(f ln 2), f the fraction. -/
def exp2Fix (neg : Bool) (m : Nat) (e : Int) (p : Nat) : Int × Nat × Nat :=
  let v : Int := scaled neg m e (min e 0)
  let unit : Int := (2 ^ (-(min e 0)).toNat : Nat)
  let n := v.fdiv unit
  let frac := ((v - n * unit) * (2 ^ p : Nat)).toNat / unit.toNat
  let x := frac * lnFix 2 1 p / 2 ^ p
  (n, expTerms x p (p / 4 + 8) 0 (2 ^ p) 0, 16 * p)

/-- An enclosure scaled by 2^n and rounded. -/
def enclosedAt (f : Fmt) (ftz neg : Bool) (lo err : Nat) (e : Int) : Option FRes :=
  let a := roundMag f .rne 0 ftz false neg lo e true
  let b := roundMag f .rne 0 ftz false neg (lo + err) e true
  if lo ≠ 0 && a == b then some a else none

def exp2Decide (f : Fmt) (ftz : Bool) (neg : Bool) (m : Nat) (e : Int) : List Nat → FRes
  | [] => nanRes f 0
  | p :: ps =>
    let r := exp2Fix neg m e p
    match enclosedAt f ftz false r.2.1 r.2.2 (r.1 - p) with
    | some v => v
    | none =>
      match ps with
      | [] => roundMag f .rne 0 ftz false false r.2.1 (r.1 - p) true
      | _ => exp2Decide f ftz neg m e ps

/-- 2^a (R148, Table 7.4). A magnitude of 2^16 or more overflows, or is tiny, in every format. -/
def exp2Num (f : Fmt) (ftz : Bool) (a : Num) : FRes :=
  match a with
  | .nan s => nanRes f (flagIf s flagNV)
  | .inf n => if n then zeroRes f false 0 else infRes f false 0
  | .fin n m e =>
    if m = 0 then roundMag f .rne 0 ftz false false 1 0 false
    else if 16 < (bitLen m : Int) + e then
      roundMag f .rne 0 ftz false false 1 (if n then -65536 else 65536) true
    else if 0 ≤ e || m % 2 ^ (-e).toNat = 0 then
      roundMag f .rne 0 ftz false false 1 (scaled n m e (min e 0) / (2 ^ (-(min e 0)).toNat : Nat)) false
    else exp2Decide f ftz n m e precisions

/-- log₂ of a positive m x 2^e that is no power of two: the sign, and an enclosure of the magnitude in units of 2^-p. -/
def log2Fix (m : Nat) (e : Int) (p : Nat) : Bool × Nat × Nat :=
  let l := bitLen m - 1
  let k : Int := e + l
  let ratio := lnFix m (2 ^ l) p * 2 ^ p / lnFix 2 1 p
  let v : Int := k * (2 ^ p : Nat) + ratio
  (decide (v < 0), v.natAbs - 16 * p, 32 * p)

def log2Decide (f : Fmt) (ftz : Bool) (m : Nat) (e : Int) : List Nat → FRes
  | [] => nanRes f 0
  | p :: ps =>
    let r := log2Fix m e p
    match enclosedAt f ftz r.1 r.2.1 r.2.2 (-(p : Int)) with
    | some v => v
    | none =>
      match ps with
      | [] => roundMag f .rne 0 ftz false r.1 r.2.1 (-(p : Int)) true
      | _ => log2Decide f ftz m e ps

/-- log₂ a (R148, Table 7.4). -/
def log2Num (f : Fmt) (ftz : Bool) (a : Num) : FRes :=
  match a with
  | .nan s => nanRes f (flagIf s flagNV)
  | .inf n => if n then nanRes f flagNV else infRes f false 0
  | .fin n m e =>
    if m = 0 then infRes f true flagDZ
    else if n then nanRes f flagNV
    else if m = 2 ^ (bitLen m - 1) then
      let k : Int := e + (bitLen m - 1 : Nat)
      roundFin f .rne ftz (decide (k < 0)) k.natAbs 0
    else log2Decide f ftz m e precisions

/-- sin or cos of a nonzero finite magnitude: the argument less a multiple of π ÷ 2, then the series. The result is
the sign and an enclosure of the magnitude in units of 2^-p. -/
def trigFix (cosine neg : Bool) (m : Nat) (e : Int) (p : Nat) : Bool × Nat × Nat :=
  let w := p + (bitLen m + e.toNat) + 8
  let half := piFix w / 2
  let x := if 0 ≤ e then m * 2 ^ (e.toNat + w) else m * 2 ^ w / 2 ^ (-e).toNat
  let k := (2 * x + half) / (2 * half)
  let r : Int := (x : Int) - (k * half : Nat)
  let ra := r.natAbs / 2 ^ (w - p)
  let x2 := ra * ra / 2 ^ p
  let s := trigTerms x2 p (p / 4 + 8) 1 ra true 0
  let c := trigTerms x2 p (p / 4 + 8) 0 (2 ^ p) true 0
  let sr := if r < 0 then -s else s
  let v : Int :=
    if cosine then
      match k % 4 with
      | 0 => c
      | 1 => -sr
      | 2 => -c
      | _ => sr
    else
      let u := match k % 4 with
        | 0 => sr
        | 1 => c
        | 2 => -sr
        | _ => -c
      if neg then -u else u
  (decide (v < 0), v.natAbs - 64 * p, 128 * p)

def trigDecide (f : Fmt) (ftz cosine neg : Bool) (m : Nat) (e : Int) : List Nat → FRes
  | [] => nanRes f 0
  | p :: ps =>
    let r := trigFix cosine neg m e p
    match enclosedAt f ftz r.1 r.2.1 r.2.2 (-(p : Int)) with
    | some v => v
    | none =>
      match ps with
      | [] => roundMag f .rne 0 ftz false r.1 r.2.1 (-(p : Int)) true
      | _ => trigDecide f ftz cosine neg m e ps

/-- sin a (R148, Table 7.4). -/
def sinNum (f : Fmt) (ftz : Bool) (a : Num) : FRes :=
  match a with
  | .nan s => nanRes f (flagIf s flagNV)
  | .inf _ => nanRes f flagNV
  | .fin n m e => if m = 0 then zeroRes f n 0 else trigDecide f ftz false n m e precisions

/-- cos a (R148, Table 7.4). -/
def cosNum (f : Fmt) (ftz : Bool) (a : Num) : FRes :=
  match a with
  | .nan s => nanRes f (flagIf s flagNV)
  | .inf _ => nanRes f flagNV
  | .fin n m e =>
    if m = 0 then roundMag f .rne 0 ftz false false 1 0 false else trigDecide f ftz true n m e precisions

/-! ### Rounding to integers (R151, R156) -/

/-- A finite magnitude rounded to an integer: the integer, and whether it differs. -/
def toIntegral (mode : Rnd) (neg : Bool) (m : Nat) (e : Int) : Nat × Bool := roundAt mode neg m e 0 false 0

/-- a rounded to an integral value (R151). -/
def rndNum (f : Fmt) (mode : Rnd) (ftz : Bool) (a : Num) : FRes :=
  match a with
  | .nan s => nanRes f (flagIf s flagNV)
  | .inf n => infRes f n 0
  | .fin n m e =>
    if m = 0 then zeroRes f n 0
    else if 0 ≤ e then roundFin f mode ftz n m e
    else
      let r := toIntegral mode n m e
      let z := roundFin f .rne ftz n r.1 0
      ⟨z.code, z.flags ||| flagIf r.2 flagNX⟩

end Sys2Proof.Machine
end

