-- ==== Sys2Proof/Machine/Memory.lean ====
section
/-! DEFINITION. The memory class 0x10: loads, stores, atomics and fences (R167 to R178, R205 to R213, R297, R308). -/

namespace Sys2Proof.Machine

/-! ### Addresses and checks -/

/-- Bytes of a memory type (Table 9.4). -/
def memBytes : MemType → Nat
  | .z8 | .s8 => 1
  | .z16 | .s16 => 2
  | .b32 => 4
  | .b64 => 8
  | .b128 => 16

/-- The address of a lane: base and offset modulo 2^32 (R176). -/
def laneAddr (w : Wave) (x : WCtx) (a : Operand) (b : Option Operand) (l : Nat) : Word := readWord w x l a + readOpt w x l b

/-- The window checks in every lane of a mask (R168): places, or the cause to deliver (R367). -/
def checkLanes (w : Wave) (x : WCtx) (g : Mask) (ws : Windows) (addr : Nat → Word) (n align : Nat) :
    Except (Cause × Mask × DWord) (List (Nat × Loc)) :=
  let rs := (lanesOf g).map fun l => (l, addr l, checkWindow w x ws (addr l) n align)
  match worstCause (rs.filterMap fun r => match r.2.2 with
    | .error c => some (r.1, c, r.2.1.setWidth 64)
    | .ok _ => none) with
  | some c => .error c
  | none => .ok (rs.filterMap fun r => match r.2.2 with
    | .ok p => some (r.1, p)
    | .error _ => none)

/-- A place lies in the local store of the wave's own core. -/
def Wave.ownCore (w : Wave) : Loc → Bool
  | .spill _ => true
  | .lds a => dieOf a == w.die && coreOf a == w.core

/-- A byte lies in the allocation of a block. -/
def Block.owns (b : Block) (a : Nat) : Bool :=
  decide (b.die = dieOf a) &&
  (List.zip b.cores b.alloc).any fun p => p.1 == coreOf a && p.2.contains (a % 0x400000 / 4096)

/-- The address is in the die or the device window. -/
def outerWindow (a : Word) : Bool := decide (2 ≤ a.toNat / 0x40000000)

/-- A store or atomic at an address exposes its block: through the die or device window to another core's local store,
but not in the block's own allocation (R308). -/
def exposes (w : Wave) (x : WCtx) (a : Word) (p : Loc) : Bool :=
  match p with
  | .spill _ => false
  | .lds d => outerWindow a && !w.ownCore p && !x.block.owns d

/-- The block becomes exposed (R308). -/
def State.expose (s : State) (w : Wave) (b : Bool) : State :=
  if b then s.updBlock w.block fun k => { k with exposed := true } else s

/-- An instruction that passes decode and its window checks exposes its block at issue, whatever cause it meets after them
(R308). -/
def Res.exposing (r : Res) (s : State) (w : Wave) (b : Bool) : Res :=
  match r with
  | .cause c lanes addr arg => if b then .causeIn (s.expose w true) c lanes addr arg else r
  | _ => r

/-! ### Claims of a reserving launch (R290, R297) -/

/-- The claim form of a byte: its block-window address in the launch's home allocation, else its die-window address;
none for a byte of another die or of a spill stack. -/
def claimForm (w : Wave) (x : WCtx) (p : Loc) : Option Nat :=
  match p with
  | .spill _ => none
  | .lds a =>
    if dieOf a ≠ w.die then none
    else
      let home := x.block.cores.getD 0 0
      match if coreOf a = home then (x.block.alloc.getD 0 []).idxOf? (a % 0x400000 / 4096) else none with
      | some i => some (0x40000000 + i * 4096 + a % 4096)
      | none => some (0x80000000 + coreOf a * 0x400000 + a % 0x400000)

/-- The signature bits of a granule (R290). -/
def claimBits (g : Nat) : Nat × Nat := (g % 512, (g / 512 ^^^ g * 5) % 512)

/-- A write of `n` bytes by a lane of a body wave of a checked launch fails its test (R297). -/
def claimMiss (w : Wave) (x : WCtx) (l : Nat) (p : Loc) (n : Nat) : Bool :=
  match w.kind, x.kern.desc.reserve, p with
  | .body, some (_, _, true), .lds a =>
    (List.range n).any fun i =>
      match claimForm w x (.lds (a + i)) with
      | none => true
      | some c =>
        let sig := match (w.lane l).item with
          | some it => it.sig
          | none => []
        let b := claimBits (c / 8)
        !(sig.contains b.1 && sig.contains b.2)
  | _, _, _ => false

/-- The lanes that fail the test of a checked launch, as a cause. -/
def claimCause (w : Wave) (x : WCtx) (ps : List (Nat × Loc)) (addr : Nat → Word) (n : Nat) : Option (Cause × Mask × DWord) :=
  worstCause ((ps.filter fun p => claimMiss w x p.1 p.2 n).map fun p => (p.1, .claimMiss, (addr p.1).setWidth 64))

/-! ### Pending operations -/

/-- An access of a lane of a mask, to a place that a test picks, is not performed yet. -/
def Wave.pendsFor (w : Wave) (g : Mask) (ok : Nat → Bool) : Bool :=
  w.stores.any fun p => p.targets.any fun t =>
    (match t.1 with
      | some l => g.getLsbD l
      | none => true) && ok t.2.1

/-- Some access of the wave that is not performed yet writes one of the bytes. -/
def Wave.pendsAt (w : Wave) (a n : Nat) : Bool :=
  w.stores.any fun p => p.targets.any fun t => decide (t.2.1 < a + n) && decide (a < t.2.1 + t.2.2)

/-- Accesses of the wave that are not performed yet. -/
def Wave.storesPending (w : Wave) : Bool := w.stores.any fun p => !p.targets.isEmpty

/-- An ATOM of one of the lanes waits behind the wave's stores. -/
def Wave.atomWaits (w : Wave) (ls : List Nat) : Bool :=
  w.stores.any fun p => match p.atom with
    | some a => a.parts.any fun q => ls.contains q.1
    | none => false

/-- Every earlier LD, ST, ATOM and ARRINIT is performed, and every load has returned (R172, R178). -/
def Wave.performed (w : Wave) : Bool := w.loads.isEmpty && !w.storesPending

/-- A read at a place that has passed its checks. -/
def State.readLoc (s : State) (w : Wave) (x : WCtx) (l : Nat) (p : Loc) (n : Nat) : List Byte :=
  match p with
  | .spill off => (List.range n).map fun i => s.spillRead (s.waveDom x) w l (off + i)
  | .lds a => s.ldsReads (s.waveDom x) a n

/-- A write at a place that has passed its checks, now. -/
def State.writeLoc (s : State) (w : Wave) (x : WCtx) (l : Nat) (p : Loc) (bs : List Byte) : State :=
  match p with
  | .spill off => s.spillWrites (s.waveDom x) w l off bs
  | .lds a => s.ldsWrites (s.waveDom x) a bs

/-- The lane registers that a loaded value fills (R54). -/
def laneWrites (l n bytes v : Nat) : List RegWrite :=
  (List.range ((bytes + 3) / 4)).map fun i => .lane l (n + i) (BitVec.ofNat 32 (v >>> (32 * i)))

/-! ### ATOM's updates (R177) -/

/-- The new value of an atomic, for `n` bits: `p` is the operand, or the compare value with `q` the new one. -/
def atomNew (op : AtomOp) (n : Nat) (old p q : Nat) : Nat :=
  let sx := fun v => (BitVec.ofNat n v).toInt
  match op with
  | .add => (old + p) % 2 ^ n
  | .smin => if sx old ≤ sx p then old else p
  | .umin => min old p
  | .smax => if sx p ≤ sx old then old else p
  | .umax => max old p
  | .and => old &&& p
  | .or => old ||| p
  | .xor => old ^^^ p
  | .xchg => p
  | .cas => if old = p then q else old
  | .fadd => (addNum fmtF32 .rne false (decodeNum fmtF32 old) (decodeNum fmtF32 p)).code

/-- The uncorrectable error that an ATOM meets as it reads: the one that stands in the next bytes so read, counted over its
lanes (R249). -/
def PendAtom.meets (a : PendAtom) (s : State) : Option MemError :=
  s.readError.filter fun e => decide (e.byte < a.parts.length * a.bytes)

/-- The bytes that an ATOM's j-th lane reads: those of the array, with the damaged one as it is delivered (R249). -/
def PendAtom.read (a : PendAtom) (s : State) (dom j addr : Nat) : List Byte :=
  let bs := s.ldsReads dom addr a.bytes
  match a.meets s with
  | some e => bs.mapIdx fun i b => if j * a.bytes + i = e.byte then Config.damagedByte s.errors e.byte else b
  | none => bs

/-- The update of one lane, the j-th, indivisible at the port reducer (R177, R248): the lane, its address, its operand, the
new value of a compare. What was read makes the new value and goes to D. -/
def PendAtom.lane (a : PendAtom) (dom : Nat) (acc : State × List RegWrite) (p : Nat × Nat × Nat × Nat × Nat) :
    State × List RegWrite :=
  let old := leNat (a.read acc.1 dom p.1 p.2.2.1)
  (acc.1.ldsWrites dom p.2.2.1 (leBytes a.bytes (atomNew a.op (8 * a.bytes) old p.2.2.2.1 p.2.2.2.2)),
    acc.2 ++ laneWrites p.2.1 a.dst a.bytes old)

/-- The updates of an ATOM in ascending lane order: the state, and the registers that the old values fill. An error that it
has met is behind it. -/
def PendAtom.apply (a : PendAtom) (dom : Nat) (s : State) : State × List RegWrite :=
  let r := (List.zip (List.range a.parts.length) a.parts).foldl (a.lane dom) (s, [])
  (if (a.meets s).isSome then { r.1 with readError := none } else r.1, r.2)

/-- The first load whose values were still owed gets them, with the error met. -/
def payLoads (ws : List RegWrite) (err : Option MemError) : List PendLoad → List PendLoad
  | [] => []
  | p :: ps => if p.owed then { p with writes := ws, owed := false, err := err } :: ps else p :: payLoads ws err ps

/-! ### Performing stores (R172, R173, R209) -/

/-- An entry of a wave's stores is performed at its port reducers. -/
def State.perform (s : State) (key dom : Nat) (p : PendStore) : State :=
  let s := p.writes.foldl (fun s a => s.ldsWrites dom a.1 a.2) s
  match p.atom with
  | none => s
  | some a =>
    let r := a.apply dom s
    r.1.updWave key fun v => { v with loads := payLoads r.2 (a.meets s) v.loads }

/-- Pending accesses performed, oldest first; the stores still count until their turn comes (R172, R173). -/
def State.flushStores (s : State) (key dom : Nat) : State :=
  match s.waves.get key with
  | none => s
  | some w =>
    (w.stores.foldl (fun s p => s.perform key dom p) s).updWave key fun v =>
      { v with stores := (v.stores.filter fun p => p.atom.isNone).map fun _ => { writes := [] } }

/-- Bytes read, extended as the type says, as a number of 32, 64 or 128 bits (R176). -/
def extendMem (ty : MemType) (bs : List Byte) : Nat :=
  match ty with
  | .s8 => ((BitVec.ofNat 8 (leNat bs)).signExtend 32).toNat
  | .s16 => ((BitVec.ofNat 16 (leNat bs)).signExtend 32).toNat
  | _ => leNat bs

/-- The uniform registers that a loaded value fills (R56). -/
def uniWrites (n bytes v : Nat) : List RegWrite :=
  (List.range ((bytes + 7) / 8)).map fun i => .uni (n + i) (BitVec.ofNat 64 (v >>> (64 * i)))

/-! ### LD (R176) -/

/-- Stores of the wave that a read would pass are applied first, so that a lane sees its own stores (R176); so are
the updates of an ATOM that waits behind stores, which a later read of one of its lanes does not precede (R209). The lanes
are those for which the instruction reads: of a uniform D all that the guard lets through (R49, R176). -/
def State.forward (s : State) (w : Wave) (x : WCtx) (g : Mask) (ps : List (Nat × Loc)) (n : Nat) : State :=
  if w.atomWaits (lanesOf g) || ps.any fun p => match p.2 with
    | .lds a => w.pendsAt a n
    | .spill _ => false
  then s.flushStores s.cur (s.waveDom x) else s

/-- The registers that a load fills from the bytes of its lanes, extended as the type says (R176). -/
def loadWrites (d : Operand) (ty : MemType) (read : List (Nat × List Byte)) : List RegWrite :=
  (read.map fun p =>
    let v := extendMem ty p.2
    match d with
    | .lane r => laneWrites p.1 r.toNat (memBytes ty) v
    | .uni r => uniWrites r.toNat (memBytes ty) v
    | _ => []).flatten

/-- LD with its lanes and places known: the values are read, and the load counts until it completes. -/
def ldAt (d : Operand) (ty : MemType) (s : State) (w : Wave) (x : WCtx) (g : Mask) (ps : List (Nat × Loc)) : State :=
  let s := s.forward w x g ps (memBytes ty)
  let read := ps.map fun p => (p.1, s.readLoc w x p.1 p.2 (memBytes ty))
  s.updWave s.cur fun v =>
    { v with loads := v.loads ++ [{ at_ := w.issuing, writes := loadWrites d ty read, read := some (d, ty, read) }] }

/-- LD (R176). -/
def ldRes (h : Head) (d a : Operand) (b : Option Operand) (ty : MemType) (s : State) (w : Wave) (x : WCtx) : Res :=
  let g := w.guard h
  let uni := match d with
    | .uni _ => true
    | _ => false
  let m := if uni then (match lowestLane g with
    | some l => 1#64 <<< l
    | none => 0) else g
  match checkLanes w x m { spill := !uni } (laneAddr w x a b) (memBytes ty) (memBytes ty) with
  | .error c => .cause c.1 (if uni then g else c.2.1) c.2.2 0
  | .ok ps =>
    if g = 0 then .done s
    else if 63 ≤ w.loads.length then .stall s
    else .done (ldAt d ty s w x g ps)

/-- LD (R176). -/
def execLd (h : Head) (d a : Operand) (b : Option Operand) (ty : MemType) (s : State) : Host.Outcome State Fault Refusal :=
  issue (.ld h d a b ty) s (ldRes h d a b ty)

/-! ### ST (R176) -/

/-- The bytes that a lane stores. -/
def storeData (w : Wave) (x : WCtx) (d : Operand) (ty : MemType) (l : Nat) : List Byte :=
  match d with
  | .lane r => ((List.range ((memBytes ty + 3) / 4)).map fun i => leBytes 4 ((w.lane l).reg (r.toNat + i)).toNat).flatten.take (memBytes ty)
  | .uni r => ((List.range ((memBytes ty + 7) / 8)).map fun i => leBytes 8 (w.uni (r.toNat + i)).toNat).flatten.take (memBytes ty)
  | _ => (leBytes 4 (readWord w x l d).toNat).take (memBytes ty)

/-- ST with its places known: writes to the wave's own core are performed now, after the wave's earlier stores;
writes to other cores wait until they are performed (R172, R209). -/
def stAt (d : Operand) (ty : MemType) (s : State) (w : Wave) (x : WCtx) (ps : List (Nat × Loc)) : State :=
  let far := ps.filter fun p => !w.ownCore p.2
  let near := ps.filter fun p => w.ownCore p.2
  let s := if near.any (fun p => match p.2 with
    | .lds _ => true
    | .spill _ => false) then s.flushStores s.cur (s.waveDom x) else s
  let s := near.foldl (fun s p => s.writeLoc w x p.1 p.2 (storeData w x d ty p.1)) s
  s.updWave s.cur fun v =>
    { v with stores := v.stores ++ [{
      writes := far.filterMap fun p => match p.2 with
        | .lds a => some (a, storeData w x d ty p.1)
        | .spill _ => none
      lanes := far.map fun p => p.1 }] }

/-- ST (R176). -/
def stRes (h : Head) (d a : Operand) (b : Option Operand) (ty : MemType) (s : State) (w : Wave) (x : WCtx) : Res :=
  let g := w.guard h
  let addr := laneAddr w x a b
  match checkLanes w x g { spill := true } addr (memBytes ty) (memBytes ty) with
  | .error c => .cause c.1 c.2.1 c.2.2 0
  | .ok ps =>
    let exp := ps.any fun p => exposes w x (addr p.1) p.2
    match claimCause w x ps addr (memBytes ty) with
    | some c => Res.exposing (.cause c.1 c.2.1 c.2.2 0) s w exp
    | none =>
      if g = 0 then .done s
      else if 63 ≤ w.storeCount then .stall s
      else .done (stAt d ty (s.expose w exp) w x ps)

/-- ST (R176). -/
def execSt (h : Head) (d a : Operand) (b : Option Operand) (ty : MemType) (s : State) : Host.Outcome State Fault Refusal :=
  issue (.st h d a b ty) s (stRes h d a b ty)

/-! ### ATOM (R177) -/

/-- The operand of an atomic in a lane: registers from D, `bytes` of them, at a register offset. -/
def atomOperand (w : Wave) (d : Operand) (l bytes off : Nat) : Nat :=
  match d with
  | .lane r => leNat (((List.range (bytes / 4)).map fun i => leBytes 4 ((w.lane l).reg (r.toNat + off + i)).toNat).flatten)
  | _ => 0

/-- The updates that an ATOM asks for, at places that have passed their checks. -/
def atomOf (d : Operand) (op : AtomOp) (w64 : Bool) (w : Wave) (ps : List (Nat × Loc)) : PendAtom :=
  let bytes := if w64 then 8 else 4
  { op := op, bytes := bytes
    dst := match d with
      | .lane r => r.toNat
      | _ => 0
    parts := ps.filterMap fun p => match p.2 with
      | .lds a => some (p.1, a, atomOperand w d p.1 bytes 0, atomOperand w d p.1 bytes (bytes / 4))
      | .spill _ => none }

/-- The lanes of an ATOM of an acquiring kind: their later accesses wait until it completes. -/
def acquiring (ord : AtomOrd) (ps : List (Nat × Loc)) : Mask :=
  if ord == .acq || ord == .ar then maskOf fun l => ps.any fun p => p.1 == l else 0

/-- ATOM with its places known: the lanes' updates in ascending lane order, after the wave's earlier stores. Where all of
them go to other cores and stores stand before them, they wait behind those. -/
def atomAt (d : Operand) (op : AtomOp) (ord : AtomOrd) (w64 : Bool) (s : State) (w : Wave) (x : WCtx) (ps : List (Nat × Loc)) :
    State :=
  let a := atomOf d op w64 w ps
  if w.storesPending && ps.all fun p => !w.ownCore p.2 then
    s.updWave s.cur fun v =>
      { v with
        loads := v.loads ++ [{ at_ := w.issuing, writes := (a.parts.map fun p => laneWrites p.1 a.dst a.bytes 0).flatten
                               acq := acquiring ord ps, owed := true }]
        stores := v.stores ++ [{ writes := [], atom := some a }] }
  else
    let t := s.flushStores s.cur (s.waveDom x)
    let r := a.apply (s.waveDom x) t
    r.1.updWave s.cur fun v =>
      { v with loads := v.loads ++ [{ at_ := w.issuing, writes := r.2, acq := acquiring ord ps, err := a.meets t }] }

/-- A byte of a local store is within a scope of the wave: 1 its own core's part of its block, 2 its die, 3 the device
(Table 11.1). -/
def Wave.within (w : Wave) (scope a : Nat) : Bool :=
  match scope with
  | 0 => false
  | 1 => dieOf a == w.die && coreOf a == w.core
  | 2 => dieOf a == w.die
  | _ => true

/-- The scope that a window address names: 0 lane, 1 block, 2 die, 3 device; a partner's part of the block window has
the die's (R169, Table 11.1). -/
def scopeOf (w : Wave) (x : WCtx) (a : Word) : Nat :=
  let v := a.toNat
  if v / 0x40000000 = 1 && x.block.span ≠ 1 && v / 0x400000 % 8 ≠ w.partner then 2 else v / 0x40000000

/-- An ATOM of a releasing kind waits for an earlier access of one of its lanes, at the scope of the lane's address
(R177). -/
def releaseWaits (w : Wave) (x : WCtx) (ord : AtomOrd) (addr : Nat → Word) (g : Mask) : Bool :=
  (ord == .rel || ord == .ar) && (lanesOf g).any fun l => w.pendsFor (1#64 <<< l) (w.within (scopeOf w x (addr l)))

/-- ATOM (R177). -/
def atomRes (h : Head) (d a : Operand) (b : Option Operand) (op : AtomOp) (ord : AtomOrd) (w64 : Bool) (s : State) (w : Wave)
    (x : WCtx) : Res :=
  let g := w.guard h
  let addr := laneAddr w x a b
  let n := if w64 then 8 else 4
  match checkLanes w x g {} addr n n with
  | .error c => .cause c.1 c.2.1 c.2.2 0
  | .ok ps =>
    let exp := ps.any fun p => exposes w x (addr p.1) p.2
    match claimCause w x ps addr n with
    | some c => Res.exposing (.cause c.1 c.2.1 c.2.2 0) s w exp
    | none =>
      if g = 0 then .done s
      else if 63 ≤ w.loads.length || releaseWaits w x ord addr g then .stall s
      else .done (atomAt d op ord w64 (s.expose w exp) w x ps)

/-- ATOM (R177). -/
def execAtom (h : Head) (d a : Operand) (b : Option Operand) (op : AtomOp) (ord : AtomOrd) (w64 : Bool) (s : State) :
    Host.Outcome State Fault Refusal :=
  issue (.atom h d a b op ord w64) s (atomRes h d a b op ord w64)

/-! ### FENCE (R178) -/

/-- The widest scope that bits [31:30] of a guarded lane's address name: 0 spill, 1 block, 2 die, 3 device (Table 9.1). -/
def fenceScope (w : Wave) (x : WCtx) (g : Mask) (a : Operand) (b : Option Operand) : Nat :=
  (lanesOf g).foldl (fun m l => max m ((laneAddr w x a b l).toNat / 0x40000000)) 0

/-- An access of the wave that is not performed has a target within a scope. -/
def Wave.pendsWithin (w : Wave) (scope : Nat) : Bool := w.pendsFor (-1) (w.within scope)

/-- FENCE (R178): it waits; it reads no memory and raises no window cause. -/
def fenceRes (h : Head) (a : Operand) (b : Option Operand) (k : FenceKind) (s : State) (w : Wave) (x : WCtx) : Res :=
  once s w h fun g =>
    let scope := fenceScope w x g a b
    let wait := scope ≠ 0 && match k with
      | .acq => !w.loads.isEmpty
      | .rel => w.pendsWithin scope
      | .full => !w.loads.isEmpty || w.pendsWithin scope
    if wait then .stall s else .done s

/-- FENCE (R178). -/
def execFence (h : Head) (a : Operand) (b : Option Operand) (k : FenceKind) (s : State) : Host.Outcome State Fault Refusal :=
  issue (.fence h a b k) s (fenceRes h a b k)

end Sys2Proof.Machine
end

