-- ==== Sys2Proof/Machine/Region.lean ====
section
/-! DEFINITION. Memory as engines reach it, and collection regions: names, lines, reference counts, trees
(R215, R249 to R253, R264, R383). -/

namespace Sys2Proof.Machine

/-! ### Physical memory -/

def State.memReads (s : State) (dom pa n : Nat) : List Byte :=
  if s.isPeer pa then (List.range n).map fun i => Config.peerByte (pa + i) s.fresh else s.hbmReads dom (localPa pa) n

/-- A write to a peer leaves the device. -/
def State.memWrites (s : State) (dom pa : Nat) (bs : List Byte) : State :=
  if s.isPeer pa then s else s.hbmWrites dom (localPa pa) bs

/-- An uncorrectable error is reported in the fault record and in the lifetime record (R249). -/
def State.uncorrectable (s : State) (r : FaultRec) (array : Nat) : State :=
  let s := { s with
    errors := s.errors + 1
    lifetime := { s.lifetime with
      uncorrectable := s.lifetime.uncorrectable.modify array fun n => if n = 0xffffffff then n else n + 1 } }
  s.notice { r with cause := .uncorrectable, arg := BitVec.ofNat 32 array }

/-- Bytes read with one of them damaged (R249). -/
def State.damage (s : State) (bs : List Byte) : Option MemError → List Byte
  | none => bs
  | some e => bs.mapIdx fun i b => if i = e.byte then Config.damagedByte s.errors i else b

/-! ### Names (R251) -/

/-- A line's contents as a node: entry e (R252). -/
def nodeEntry (bs : List Byte) (e : Nat) : BitVec 128 := BitVec.ofNat 128 (leField bs (16 * e) 16)

/-- The name of a hash at a collision index. -/
def nameOf (h : BitVec 120) (i : Nat) : BitVec 128 := h ++ BitVec.ofNat 8 i

/-- The line of a name. -/
def Region.find (r : Region) (n : BitVec 128) : Option Line := r.lines.find? fun l => l.name == n

def Region.set (r : Region) (l : Line) : Region :=
  { r with lines := r.lines.map fun x => if x.name == l.name then l else x }

def Region.remove (r : Region) (n : BitVec 128) : Region := { r with lines := r.lines.filter fun x => x.name != n }

def State.setRegion (s : State) (dom : Nat) (r : Region) : State := { s with regions := s.regions.put dom r }

/-! ### Reference counts (R253) -/

/-- A line is pinned: it counts in the lifetime record. -/
def State.pinOne (s : State) : State :=
  { s with lifetime := { s.lifetime with pinned := if s.lifetime.pinned = 0xffffffffffffffff then s.lifetime.pinned else s.lifetime.pinned + 1 } }

/-- An uncorrectable error in the reference count of a name, or in its entry of the name index: the line is pinned, and
counts in the lifetime record (R249). -/
def State.pinName (s : State) (dom : Nat) (n : BitVec 128) : State :=
  match s.regions.get dom with
  | none => s
  | some r =>
    match r.find n with
    | none => s
    | some l => if l.count = 0xffffffff then s else (s.setRegion dom (r.set { l with count := 0xffffffff })).pinOne

/-- A reference count or the name index meets an uncorrectable error, whichever instruction, engine or cascade reads it
next: the model's own turn. The record names the wave, where one meets it. -/
def State.countError (s : State) (c dom : Nat) (n : BitVec 128) (array : Nat) (who : Option Nat) : State :=
  let r : FaultRec := match who.bind s.waves.get with
    | some w => match s.wctx w with
      | some x => { s.waveRecord w x .uncorrectable 0 0 0 with flags := 2 }
      | none => { cause := .uncorrectable, ctx := c, flags := 2 }
    | none => { cause := .uncorrectable, ctx := c, flags := 2 }
  (s.pinName dom n).uncorrectable r array

/-- An increment of a name's count: the count after it, and the state; none where the name is absent. -/
def State.incr (s : State) (dom : Nat) (n : BitVec 128) : Option (Word × State) :=
  if n = 0 then some (0xffffffff, s)
  else
    match s.regions.get dom with
    | none => none
    | some r =>
      match r.find n with
      | none => none
      | some l =>
        if l.count = 0xffffffff then some (l.count, s)
        else
          let s := s.setRegion dom (r.set { l with count := l.count + 1 })
          some (l.count + 1, if l.count = 0xfffffffe then s.pinOne else s)

/-- A decrement: the count after it, whether it freed the line, and the state. Freeing a node starts a cascade over
its nonzero entries, in order. -/
def State.decr (s : State) (dom : Nat) (n : BitVec 128) : Option (Word × Bool × State) :=
  if n = 0 then some (0xffffffff, false, s)
  else
    match s.regions.get dom with
    | none => none
    | some r =>
      match r.find n with
      | none => none
      | some l =>
        if l.count = 0xffffffff then some (l.count, false, s)
        else if 1 < l.count.toNat then some (l.count - 1, false, s.setRegion dom (r.set { l with count := l.count - 1 }))
        else
          let es := if l.node then
              ((List.range 32).map fun e => nodeEntry l.bytes e).filter fun e => e != 0
            else []
          let s := s.setRegion dom (r.remove n)
          some (0, true, { s with cascades := s.cascades ++ es.map fun e => (dom, e) })

/-- A decrement whose result no one reads. -/
def State.unref (s : State) (dom : Nat) (n : BitVec 128) : State :=
  match s.decr dom n with
  | some r => r.2.2
  | none => s

/-- A cascade's next decrement in a domain (R253). -/
def State.cascadeStep (s : State) (dom : Nat) : State :=
  match s.cascades.find? fun c => c.1 == dom with
  | none => s
  | some c => { s with cascades := s.cascades.erase c }.unref dom c.2

/-! ### Trees (R252, R264) -/

/-- The line reached from a root name through digits, most significant first: its bytes, zeros, or none where a
name is absent. -/
def Region.descend (r : Region) (n : BitVec 128) : List Nat → Option (Option (List Byte))
  | [] =>
    if n = 0 then some none
    else
      match r.find n with
      | none => none
      | some l => some (some l.bytes)
  | d :: ds =>
    if n = 0 then some none
    else
      match r.find n with
      | none => none
      | some l => Region.descend r (nodeEntry l.bytes d) ds

/-- The base-32 digits of a line index in a tree of a depth, most significant first. -/
def digits (depth i : Nat) : List Nat := (List.range depth).map fun k => i / 32 ^ (depth - 1 - k) % 32

/-- The shape of a root slot is valid (R252). -/
def shapeOk (depth len : Nat) : Bool := decide (depth ≤ 10) && decide (len ≤ 512 * 32 ^ depth)

/-- Byte `p` of a tensor: none where a line on the way is absent. -/
def Region.treeByte (r : Region) (root : BitVec 128) (depth len p : Nat) : Option Byte :=
  if len ≤ p then some 0
  else
    match r.descend root (digits depth (p / 512)) with
    | none => none
    | some none => some 0
    | some (some bs) => some (bs.getD (p % 512) 0)

/-! ### Domains as collection instructions name them (R254) -/

/-- The domain that a dom field selects, where it has a collection region. -/
def State.domSlot (s : State) (c slot : Nat) : Option Nat :=
  let d := if slot = 0 then (s.ctx c).desc.ownDomain.toNat else ((s.ctx c).desc.shared.getD (slot - 1) 0xffff).toNat
  if d = 0xffff then none
  else if (s.regions.get d).isSome then some d
  else none

/-! ### Lookup and allocation (R258) -/

/-- Children incremented in order; where one is absent, the number done before it. -/
def State.incrAll (s : State) (dom : Nat) : List (BitVec 128) → Nat → Nat × State × Bool
  | [], k => (k, s, true)
  | n :: ns, k =>
    match s.incr dom n with
    | some r => State.incrAll r.2 dom ns (k + 1)
    | none => (k, s, false)

/-- A result record (Table 14.10). -/
def resultRecord (name : BitVec 128) (status : Nat) (count : Word) : List Byte :=
  leBytes 16 name.toNat ++ leBytes 4 status ++ leBytes 4 count.toNat ++ leBytes 8 0

/-- The line of a hash at a collision index where it holds the contents, and is not damaged. -/
def Region.sameLine (r : Region) (h : BitVec 120) (node : Bool) (bs : List Byte) (skip : Bool) : Option Line :=
  let hits := (List.range 256).filterMap fun i =>
    match r.find (nameOf h i) with
    | some l => if l.bytes == bs && l.node == node then some l else none
    | none => none
  if skip then (hits.drop 1).head? else hits.head?

/-- CLOOK's lookup or allocation: the record, and the state. A damaged stored line counts as different contents; a
damaged count or index entry pins the line (R249). -/
def State.lookLine (s : State) (dom : Nat) (node : Bool) (bs : List Byte) (err : Option MemError) : List Byte × State :=
  match s.regions.get dom with
  | none => (resultRecord 0 3 0, s)
  | some r =>
    if bs.all fun b => b == 0 then (resultRecord 0 7 0xffffffff, s)
    else
      let h := Config.lineHash dom (s.domain dom).epoch node bs
      let skip := match err with
        | some e => e.array == 4 && decide (e.byte < 512)
        | none => false
      match r.sameLine h node bs skip with
      | some l =>
        let pin := match err with
          | some e => e.array == 4 && decide (512 ≤ e.byte)
          | none => false
        if pin && l.count != 0xffffffff then
          (resultRecord l.name 1 0xffffffff, (s.setRegion dom (r.set { l with count := 0xffffffff })).pinOne)
        else
          match s.incr dom l.name with
          | some q => (resultRecord l.name 1 q.1, q.2)
          | none => (resultRecord 0 3 0, s)
      | none =>
        match (List.range 256).find? fun i => (r.find (nameOf h i)).isNone && !(h == 0 && i == 0) with
        | none => (resultRecord 0 4 0, s)
        | some i =>
          if r.capacity ≤ r.lines.length then (resultRecord 0 5 0, s)
          else
            let n := nameOf h i
            let s := s.setRegion dom { r with lines := r.lines ++ [⟨n, node, bs, 1⟩] }
            if node then
              let es := ((List.range 32).map fun e => nodeEntry bs e).filter fun e => e != 0
              let q := s.incrAll dom es 0
              if q.2.2 then (resultRecord n 2 1, q.2.1)
              else
                let s := (es.take q.1).foldl (fun s e => s.unref dom e) q.2.1
                match s.regions.get dom with
                | some r => (resultRecord 0 6 0, s.setRegion dom (r.remove n))
                | none => (resultRecord 0 6 0, s)
            else (resultRecord n 2 1, s)

end Sys2Proof.Machine
end

