-- ==== Sys2Proof/Machine/Links.lean ====
section
/-! DEFINITION. Links: their states, SPDM, inbound requests of peers, export ranges (R384 to R388). -/

namespace Sys2Proof.Machine

/-! ### Link states (R385, R386, Table 23.1) -/

/-- An event of a port; ports 0 to 17 are UALink, 18 to 21 Ultra Ethernet (R387, R388). -/
def onPort (port : Nat) (s : State) (f : Link → Link) : Host.Outcome State Fault Refusal :=
  .next (if port < 22 then s.setLink port (f (s.link port)) else s)

/-- The link goes down. -/
def Link.drop (l : Link) : Link := { l with state := .down, lanes := 0, session := none, before := none, failures := 0 }

/-- The link is quarantined: its session is over. -/
def Link.quarantine (l : Link) : Link := { l with state := .quarantined, session := none, before := none, failures := 0 }

/-- The lanes with which training ends, and whether that many train. -/
def trainedLanes (n : Nat) : Bool := decide (1 ≤ n) && decide (n ≤ 4)

/-- LINK_PARTNER_DETECT (R385, R406): a port left untrained at start stays down. -/
def execLinkPartnerDetect (port : Nat) (s : State) : Host.Outcome State Fault Refusal :=
  onPort port s fun l => if l.state = .down && s.startRec.steps.getD 8 0 ≠ 4 then { l with state := .training } else l

/-- LINK_TRAINED (R385). -/
def execLinkTrained (port lanes : Nat) (s : State) : Host.Outcome State Fault Refusal :=
  onPort port s fun l =>
    if l.state = .training && l.before.isNone && trainedLanes lanes then
      { l with state := if lanes = 4 then .up else .degraded, lanes := lanes }
    else l

/-- LINK_TRAINING_TIMEOUT (R385). -/
def execLinkTrainingTimeout (port : Nat) (s : State) : Host.Outcome State Fault Refusal :=
  onPort port s fun l => if l.state = .training then l.drop else l

/-- SPDM_SESSION_ESTABLISHED (R385, R386): new link keys are derived from the session. -/
def execSpdmSessionEstablished (port session : Nat) (s : State) : Host.Outcome State Fault Refusal :=
  onPort port s fun l =>
    match l.state with
    | .up => { l with state := .authenticated, session := some session, key := l.key + 1, failures := 0 }
    | .degraded => if l.session.isNone then { l with session := some session, key := l.key + 1, failures := 0 } else l
    | _ => l

/-- AUTHENTICATION_FAILURE (R385). -/
def execAuthenticationFailure (port : Nat) (s : State) : Host.Outcome State Fault Refusal :=
  onPort port s fun l =>
    match l.state with
    | .up | .authenticated | .degraded => l.quarantine
    | _ => l

/-- A message of the session over a port fails its tag or its nonce (R385). -/
def State.linkTagFailure (s : State) (port : Nat) : State :=
  if decide (port < 22) && (s.link port).session.isSome then
    s.setLink port { s.link port with failures := (s.link port).failures + 1 }
  else s

/-- A second of a port's failure count has passed (R385). -/
def State.linkSecond (s : State) (port : Nat) : State :=
  if port < 22 then s.setLink port { s.link port with failures := 0 } else s

/-- TAG_FAILURE_LIMIT (R385): the tag or nonce failure count of a session has passed 64 in one second. -/
def execTagFailureLimit (port : Nat) (s : State) : Host.Outcome State Fault Refusal :=
  onPort port s fun l => if l.session.isSome && decide (64 < l.failures) then l.quarantine else l

/-- LANE_LOSS (R385): the lanes that are left. -/
def execLaneLoss (port lanes : Nat) (s : State) : Host.Outcome State Fault Refusal :=
  onPort port s fun l =>
    match l.state with
    | .up | .authenticated | .degraded =>
      if l.lanes ≤ lanes then l else if lanes = 0 then l.drop else { l with state := .degraded, lanes := lanes }
    | _ => l

/-- LOSS_OF_SIGNAL (R385): a quarantined port stays so until it is released. -/
def execLossOfSignal (port : Nat) (s : State) : Host.Outcome State Fault Refusal :=
  onPort port s fun l => if l.state = .quarantined then l else l.drop

/-- RETRAIN (R385): counted in the lifetime record. -/
def execRetrain (port : Nat) (s : State) : Host.Outcome State Fault Refusal :=
  if decide (22 ≤ port) || !(s.link port).carrying then .next s
  else
    .next { s.setLink port { s.link port with state := .training, before := some (s.link port).state } with
      lifetime := { s.lifetime with
        retrains := s.lifetime.retrains.modify port fun n => if n = 0xffffffff then n else n + 1 } }

/-- RETRAIN_COMPLETE (R385): within 10 ms the session and the earlier state are kept; a longer one ends the session. -/
def execRetrainComplete (port lanes : Nat) (within : Bool) (s : State) : Host.Outcome State Fault Refusal :=
  onPort port s fun l =>
    if l.state ≠ .training || l.before.isNone || !trainedLanes lanes then l
    else
      let l := { l with lanes := lanes, before := none, session := if within then l.session else none, failures := if within then l.failures else 0 }
      if lanes < 4 then { l with state := .degraded }
      else { l with state := if l.session.isSome then .authenticated else .up }

/-- PORT_QUARANTINE (R385). -/
def execPortQuarantine (port : Nat) (s : State) : Host.Outcome State Fault Refusal := onPort port s Link.quarantine

/-- PORT_RELEASE (R385). -/
def execPortRelease (port : Nat) (s : State) : Host.Outcome State Fault Refusal :=
  onPort port s fun l => if l.state = .quarantined then l.drop else l

/-- PORT_DISABLE (R385): the port goes down. -/
def execPortDisable (port : Nat) (s : State) : Host.Outcome State Fault Refusal := onPort port s Link.drop

/-- KEY_UPDATE (R386): the link keys change; queue keys do not. -/
def execKeyUpdate (port : Nat) (s : State) : Host.Outcome State Fault Refusal :=
  onPort port s fun l => if l.session.isSome then { l with key := l.key + 1 } else l

/-- END_SESSION (R385, R386). -/
def execEndSession (port : Nat) (s : State) : Host.Outcome State Fault Refusal :=
  onPort port s fun l => if l.session.isSome then l.quarantine else l

/-- Requests of R386, in its order; GET_MEASUREMENTS is the seventh. -/
def spdmRequests : Nat := 12

/-- The port carries SPDM messages (Table 23.1). -/
def State.speaks (s : State) (port : Nat) : Bool :=
  decide (port < 22) && ((s.link port).state == .up || (s.link port).carrying)

/-- The algorithms that the device supports, no others (R386). -/
def spdmAlgs : List SpdmAlg := [.ecdsaP384Sha384, .ecdheSecp384r1, .aes256Gcm]

/-- A message that the device supports (R386): NEGOTIATE_ALGORITHMS, the third, offers what it supports, and KEY_EXCHANGE,
the eighth, asks for no mutual authentication without certificates. Pre-shared keys have no request among the twelve. -/
def spdmSupported (code : Nat) (t : SpdmTerms) : Bool :=
  decide (code < spdmRequests) && (code != 2 || spdmAlgs.all t.offers.contains) && (code != 7 || !t.bareMutual)

/-- An entry of the lifetime record as the model numbers it: its kind, and which of the kind it is. -/
def entryNumber (e : LifeEntry) : List Byte :=
  match e with
  | .corrected a => leBytes 1 0 ++ leBytes 1 a
  | .uncorrectable a => leBytes 1 1 ++ leBytes 1 a
  | .thermal b => leBytes 1 2 ++ leBytes 1 b
  | .residency i st => leBytes 1 3 ++ leBytes 1 (4 * i + st)
  | .retrains p => leBytes 1 4 ++ leBytes 1 p
  | .safeguard => leBytes 2 5
  | .pinned => leBytes 2 6
  | .startFail k => leBytes 1 7 ++ leBytes 1 k
  | .starts => leBytes 2 8

/-- What the answer to a request is made from: measurements report the hash of the Custodian image and the start record, with
the entries that it marks invalid (R386, R405, R406). -/
def State.spdmBasis (s : State) (code : Nat) (bytes : List Byte) : List Byte :=
  if code = 6 then
    bytes ++ (List.range 48).map Config.custodianHash ++ (s.startRec.steps.map fun n => BitVec.ofNat 8 n) ++
      (s.startRec.invalid.map entryNumber).flatten
  else bytes

/-- SPDM_MESSAGE (R386): the device, as responder, answers a supported request and refuses another. -/
def execSpdmMessage (port code : Nat) (m : SpdmMsg) (s : State) : Host.Outcome State Fault Refusal :=
  if !s.speaks port then .next s
  else if !spdmSupported code m.terms then .next (s.report .refused)
  else .next (s.report (.spdm port (Config.spdmAnswer port code (s.spdmBasis code m.bytes))))

/-- The device, as requester, sends a request of R386 over a port that carries SPDM messages. -/
def State.spdmRequest (s : State) (port code : Nat) (bytes : List Byte) : State :=
  if s.speaks port && decide (code < spdmRequests) then s.report (.spdmAsked port code bytes) else s.report .refused

/-! ### Inbound requests (R384, R387) -/

/-- EXPORT_RANGE_INSTALL (R384): a range installed, or removed. -/
def execExportRangeInstall (idx : Nat) (range : Option ExportRange) (s : State) : Host.Outcome State Fault Refusal :=
  if 256 ≤ idx then .next (s.report .refused)
  else match range with
    | none => .next { s with exports := s.exports.del idx }
    | some r =>
      if decide (0 < r.length) && decide (r.dom < 1024) then .next { s with exports := s.exports.put idx r }
      else .next (s.report .refused)

/-- Bytes that a request touches, and the permission it needs; none for one that is not supported (R387). -/
def reqShape (r : PeerReq) : Option (Nat × (ExportRange → Bool)) :=
  match r with
  | .read n => if 1 ≤ n && n ≤ 256 then some (n, fun e => e.rd) else none
  | .write bs => if 1 ≤ bs.length && bs.length ≤ 256 then some (bs.length, fun e => e.wr) else none
  | .atomAdd _ | .atomXchg _ | .atomCas _ _ => some (8, fun e => e.atom)
  | .atomOther _ => none

/-- A request of `n` bytes lies inside a range that admits the peer. -/
def inRange (e : ExportRange) (peer pa n : Nat) : Bool :=
  decide (e.base * 65536 ≤ pa) && decide (pa + n ≤ (e.base + e.length) * 65536) && e.peers.getLsbD peer

/-- The range in which a request is accepted. -/
def State.exportFor (s : State) (peer pa : Nat) (req : PeerReq) : Option ExportRange :=
  match reqShape req with
  | none => none
  | some q => (s.exports.find? fun e => inRange e.2 peer pa q.1 && q.2 e.2).map fun e => e.2

/-- The value that an atomic stores. -/
def atomResult (r : PeerReq) (old : DWord) : DWord :=
  match r with
  | .atomAdd v => old + v
  | .atomXchg v => v
  | .atomCas c n => if old = c then n else old
  | _ => old

/-- An accepted request under its range's key domain (R215, R384). -/
def State.serveRequest (s : State) (port pa dom : Nat) (req : PeerReq) : State :=
  match req with
  | .read n => s.report (.peerAnswer port (s.hbmReads dom pa n))
  | .write bs => (s.hbmWrites dom pa bs).report (.peerAnswer port [])
  | _ =>
    let old := s.hbmReads dom pa 8
    (s.hbmWrites dom pa (leBytes 8 (atomResult req (BitVec.ofNat 64 (leNat old))).toNat)).report (.peerAnswer port old)

/-- INBOUND_REQUEST (R384, R387): accepted whole in an export range, or refused, counted and answered with an error. -/
def execInboundRequest (port peer pa : Nat) (req : PeerReq) (s : State) : Host.Outcome State Fault Refusal :=
  if decide (18 ≤ port) || !(s.link port).carrying then .next s
  else match s.exportFor peer pa req with
    | some e => .next (s.serveRequest port pa e.dom req)
    | none =>
      .next ((s.setLink port { s.link port with refused := (s.link port).refused + 1 }).report (.completionError port))

end Sys2Proof.Machine
end

