-- ==== Sys2Proof/Machine/Copy.lean ====
section
/-! DEFINITION. The copy and wait classes 0x11 and 0x12: CPY, CPYO, BULK, arrival words, completion rings, waits on
counters (R179 to R186, R191 to R198), and the completions of copies. -/

namespace Sys2Proof.Machine

/-! ### Structures that an instruction names (R179) -/

/-- The window address that an A operand gives: bits [31:0] of a uniform register. -/
def structAddr (w : Wave) (x : WCtx) (a : Operand) : Word := (readUni w x a).setWidth 32

/-- Windows in which arrival words, rings and cards lie. -/
def structWindows : Windows := { spill := false, block := true, die := true, device := false }

/-- A structure's checks (R168), as a cause of an instruction that acts once (R367). -/
def checkStruct (w : Wave) (x : WCtx) (a : Word) (n align : Nat) : Except Cause Unit :=
  match checkWindow w x structWindows a n align with
  | .ok _ => .ok ()
  | .error c => .error c

/-- Device addresses of `n` bytes at a window address that has passed its checks. -/
def structBytes (w : Wave) (x : WCtx) (a : Word) (n : Nat) : List Nat :=
  (List.range n).map fun i => match windowByte w x a i with
    | .lds d => d
    | .spill _ => 0

/-- A structure's bytes as a wave reads them, after the wave's own earlier stores (R176). -/
def State.structRead (s : State) (x : WCtx) (ds : List Nat) : List Byte := ds.map fun d => s.ldsRead (s.waveDom x) d

/-- An instruction that acts once on a structure: ARRTEST, ARRWAIT, CRPOLL, CRSLEEP. It performs the wave's stores that wait, at
issue, so that it reads what they leave (DESIGN CHOICE, log entry 10). -/
def onceAt (s : State) (w : Wave) (x : WCtx) (h : Head) (a : Word) (n align : Nat) (f : State → Mask → Res) : Res :=
  once s w h fun g =>
    match checkStruct w x a n align with
    | .error c => onceCause g c (a.setWidth 64)
    | .ok _ => f (s.flushStores s.cur (s.waveDom x)) g

/-! ### Arrival words (R191, R192) -/

/-- The fields of an arrival word. -/
structure Arrival where
  target : Nat
  count : Nat
  gen : Nat
  fault : Bool
  overrun : Bool
  deriving DecidableEq, Repr

def Arrival.ofBytes (bs : List Byte) : Arrival :=
  ⟨leField bs 0 4, leField bs 4 4, leField bs 8 3, leField bs 11 1 % 2 = 1, leField bs 11 1 / 2 % 2 = 1⟩

def Arrival.flags (a : Arrival) : Nat := (if a.fault then 1 else 0) + if a.overrun then 2 else 0

/-- A credit of `b` bytes (R191). -/
def Arrival.credit (a : Arrival) (b : Nat) : Arrival :=
  if a.target = 0 then { a with fault := true }
  else
    let n := min (a.count + b) 0xffffffff
    if a.target ≤ n then
      let n' := n - a.target
      { a with gen := (a.gen + 1) % 2 ^ 24, count := n', overrun := a.overrun || decide (a.target ≤ n') }
    else { a with count := n }

/-- Bytes 4 to 11 of the word. -/
def Arrival.tail (a : Arrival) : List Byte := leBytes 4 a.count ++ leBytes 3 a.gen ++ leBytes 1 a.flags

def State.arrivalAt (s : State) (dom a : Nat) : Arrival := Arrival.ofBytes (s.ldsReads dom a 16)

/-- A credit applied at the port reducer of a word at a device address (R191). -/
def State.creditAt (s : State) (dom a b : Nat) : State := s.ldsWrites dom (a + 4) ((s.arrivalAt dom a).credit b).tail

/-- FAULT set in a word (R188, R190). -/
def State.faultAt (s : State) (dom a : Nat) : State :=
  let w := s.arrivalAt dom a
  s.ldsWrites dom (a + 11) (leBytes 1 { w with fault := true }.flags)

/-- The generation has changed or FAULT is set (R194). -/
def Arrival.ready (a : Arrival) (gen : Nat) : Bool := a.gen != gen || a.fault

/-! ### CPY and CPYO (R180 to R183) -/

/-- Bytes per lane. -/
def copyBytes : CpySize → Nat
  | .sz4 => 4
  | .sz8 => 8
  | .sz16 => 16
  | .sz32 => 32

/-- The number of a register operand. -/
def laneNo : Operand → Nat
  | .lane n => n.toNat
  | _ => 0

/-- Valid bytes and HBM address of a lane (R180). -/
def copyValid (w : Wave) (b : Operand) (n l : Nat) : Nat := min ((w.lane l).reg (laneNo b + 1)).toNat n
def copyVa (w : Wave) (x : WCtx) (a b : Operand) (l : Nat) : DWord :=
  readUni w x a + ((w.lane l).reg (laneNo b)).setWidth 64

/-- What a lane of a copy raises before translation: its window, its HBM alignment (R168, R180). -/
def copyLaneCause (w : Wave) (x : WCtx) (d a b : Operand) (n : Nat) (l : Nat) : Option (Nat × Cause × DWord) :=
  let dst := readWord w x l d
  match checkWindow w x {} dst n n with
  | .error c => some (l, c, dst.setWidth 64)
  | .ok _ =>
    if copyValid w b n l ≠ 0 && (copyVa w x a b l).toNat % n ≠ 0 then some (l, .misaligned, copyVa w x a b l) else none

/-- What the arrival word of `%arrw` raises, after the lanes' own checks (R180, R193). -/
def arrwCause (w : Wave) (x : WCtx) (arr : Bool) : Option Cause :=
  if arr then
    match checkStruct w x w.arrw 16 16 with
    | .error c => some c
    | .ok _ => none
  else none

/-- The window checks of a copy pass in every lane, and those of its arrival word (R168, R193). -/
def windowsPass (w : Wave) (x : WCtx) (d : Operand) (n : Nat) (g : Mask) (arr : Bool) : Bool :=
  ((lanesOf g).all fun l => (checkWindow w x {} (readWord w x l d) n n).isOk) && (arrwCause w x arr).isNone

/-- The copy holds an entry of its core's queue: a load until it has finished in every lane, a store until its tag count
falls (R180, R181). -/
def PendCopy.queued (c : PendCopy) : Bool :=
  match c.kind with
  | .load => c.lanes.any fun l => !l.done
  | _ => true

/-- Copies of a kind that hold an entry of the core's queue (R180, R181). -/
def State.copyQueue (s : State) (die core : Nat) (kind : CopyKind) : Nat :=
  (s.waves.map fun e =>
    if e.2.die = die && e.2.core = core then (e.2.copies.filter fun c => c.kind == kind && c.queued).length else 0).sum

/-- The copy counter, or the core's queue of that kind, has no room. -/
def State.copyFull (s : State) (w : Wave) (kind : CopyKind) : Bool :=
  decide (63 ≤ w.copyCount) || decide (16 ≤ s.copyQueue w.die w.core kind)

/-- What a direction of copy asks of its pages (R182). -/
def CopyKind.need (k : CopyKind) : Need := if k = .load then .read else .write

/-- A place is foreign to the engines of a die: its page is shared by the die alone, and lies in a stack of another. Then
it is read as it has been since the page was mapped (R214). -/
def State.foreignSince (s : State) (die c : Nat) (va : DWord) (pa sharing : Nat) : Option Nat :=
  if sharing = 0 && !s.isPeer pa && stackDie (localPa pa) != die then some (s.mappedAt c va) else none

/-- The same for an address of a copy, as its core translates it. -/
def State.foreignPage (s : State) (w : Wave) (c : Nat) (va : DWord) (need : Need) : Option Nat :=
  match s.translate w.die w.core c va need with
  | .ok pa _ sharing => s.foreignSince w.die c va pa sharing
  | _ => none

/-- CPY or CPYO with its places and its translations known: the operation counts in its tag until it is complete. -/
def copyAt (kind : CopyKind) (a b : Operand) (size : CpySize) (tag : BitVec 3) (arr : Bool) (s : State) (w : Wave) (x : WCtx)
    (ps : List (Nat × Loc)) (ts : List (Nat × Nat × Nat)) : State :=
  let n := copyBytes size
  let s := (s.flushStores s.cur (s.waveDom x)).expose w (kind == .store)
  let k := s.newKey
  let w' := s.curWave w
  let lanes := ps.map fun p =>
    let a' := match p.2 with
      | .lds q => q
      | .spill _ => 0
    { lane := p.1, local_ := a', va := copyVa w x a b p.1
      pa := (ts.find? fun t => t.1 == p.1).map fun t => t.2
      bytes := copyValid w b n p.1, whole := n
      data := if kind = .store then k.2.readLoc w' x p.1 p.2 n else []
      foreign := k.2.foreignPage w x.grid.ctx (copyVa w x a b p.1) kind.need : CopyLane }
  k.2.updWave s.cur fun v =>
    { v with copies := v.copies ++
      [{ op := k.1, tag := tag.toNat, kind := kind, at_ := w.issuing, floor := v.seen, lanes := lanes
         arr := if arr then (structBytes w x w.arrw 1).head? else none }] }

/-- Places of the lanes' local parts. -/
def copyPlaces (w : Wave) (x : WCtx) (d : Operand) (n : Nat) (g : Mask) : List (Nat × Loc) :=
  (lanesOf g).filterMap fun l => match checkWindow w x {} (readWord w x l d) n n with
    | .ok p => some (l, p)
    | .error _ => none

/-- HBM addresses of the lanes that move bytes. -/
def copyVas (w : Wave) (x : WCtx) (a b : Operand) (n : Nat) (g : Mask) : List (Nat × DWord) :=
  ((lanesOf g).filter fun l => copyValid w b n l ≠ 0).map fun l => (l, copyVa w x a b l)

/-- CPY or CPYO. -/
def copyRes (kind : CopyKind) (h : Head) (d a b : Operand) (size : CpySize) (tag : BitVec 3) (arr : Bool) (s : State) (w : Wave)
    (x : WCtx) : Res :=
  let g := w.guard h
  let n := copyBytes size
  if g = 0 then .done s
  else
    match worstCause ((lanesOf g).filterMap (copyLaneCause w x d a b n)) with
    | some c => Res.exposing (.cause c.1 c.2.1 c.2.2 0) s w (kind == .store && windowsPass w x d n g arr)
    | none =>
      let ps := copyPlaces w x d n g
      Res.exposing (match s.translateAll w x.grid.ctx (copyVas w x a b n g) kind.need with
        | .error r => r
        | .ok ts =>
          match if kind = .load then claimCause w x ps (fun l => readWord w x l d) n else none with
          | some c => .cause c.1 c.2.1 c.2.2 0
          | none =>
            match arrwCause w x arr with
            | some c => .cause c g (w.arrw.setWidth 64) 0
            | none => if s.copyFull w kind then .stall s else .done (copyAt kind a b size tag arr s w x ps ts))
        s w (kind == .store && (arrwCause w x arr).isNone)

/-- CPY (R180). -/
def execCpy (h : Head) (d a b : Operand) (size : CpySize) (tag : BitVec 3) (arr : Bool) (s : State) :
    Host.Outcome State Fault Refusal :=
  issue (.cpy h d a b size tag arr) s (copyRes .load h d a b size tag arr)

/-- CPYO (R181). -/
def execCpyo (h : Head) (d a b : Operand) (size : CpySize) (tag : BitVec 3) (arr : Bool) (s : State) :
    Host.Outcome State Fault Refusal :=
  issue (.cpyo h d a b size tag arr) s (copyRes .store h d a b size tag arr)

/-! ### BULK (R186) -/

/-- The block record by which a card's window addresses are resolved: as it stands when the instruction issues. Where the
block is saved while the card still runs, its bytes, credits and record go on to the granules that the block held then, which
the save has freed, and after a resume too, since no rule says otherwise (R186, R234, R410; DESIGN CHOICE, log entry 21). -/
def WCtx.win (x : WCtx) : Block × KernelDesc :=
  ({ x.block with barriers := [], rings := [], matrix := [], image := [], records := [] }, x.kern.desc)

/-- A card handed to the engine of the wave's core, counted in a tag until it is read. -/
def handCard (tag : Nat) (a : Word) (slot : Option (Nat × List Byte)) (s : State) (w : Wave) (x : WCtx) : State :=
  let k := s.newKey
  let c : Card :=
    { die := w.die, core := w.core, ctx := x.grid.ctx, win := some x.win, wave := some s.cur, floor := w.seen
      place := structBytes w x a 128, slot := slot, treeDom := slot.map fun p => (p.1, (s.domain p.1).epoch) }
  let s' := { k.2 with cards := k.2.cards.put k.1 c }.updCore w.die w.core fun q => { q with unread := q.unread ++ [k.1] }
  s'.updWave s.cur fun v => { v with copies := v.copies ++ [{ op := k.1, tag := tag, kind := .card, at_ := w.issuing }] }

/-- The engine holds 16 unread cards, or the copy counter is full. -/
def State.cardsFull (s : State) (w : Wave) : Bool :=
  decide (63 ≤ w.copyCount) || decide (16 ≤ (s.core w.die w.core).unread.length)

/-- BULK (R186). -/
def execBulk (h : Head) (a : Operand) (b : Option Operand) (tag : BitVec 3) (s : State) : Host.Outcome State Fault Refusal :=
  issue (.bulk h a b tag) s fun s w x =>
    let addr := structAddr w x a + readOpt w x 0 b
    once s w h fun g =>
      match checkStruct w x addr 128 128 with
      | .error c => onceCause g c (addr.setWidth 64)
      | .ok _ =>
        if s.cardsFull w then .stall s
        else .done (handCard tag.toNat addr none ((s.flushStores s.cur (s.waveDom x)).expose w true) w x)

/-! ### Arrival-word instructions (R192, R194) -/

/-- ARRINIT (R192): performed at once in the own core's store, else with the wave's stores. -/
def execArrinit (h : Head) (a b : Operand) (s : State) : Host.Outcome State Fault Refusal :=
  issue (.arrinit h a b) s fun s w x =>
    let addr := structAddr w x a
    once s w h fun g =>
      match checkStruct w x addr 16 16 with
      | .error c => onceCause g c (addr.setWidth 64)
      | .ok _ =>
        if 63 ≤ w.storeCount then .stall s
        else
          let t : Word := (readUni w x b).setWidth 32
          let bs := leBytes 4 (if t = 0 then 1 else t.toNat) ++ leBytes 4 0
          let d := (structBytes w x addr 1).headD 0
          let writes := [(d, bs), (d + 11, [0])]
          if w.ownCore (.lds d) then
            let s := s.flushStores s.cur (s.waveDom x)
            let s' := writes.foldl (fun s p => s.ldsWrites (s.waveDom x) p.1 p.2) s
            .done (s'.updWave s.cur fun v => { v with stores := v.stores ++ [{ writes := [] }] })
          else .done (s.updWave s.cur fun v => { v with stores := v.stores ++ [{ writes := writes }] })

/-- The generation that a B operand names (R194). -/
def genOf (w : Wave) (x : WCtx) (b : Operand) : Nat := (readUni w x b).toNat % 2 ^ 24

/-- ARRTEST (R194). -/
def execArrtest (h : Head) (d a b : Operand) (s : State) : Host.Outcome State Fault Refusal :=
  issue (.arrtest h d a b) s fun s w x =>
    let addr := structAddr w x a
    onceAt s w x h addr 16 16 fun s g =>
      let v := s.arrivalAt (s.waveDom x) ((structBytes w x addr 1).headD 0)
      let r := (if v.ready (genOf w x b) then 2 ^ 32 else 0) + v.flags * 2 ^ 24 + v.gen
      .done (s.updWave s.cur fun u => u.writeD d true g fun _ => BitVec.ofNat 64 r)

/-- What ARRWAIT returns (R194). -/
def Arrival.result (a : Arrival) : DWord := BitVec.ofNat 64 (a.flags * 2 ^ 24 + a.gen)

/-- The number of a uniform register operand. -/
def uniNo : Operand → Nat
  | .uni n => n.toNat
  | _ => 0

/-- ARRWAIT (R194): it returns at once, or the wave sleeps. -/
def execArrwait (h : Head) (d a b : Operand) (s : State) : Host.Outcome State Fault Refusal :=
  issue (.arrwait h d a b) s fun s w x =>
    let addr := structAddr w x a
    onceAt s w x h addr 16 16 fun s _ =>
      let p := (structBytes w x addr 1).headD 0
      let v := s.arrivalAt (s.waveDom x) p
      if v.ready (genOf w x b) then .done (s.updWave s.cur fun u => u.setUni (uniNo d) v.result)
      else .wait (s.updWave s.cur fun u => { u with wait := some (.arrwait addr (BitVec.ofNat 32 (genOf w x b)) (uniNo d)) })

/-- The wave stops waiting: its instruction takes effect and retires (Table 5.4). -/
def State.wake (s : State) (n : Nat) (f : Wave → Wave) : State :=
  match s.waves.get n with
  | none => s
  | some w =>
    match s.wctx w with
    | none => s
    | some x =>
      let w' := { w with wait := none }
      (s.setWave n w').finish n w' x (.done (s.setWave n (f w')))

/-- A wave that can come out of a wait: not saved, not halted, not faulted. -/
def Wave.wakeable (w : Wave) : Bool := !w.saved && !w.halted && w.phase == .active

/-- An event of a wave, with its block, grid and kernel; where there is none nothing happens. -/
def onWave (s : State) (n : Nat) (f : Wave → WCtx → State) : Host.Outcome State Fault Refusal :=
  match s.waves.get n with
  | none => .next s
  | some w =>
    match s.wctx w with
    | none => .next s
    | some x => .next (f w x)

/-- ARRWAIT_WAKE (R194). -/
def execArrwaitWake (n : Nat) (s : State) : Host.Outcome State Fault Refusal :=
  onWave s n fun w x =>
    match w.wait with
    | some (.arrwait addr gen dst) =>
      let v := s.arrivalAt (s.waveDom x) ((structBytes w x addr 1).headD 0)
      if w.wakeable && v.ready gen.toNat then s.wake n fun u => u.setUni dst v.result else s
    | _ => s

/-! ### Completion rings (R195 to R198) -/

/-- The fields of a ring header. -/
structure RingHead where
  entries : Nat
  tail : Nat
  head : Nat
  dropped : Nat
  deriving DecidableEq, Repr

def RingHead.ofBytes (bs : List Byte) : RingHead := ⟨leField bs 0 4, leField bs 4 4, leField bs 8 4, leField bs 12 4⟩

/-- CRPOLL's record: its slot's bytes; a byte outside every window is not defined, and with no slots at all the whole
record is not (log entry 20). -/
def State.ringRecord (s : State) (w : Wave) (x : WCtx) (addr : Word) (r : RingHead) : List Byte :=
  (List.range 32).map fun i =>
    let a := addr + BitVec.ofNat 32 (32 + 32 * (r.head % r.entries) + i)
    match if r.entries = 0 then none else windowLoc w.die x.block x.kern.desc a 1 with
    | some (.lds d) => s.ldsRead (s.waveDom x) d
    | _ => Config.strayByte a.toNat w.accn.toNat

/-- CRPOLL (R197). -/
def execCrpoll (h : Head) (d a : Operand) (s : State) : Host.Outcome State Fault Refusal :=
  issue (.crpoll h d a) s fun s w x =>
    let addr := structAddr w x a
    onceAt s w x h addr 32 32 fun s _ =>
      let ds := structBytes w x addr 32
      let r := RingHead.ofBytes (s.structRead x ds)
      let put := fun (bs : List Byte) (u : Wave) =>
        (List.range 4).foldl (fun (u : Wave) i => u.setUni (uniNo d + i) (BitVec.ofNat 64 (leField bs (8 * i) 8))) u
      if r.head = r.tail then .done (s.updWave s.cur (put []))
      else
        let bs := s.ringRecord w x addr r
        let s' := s.ldsWrites (s.waveDom x) (ds.getD 8 0) (leBytes 4 (r.head + 1))
        .done (s'.updWave s.cur (put bs))

/-- CRSLEEP (R198). -/
def execCrsleep (h : Head) (a : Operand) (s : State) : Host.Outcome State Fault Refusal :=
  issue (.crsleep h a) s fun s w x =>
    let addr := structAddr w x a
    onceAt s w x h addr 32 32 fun s _ =>
      let r := RingHead.ofBytes (s.structRead x (structBytes w x addr 32))
      if r.tail ≠ r.head then .done s
      else .wait (s.updWave s.cur fun u => { u with wait := some (.crsleep addr) })

/-- CRSLEEP_WAKE (R198). -/
def execCrsleepWake (n : Nat) (s : State) : Host.Outcome State Fault Refusal :=
  onWave s n fun w x =>
    match w.wait with
    | some (.crsleep addr) =>
      let r := RingHead.ofBytes (s.structRead x (structBytes w x addr 32))
      if w.wakeable && r.tail ≠ r.head then s.wake n fun u => u else s
    | _ => s

/-! ### Waits on counters (R184, R185) -/

/-- The wave has observed that a tag counts at most `n`: it has seen the fall of all but the last `n` of the tag's operations,
and with it the bytes that those wrote (R202). -/
def Wave.observe (w : Wave) (tag n : Nat) : Wave :=
  let mine := w.fell.filter fun e => e.1 == tag
  let k := mine.length + w.tagCount tag - n
  if w.fell.isEmpty then w
  else
    { w with
      fell := (w.fell.filter fun e => e.1 != tag) ++ mine.drop k
      seen := (mine.take k).foldl (fun t e => e.2.foldl (fun t b => t.put b.1 (max b.2 ((t.get b.1).getD 0))) t) w.seen }

/-- WAITC (R184, R202). -/
def execWaitc (h : Head) (l st c t : BitVec 6) (s : State) : Host.Outcome State Fault Refusal :=
  issue (.waitc h l st c t) s fun s w _ => once s w h fun _ =>
    if decide (w.loads.length ≤ l.toNat) && decide (w.storeCount ≤ st.toNat) && decide (w.copyCount ≤ c.toNat) &&
        decide (w.tiles.length ≤ t.toNat) then
      .done (s.updWave s.cur fun v => (List.range 8).foldl (fun v n => v.observe n c.toNat) v)
    else .stall s

/-- WAITT (R185, R202). -/
def execWaitt (h : Head) (tag : BitVec 3) (n : BitVec 6) (s : State) : Host.Outcome State Fault Refusal :=
  issue (.waitt h tag n) s fun s w _ => once s w h fun _ =>
    if w.tagCount tag.toNat ≤ n.toNat then .done (s.updWave s.cur fun v => v.observe tag.toNat n.toNat) else .stall s

/-! ### Completions (R172, R173, R180, R181) -/

/-- A register write of a completing load. -/
def Wave.writeReg (w : Wave) : RegWrite → Wave
  | .lane l r v => w.updLane l fun x => x.setReg r v
  | .uni r v => w.setUni r v

/-- The bytes that the lanes of a load have read, with one damaged, counted over all lanes (R249). -/
def damageRead (n : Nat) (e : MemError) (size : Nat) (read : List (Nat × List Byte)) : List (Nat × List Byte) :=
  read.mapIdx fun j q => (q.1, q.2.mapIdx fun i b => if j * size + i = e.byte then Config.damagedByte n e.byte else b)

/-- What a load writes, where an error may have damaged a byte that it has read: an error stands in the bytes before they are
extended (R176, R249). An ATOM has met its error as it read. -/
def PendLoad.damaged (p : PendLoad) (n : Nat) : Option MemError → List RegWrite
  | none => p.writes
  | some e => match p.read with
    | some (d, ty, read) => loadWrites d ty (damageRead n e (memBytes ty) read)
    | none => p.writes

/-- The error that a load or atomic reports as it completes: the one that it meets now, or an ATOM's own (R249). -/
def PendLoad.met (p : PendLoad) (err : Option MemError) : Option MemError := if p.read.isSome then err else p.err

/-- A notice of an uncorrectable error that an operation of a wave met, issued earlier. -/
def State.waveError (s : State) (w : Wave) (x : WCtx) (i : Issued) (e : Option MemError) (lanes : Mask) (addr : DWord) : State :=
  match e with
  | none => s
  | some e => s.uncorrectable (s.lateRecord w x i .uncorrectable lanes addr 0) e.array

/-- LOAD_COMPLETE (R172, R173): the wave's oldest load or atomic, where its updates have been performed. -/
def execLoadComplete (n : Nat) (err : Option MemError) (s : State) : Host.Outcome State Fault Refusal :=
  onWave s n fun w x =>
    match w.loads with
    | [] => s
    | p :: ps =>
      if p.owed then s
      else
      let s' := s.setWave n { (p.damaged s.errors err).foldl Wave.writeReg w with loads := ps }
      s'.waveError w x p.at_ (p.met err) 0 0

/-- The atomics at the head of a wave's stores are performed: no store stands before them (R209). -/
def State.performAtoms (s : State) (key dom : Nat) : List PendStore → State
  | [] => s
  | p :: ps =>
    if p.atom.isSome then
      State.performAtoms ((s.perform key dom p).updWave key fun v => { v with stores := ps }) key dom ps
    else s

/-- STORE_PERFORMED (R172, R173, R209): the wave's oldest store, at its port reducer, and the atomics that waited for it
alone. -/
def execStorePerformed (n : Nat) (s : State) : Host.Outcome State Fault Refusal :=
  onWave s n fun w x =>
    match w.stores with
    | [] => s
    | p :: ps =>
      ((s.perform n (s.waveDom x) p).updWave n fun v => { v with stores := ps }).performAtoms n (s.waveDom x) ps

/-- A change to one copy operation of a wave. -/
def Wave.updCopy (w : Wave) (op : Nat) (f : PendCopy → PendCopy) : Wave :=
  { w with copies := w.copies.map fun c => if c.op = op then f c else c }

/-- A change to one lane of a copy operation. -/
def PendCopy.updLane (c : PendCopy) (l : Nat) (f : CopyLane → CopyLane) : PendCopy :=
  { c with lanes := c.lanes.map fun q => if q.lane = l then f q else q }

/-- Bytes of a lane's transfer, of the values given, reach their places one by one (R180, R181, R206). -/
def State.landBytes (s : State) (x : WCtx) (c : PendCopy) (l : CopyLane) (bs : List Byte) (offs : List Nat) : State :=
  offs.foldl (fun s i =>
    match c.kind with
    | .load => s.ldsWrite (s.waveDom x) (l.local_ + i) (if i < l.bytes then bs.getD i 0 else 0)
    | .store => match l.pa with
      | some p => if i < l.bytes then s.memWrites p.2 (p.1 + i) [bs.getD i 0] else s
      | none => s
    | _ => s) s

/-- The bytes of HBM that a lane has written once some more of its bytes land, with HBM's count of writes before each (R117,
R202). -/
def CopyLane.wroteBy (l : CopyLane) (s : State) (x : WCtx) (c : PendCopy) (bs : List Byte) (offs : List Nat) : Tbl Nat :=
  (offs.foldl (fun (r : State × Tbl Nat) i =>
    (r.1.landBytes x c l bs [i], match c.kind, l.pa with
      | .store, some p => if i < l.bytes && !r.1.isPeer p.1 then r.2.put (localPa p.1 + i) r.1.hbmClock else r.2
      | _, _ => r.2)) (s, l.wrote)).2

/-- The bytes of a lane's transfer that have not landed. -/
def CopyLane.rest (l : CopyLane) : List Nat := (List.range l.whole).filter fun i => !l.landed.contains i

/-- The rest of one lane's transfer lands (R180, R181); a peer's bytes are those given, and an error damages one byte. -/
def State.landLane (s : State) (n : Nat) (x : WCtx) (c : PendCopy) (l : CopyLane) (bs : List Byte) : State :=
  let dom := s.waveDom x
  let s' := (s.landBytes x c l bs l.rest).updWave n fun v => v.updCopy c.op fun k => k.updLane l.lane fun q =>
    { q with done := true, wrote := l.wroteBy s x c bs l.rest }
  match c.arr with
  | none => s'
  | some a => s'.creditAt dom a (if c.kind = .load then l.whole else l.bytes)

/-- The unfinished lane of a copy of a wave. -/
def Wave.copyLane (w : Wave) (op lane : Nat) : Option (PendCopy × CopyLane) :=
  match w.copies.find? fun c => c.op == op && (c.kind == .load || c.kind == .store) with
  | none => none
  | some c => (c.lanes.find? fun l => l.lane == lane && !l.done).map fun l => (c, l)

/-- No path leads to the peer that the lane's transfer reaches: it waits (R383, R385). -/
def CopyLane.unreached (l : CopyLane) (s : State) : Bool := match l.pa with
  | some p => s.noPath [] p.1
  | none => false

/-- The record of a peer that no path has reached in time (R383). -/
def FaultRec.peerLost (r : FaultRec) (pa : Nat) : FaultRec :=
  { r with cause := .uncorrectable, arg := BitVec.ofNat 32 (0x10000 + peerNo pa) }

/-- From which of HBM's writes on an engine reads a byte of a page that only another die shares: those since the page was
mapped, and none older than what the wave has seen written there (R202, R214; DEDUCED, log entry 21). -/
def staleFrom (floor : Tbl Nat) (since pa : Nat) : Nat := max since ((floor.get pa).getD 0)

/-- What a lane of a CPY reads of HBM now: of a page that only another die shares, any bytes that it has held (R202, R214). -/
def State.copySource (s : State) (c : PendCopy) (l : CopyLane) (p : Nat × Nat) : List Byte :=
  match l.foreign with
  | some since => (List.range l.bytes).map fun i =>
    s.hbmStale p.2 (localPa p.1 + i) (staleFrom c.floor since (localPa p.1 + i))
  | none => s.memReads p.2 p.1 l.bytes

/-- Some bytes of a lane's transfer land before the rest: the model's own turn, so that an engine's write is no single
one (R206, R207). -/
def State.landSome (s : State) (n op lane : Nat) (offs : List Nat) : State :=
  match s.waves.get n with
  | none => s
  | some w =>
    match s.wctx w, w.copyLane op lane with
    | some x, some (c, l) =>
      let offs := if l.unreached s then [] else offs.filter fun i => l.rest.contains i
      let bs := match c.kind, l.pa with
        | .load, some p => s.copySource c l p
        | _, _ => l.data
      (s.landBytes x c l bs offs).updWave n fun v => v.updCopy op fun k => k.updLane lane fun q =>
        { q with landed := q.landed ++ offs, wrote := l.wroteBy s x c bs offs }
    | _, _ => s

/-- COPY_LANE_DONE (R180, R181, R191). The peer's bytes matter only where the lane reads a peer's page, and then
there are as many as the lane takes. -/
def execCopyLaneDone (n op lane : Nat) (peer : List Byte) (err : Option MemError) (s : State) :
    Host.Outcome State Fault Refusal :=
  onWave s n fun w x =>
    match w.copyLane op lane with
    | none => s
    | some (c, l) =>
      if l.unreached s then s
      else match c.kind, l.pa with
      | .load, some p =>
        if s.isPeer p.1 then (if peer.length = l.bytes then s.landLane n x c l peer else s)
        else (s.landLane n x c l (s.damage (s.copySource c l p) err)).waveError w x c.at_ err (1#64 <<< l.lane) l.va
      | .load, none => s.landLane n x c l []
      | _, _ => (s.landLane n x c l (s.damage l.data err)).waveError w x c.at_ err (1#64 <<< l.lane) l.va

/-- PEER_PATH_TIMEOUT (R383): while no path leads to the peer, reads deliver zeros, writes are discarded, and the transfer
completes. -/
def execPeerPathTimeout (n op lane : Nat) (s : State) : Host.Outcome State Fault Refusal :=
  onWave s n fun w x =>
    match w.copyLane op lane with
    | none => s
    | some (c, l) =>
      match l.pa with
      | none => s
      | some p =>
        if l.unreached s then
          let l' := if c.kind = .store then { l with pa := none } else l
          let s' := s.landLane n x c l' (List.replicate l.bytes 0)
          s'.notice ((s.lateRecord w x c.at_ .uncorrectable (1#64 <<< l.lane) l.va 0).peerLost p.1)
        else s

/-- A copy operation has finished in every lane. -/
def PendCopy.finished (c : PendCopy) : Bool :=
  match c.kind with
  | .load | .store => c.lanes.all fun l => l.done
  | _ => c.done

/-- The bytes that a CPYO has written to pages that only another die shares, with HBM's count of writes after each (R202). -/
def PendCopy.foreignWrites (c : PendCopy) : Tbl Nat :=
  (c.lanes.filter fun l => l.foreign.isSome).foldl (fun t l =>
    l.wrote.foldl (fun t b => t.put b.1 (max (b.2 + 1) ((t.get b.1).getD 0))) t) []

/-- An operation that leaves its tag is remembered until the wave has observed it: where it wrote to a foreign page, or came
after one that did (R202). -/
def Wave.fallen (w : Wave) (c : PendCopy) : List (Nat × Tbl Nat) :=
  if c.foreignWrites.isEmpty && !w.fell.any fun e => e.1 == c.tag then w.fell else w.fell ++ [(c.tag, c.foreignWrites)]

/-- The oldest operation of a tag leaves its count where it has finished (R173). -/
def Wave.tagFall (w : Wave) (t : Nat) : Wave :=
  match w.copies.find? fun c => c.tag == t with
  | none => w
  | some c => if c.finished then { w with copies := w.copies.filter fun k => k.op ≠ c.op, fell := w.fallen c } else w

/-- COPY_TAG_FALL (R173). -/
def execCopyTagFall (n : Nat) (tag : BitVec 3) (s : State) : Host.Outcome State Fault Refusal :=
  onWave s n fun _ _ => s.updWave n fun v => v.tagFall tag.toNat

end Sys2Proof.Machine
end

