-- ==== Sys2Proof/Machine/Collection.lean ====
section
/-! DEFINITION. The collection class 0x22, its completions, and cascades (R250 to R265). -/

namespace Sys2Proof.Machine

/-- A name in a pair of uniform registers (R251). -/
def Wave.nameAt (w : Wave) (k : Nat) : BitVec 128 := w.uni (k + 1) ++ w.uni k

/-- The domain of a dom field, or NO_REGION (R255). -/
def withRegion (s : State) (x : WCtx) (g : Mask) (dom : BitVec 3) (f : Nat → Res) : Res :=
  match s.domSlot x.grid.ctx dom.toNat with
  | none => onceCause g .noRegion 0
  | some d => f d

/-- A local-store structure of an instruction that acts once (R254). -/
def withStruct (w : Wave) (x : WCtx) (g : Mask) (a : Word) (n align : Nat) (f : Res) : Res :=
  match checkStruct w x a n align with
  | .error c => onceCause g c (a.setWidth 64)
  | .ok _ => f

/-- The collection region of a domain, where the domain still has the keys of an epoch: a discard has not come between
(R265). -/
def State.regionAt (s : State) (dom epoch : Nat) : Option Region :=
  if (s.domain dom).epoch = epoch then s.regions.get dom else none

/-- A collection copy enters its tag (R256); CLOOK exposes its block (R308). -/
def pendCollection (c : PendCopy) (s : State) (w : Wave) (x : WCtx) : Res :=
  if 63 ≤ w.copyCount then .stall s
  else
    let k := ((s.expose w (c.kind == .look)).flushStores s.cur (s.waveDom x)).newKey
    .done (k.2.updWave s.cur fun v => { v with copies := v.copies ++
      [{ c with op := k.1, at_ := w.issuing, epoch := (s.domain c.dom).epoch }] })

/-- CLOOK (R258). -/
def execClook (h : Head) (d a : Operand) (dom tag : BitVec 3) (node : Bool) (s : State) : Host.Outcome State Fault Refusal :=
  issue (.clook h d a dom tag node) s fun s w x => once s w h fun g =>
    let src := structAddr w x a
    let rec_ := structAddr w x d
    withStruct w x g src 512 16 (withStruct w x g rec_ 32 32 (Res.exposing (withRegion s x g dom fun n =>
      pendCollection { op := 0, tag := tag.toNat, kind := .look, dom := n, node := node, line := src, rec_ := some rec_ }
        s w x) s w true))

/-- CFETCH (R259). -/
def execCfetch (h : Head) (d a : Operand) (b : Option Operand) (dom tag : BitVec 3) (s : State) :
    Host.Outcome State Fault Refusal :=
  issue (.cfetch h d a b dom tag) s fun s w x => once s w h fun g =>
    let dst := structAddr w x d
    let rec_ := b.map (structAddr w x)
    let next := withRegion s x g dom fun n =>
      pendCollection { op := 0, tag := tag.toNat, kind := .fetch, dom := n, name := w.nameAt (uniNo a), line := dst, rec_ := rec_ }
        s w x
    withStruct w x g dst 512 16 (match rec_ with
      | some r => withStruct w x g r 32 32 next
      | none => next)

/-- A wave's collection copy that is not complete. -/
def Wave.collection (w : Wave) (op : Nat) (kind : CopyKind) : Option PendCopy :=
  w.copies.find? fun c => c.op == op && c.kind == kind && !c.done

/-- The copy is complete, and its tag falls where nothing earlier is unfinished (R173, R256). -/
def Wave.complete (w : Wave) (c : PendCopy) : Wave := (w.updCopy c.op fun k => { k with done := true }).tagFall c.tag

/-- Bytes at a window address as a wave of the block names them. -/
def windowBytes (w : Wave) (x : WCtx) (a : Word) (n : Nat) : List Nat := structBytes w x a n

/-- Some of the bytes at a window address written, one by one, each at its place among them. -/
def State.structPut (s : State) (w : Wave) (x : WCtx) (a : Word) (bs : List Byte) (offs : List Nat) : State :=
  let ds := windowBytes w x a bs.length
  offs.foldl (fun s i => s.ldsWrite (s.waveDom x) (ds.getD i 0) (bs.getD i 0)) s

/-- The source bytes of a CLOOK: those that have been read already, and the others as they are now (R258). -/
def State.lookBytes (s : State) (w : Wave) (x : WCtx) (c : PendCopy) : List Byte :=
  (s.structRead x (windowBytes w x c.line 512)).mapIdx fun i b => (c.early.get i).getD b

/-- Some source bytes of a CLOOK are read before the rest: the model's own turn (R258). -/
def State.lookRead (s : State) (n op : Nat) (offs : List Nat) : State :=
  match s.waves.get n with
  | none => s
  | some w =>
    match s.wctx w, w.collection op .look with
    | some x, some c =>
      let bs := s.lookBytes w x c
      let offs := offs.filter fun i => decide (i < 512)
      s.updWave n fun v => v.updCopy op fun k => { k with early := offs.foldl (fun t i => t.put i (bs.getD i 0)) k.early }
    | _, _ => s

/-- The result record of a CLOOK, with the state that its lookup leaves: as it has been made already, or made now (R258,
R265). -/
def State.lookMade (s : State) (w : Wave) (x : WCtx) (c : PendCopy) (err : Option MemError) : List Byte × State :=
  match c.result with
  | some r => (r, s)
  | none =>
    let bs := s.lookBytes w x c
    let bs := match err with
      | some e => if e.array = 1 then s.damage bs err else bs
      | none => bs
    if (s.regionAt c.dom c.epoch).isSome then s.lookLine c.dom c.node bs err else (resultRecord 0 3 0, s)

/-- The error that a CLOOK's lookup reports: where it is made now (R249). -/
def PendCopy.lookErr (c : PendCopy) (err : Option MemError) : Option MemError := if c.result.isSome then none else err

/-- Bytes of a copy's result record that have not been written. -/
def PendCopy.restRecord (c : PendCopy) : List Nat := (List.range 32).filter fun i => !c.landed.contains (512 + i)

/-- A CLOOK makes its lookup, and some bytes of its record are written before the rest: the model's own turn (R206, R258). -/
def State.lookLand (s : State) (n op : Nat) (err : Option MemError) (offs : List Nat) : State :=
  match s.waves.get n with
  | none => s
  | some w =>
    match s.wctx w, w.collection op .look with
    | some x, some c =>
      let r := s.lookMade w x c err
      let offs := offs.filter fun i => c.restRecord.contains i
      let s' := match c.rec_ with
        | some a => r.2.structPut w x a r.1 offs
        | none => r.2
      (s'.updWave n fun v => v.updCopy op fun k =>
        { k with result := some r.1, landed := k.landed ++ offs.map fun i => 512 + i }).waveError w x c.at_ (c.lookErr err) 0 0
    | _, _ => s

/-- CLOOK_FINISH (R249, R258, R265): the rest of the record is written. -/
def execClookFinish (n op : Nat) (err : Option MemError) (s : State) : Host.Outcome State Fault Refusal :=
  onWave s n fun w x =>
    match w.collection op .look with
    | none => s
    | some c =>
      let r := s.lookMade w x c err
      let s' := match c.rec_ with
        | some a => r.2.structPut w x a r.1 c.restRecord
        | none => r.2
      (s'.updWave n fun v => v.complete c).waveError w x c.at_ (c.lookErr err) 0 0

/-- The line that a CFETCH delivers, with its count: the one of which it has delivered bytes already, else the one of its
name; zeros for the name 0 (R259). Where a byte of the record is written, it is decided. -/
def State.fetchLine (s : State) (c : PendCopy) : Option (List Byte × Word) :=
  match c.found, if c.result.isSome then none else s.regionAt c.dom c.epoch with
  | some p, _ => some p
  | none, none => none
  | none, some r =>
    if c.name = 0 then some (List.replicate 512 0, 0xffffffff)
    else (r.find c.name).map fun l => (l.bytes, l.count)

/-- Bytes of a line of 512 that have not landed. -/
def PendCopy.unlanded (c : PendCopy) : List Nat := (List.range 512).filter fun i => !c.landed.contains i

/-- The result record of a CFETCH. -/
def PendCopy.fetchRecord (c : PendCopy) (line : Option (List Byte × Word)) : List Byte :=
  match line with
  | some p => resultRecord c.name (if c.name = 0 then 7 else 1) p.2
  | none => resultRecord 0 3 0

/-- Some bytes of a CFETCH land before the rest: the model's own turn (R206, R259). The places are those of the line, and 512
on those of its record, which follows the line. -/
def State.fetchSome (s : State) (n op : Nat) (offs : List Nat) : State :=
  match s.waves.get n with
  | none => s
  | some w =>
    match s.wctx w, w.collection op .fetch with
    | some x, some c =>
      let line := s.fetchLine c
      let bytes := if line.isSome then offs.filter fun i => c.unlanded.contains i else []
      let whole := line.isNone || c.unlanded.all fun i => bytes.contains i
      let marks := if whole && c.rec_.isSome then offs.filter fun i => decide (512 ≤ i) && c.restRecord.contains (i - 512) else []
      let s1 := match line with
        | some p => s.structPut w x c.line p.1 bytes
        | none => s
      let s2 := match c.rec_ with
        | some a => s1.structPut w x a (c.fetchRecord line) (marks.map fun i => i - 512)
        | none => s1
      if bytes.isEmpty && marks.isEmpty then s
      else s2.updWave n fun v => v.updCopy op fun k =>
        { k with
          found := line
          landed := k.landed ++ bytes ++ marks
          result := if marks.isEmpty then k.result else some (c.fetchRecord line) }
    | _, _ => s

/-- CFETCH_FINISH (R249, R259, R265): the rest of the line lands, and the rest of the record is written. -/
def execCfetchFinish (n op : Nat) (err : Option MemError) (s : State) : Host.Outcome State Fault Refusal :=
  onWave s n fun w x =>
    match w.collection op .fetch with
    | none => s
    | some c =>
      let line := s.fetchLine c
      let s1 := match line with
        | some p => s.structPut w x c.line (s.damage p.1 err) c.unlanded
        | none => s
      let s2 := match c.rec_ with
        | some a => s1.structPut w x a (c.fetchRecord line) c.restRecord
        | none => s1
      (s2.updWave n fun v => v.complete c).waveError w x c.at_ err 0 0

/-- The value of Table 14.11. -/
def refValue (count : Word) (freed : Bool) : DWord :=
  BitVec.ofNat 64 ((if freed then 2 ^ 33 else 0) + (if count = 0xffffffff then 2 ^ 32 else 0) + count.toNat)

/-- CREF (R260). -/
def execCref (h : Head) (d a : Operand) (dom : BitVec 3) (s : State) : Host.Outcome State Fault Refusal :=
  issue (.cref h d a dom) s fun s w x => once s w h fun g =>
    Res.exposing (withRegion s x g dom fun n =>
      match s.incr n (w.nameAt (uniNo a)) with
      | none => onceCause g .nameAbsent 0
      | some r => .done ((r.2.expose w true).updWave s.cur fun v => v.setUni (uniNo d) (refValue r.1 false))) s w true

/-- CUNREF (R260). -/
def execCunref (h : Head) (d a : Operand) (dom : BitVec 3) (s : State) : Host.Outcome State Fault Refusal :=
  issue (.cunref h d a dom) s fun s w x => once s w h fun g =>
    Res.exposing (withRegion s x g dom fun n =>
      match s.decr n (w.nameAt (uniNo a)) with
      | none => onceCause g .nameAbsent 0
      | some r => .done ((r.2.2.expose w true).updWave s.cur fun v => v.setUni (uniNo d) (refValue r.1 r.2.1))) s w true

/-- A root slot's bytes (Table 14.7). -/
def rootSlot (name : BitVec 128) (len depth : Nat) : List Byte :=
  leBytes 16 name.toNat ++ leBytes 8 len ++ leBytes 1 depth ++ leBytes 7 0

/-- The name in a root slot. -/
def slotName (bs : List Byte) : BitVec 128 := BitVec.ofNat 128 (leField bs 0 16)

/-- CROOTCAS with its slot found (R261). -/
def rootCas (h : Head) (d : Operand) (shape : DWord) (pa dom : Nat) (s : State) (w : Wave) (x : WCtx) (g : Mask) : Res :=
  let depth := shape.toNat / 2 ^ 56
  let len := shape.toNat % 2 ^ 56
  let k := uniNo d
  let exp := w.nameAt k
  let new := w.nameAt (k + 2)
  if (s.regions.get dom).isNone then onceCause g .noRegion 0
  else if !shapeOk depth len then onceCause g .rootShape 0
  else
    match s.incr dom new with
    | none => onceCause g .nameAbsent 0
    | some r =>
      let s := (r.2.flushStores s.cur (s.waveDom x)).expose w true
      let cur := slotName (s.memReads dom pa 32)
      let s := if cur = exp then (s.memWrites dom pa (rootSlot new len depth)).unref dom cur else s.unref dom new
      .done (s.updWave s.cur fun v =>
        ((v.setUni k (cur.setWidth 64)).setUni (k + 1) (cur.extractLsb' 64 64)).reportPred h (cur == exp))

/-- CROOTCAS (R261). -/
def execCrootcas (h : Head) (d a b : Operand) (s : State) : Host.Outcome State Fault Refusal :=
  issue (.crootcas h d a b) s fun s w x => once s w h fun g =>
    let va := readUni w x a
    Res.exposing (if va.toNat % 32 ≠ 0 then onceCause g .misaligned va
      else
        match s.translateAll w x.grid.ctx ((lanesOf g).map fun l => (l, va)) .root with
        | .error r => r
        | .ok [] => .stall s
        | .ok (t :: _) => rootCas h d (readUni w x b) t.2.1 t.2.2 s w x g) s w true

/-- CCOPYOUT with its slot found (R263). -/
def copyOut (tag : BitVec 3) (addr : Word) (pa dom : Nat) (s : State) (w : Wave) (x : WCtx) (g : Mask) : Res :=
  if (s.regions.get dom).isNone then onceCause g .noRegion 0
  else if s.cardsFull w then .stall s
  else
    let slot := s.memReads dom pa 32
    match s.incr dom (slotName slot) with
    | none => onceCause g .nameAbsent 0
    | some r => .done (handCard tag.toNat addr (some (dom, slot)) ((r.2.flushStores s.cur (s.waveDom x)).expose w true) w x)

/-- CCOPYOUT (R263). -/
def execCcopyout (h : Head) (a b : Operand) (tag : BitVec 3) (s : State) : Host.Outcome State Fault Refusal :=
  issue (.ccopyout h a b tag) s fun s w x => once s w h fun g =>
    let addr := structAddr w x a
    let va := readUni w x b
    withStruct w x g addr 128 128 (Res.exposing (
      if va.toNat % 32 ≠ 0 then onceCause g .misaligned va
      else
        match s.translateAll w x.grid.ctx ((lanesOf g).map fun l => (l, va)) .slot with
        | .error r => r
        | .ok [] => .stall s
        | .ok (t :: _) => copyOut tag addr t.2.1 t.2.2 s w x g) s w true)

/-- CASCADE (R253). -/
def execCascade (dom : Nat) (s : State) : Host.Outcome State Fault Refusal := .next (s.cascadeStep dom)

/-- COLLECTION_REGION_CREATE (R250): one region for each domain; every slot of the root area starts as zeros (R252). -/
def execCollectionRegionCreate (dom capacity rootBase rootLen : Nat) (s : State) : Host.Outcome State Fault Refusal :=
  if (s.regions.get dom).isSome || !(s.domain dom).live || decide (2 ^ 32 < capacity) || decide (rootBase % 32 ≠ 0) ||
      decide (rootLen % 32 ≠ 0) then .next (s.report .refused)
  else
    .next ((s.hbmWrites dom rootBase (List.replicate rootLen 0)).setRegion dom
      { capacity := capacity, rootBase := rootBase, rootLen := rootLen })

end Sys2Proof.Machine
end

