-- ==== Sys2Proof/Machine/Move.lean ====
section
/-! DEFINITION. The move class 0x04: moves, immediates, selects and width changes (R131 to R136). -/

namespace Sys2Proof.Machine

/-- A MOV whose destination is a special register (R99, R132): lane by lane for `%lpc`, else once with the value of
the lowest guarded lane. Every register but the lane-PCs takes its effect after the instruction has read `w`. A 32-bit value
to a 64-bit register clears bits [63:32], as R56 does for a uniform register: R132 does not say (DESIGN CHOICE, log entry 9).
R132 names the lane for a lane-register source alone: the lowest guarded lane gives the value of a lane-valued special
register or a predicate too (DESIGN CHOICE, log entry 9). R79 makes a MOV from `%fflags` wait and says nothing of one to it:
it is written at once, and tile instructions that are pending set their flags in it afterwards (DESIGN CHOICE, log
entry 9). -/
def movSpec (h : Head) (n : BitVec 8) (a : Operand) (wide : Bool) (s : State) (w : Wave) (x : WCtx) : Res :=
  let g := w.guard h
  let val := fun l => readWith w x wide (immShape (if wide then .wide else .one)) l a
  if n = 0x20 then .done (s.setWave s.cur (w.writeLpc g fun l => (val l).setWidth 32))
  else
    match lowestLane g with
    | none => .done s
    | some l =>
      match w.writeSpec x n (val l) with
      | .ok w' => .done (s.setWave s.cur w')
      | .error c => onceCause g c 0

/-- A MOV from `%fflags` waits until every earlier instruction that can set a flag has completed (R79): tile
operations are the only ones that set flags after their issue. -/
def flagsPending (w : Wave) (a : Operand) : Bool := a == .spec 0x30 && !w.tiles.isEmpty

/-- MOV (R132). -/
def movRes (h : Head) (d a : Operand) (ty : IType) (s : State) (w : Wave) (x : WCtx) : Res :=
  if flagsPending w a then .stall s
  else
    let wide := wideType ty
    match d with
    | .spec n =>
      if n.toNat < 8 then
        .done (s.setWave s.cur (w.writePred n.toNat (w.guard h) fun l => readWord w x l a != 0))
      else movSpec h n a wide s w x
    | _ => alu s w h d wide fun l => readOp w x (shapeOf ty) l a

/-- MOV (R132, R133). -/
def execMov (h : Head) (d a : Operand) (ty : IType) (s : State) : Host.Outcome State Fault Refusal :=
  issue (.mov h d a ty) s (movRes h d a ty)

/-- MOVI (R134). -/
def execMovi (h : Head) (d : Operand) (v : BitVec 32) (s : State) : Host.Outcome State Fault Refusal :=
  issue (.movi h d v) s fun s w _ => alu s w h d false fun _ => v.setWidth 64

/-- SEL (R135). -/
def execSel (h : Head) (d a b : Operand) (neg : Bool) (p : BitVec 3) (s : State) : Host.Outcome State Fault Refusal :=
  issue (.sel h d a b neg p) s fun s w x =>
    alu s w h d false fun l =>
      (if w.predOf l p.toNat != neg then readWord w x l a else readWord w x l b).setWidth 64

/-- Width and signedness of an ICVT type (Table 6.6). -/
def ctypeBits : CType → Nat
  | .s8 | .z8 => 8
  | .s16 | .z16 => 16
  | .s32 | .z32 => 32
  | .s64 | .z64 => 64
def ctypeSigned : CType → Bool
  | .s8 | .s16 | .s32 | .s64 => true
  | _ => false
def ctypeWide (t : CType) : Bool := ctypeBits t == 64

/-- An integer as a value of a type, extended to 64 bits as the type says (R69, R136). -/
def ofCType (t : CType) (sat : Bool) (v : Int) : DWord :=
  let f := fitInt (ctypeSigned t) sat (ctypeBits t) v
  if ctypeSigned t then f.signExtend 64 else f.setWidth 64

/-- The exact integer that a source holds in a type, in its low bits (R136). -/
def toCType (t : CType) (v : DWord) : Int := intOf (ctypeSigned t) (v.setWidth (ctypeBits t))

/-- ICVT (R136). A uniform D takes the form extended to 64 bits. -/
def icvtRes (h : Head) (d a : Operand) (dt st : CType) (sat : Bool) (s : State) (w : Wave) (x : WCtx) : Res :=
  let uni := match d with
    | .uni _ => true
    | _ => false
  alu s w h d (ctypeWide dt || uni) fun l =>
    ofCType dt sat (toCType st (readOp w x (if ctypeWide st then .wide else .one) l a))

/-- ICVT (R136). -/
def execIcvt (h : Head) (d a : Operand) (dt st : CType) (sat : Bool) (s : State) : Host.Outcome State Fault Refusal :=
  issue (.icvt h d a dt st sat) s (icvtRes h d a dt st sat)

end Sys2Proof.Machine
end

