-- ==== Sys2Proof/Machine/Predicate.lean ====
section
/-! DEFINITION. The integer instructions of class 0x05: comparisons, predicate tables, votes and shuffles
(R137 to R142). -/

namespace Sys2Proof.Machine

/-- A comparison's result put into the predicate (Table 6.8). -/
def combine (k : Comb) (q r : Bool) : Bool :=
  match k with
  | .put => r
  | .conj => q && r
  | .disj => q || r

/-- A comparison of integers (Table 6.8). -/
def icmpHolds (c : ICmp) (a b : Int) : Bool :=
  match c with
  | .eq => a == b
  | .ne => a != b
  | .lt => decide (a < b)
  | .le => decide (a ≤ b)
  | .gt => decide (b < a)
  | .ge => decide (b ≤ a)

/-- The first element of a source in a type. -/
def elem0 (t : IType) (v : DWord) : Int := (elems t v).getD 0 0

/-- ISETP (R138). -/
def execIsetp (h : Head) (d a b : Operand) (ty : IType) (c : ICmp) (k : Comb) (s : State) : Host.Outcome State Fault Refusal :=
  issue (.isetp h d a b ty c k) s fun s w x =>
    .done (s.setWave s.cur (w.writePred (predNo d) (w.guard h) fun l =>
      combine k (w.predOf l (predNo d))
        (icmpHolds c (elem0 ty (readOp w x (shapeOf ty) l a)) (elem0 ty (readOp w x (shapeOf ty) l b)))))

/-- PLOGT (R139). -/
def execPlogt (h : Head) (d a b : Operand) (t : BitVec 8) (s : State) : Host.Outcome State Fault Refusal :=
  issue (.plogt h d a b t) s fun s w _ =>
    .done (s.setWave s.cur (w.writePred (predNo d) (w.guard h) fun l =>
      t.getLsbD ((if w.predOf l (predNo a) then 1 else 0) + (if w.predOf l (predNo b) then 2 else 0) +
        (if w.predOf l (predNo d) then 4 else 0))))

/-- VOTE (R140). -/
def voteRes (h : Head) (d a : Operand) (mode : VoteMode) (s : State) (w : Wave) : Res :=
  let g := w.guard h
  let v := maskOf fun l => g.getLsbD l && w.predOf l (predNo a)
  match mode with
  | .any => .done (s.setWave s.cur (w.writePred (predNo d) g fun _ => v != 0))
  | .all => .done (s.setWave s.cur (w.writePred (predNo d) g fun _ => v == g))
  | .eq => .done (s.setWave s.cur (w.writePred (predNo d) g fun _ => v == 0 || v == g))
  | .ballot => .done (s.setWave s.cur (w.writeD d true g fun _ => v))

/-- VOTE (R140). -/
def execVote (h : Head) (d a : Operand) (mode : VoteMode) (s : State) : Host.Outcome State Fault Refusal :=
  issue (.vote h d a mode) s fun s w _ => voteRes h d a mode s w

/-- Segment size (Table 6.10). -/
def segSize (seg : Seg) (width : Nat) : Nat :=
  let n := match seg with
    | .segw => 0
    | .seg2 => 2
    | .seg4 => 4
    | .seg8 => 8
    | .seg16 => 16
    | .seg32 => 32
  if n = 0 || decide (width < n) then width else n

/-- The source lane of SHFL, where it is in range (R141). -/
def shflSource (mode : ShflMode) (n l c : Nat) : Option Nat :=
  let base := l - l % n
  match mode with
  | .idx => if c < n then some (base + c) else none
  | .up => if c ≤ l - base then some (l - c) else none
  | .dn => if c < base + n - l then some (l + c) else none
  | .xor => if c < n then some (l ^^^ c) else none

/-- SHFL (R141). -/
def execShfl (h : Head) (d a b : Operand) (seg : Seg) (mode : ShflMode) (s : State) : Host.Outcome State Fault Refusal :=
  issue (.shfl h d a b seg mode) s fun s w x =>
    alu s w h d false fun l =>
      (readWord w x ((shflSource mode (segSize seg w.width) l (readWord w x l b).toNat).getD l) a).setWidth 64

end Sys2Proof.Machine
end

