-- ==== Sys2Proof/Machine/Float.lean ====
section
/-! DEFINITION. The float class 0x08 and FSETP (R143 to R153). -/

namespace Sys2Proof.Machine

/-- The format of a float type's elements. -/
def fmtOf : FType → Fmt
  | .f32 => fmtF32
  | .f64 => fmtF64
  | .f16 | .f16x2 => fmtF16
  | .bf16 | .bf16x2 => fmtBf16

def fWide (t : FType) : Bool := t == .f64

/-- Bit positions of the elements (R72). -/
def fElems : FType → List Nat
  | .f16x2 | .bf16x2 => [0, 16]
  | _ => [0]

/-- An immediate converted to the type, rounded to nearest even, in both halves of a packed type (R55). The specification does
not say whether an inexact or overflowing conversion sets NX or OF: here it sets no flag (DESIGN CHOICE, log entry 9). -/
def fImm (t : FType) (v : BitVec 18) : DWord :=
  let r := (roundFin (fmtOf t) .rne false (decide (v.toInt < 0)) v.toInt.natAbs 0).code
  match t with
  | .f16x2 | .bf16x2 => BitVec.ofNat 64 (r + 65536 * r)
  | _ => BitVec.ofNat 64 r

/-- A source of a float operation in a lane (R143). -/
def fRead (w : Wave) (x : WCtx) (t : FType) (l : Nat) (o : Operand) : DWord := readWith w x (fWide t) (fImm t) l o

/-- The code of the element at a bit position. -/
def fCode (t : FType) (v : DWord) (pos : Nat) : Nat := v.toNat / 2 ^ pos % 2 ^ (fmtOf t).bits

/-- Element results put together. -/
def fJoin (ps : List (Nat × FRes)) : DWord × FlagSet :=
  (BitVec.ofNat 64 ((ps.map fun p => p.2.code * 2 ^ p.1).foldl (· + ·) 0), (ps.map fun p => p.2.flags).foldl (· ||| ·) 0)

/-- A float operation on A, B and the old D, element by element. -/
def floatRes (h : Head) (d a b : Operand) (m : FMod) (f : Num → Num → Num → FRes) (s : State) (w : Wave) (x : WCtx) : Res :=
  aluF s w h d (fWide m.ty) fun l =>
    let num := fun o pos => readNum (fmtOf m.ty) m.ftz (fCode m.ty (fRead w x m.ty l o) pos)
    fJoin ((fElems m.ty).map fun pos => (pos, f (num a pos) (num b pos) (num d pos)))

/-- A float operation on A alone. -/
def floatRes1 (h : Head) (d a : Operand) (m : FMod) (f : Num → FRes) (s : State) (w : Wave) (x : WCtx) : Res :=
  floatRes h d a a m (fun p _ _ => f p) s w x

/-- FADD (Table 7.2). -/
def execFadd (h : Head) (d a b : Operand) (m : FMod) (s : State) : Host.Outcome State Fault Refusal :=
  issue (.fadd h d a b m) s (floatRes h d a b m fun p q _ => addNum (fmtOf m.ty) m.rnd m.ftz p q)

/-- FSUB (Table 7.2). -/
def execFsub (h : Head) (d a b : Operand) (m : FMod) (s : State) : Host.Outcome State Fault Refusal :=
  issue (.fsub h d a b m) s (floatRes h d a b m fun p q _ => addNum (fmtOf m.ty) m.rnd m.ftz p q.negate)

/-- FMUL (Table 7.2). -/
def execFmul (h : Head) (d a b : Operand) (m : FMod) (s : State) : Host.Outcome State Fault Refusal :=
  issue (.fmul h d a b m) s (floatRes h d a b m fun p q _ => mulNum (fmtOf m.ty) m.rnd m.ftz p q)

/-- FFMA (Table 7.2, R87). -/
def execFfma (h : Head) (d a b : Operand) (m : FMod) (s : State) : Host.Outcome State Fault Refusal :=
  issue (.ffma h d a b m) s (floatRes h d a b m fun p q r => fmaNum (fmtOf m.ty) m.rnd m.ftz p q r)

/-- FDIV (Table 7.2). -/
def execFdiv (h : Head) (d a b : Operand) (m : FMod) (s : State) : Host.Outcome State Fault Refusal :=
  issue (.fdiv h d a b m) s (floatRes h d a b m fun p q _ => divNum (fmtOf m.ty) m.rnd m.ftz p q)

/-- FSQRT (Table 7.2). -/
def execFsqrt (h : Head) (d a : Operand) (m : FMod) (s : State) : Host.Outcome State Fault Refusal :=
  issue (.fsqrt h d a m) s (floatRes1 h d a m fun p => sqrtNum (fmtOf m.ty) m.rnd m.ftz p)

/-- FRCP (R148). -/
def execFrcp (h : Head) (d a : Operand) (m : FMod) (s : State) : Host.Outcome State Fault Refusal :=
  issue (.frcp h d a m) s (floatRes1 h d a m fun p => rcpNum (fmtOf m.ty) m.ftz p)

/-- FRSQ (R148). -/
def execFrsq (h : Head) (d a : Operand) (m : FMod) (s : State) : Host.Outcome State Fault Refusal :=
  issue (.frsq h d a m) s (floatRes1 h d a m fun p => rsqrtNum (fmtOf m.ty) m.ftz p)

/-- FEXP2 (R148). -/
def execFexp2 (h : Head) (d a : Operand) (m : FMod) (s : State) : Host.Outcome State Fault Refusal :=
  issue (.fexp2 h d a m) s (floatRes1 h d a m fun p => exp2Num (fmtOf m.ty) m.ftz p)

/-- FLOG2 (R148). -/
def execFlog2 (h : Head) (d a : Operand) (m : FMod) (s : State) : Host.Outcome State Fault Refusal :=
  issue (.flog2 h d a m) s (floatRes1 h d a m fun p => log2Num (fmtOf m.ty) m.ftz p)

/-- FSIN (R148). -/
def execFsin (h : Head) (d a : Operand) (m : FMod) (s : State) : Host.Outcome State Fault Refusal :=
  issue (.fsin h d a m) s (floatRes1 h d a m fun p => sinNum (fmtOf m.ty) m.ftz p)

/-- FCOS (R148). -/
def execFcos (h : Head) (d a : Operand) (m : FMod) (s : State) : Host.Outcome State Fault Refusal :=
  issue (.fcos h d a m) s (floatRes1 h d a m fun p => cosNum (fmtOf m.ty) m.ftz p)

/-- FRND (R151). -/
def execFrnd (h : Head) (d a : Operand) (m : FMod) (s : State) : Host.Outcome State Fault Refusal :=
  issue (.frnd h d a m) s (floatRes1 h d a m fun p => rndNum (fmtOf m.ty) m.rnd m.ftz p)

/-! ### Operations on codes -/

/-- The sign of a code. -/
def codeNeg (f : Fmt) (v : Nat) : Bool := v / 2 ^ (f.exp + f.man) % 2 = 1

/-- A code with a subnormal brought to the zero of its sign, under ftz (R74). -/
def flushCode (f : Fmt) (ftz : Bool) (v : Nat) : Nat := if ftz && isSubnormal f v then signBit f (codeNeg f v) else v

/-- A finite or infinite code's place in the order −∞ to +∞, with −0 below +0 (R147). -/
def codeOrder (f : Fmt) (v : Nat) : Int :=
  let mag : Int := (v % 2 ^ (f.exp + f.man) : Nat)
  if codeNeg f v then -1 - mag else mag

/-- FMIN and FMAX (R147). -/
def minMax (f : Fmt) (ftz greater : Bool) (a b : Nat) : FRes :=
  let a := flushCode f ftz a
  let b := flushCode f ftz b
  let na := decodeNum f a
  let nb := decodeNum f b
  let flags := snanFlag [na, nb]
  if na.isNan && nb.isNan then ⟨f.nan, flags⟩
  else if na.isNan then ⟨b, flags⟩
  else if nb.isNan then ⟨a, flags⟩
  else ⟨if (decide (codeOrder f a < codeOrder f b)) != greater then a else b, flags⟩

/-- A float operation on the codes of A and B. -/
def codeRes (h : Head) (d a b : Operand) (m : FMod) (f : Nat → Nat → FRes) (s : State) (w : Wave) (x : WCtx) : Res :=
  aluF s w h d (fWide m.ty) fun l =>
    fJoin ((fElems m.ty).map fun pos =>
      (pos, f (fCode m.ty (fRead w x m.ty l a) pos) (fCode m.ty (fRead w x m.ty l b) pos)))

/-- FMIN (R147). -/
def execFmin (h : Head) (d a b : Operand) (m : FMod) (s : State) : Host.Outcome State Fault Refusal :=
  issue (.fmin h d a b m) s (codeRes h d a b m fun p q => minMax (fmtOf m.ty) m.ftz false p q)

/-- FMAX (R147). -/
def execFmax (h : Head) (d a b : Operand) (m : FMod) (s : State) : Host.Outcome State Fault Refusal :=
  issue (.fmax h d a b m) s (codeRes h d a b m fun p q => minMax (fmtOf m.ty) m.ftz true p q)

/-- The bit of Table 7.5 for a code. -/
def classBit (f : Fmt) (v : Nat) : Nat :=
  match decodeNum f v with
  | .nan s => if s then 8 else 9
  | .inf n => if n then 0 else 7
  | .fin n m _ =>
    if m = 0 then (if n then 3 else 4)
    else if isSubnormal f v then (if n then 2 else 5)
    else (if n then 1 else 6)

/-- FCLASS (R150). -/
def execFclass (h : Head) (d a : Operand) (m : FMod) (s : State) : Host.Outcome State Fault Refusal :=
  issue (.fclass h d a m) s fun s w x =>
    alu s w h d false fun l =>
      (fJoin ((fElems m.ty).map fun pos =>
        (pos, ⟨2 ^ classBit (fmtOf m.ty) (fCode m.ty (fRead w x m.ty l a) pos), 0⟩))).1

/-- FABS (R152). -/
def execFabs (h : Head) (d a : Operand) (m : FMod) (s : State) : Host.Outcome State Fault Refusal :=
  issue (.fabs h d a m) s (codeRes h d a a m fun p _ => ⟨p % 2 ^ ((fmtOf m.ty).bits - 1), 0⟩)

/-- FNEG (R152). -/
def execFneg (h : Head) (d a : Operand) (m : FMod) (s : State) : Host.Outcome State Fault Refusal :=
  issue (.fneg h d a m) s (codeRes h d a a m fun p _ =>
    ⟨(p + 2 ^ ((fmtOf m.ty).bits - 1)) % 2 ^ (fmtOf m.ty).bits, 0⟩)

/-! ### Comparison (R153) -/

/-- The result of a comparison of two codes, and whether it sets NV (R153). -/
def fcmpHolds (f : Fmt) (c : FCmp) (a b : Nat) : Bool × FlagSet :=
  let na := decodeNum f a
  let nb := decodeNum f b
  let un := na.isNan || nb.isNan
  -- with −0 equal to +0
  let oa := if a % 2 ^ (f.exp + f.man) = 0 then 0 else codeOrder f a + if codeNeg f a then 1 else 0
  let ob := if b % 2 ^ (f.exp + f.man) = 0 then 0 else codeOrder f b + if codeNeg f b then 1 else 0
  let quiet := snanFlag [na, nb]
  let loud := flagIf un flagNV
  match c with
  | .eq => (!un && oa == ob, quiet)
  | .ne => (un || oa != ob, quiet)
  | .lt => (!un && decide (oa < ob), loud)
  | .le => (!un && decide (oa ≤ ob), loud)
  | .gt => (!un && decide (ob < oa), loud)
  | .ge => (!un && decide (ob ≤ oa), loud)
  | .num => (!un, quiet)
  | .nan => (un, quiet)

/-- FSETP (R153). -/
def execFsetp (h : Head) (d a b : Operand) (ty : FType) (c : FCmp) (k : Comb) (s : State) : Host.Outcome State Fault Refusal :=
  issue (.fsetp h d a b ty c k) s fun s w x =>
    let g := w.guard h
    let r := fun l => fcmpHolds (fmtOf ty) c (fCode ty (fRead w x ty l a) 0) (fCode ty (fRead w x ty l b) 0)
    let w' := w.writePred (predNo d) g fun l => combine k (w.predOf l (predNo d)) (r l).1
    .done (s.setWave s.cur { w' with fflags := (lanesOf g).foldl (fun f l => f ||| (r l).2) w'.fflags })

end Sys2Proof.Machine
end

