-- ==== Sys2Proof/Machine/Cards.lean ====
section
/-! DEFINITION. Job cards: how the block-transfer and collective engines read, check, order, perform, stop and end
them (R187 to R190, R195, R196, R262 to R264, R389 to R395). -/

namespace Sys2Proof.Machine

/-! ### The card's fields (Tables 9.9, 9.10) -/

/-- A region descriptor. -/
structure CardRegion where
  base : DWord
  len : Nat
  attr : Nat
  deriving DecidableEq, Repr

def Card.region (c : Card) (i : Nat) : CardRegion :=
  ⟨BitVec.ofNat 64 (leField c.bytes (40 + 16 * i) 8), leField c.bytes (36 + 16 * i) 4, leField c.bytes (32 + 16 * i) 4⟩

def CardRegion.window (r : CardRegion) : Bool := r.attr / 2 % 2 == 1
def CardRegion.writes (r : CardRegion) : Bool := r.attr % 2 == 1

def Card.kind (c : Card) : Nat := leField c.bytes 0 1

/-- `n` bytes of the params from byte `i` of the card. -/
def Card.param (c : Card) (i n : Nat) : Nat := leField c.bytes i n

/-- Device address of the first of `n` bytes at a window address, where the card may name them (R186, R188): for a COPY
packet's card, no block window. -/
def Card.loc (c : Card) (a : Word) (n : Nat) : Option Nat :=
  match match c.win with
    | some (b, k) => windowLoc c.die b k a n
    | none => windowLoc c.die { span := 0 } {} a n with
  | some (.lds d) => some d
  | _ => none

/-- A ring or arrival address of the card, where it names one that is in the block or die window and aligned. -/
def Card.pointer (c : Card) (i n : Nat) : Option Nat :=
  let a : Word := BitVec.ofNat 32 (leField c.bytes i 4)
  if a = 0 || decide (3 ≤ a.toNat / 0x40000000) || decide (a.toNat % n ≠ 0) then none else c.loc a n

def Card.arrival (c : Card) : Option Nat := c.pointer 20 16
def Card.ring (c : Card) : Option Nat := c.pointer 24 32

/-- The address is absent, or good (R188). -/
def Card.pointerOk (c : Card) (i n : Nat) : Bool := leField c.bytes i 4 == 0 || (c.pointer i n).isSome

/-! ### The check (R188, R262, R391) -/

/-- A present region that is read or written as the kind asks. -/
def Card.shape (c : Card) (r : CardRegion) (wr : Bool) : Bool :=
  decide (r.len ≠ 0) && r.writes == wr && decide (r.attr < 4) &&
  (!r.window || (decide (r.base.toNat < 2 ^ 32) && (c.loc (r.base.setWidth 32) r.len).isSome))

/-- An absent region. -/
def CardRegion.absent (r : CardRegion) : Bool := decide (r.len = 0) && decide (r.attr < 4)

/-- Bytes `lo` to `lo + n - 1` of the card are zero. -/
def Card.zero (c : Card) (lo n : Nat) : Bool := leField c.bytes lo n == 0

/-- The tree that a copy-out card copies: domain, root name, length, depth (R262, R263). The domain is that of the card's
issue or start, whatever its slot names since (R265). -/
def Card.tree (c : Card) (s : State) : Option (Nat × BitVec 128 × Nat × Nat) :=
  match c.slot with
  | some (dom, bs) => some (dom, slotName bs, leField bs 16 8, leField bs 24 1)
  | none =>
    if 4 < c.param 124 1 then none
    else
      (match c.treeDom with
        | some p => some p.1
        | none => s.domSlot c.ctx (c.param 124 1)).map fun d =>
        (d, BitVec.ofNat 128 (c.param 96 16), c.param 112 7, c.param 119 1)

/-- The collection region that the tree lies in; none once its domain has been discarded (R265). -/
def Card.treeRegion (c : Card) (s : State) : Option Region :=
  match c.treeDom with
  | some p => s.regionAt p.1 p.2
  | none => (c.tree s).bind fun t => s.regions.get t.1

/-- A region lies in HBM, or in the block or the die window (R262). -/
def CardRegion.near (r : CardRegion) : Bool := !r.window || decide (r.base.toNat < 0xc0000000)

/-- Element size and operation of a collective card (Table 23.2). -/
def Card.elemSize (c : Card) : Nat := if c.param 101 1 = 3 then 8 else 4

/-- The group of a collective card, where its context owns it and this device is a member (R390). -/
def Card.group (c : Card) (s : State) : Option Group :=
  match s.groups.get (c.param 102 1) with
  | some g => if g.ctx = c.ctx && g.members.contains s.deviceNo then some g else none
  | none => none

/-- The region lengths of Table 23.3. -/
def Card.collectiveLens (c : Card) (g : Group) : Nat × Nat :=
  let n := c.param 96 4 * c.elemSize
  match c.param 100 1 with
  | 1 => (n, n)
  | 2 => (n, g.members.length * n)
  | _ => (g.members.length * n, n)

/-- The check that the engine makes before it starts a card (R188). A CCOPYOUT whose card is of another kind than a copy-out ends
BAD_CARD: no rule says what becomes of it (R263; DESIGN CHOICE, log entry 21). Which lengths the indices and the destination of a gather
may have beyond what its elements need no rule says: the model accepts any (DESIGN CHOICE, log entry 21). -/
def Card.ok (c : Card) (s : State) : Bool :=
  let r0 := c.region 0
  let r1 := c.region 1
  let r2 := c.region 2
  let r3 := c.region 3
  c.zero 28 4 && c.zero 16 4 && c.zero 1 7 && c.pointerOk 20 16 && c.pointerOk 24 32 &&
  match c.kind with
  | 1 => c.slot.isNone && c.zero 96 32 && c.shape r0 false && c.shape r1 true && r0.len == r1.len && r2.absent && r3.absent
  | 2 =>
    let size := c.param 96 4
    let count := c.param 100 4
    c.slot.isNone && c.zero 104 24 && decide (4 ≤ size) && decide (size ≤ 4096) && decide (size % 4 = 0) &&
    c.shape r0 false && c.shape r1 false && c.shape r2 true && r3.absent &&
    decide (4 * count ≤ r0.len) && decide (count * size ≤ r2.len)
  | 3 =>
    c.slot.isNone && c.zero 103 25 && decide (1 ≤ c.param 101 1) && decide (c.param 101 1 ≤ 4) &&
    decide (1 ≤ c.param 100 1) && decide (c.param 100 1 ≤ 3) && decide (1 ≤ c.param 96 4) &&
    c.shape r0 false && c.shape r1 true && r2.absent && r3.absent &&
    match c.group s with
    | some g => r0.len == (c.collectiveLens g).1 && r1.len == (c.collectiveLens g).2
    | none => false
  | 4 =>
    c.zero 125 3 && c.shape r0 true && r0.near && r1.absent && r2.absent && r3.absent &&
    match c.tree s with
    | some t => (c.treeRegion s).isSome && shapeOk t.2.2.2 t.2.2.1
    | none => false
  | _ => false

/-! ### Footprints (R189) -/

/-- A granule of a footprint: of HBM by virtual address, of a local store by device address. -/
inductive Granule where
  | hbm (ctx g : Nat)
  | lds (g : Nat)
  deriving DecidableEq, Repr

/-- The granules of a region, 256 bytes each. -/
def Card.granules (c : Card) (r : CardRegion) : List Granule :=
  if r.len = 0 then []
  else
    let lo := r.base.toNat / 256
    let hi := (r.base.toNat + r.len - 1) / 256
    (List.range (hi + 1 - lo)).filterMap fun i =>
      if r.window then (c.loc (BitVec.ofNat 32 (max r.base.toNat ((lo + i) * 256))) 1).map fun d => .lds (d / 256)
      else some (.hbm c.ctx (lo + i))

/-- The card's present regions. -/
def Card.regions (c : Card) : List CardRegion := ((List.range 4).map c.region).filter fun r => r.len ≠ 0

/-- Two cards share a granule that at least one of them writes. -/
def Card.overlaps (c d : Card) : Bool :=
  c.regions.any fun r => d.regions.any fun q =>
    (r.writes || q.writes) && (c.granules r).any fun g => (d.granules q).contains g

/-- An earlier card of the die that this one has to wait for. -/
def State.cardWaits (s : State) (key : Nat) (c : Card) : Bool :=
  s.cards.any fun e => e.1 != key && e.2.die == c.die && decide (e.2.order < c.order) &&
    (match e.2.phase with
      | .read | .running | .faulted => true
      | _ => false) && e.2.overlaps c

/-! ### Bytes of a card -/

/-- Where a byte of a region lies. -/
inductive Spot where
  | lds (d : Nat)
  /-- `foreign` where the page is shared by the die alone, and lies at another die's stacks than the card's (R214) -/
  | hbm (pa dom : Nat) (foreign : Option Nat)
  | lost
  deriving DecidableEq, Repr

/-- The place of a region's byte, translated as the engine reaches it (R190); else the cause and its reason. -/
def Card.spot (c : Card) (s : State) (r : CardRegion) (off : Nat) : Except (Cause × Nat × DWord) Spot :=
  if r.window then
    match c.loc (r.base.setWidth 32 + BitVec.ofNat 32 off) 1 with
    | some d => .ok (.lds d)
    | none => .ok .lost
  else
    match s.translateNow c.ctx (r.base + BitVec.ofNat 64 off) (if r.writes then .write else .read) with
    | .ok pa dom sharing =>
      .ok (.hbm pa dom (s.foreignSince c.die c.ctx (r.base + BitVec.ofNat 64 off) pa sharing))
    | .bad e reason => .error (e, reason, r.base + BitVec.ofNat 64 off)
    | .miss _ => .ok .lost

/-- The domain that a card carries (R248). -/
def Card.dom (c : Card) (s : State) : Nat := s.ownDom c.ctx

/-- A byte that the card reads; a peer given up reads as 0 (R383), and a foreign page's byte is any that it has held and that is
not older than what the card's wave has seen written there (R202, R214). -/
def Card.readSpot (c : Card) (s : State) : Spot → Byte
  | .lds d => s.ldsRead (c.dom s) d
  | .hbm pa dom foreign =>
    if s.isPeer pa && c.lost.contains (peerNo pa) then 0
    else match foreign with
      | some since => s.hbmStale dom (localPa pa) (staleFrom c.floor since (localPa pa))
      | none => (s.memReads dom pa 1).headD 0
  | .lost => 0

def Card.writeSpot (c : Card) (s : State) (b : Byte) : Spot → State
  | .lds d => s.ldsWrite (c.dom s) d b
  | .hbm pa dom _ => s.memWrites dom pa [b]
  | .lost => s

/-- The card once it writes a place: HBM's count of writes is noted there (R117). -/
def Card.marked (c : Card) (s : State) : Spot → Card
  | .hbm pa _ _ =>
    if s.isPeer pa then c
    else
      { c with wrote := c.wrote.put (localPa pa) (match c.wrote.get (localPa pa) with
          | some p => (p.1, s.hbmClock)
          | none => (s.hbmClock, s.hbmClock)) }
  | _ => c

/-- Bytes of a region. -/
def Card.readRun (c : Card) (s : State) (r : CardRegion) (off : Nat) : Nat → Except (Cause × Nat × DWord) (List Byte)
  | 0 => .ok []
  | n + 1 =>
    match c.spot s r off with
    | .error e => .error e
    | .ok p =>
      match Card.readRun c s r (off + 1) n with
      | .error e => .error e
      | .ok bs => .ok (c.readSpot s p :: bs)

/-- What the engine meets at the next byte. -/
inductive CardByte where
  | move (b : Byte) (dst : Spot)
  | bounds (code : Nat)
  | fault (c : Cause) (reason : Nat) (va : DWord)
  /-- no path leads to the peer of this physical address (R383) -/
  | waits (pa : Nat)
  /-- the domain of the tree has been discarded (R265) -/
  | gone
  deriving DecidableEq, Repr

/-- The peer's address that a place waits for. -/
def Card.waitsAt (c : Card) (s : State) : Spot → Option Nat
  | .hbm pa _ _ => if s.noPath c.lost pa then some pa else none
  | _ => none

/-- The first peer's address that some bytes of a region wait for. -/
def Card.runWaits (c : Card) (s : State) (r : CardRegion) (off n : Nat) : Option Nat :=
  (List.range n).findSome? fun i => match c.spot s r (off + i) with
    | .ok p => c.waitsAt s p
    | .error _ => none

/-- A byte that goes to a place of a region, or the fault there. -/
def Card.toByte (c : Card) (s : State) (b : Byte) (r : CardRegion) (off : Nat) : CardByte :=
  match c.spot s r off with
  | .ok p => match c.waitsAt s p with
    | some pa => .waits pa
    | none => .move b p
  | .error e => .fault e.1 e.2.1 e.2.2

/-- A byte copied from one region's place to another's. -/
def Card.copyByte (c : Card) (s : State) (r : CardRegion) (off : Nat) (q : CardRegion) (dst : Nat) : CardByte :=
  match c.spot s r off with
  | .ok p => match c.waitsAt s p with
    | some pa => .waits pa
    | none => c.toByte s (c.readSpot s p) q dst
  | .error e => .fault e.1 e.2.1 e.2.2

/-- The index of a gather's element: as it was read for the element's first byte (R188). -/
def Card.indexOf (c : Card) (s : State) (i : Nat) : Except (Cause × Nat × DWord) Nat :=
  let read := (c.readRun s (c.region 0) (4 * i) 4).map leNat
  match c.elem with
  | some p => if p.1 = i then .ok p.2 else read
  | none => read

/-- The peer's address that reading a gather's index waits for (R383). -/
def Card.indexWaits (c : Card) (s : State) (i : Nat) : Option Nat :=
  let has := match c.elem with
    | some p => p.1 == i
    | none => false
  if has then none else c.runWaits s (c.region 0) (4 * i) 4

/-- The card as it keeps the index of the element that byte `j` lies in. -/
def Card.held (c : Card) (s : State) (j : Nat) : Card :=
  if c.kind = 2 && (c.indexWaits s (j / c.param 96 4)).isNone then
    match c.indexOf s (j / c.param 96 4) with
    | .ok x => { c with elem := some (j / c.param 96 4, x) }
    | .error _ => c
  else c

/-- Byte `j` of the card's work (R188, R262 to R264). -/
def Card.byteAt (c : Card) (s : State) (j : Nat) : CardByte :=
  match c.kind with
  | 1 => c.copyByte s (c.region 0) j (c.region 1) j
  | 2 =>
    let size := c.param 96 4
    match c.indexWaits s (j / size), c.indexOf s (j / size) with
    | some pa, _ => .waits pa
    | none, .error e => .fault e.1 e.2.1 e.2.2
    | none, .ok i =>
      if (c.region 1).len < i * size + size then .bounds 0
      else c.copyByte s (c.region 1) (i * size + j % size) (c.region 2) j
  | _ =>
    match c.tree s with
    | none => .gone
    | some t =>
      match c.treeRegion s with
      | none => .gone
      | some r =>
        match r.treeByte t.2.1 t.2.2.2 t.2.2.1 (512 * c.param 120 4 + j) with
        | none => .bounds Cause.nameAbsent.code.toNat
        | some b => c.toByte s b (c.region 0) j

/-- Bytes of the card's work. -/
def Card.total (c : Card) : Nat :=
  match c.kind with
  | 2 => c.param 96 4 * c.param 100 4
  | _ => (c.region 0).len

/-- Up to `n` more bytes land, as far as the engine comes. -/
def Card.land (c : Card) (s : State) : Nat → State × Card
  | 0 => (s, c)
  | n + 1 =>
    if c.total ≤ c.moved then (s, c)
    else
      match (c.held s c.moved).byteAt s c.moved with
      | .move b p => Card.land { (c.held s c.moved).marked s p with moved := c.moved + 1 } (c.writeSpot s b p) n
      | _ => (s, c)

/-- The arrival word is credited (R191). -/
def Card.credit (c : Card) (s : State) (n : Nat) : State :=
  match c.arrival with
  | some a => if n = 0 then s else s.creditAt (c.dom s) a n
  | none => s

def State.setCard (s : State) (key : Nat) (c : Card) : State := { s with cards := s.cards.put key c }

/-- A piece of at most `n` bytes lands and is credited (R191). -/
def State.cardPiece (s : State) (key n : Nat) : State :=
  match s.cards.get key with
  | none => s
  | some c =>
    let r := c.land s n
    (c.credit r.1 (r.2.moved - c.moved)).setCard key r.2

/-- All that is left lands, in pieces of 4,096 bytes. -/
def State.cardPieces (s : State) (key : Nat) : Nat → State
  | 0 => s
  | n + 1 => State.cardPieces (s.cardPiece key 4096) key n

/-! ### Ends (R188, R190, R196) -/

/-- A completion record's bytes (Table 9.14). -/
def cardRecord (status code moved tag seq : Nat) : List Byte :=
  leBytes 2 status ++ leBytes 2 code ++ leBytes 4 0 ++ leBytes 8 moved ++ leBytes 8 tag ++ leBytes 4 seq ++ leBytes 4 0

/-- The number is a power of two from 1 to 4,096. -/
def ringSize (n : Nat) : Bool := (List.range 13).any fun i => n == 2 ^ i

/-- The header of a ring. -/
def Card.head (c : Card) (s : State) (d : Nat) : RingHead := RingHead.ofBytes (s.ldsReads (c.dom s) d 32)

/-- The ring can take a record (R196). -/
def RingHead.room (h : RingHead) : Bool := ringSize h.entries && !decide (h.entries ≤ (h.tail + 2 ^ 32 - h.head) % 2 ^ 32)

/-- Some bytes of a record written into its slot. A byte of the slot outside every window is lost. -/
def Card.putRecord (c : Card) (s : State) (h : RingHead) (status code : Nat) (offs : List Nat) : State :=
  let base : Word := BitVec.ofNat 32 (leField c.bytes 24 4 + 32 + 32 * (h.tail % h.entries))
  let bs := cardRecord status code c.moved (leField c.bytes 8 8) h.tail
  offs.foldl (fun s i =>
    match c.loc (base + BitVec.ofNat 32 i) 1 with
    | some a => s.ldsWrite (c.dom s) a (bs.getD i 0)
    | none => s) s

/-- The bytes of the record for a position of the ring that have not been written. -/
def Card.restRecord (c : Card) (tail : Nat) : List Nat :=
  (List.range 32).filter fun i => match c.verdict with
    | some v => v.tail != tail || !v.offs.contains i
    | none => true

/-- The engine writes a record, or counts it as dropped (R196). -/
def Card.record (c : Card) (s : State) (status code : Nat) : State :=
  match c.ring with
  | none => s
  | some d =>
    let h := c.head s d
    if h.room then
      (c.putRecord s h status code (c.restRecord h.tail)).ldsWrites (c.dom s) (d + 4) (leBytes 4 (h.tail + 1))
    else s.ldsWrites (c.dom s) (d + 12) (leBytes 4 (h.dropped + 1))

/-- The card leaves the unread cards of its engine, and the tag of the wave that issued it (R173, R186). -/
def State.takeCard (s : State) (key : Nat) (c : Card) : State :=
  let s := s.updCore c.die c.core fun q => { q with unread := q.unread.erase key }
  match c.wave with
  | none => s
  | some n => s.updWave n fun v => (v.updCopy key fun q => { q with done := true }).tagFall
      (match v.copies.find? fun q => q.op == key with
        | some q => q.tag
        | none => 0)

/-- The card is gone: one that has not been read no longer stands before those behind it (R186, R357). -/
def State.dropCard (s : State) (key : Nat) (c : Card) : State :=
  let s := { s with cards := s.cards.del key }
  if c.phase = .unread then s.takeCard key c else s

/-- The card ends as is said: its record, FAULT where it did not finish, the reference of a CCOPYOUT released (R188, R190,
R263). -/
def State.closeCard (s : State) (key : Nat) (c : Card) (status code : Nat) : State :=
  let s := if status = 1 then s else match c.arrival with
    | some a => s.faultAt (c.dom s) a
    | none => s
  let s := c.record s status code
  let s := match c.slot, c.treeRegion s with
    | some (dom, bs), some _ => s.unref dom (slotName bs)
    | _, _ => s
  s.dropCard key c

/-- The card ends: as its record that has begun to be written says, behind the record of a fault that has; else as is said. -/
def State.endCard (s : State) (key : Nat) (c : Card) (status code : Nat) : State :=
  match c.verdict with
  | none => s.closeCard key c status code
  | some v =>
    if v.status = 2 then (c.record s 2 v.code).closeCard key { c with verdict := none } status code
    else s.closeCard key c v.status v.code

/-- The peer's address that reading the card itself waits for: that of a COPY packet, in HBM. -/
def Card.headWaits (c : Card) (s : State) : Option Nat :=
  if c.wave.isNone then c.runWaits s ⟨c.va, 128, 0⟩ 0 128 else none

/-- A fault part-way stops a card: its record, and the report of the fault (R190). -/
def State.stopCard (s : State) (key : Nat) (c : Card) (code reason : Nat) (va : DWord) : State :=
  ((c.record s 2 code).setCard key { c with phase := .faulted, verdict := none }).report (.cardFault key va reason)

/-- An event of a card. -/
def onCard (s : State) (key : Nat) (f : Card → State) : Host.Outcome State Fault Refusal :=
  match s.cards.get key with
  | some c => .next (f c)
  | none => .next s

/-- An event that leads a card on: nothing, where its record has begun to be written. -/
def onGoing (s : State) (key : Nat) (f : Card → State) : Host.Outcome State Fault Refusal :=
  onCard s key fun c => if c.verdict.isSome then s else f c

/-- An event that can end or stop a card: where its record has begun to be written, the card ends or stops as that says
(R196). -/
def onEnding (s : State) (key : Nat) (f : Card → State) : Host.Outcome State Fault Refusal :=
  onCard s key fun c =>
    match c.verdict with
    | none => f c
    | some v => if v.status = 2 then s.stopCard key c v.code v.reason v.va else s.endCard key c v.status v.code

/-! ### The events -/

/-- CARD_READ (R173, R186): the core's engine reads its first unread card and drops its count. A COPY packet's card
lies in HBM, and may have to wait for a path to a peer (R383). All 128 bytes are read at one moment: a change that falls
between the reads of two bytes is not shown (DESIGN CHOICE, log entry 21). -/
def execCardRead (die core : Nat) (s : State) : Host.Outcome State Fault Refusal :=
  match (s.core die core).unread with
  | [] => .next s
  | key :: _ =>
    onCard s key fun c =>
      if (c.headWaits s).isSome then s
      else
      let bytes : Except (Cause × Nat × DWord) (List Byte) :=
        if c.wave.isNone then c.readRun s ⟨c.va, 128, 0⟩ 0 128
        else .ok (c.place.map fun d => s.ldsRead (c.dom s) d)
      match bytes with
      | .error e => s.report (.cardFault key e.2.2 e.2.1)
      | .ok bs =>
        let k := s.newKey
        (k.2.setCard key { c with bytes := bs, phase := .read, order := k.1 }).takeCard key c

/-- What the members' cards say differs from this card (R393). -/
def Card.mismatch (c : Card) (s : State) (g : Group) (others : List PeerCard) : Bool :=
  let rank := (g.members.idxOf? s.deviceNo).getD 0
  let ranks := (List.range g.members.length).filter fun r => r ≠ rank
  others.map (fun p => p.rank) != ranks ||
  others.any fun p => p.op != c.param 100 1 || p.ty != c.param 101 1 || p.count != c.param 96 4 || p.members != g.members

/-- A card of a collective group is paired (R390, R393). -/
def State.paired (s : State) (c : Card) : State :=
  { s with groups := s.groups.upd (c.param 102 1) fun g => { g with pairs := g.pairs + 1 } }

/-- The group's first pairing is compared (R393). -/
def State.compared (s : State) (c : Card) : State :=
  { s with groups := s.groups.upd (c.param 102 1) fun g => { g with compared := true } }

/-- The domain of the slot that a CCOPYOUT read has been discarded (R265). -/
def Card.orphan (c : Card) (s : State) : Bool := c.slot.isSome && (c.treeRegion s).isNone

/-- A card that starts: a copy-out keeps the domain of its tree with the epoch of its keys (R265). -/
def Card.begun (c : Card) (s : State) : Card :=
  { c with
    phase := .running
    treeDom := if c.kind = 4 && c.treeDom.isNone then (c.tree s).map fun t => (t.1, (s.domain t.1).epoch) else c.treeDom }

/-- A pairing that compares finds the cards different (R393, Table 23.5): one in which a card of every other member has come.
The first after an installation does so, and a later one where what the others' cards say is given. -/
def Card.unlike (c : Card) (s : State) (others : List PeerCard) : Bool :=
  match c.group s with
  | some g => decide (others.length + 1 = g.members.length) && c.mismatch s g others
  | none => false

/-- The status with which a card that starts is turned away, where it is (R188, R265, R393). -/
def Card.turnedAway (c : Card) (s : State) (others : List PeerCard) : Option Nat :=
  if c.orphan s then some 3
  else if !c.ok s || c.kind == 3 && c.unlike s others then some 4
  else none

/-- A collective card that pairs: the pair is counted, and where the cards have been compared that is kept (R390, R393). -/
def State.pairing (s : State) (c : Card) (others : List PeerCard) : State :=
  if c.kind = 3 && c.ok s && !c.orphan s then
    (if others.isEmpty then s.paired c else (s.paired c).compared c)
  else s

/-- CARD_START (R188, R189, R265, R393): after every earlier overlapping card. A collective card's first pairing waits
until a card of every other member has come, and compares what they say. -/
def execCardStart (key : Nat) (others : List PeerCard) (s : State) : Host.Outcome State Fault Refusal :=
  onEnding s key fun c =>
    if c.phase != .read || s.cardWaits key c then s
    else
      match c.turnedAway s others with
      | some status => (s.pairing c others).endCard key c status 0
      | none =>
        match if c.kind = 3 then c.group s else none with
        | some g =>
          if !g.compared && others.length + 1 ≠ g.members.length then s
          else (s.pairing c others).setCard key (c.begun s)
        | none => s.setCard key (c.begun s)

/-- CARD_CREDIT (R191): a piece of at most 4,096 bytes lands and is credited. -/
def execCardCredit (key n : Nat) (s : State) : Host.Outcome State Fault Refusal :=
  onGoing s key fun c =>
    if c.phase = .running && c.kind ≠ 3 && decide (n ≤ 4096) then s.cardPiece key n else s

/-- A record of what a card meets. -/
def Card.note (c : Card) : FaultRec := { cause := .uncorrectable, ctx := c.ctx, die := c.die, core := c.core, flags := 2 }

/-- An uncorrectable error that a card meets is reported (R249). -/
def Card.reportError (c : Card) (s : State) : Option MemError → State
  | none => s
  | some e => s.uncorrectable c.note e.array

/-- A byte of the work is damaged where it lands, and the error reported (R249). -/
def Card.damaged (c : Card) (s : State) : Option MemError → State
  | none => s
  | some e =>
    let s := match c.byteAt s e.byte with
      | .move _ p => c.writeSpot s (Config.damagedByte s.errors e.byte) p
      | _ => s
    c.reportError s (some e)

/-- CARD_DONE (R188, R191, R196, R265): the rest lands, and the card ends DONE, BOUNDS where an element or line is out of
reach, or CANCELLED where the domain of its tree has been discarded. Where a translation fault stops the engine, or no path
leads to a peer, the card does not end. -/
def execCardDone (key : Nat) (err : Option MemError) (s : State) : Host.Outcome State Fault Refusal :=
  onEnding s key fun c =>
    if c.phase != .running || c.kind = 3 then s
    else
      let s1 := s.cardPieces key ((c.total - c.moved + 4095) / 4096)
      match s1.cards.get key with
      | none => s1
      | some d =>
        if d.total ≤ d.moved then (d.damaged s1 err).endCard key d 1 0
        else
          match d.byteAt s1 d.moved with
          | .bounds code => s1.endCard key d 5 code
          | .gone => s1.endCard key d 3 0
          | _ => s1

/-- The first peer's address that a collective card waits for, in the regions that it reads and writes (R383). -/
def Card.regionWaits (c : Card) (s : State) : Option Nat :=
  [c.region 0, c.region 1].findSome? fun r => c.runWaits s r 0 r.len

/-- The peer's address that a card waits for (R383). -/
def Card.waiting (c : Card) (s : State) : Option Nat :=
  match if c.verdict.isSome then .ended else c.phase with
  | .unread => c.headWaits s
  | .running =>
    if c.kind = 3 then c.regionWaits s
    else match if c.total ≤ c.moved then .gone else (c.held s c.moved).byteAt s c.moved with
      | .waits pa => some pa
      | _ => none
  | _ => none

/-- No path has led in time to the peer that a card waits for: it gives the peer up, and the event is reported (R383). -/
def State.cardPeerTimeout (s : State) (key : Nat) : State :=
  match s.cards.get key with
  | some c => match c.waiting s with
    | some pa => (s.setCard key { c with lost := c.lost ++ [peerNo pa] }).notice (c.note.peerLost pa)
    | none => s
  | none => s

/-- The fault that stops a collective card: of a byte of its regions. -/
def Card.regionFault (c : Card) (s : State) : Option (Cause × Nat × DWord) :=
  [c.region 0, c.region 1].findSome? fun r => (List.range r.len).findSome? fun i =>
    match c.spot s r i with
    | .error e => some e
    | .ok _ => none

/-- The fault that stops a running card: its cause, reason and address (R190). -/
def Card.stopsAt (c : Card) (s : State) : Option (Cause × Nat × DWord) :=
  if c.kind = 3 then c.regionFault s
  else if c.total ≤ c.moved then none
  else match c.byteAt s c.moved with
    | .fault e reason va => some (e, reason, va)
    | _ => none

/-- CARD_PARTIAL_FAULT (R190). -/
def execCardPartialFault (key : Nat) (s : State) : Host.Outcome State Fault Refusal :=
  onEnding s key fun c =>
    match if c.phase = .running then c.stopsAt s else none with
    | some e => s.stopCard key c e.1.code.toNat e.2.1 e.2.2
    | none => s

/-- The address of a region's byte in HBM, with the region. -/
def CardRegion.va (r : CardRegion) (off : Nat) : Option DWord :=
  if r.window then none else some (r.base + BitVec.ofNat 64 off)

/-- The i-th of the HBM addresses that an engine reaches next for a card: those of the next byte's places, of any byte of a
collective's regions, of a COPY packet's card. -/
def Card.nextVa (c : Card) (s : State) (i : Nat) : Option DWord :=
  match c.phase with
  | .unread => if c.wave.isNone then some c.va else none
  | .running =>
    match c.kind with
    | 3 => if i < (c.region 0).len then (c.region 0).va i
      else if i < (c.region 0).len + (c.region 1).len then (c.region 1).va (i - (c.region 0).len) else none
    | 4 => (c.region 0).va c.moved
    | 2 =>
      let e := c.moved / c.param 96 4
      match i with
      | 0 => (c.region 0).va (4 * e)
      | 1 => match c.indexOf s e with
        | .ok x => (c.region 1).va (x * c.param 96 4 + c.moved % c.param 96 4)
        | .error _ => none
      | _ => (c.region 2).va c.moved
    | _ => (c.region (i % 2)).va c.moved
  | _ => none

/-- The walk of an engine meets an uncorrectable error in a byte of the entries on its path: the model's own turn. The card
faults as by any walk, with the reason of the first check that fails (R190, R241, R249). -/
def State.cardWalkError (s : State) (key i byte : Nat) : State :=
  match s.cards.get key with
  | none => s
  | some c =>
    match if c.verdict.isSome then none else c.nextVa s i with
    | none => s
    | some va =>
      match s.walkMeets c.ctx va (some byte), s.walkBy c.ctx va (some byte) with
      | false, _ | _, .ok _ => s
      | true, .error r =>
        if c.phase = .running then (s.uncorrectable c.note 4).stopCard key c Cause.pageFault.code.toNat r va
        else (s.uncorrectable c.note 4).report (.cardFault key va r)

/-- The index of the gather's element in progress meets an uncorrectable error as it is read: the engine goes on with the bits
that it has read: the model's own turn (R188, R249). -/
def State.cardIndexError (s : State) (key : Nat) (e : MemError) : State :=
  match s.cards.get key with
  | none => s
  | some c =>
    let i := c.moved / c.param 96 4
    if c.phase != .running || c.kind != 2 || c.verdict.isSome || decide (c.total ≤ c.moved) || decide (4 ≤ e.byte) ||
        (c.elem.any fun p => p.1 == i) || (c.indexWaits s i).isSome then s
    else match c.readRun s (c.region 0) (4 * i) 4 with
      | .error _ => s
      | .ok bs => (s.uncorrectable c.note e.array).setCard key { c with elem := some (i, leNat (s.damage bs (some e))) }

/-- CARD_RESUME (R190). -/
def execCardResume (key : Nat) (s : State) : Host.Outcome State Fault Refusal :=
  onGoing s key fun c => if c.phase = .faulted then s.setCard key { c with phase := .running } else s

/-- CARD_CANCEL (R190, R393): a waiting collective card's pairing count advances. -/
def execCardCancel (key : Nat) (s : State) : Host.Outcome State Fault Refusal :=
  onEnding s key fun c =>
    match c.phase with
    | .read => (if c.kind = 3 && c.ok s then s.paired c else s).endCard key c 3 0
    | .running | .faulted => s.endCard key c 3 0
    | _ => s

/-! ### The collective engine (R392) -/

/-- Contributions of one element, in rank order, reduced. -/
def reduceElem (ty : Nat) (cs : List Nat) : Nat :=
  match ty with
  | 1 => cs.foldl (fun v c => (addNum fmtF32 .rne false (decodeNum fmtF32 v) (decodeNum fmtF32 c)).code) 0
  | 2 => cs.foldl (fun v c => (v + c) % 2 ^ 32) 0
  | 3 => cs.foldl (fun v c => (v + c) % 2 ^ 64) 0
  | _ => match cs with
    | [] => 0
    | c :: rest => rest.foldl (fun v d => (minMax fmtF32 false true v d).code) c

/-- The result of a collective at a rank, from every member's source bytes in rank order. -/
def Card.reduce (c : Card) (rank : Nat) (srcs : List (List Byte)) : List Byte :=
  let z := c.elemSize
  let n := c.param 96 4
  let elems := fun (off : Nat) => ((List.range n).map fun e =>
    leBytes z (reduceElem (c.param 101 1) (srcs.map fun bs => leField bs (off + z * e) z))).flatten
  match c.param 100 1 with
  | 1 => elems 0
  | 2 => srcs.flatten
  | _ => elems (rank * n * z)

/-- A byte of region 1 written. -/
def Card.putResult (c : Card) (s : State) (i : Nat) (b : Byte) : State :=
  match c.spot s (c.region 1) i with
  | .ok q => c.writeSpot s b q
  | .error _ => s

/-- The card once it writes a byte of region 1 (R117). -/
def Card.putMarked (c : Card) (s : State) (i : Nat) : Card :=
  match c.spot s (c.region 1) i with
  | .ok q => c.marked s q
  | .error _ => c

/-- Result bytes written to region 1 and credited, in pieces. -/
def Card.deliver (c : Card) (s : State) (bs : List Byte) : State :=
  let s := (List.zip (List.range bs.length) bs).foldl (fun s p => c.putResult s p.1 p.2) s
  (List.range ((bs.length + 4095) / 4096)).foldl (fun s i => c.credit s (min 4096 (bs.length - 4096 * i))) s

/-- The card's own source bytes: those that have been read already, and the others as they are now. -/
def Card.ownBytes (c : Card) (s : State) : Except (Cause × Nat × DWord) (List Byte) :=
  (c.readRun s (c.region 0) 0 (c.region 0).len).map fun bs => bs.mapIdx fun i b => (c.early.get i).getD b

/-- Some own source bytes of a running collective card are read before the rest: the model's own turn. -/
def State.collectiveRead (s : State) (key : Nat) (offs : List Nat) : State :=
  match s.cards.get key with
  | none => s
  | some c =>
    match c.ownBytes s with
    | .error _ => s
    | .ok bs =>
      let offs := offs.filter fun i => decide (i < bs.length)
      if c.phase = .running && c.kind = 3 && c.verdict.isNone && (c.regionWaits s).isNone then
        s.setCard key { c with early := offs.foldl (fun t i => t.put i (bs.getD i 0)) c.early }
      else s

/-- Every member's source bytes in rank order, as a running collective card has them, with the state in which lost
contributions are reported: kept from the first element that has landed, else given for the other members and read for this
one. A contribution that is lost, for want of a path, is an empty entry: it reads as zero (R392, R395). -/
def Card.sources (c : Card) (s : State) (data : List (List Byte)) : Option (List (List Byte) × State) :=
  match c.group s, c.ownBytes s, c.regionFault s, c.regionWaits s with
  | some g, .ok own, none, none =>
    let rank := (g.members.idxOf? s.deviceNo).getD 0
    let given := data.set rank own
    if c.phase != .running || c.kind != 3 || c.verdict.isSome then none
    else match c.srcs with
      | some srcs => some (srcs, s)
      | none =>
        if data.length == g.members.length && given.all (fun bs => bs.length == own.length || bs.isEmpty && !s.peerPath) then
          let gone := (List.zip g.members given).filterMap fun p => if p.2.isEmpty then some p.1 else none
          some (given.map fun bs => if bs.isEmpty then List.replicate own.length 0 else bs,
            gone.foldl (fun s n => s.notice (c.note.peerLost (n * 2 ^ 40))) s)
        else none
  | _, _, _, _ => none

/-- This device's rank in the card's group. -/
def Card.rank (c : Card) (s : State) : Nat := match c.group s with
  | some g => (g.members.idxOf? s.deviceNo).getD 0
  | none => 0

/-- Elements of the destination take the result of the first contributions, at least one and as many as are said, or of a
gather the final value: the model's own turn (R392). -/
def State.collectiveLand (s : State) (key : Nat) (r : Contributions) (elems : List (Nat × Nat)) : State :=
  match s.cards.get key with
  | none => s
  | some c =>
    match c.sources s r.data with
    | none => s
    | some p =>
      let r := elems.foldl (fun (r : State × Card) e =>
        let bs := c.reduce (c.rank s) (if c.param 100 1 = 2 then p.1 else p.1.take (max 1 e.2))
        (List.range c.elemSize).foldl (fun (r : State × Card) i =>
          let j := e.1 * c.elemSize + i
          if j < bs.length then (c.putResult r.1 j (bs.getD j 0), r.2.putMarked r.1 j) else r) r) (p.2, c)
      r.1.setCard key { r.2 with srcs := some p.1 }

/-- A collective card delivers its result: with the state, the card as it has moved all of it (R392). -/
def Card.finish (c : Card) (s : State) (p : List (List Byte) × State) (err : Option MemError) : State × Card :=
  let bs := p.2.damage (c.reduce (c.rank s) p.1) err
  let d := { c with moved := bs.length, srcs := some p.1 }
  (d.deliver (d.reportError p.2 err) bs, d)

/-- A running collective card of which another member's contribution has another length: the counts differ (Table 23.5). -/
def Card.unequal (c : Card) (s : State) (data : List (List Byte)) : Bool :=
  match c.group s with
  | some g => c.phase == .running && c.kind == 3 && c.srcs.isNone && decide (data.length = g.members.length) &&
      (data.mapIdx fun r bs => r != c.rank s && !bs.isEmpty && bs.length != (c.region 0).len).any fun b => b
  | none => false

/-- COLLECTIVE_DONE (R392, R395): the data hold every member's source bytes in rank order; this member's own are read from
its region 0. Where another's are of another length the cards carry different counts, and the card ends BAD_CARD. -/
def execCollectiveDone (key : Nat) (r : Contributions) (s : State) : Host.Outcome State Fault Refusal :=
  onEnding s key fun c =>
    if c.unequal s r.data then s.endCard key c 4 0
    else match c.sources s r.data with
      | none => s
      | some p =>
        let q := c.finish s p r.err
        q.1.endCard key q.2 1 0

/-! ### Records that are written byte by byte (R196, R206) -/

/-- What a card's record will say, where the card has come to its end or its stop: with the state and the card, a collective's
result delivered and a pairing counted. -/
def Card.comesTo (c : Card) (s : State) (key : Nat) (how : CardEnd) : Option (State × Card × Verdict) :=
  match how with
  | .start others =>
    if c.phase != .read || s.cardWaits key c then none
    else (c.turnedAway s others).map fun status => (s.pairing c others, c, { status := status, code := 0 })
  | .work =>
    if c.phase != .running then none
    else match c.stopsAt s with
      | some e => some (s, c, { status := 2, code := e.1.code.toNat, reason := e.2.1, va := e.2.2 })
      | none =>
        if c.kind = 3 then none
        else if c.total ≤ c.moved then some (s, c, { status := 1, code := 0 })
        else match c.byteAt s c.moved with
          | .bounds code => some (s, c, { status := 5, code := code })
          | .gone => some (s, c, { status := 3, code := 0 })
          | _ => none
  | .collective r =>
    if c.unequal s r.data then some (s, c, { status := 4, code := 0 })
    else (c.sources s r.data).map fun p =>
      let q := c.finish s p r.err
      (q.1, q.2, { status := 1, code := 0 })
  | .cancel =>
    match c.phase with
    | .read => some (if c.kind = 3 && c.ok s then s.paired c else s, c, { status := 3, code := 0 })
    | .running | .faulted => some (s, c, { status := 3, code := 0 })
    | _ => none

/-- Some bytes of a card's record are written before the rest and before the tail rises: the model's own turn. From then on
the card ends or stops as the record says (R196, R206). -/
def State.cardRecord (s : State) (key : Nat) (how : CardEnd) (offs : List Nat) : State :=
  match s.cards.get key with
  | none => s
  | some c =>
    match match c.verdict with
      | some v => some (s, c, v)
      | none => c.comesTo s key how with
    | none => s
    | some (t, d, v) =>
      match d.ring.map fun a => d.head t a with
      | none => t.setCard key { d with verdict := some v }
      | some h =>
        let v := if v.tail = h.tail then v else { v with tail := h.tail, offs := [] }
        let d := { d with verdict := some v }
        let offs := if h.room then offs.filter fun i => (d.restRecord h.tail).contains i else []
        (d.putRecord t h v.status v.code offs).setCard key { d with verdict := some { v with offs := v.offs ++ offs } }

/-- COLLECTIVE_GROUP_INSTALL (R390): counting of pairs starts anew. -/
def execCollectiveGroupInstall (group ctx : Nat) (members : List Nat) (s : State) : Host.Outcome State Fault Refusal :=
  if decide (group < 64) && decide (2 ≤ members.length) && decide (members.length ≤ 1024) && decide (members.Nodup) &&
      members.all (fun m => decide (m < 1024)) then
    .next { s with groups := s.groups.put group { ctx := ctx, members := members } }
  else .next (s.report .refused)

end Sys2Proof.Machine
end

