-- ==== Sys2Proof/Machine/Barrier.lean ====
section
/-! DEFINITION. Barriers and stage rings: the classes 0x13 and 0x14 with their wakes and automatic posts
(R221 to R235). -/

namespace Sys2Proof.Machine

/-! ### Barriers (R222, R223) -/

/-- Barrier b of a wave's block or grid. -/
def WCtx.barrier (x : WCtx) (b : Nat) : Barrier :=
  if b < 16 then x.block.barriers.getD b {} else x.grid.barriers.getD (b - 16) {}

def State.updBarrier (s : State) (w : Wave) (x : WCtx) (b : Nat) (f : Barrier → Barrier) : State :=
  if b < 16 then s.updBlock w.block fun k => { k with barriers := k.barriers.modify b f }
  else s.updGrid x.block.grid fun g => { g with barriers := g.barriers.modify (b - 16) f }

/-- The phase completes when arrived equals a nonzero expected (R223). -/
def Barrier.judge (b : Barrier) : Barrier :=
  if b.arrived = b.expected && b.expected ≠ 0 then { b with phase := !b.phase, arrived := 0 } else b

/-- An arrival (R225). -/
def Barrier.arrive (b : Barrier) : Barrier := { b with arrived := b.arrived + 1 }.judge

/-- A member leaves (R223): with its pend in the present phase or not. -/
def Barrier.leave (b : Barrier) (pending : Bool) : Barrier :=
  { b with expected := b.expected - 1, arrived := if pending then b.arrived - 1 else b.arrived }.judge

/-- The wave's pend, and whether it belongs to the present phase. -/
def Wave.pending (w : Wave) (b : Nat) (k : Barrier) : Bool := w.pend.getLsbD b && w.pphase.getLsbD b == k.phase

def Wave.setPend (w : Wave) (b : Nat) (phase : Bool) : Wave :=
  { w with
    pend := w.pend ||| (1#20 <<< b)
    pphase := if phase then w.pphase ||| (1#20 <<< b) else w.pphase &&& ~~~(1#20 <<< b) }

def Wave.clearPend (w : Wave) (b : Nat) : Wave := { w with pend := w.pend &&& ~~~(1#20 <<< b) }

/-- An earlier access of the guarded lanes is not performed: an arrival, at a block's scope too, releases every one of
them, wherever its target lies (R211, R225, R226). Loads are performed at issue. -/
def Wave.behind (w : Wave) (g : Mask) : Bool := w.pendsFor g fun _ => true

/-- A barrier or ring instruction: once for the wave, not in handler mode (R224, R231). -/
def barrierOnce (s : State) (w : Wave) (h : Head) (f : Mask → Res) : Res :=
  once s w h fun g => if w.hdep ≠ 0 then onceCause g .steerMode 0 else f g

/-- The arrival of BARARR and BARSYNC (R225). -/
def arriveRes (b : Nat) (s : State) (w : Wave) (x : WCtx) (g : Mask) (f : State → Res) : Res :=
  let k := x.barrier b
  if w.pending b k then onceCause g .barrierState 0
  else if w.behind g then .stall s
  else f ((s.updWave s.cur fun v => v.setPend b k.phase).updBarrier w x b Barrier.arrive)

/-- BARARR (R225). -/
def execBararr (h : Head) (b : BitVec 18) (s : State) : Host.Outcome State Fault Refusal :=
  issue (.bararr h b) s fun s w x => barrierOnce s w h fun g => arriveRes b.toNat s w x g fun s => .done s

/-- The wave's barrier phase has completed: it goes on (R225). -/
def Wave.phaseDone (w : Wave) (b : Nat) (k : Barrier) : Bool := w.pphase.getLsbD b != k.phase

/-- The wait of BARWAIT and BARSYNC, on the state as it is. -/
def waitRes (b : Nat) (s : State) (w : Wave) : Res :=
  let v := s.curWave w
  match s.wctx v with
  | none => .stall s
  | some x =>
    if v.phaseDone b (x.barrier b) then .done (s.updWave s.cur fun u => u.clearPend b)
    else .wait (s.updWave s.cur fun u => { u with wait := some (.bar b) })

/-- BARWAIT (R225). -/
def execBarwait (h : Head) (b : BitVec 18) (s : State) : Host.Outcome State Fault Refusal :=
  issue (.barwait h b) s fun s w _ => barrierOnce s w h fun g =>
    if w.pend.getLsbD b.toNat then waitRes b.toNat s w else onceCause g .barrierState 0

/-- BARSYNC (R225). -/
def execBarsync (h : Head) (b : BitVec 18) (s : State) : Host.Outcome State Fault Refusal :=
  issue (.barsync h b) s fun s w x => barrierOnce s w h fun g =>
    arriveRes b.toNat s w x g fun s => waitRes b.toNat s w

/-- What BARQ writes (Table 12.2). -/
def barqValue (w : Wave) (b : Nat) (k : Barrier) : DWord :=
  let pend := w.pend.getLsbD b
  BitVec.ofNat 64 (k.expected % 65536 * 2 ^ 32 + k.arrived % 65536 * 65536 +
    (if pend && w.phaseDone b k then 4 else 0) + (if pend then 2 else 0) + if k.phase then 1 else 0)

/-- BARQ (R227). Of a grid barrier too it returns the present value, though a rule lets the snapshot be as old as the grid
latency (DESIGN CHOICE, log entry 15). -/
def execBarq (h : Head) (d : Operand) (b : BitVec 18) (s : State) : Host.Outcome State Fault Refusal :=
  issue (.barq h d b) s fun s w x => barrierOnce s w h fun _ =>
    .done (s.updWave s.cur fun u => u.setUni (uniNo d) (barqValue w b.toNat (x.barrier b.toNat)))

/-- BARRIER_WAKE (R223, R228). -/
def execBarrierWake (n : Nat) (s : State) : Host.Outcome State Fault Refusal :=
  onWave s n fun w x =>
    match w.wait with
    | some (.bar b) => if w.wakeable && w.phaseDone b (x.barrier b) then s.wake n fun u => u.clearPend b else s
    | _ => s

/-- A member wave leaves every barrier it belongs to (R223). -/
def State.leaveBarriers (s : State) (w : Wave) (x : WCtx) : State :=
  let f := fun (base : Nat) (ks : List Barrier) => ks.mapIdx fun i k => k.leave (w.pending (base + i) k)
  (s.updBlock w.block fun b => { b with barriers := f 0 b.barriers }).updGrid x.block.grid fun g =>
    { g with barriers := f 16 g.barriers }

/-! ### Stage rings (R230 to R234) -/

/-- The instance of a ring on the wave's core. -/
def WCtx.ring (x : WCtx) (w : Wave) (r : Nat) : Ring := (x.block.rings.getD w.partner []).getD r {}

def Block.updRing (b : Block) (partner r : Nat) (f : Ring → Ring) : Block :=
  { b with rings := b.rings.modify partner fun rs => rs.modify r f }

def State.updRing (s : State) (w : Wave) (r : Nat) (f : Ring → Ring) : State :=
  s.updBlock w.block fun b => b.updRing w.partner r f

def Ring.slot (g : Ring) (i : Nat) : RingSlot := g.slots.getD i {}

def Ring.updSlot (g : Ring) (i : Nat) (f : RingSlot → RingSlot) : Ring := { g with slots := g.slots.modify i f }

/-- The lap of a position (R230). -/
def lapOf (n s : Nat) : Nat := if s = 0 then 0 else n / s % 2

/-- A position's acquire can be served (R232). -/
def Ring.acquirable (g : Ring) (n : Nat) : Bool :=
  let sl := g.slot (n % g.slots.length)
  sl.state == .empty && sl.phase == (lapOf n g.slots.length == 1)

/-- A position's wait can be served (R232). -/
def Ring.waitable (g : Ring) (n : Nat) : Bool :=
  let sl := g.slot (n % g.slots.length)
  sl.state == .full && sl.phase != (lapOf n g.slots.length == 1)

/-- SRACQ's result (R232). -/
def acquireValue (g : Ring) (n : Nat) : DWord := BitVec.ofNat 64 (lapOf n g.slots.length * 8 + n % g.slots.length)

/-- SRWAIT's result (R232). -/
def takeValue (g : Ring) (n : Nat) : DWord :=
  BitVec.ofNat 64 ((if (g.slot (n % g.slots.length)).fault then 16 else 0) + lapOf n g.slots.length * 8 + n % g.slots.length)

def Ring.acquire (g : Ring) (n : Nat) : Ring :=
  g.updSlot (n % g.slots.length) fun t => { t with state := .acquired, fault := false }

def Ring.take (g : Ring) (n : Nat) : Ring := g.updSlot (n % g.slots.length) fun t => { t with state := .taken }

/-- The slot becomes FULL (R232, R233). -/
def RingSlot.post (t : RingSlot) (fault : Bool) : RingSlot :=
  { t with state := .full, phase := !t.phase, bound := none, fault := t.fault || fault }

/-- The wave that is served next of those that have waited on a ring: the first that still waits (R232). -/
def State.firstWaiting (s : State) (ks : List Nat) (same : Wait → Bool) : Option Nat :=
  ks.find? fun k => match (s.waves.get k).bind fun w => w.wait with
    | some q => same q
    | none => false

/-- The wait is in SRACQ, or in SRWAIT, of a ring. -/
def Wait.acquiring (r : Nat) : Wait → Bool
  | .sracq q _ _ => q == r
  | _ => false

def Wait.taking (r : Nat) : Wait → Bool
  | .srwait q _ _ => q == r
  | _ => false

/-- SRACQ (R232): the position is taken at issue; it is served after every earlier one that waits. -/
def execSracq (h : Head) (d : Operand) (ring : BitVec 3) (s : State) : Host.Outcome State Fault Refusal :=
  issue (.sracq h d ring) s fun s w x => barrierOnce s w h fun _ =>
    let r := ring.toNat
    let g := x.ring w r
    let s := s.updRing w r fun q => { q with ap := (q.ap + 1) % (2 * q.slots.length) }
    if g.acquirable g.ap && (s.firstWaiting g.acquirers (Wait.acquiring r)).isNone then
      .done ((s.updRing w r fun q => q.acquire g.ap).updWave s.cur fun u => u.setUni (uniNo d) (acquireValue g g.ap))
    else
      .wait ((s.updRing w r fun q => { q with acquirers := q.acquirers.filter (· ≠ s.cur) ++ [s.cur] }).updWave s.cur fun u =>
        { u with wait := some (.sracq r g.ap (uniNo d)) })

/-- SRWAIT (R232): served after every earlier position that waits. -/
def execSrwait (h : Head) (d : Operand) (ring : BitVec 3) (s : State) : Host.Outcome State Fault Refusal :=
  issue (.srwait h d ring) s fun s w x => barrierOnce s w h fun _ =>
    let r := ring.toNat
    let g := x.ring w r
    let s := s.updRing w r fun q => { q with wp := (q.wp + 1) % (2 * q.slots.length) }
    if g.waitable g.wp && (s.firstWaiting g.takers (Wait.taking r)).isNone then
      .done ((s.updRing w r fun q => q.take g.wp).updWave s.cur fun u => u.setUni (uniNo d) (takeValue g g.wp))
    else
      .wait ((s.updRing w r fun q => { q with takers := q.takers.filter (· ≠ s.cur) ++ [s.cur] }).updWave s.cur fun u =>
        { u with wait := some (.srwait r g.wp (uniNo d)) })

/-- RING_WAKE (R232): in the order of the positions. -/
def execRingWake (n : Nat) (s : State) : Host.Outcome State Fault Refusal :=
  onWave s n fun w x =>
    match w.wait with
    | some (.sracq r p d) =>
      let g := x.ring w r
      if w.wakeable && g.acquirable p && s.firstWaiting g.acquirers (Wait.acquiring r) == some n then
        (s.updRing w r fun q => q.acquire p).wake n fun u => u.setUni d (acquireValue g p)
      else s
    | some (.srwait r p d) =>
      let g := x.ring w r
      if w.wakeable && g.waitable p && s.firstWaiting g.takers (Wait.taking r) == some n then
        (s.updRing w r fun q => q.take p).wake n fun u => u.setUni d (takeValue g p) else s
    | _ => s

/-- A slot operand: bits [2:0] (R231). -/
def slotOf (w : Wave) (x : WCtx) (o : Operand) : Nat := (readUni w x o).toNat % 8

/-- A transfer that needs its slot in a state; it releases the wave's earlier stores (R231, R232). -/
def slotRes (h : Head) (ring : BitVec 3) (o : Operand) (ok : RingSlot → Bool) (f : RingSlot → RingSlot) (s : State) (w : Wave)
    (x : WCtx) : Res :=
  barrierOnce s w h fun g =>
    let q := x.ring w ring.toNat
    let i := slotOf w x o
    if decide (i < q.slots.length) && ok (q.slot i) then
      .done ((s.flushStores s.cur (s.waveDom x)).updRing w ring.toNat fun q => q.updSlot i f)
    else onceCause g .ringState 0

/-- SRPOST (R232). -/
def execSrpost (h : Head) (a : Operand) (ring : BitVec 3) (s : State) : Host.Outcome State Fault Refusal :=
  issue (.srpost h a ring) s
    (slotRes h ring a (fun t => t.state == .acquired && t.bound.isNone) fun t => t.post false)

/-- SRFREE (R232). -/
def execSrfree (h : Head) (a : Operand) (ring : BitVec 3) (s : State) : Host.Outcome State Fault Refusal :=
  issue (.srfree h a ring) s (slotRes h ring a (fun t => t.state == .taken) fun t => { t with state := .empty })

/-- The arrival word that a binding names, as it is. -/
def State.boundWord (s : State) (b : Block) (k : KernelDesc) (dom : Nat) (a : Word) : Arrival :=
  match windowLoc b.die b k a 16 with
  | some (.lds d) => s.arrivalAt dom d
  | _ => ⟨0, 0, 0, false, false⟩

/-- A bound slot is posted where its word has moved on (R233). -/
def postBound (v : Arrival) (t : RingSlot) : RingSlot :=
  match t.bound with
  | some (_, g) => if v.ready g.toNat then t.post v.fault else t
  | none => t

/-- SRBIND (R233): it posts at once where the condition holds already. -/
def execSrbind (h : Head) (d a b : Operand) (ring : BitVec 3) (s : State) : Host.Outcome State Fault Refusal :=
  issue (.srbind h d a b ring) s fun s w x => barrierOnce s w h fun g =>
    let addr := structAddr w x a
    let q := x.ring w ring.toNat
    let i := slotOf w x d
    match checkStruct w x addr 16 16 with
    | .error c => onceCause g c (addr.setWidth 64)
    | .ok _ =>
      if decide (i < q.slots.length) && (q.slot i).state == .acquired && (q.slot i).bound.isNone then
        let s := s.flushStores s.cur (s.waveDom x)
        let v := s.boundWord x.block x.kern.desc (s.waveDom x) addr
        .done (s.updRing w ring.toNat fun q => q.updSlot i fun t =>
          postBound v { t with bound := some (addr, (readUni w x b).setWidth 24) })
      else onceCause g .ringState 0

/-- RING_BOUND_POST (R233). -/
def execRingBoundPost (block partner ring slot : Nat) (s : State) : Host.Outcome State Fault Refusal :=
  match s.blocks.get block with
  | none => .next s
  | some b =>
    match s.grids.get b.grid with
    | none => .next s
    | some g =>
      match s.kernels.get g.kernel with
      | none => .next s
      | some k =>
        let t := ((b.rings.getD partner []).getD ring {}).slot slot
        match t.bound with
        | some (a, _) =>
          if b.placed then
            .next (s.updBlock block fun b => b.updRing partner ring fun q => q.updSlot slot
              (postBound (s.boundWord b k.desc (s.ownDom g.ctx) a)))
          else .next s
        | none => .next s

end Sys2Proof.Machine
end

