-- ==== Sys2Proof/Machine/WaveEvents.lean ====
section
/-! DEFINITION. The effects of special-register writes as operations of their own, and what comes about at an
instruction boundary of a wave: serial steering, the end of a quantum, handler overrun, the end of the wave
(R79, R82, R99, R103 to R110, R132, R133). -/

namespace Sys2Proof.Machine

/-! ### Writes of special registers -/

/-- A write that only handler mode may make: at depth 0 it raises ILLEGAL_OPERAND (R53, R99). -/
def inHandler (s : State) (n : Nat) (f : Wave → WCtx → State) : Host.Outcome State Fault Refusal :=
  onWave s n fun w x => if w.hdep = 0 then s.deliver n w x .illegalOperand w.run 0 0 else f w x

/-- WRITE_RUNM (R99): 0 raises STEER_EMPTY. -/
def execWriteRunm (n : Nat) (v : BitVec 64) (s : State) : Host.Outcome State Fault Refusal :=
  inHandler s n fun w x => match w.writeRunm x v with
    | .ok w' => s.setWave n w'
    | .error c => s.deliver n w x c w.run 0 0

/-- WRITE_PARKM (R99). -/
def execWriteParkm (n : Nat) (v : BitVec 64) (s : State) : Host.Outcome State Fault Refusal :=
  inHandler s n fun w x => s.setWave n (w.writeParkm x v)

/-- WRITE_LPC (R99): a value for each lane of a mask. -/
def execWriteLpc (n : Nat) (lanes : BitVec 64) (vals : List (BitVec 32)) (s : State) : Host.Outcome State Fault Refusal :=
  inHandler s n fun w _ => s.setWave n (w.writeLpc (lanes &&& w.run) fun l => vals.getD l 0)

/-- WRITE_HRUN2 (R99). -/
def execWriteHrun2 (n : Nat) (v : BitVec 64) (s : State) : Host.Outcome State Fault Refusal :=
  inHandler s n fun w x => s.setWave n (w.writeHrun2 x v)

/-- WRITE_SGLIM (R104, R133). -/
def execWriteSglim (n : Nat) (v : BitVec 32) (s : State) : Host.Outcome State Fault Refusal :=
  onWave s n fun w _ => s.setWave n (w.writeSglim v)

/-- WRITE_SGQ (R104, R133). -/
def execWriteSgq (n : Nat) (v : BitVec 32) (s : State) : Host.Outcome State Fault Refusal :=
  onWave s n fun w _ => s.setWave n (w.writeSgq v)

/-- WRITE_DITHER (R82). -/
def execWriteDither (n : Nat) (v : BitVec 32) (s : State) : Host.Outcome State Fault Refusal :=
  onWave s n fun w _ => s.setWave n (w.writeDither v)

/-- WRITE_FFLAGS (R79). -/
def execWriteFflags (n : Nat) (v : BitVec 32) (s : State) : Host.Outcome State Fault Refusal :=
  onWave s n fun w _ => s.setWave n (w.writeFflags v)

/-- READ_FFLAGS (R79): the flags, those of the wave's earlier tile instructions among them, reach a register in the RUN
lanes; until those are complete the read waits. -/
def execReadFflags (n : Nat) (d : Operand) (s : State) : Host.Outcome State Fault Refusal :=
  onWave s n fun w _ =>
    if w.tiles.isEmpty then s.setWave n (w.writeD d false w.run fun _ => w.fflags.setWidth 64) else s

/-- WRITE_HVEC (R109, R133). -/
def execWriteHvec (n : Nat) (v : BitVec 32) (s : State) : Host.Outcome State Fault Refusal :=
  onWave s n fun w _ => s.setWave n (w.writeHvec v)

/-- WRITE_SPECIAL_REGISTER (R53, R99, R132). -/
def execWriteSpecialRegister (n : Nat) (no : BitVec 8) (v : BitVec 64) (s : State) : Host.Outcome State Fault Refusal :=
  onWave s n fun w x =>
    let put := match w.writeSpec x no v with
      | .ok w' => s.setWave n w'
      | .error c => s.deliver n w x c w.run 0 0
    match specInfo no with
    | some ⟨_, _, .rw⟩ => put
    | some ⟨_, _, .rh⟩ => if w.hdep = 0 then s.deliver n w x .illegalOperand w.run 0 0 else put
    | _ => s.deliver n w x .illegalOperand w.run 0 0

/-! ### Boundaries -/

/-- An engagement of the safeguard enters the lifetime record (R238). -/
def State.countSafeguard (s : State) : State :=
  { s with lifetime := { s.lifetime with
      safeguard := if s.lifetime.safeguard = 0xffffffffffffffff then s.lifetime.safeguard else s.lifetime.safeguard + 1 } }

/-- Serial steering engages (R105, R106). -/
def State.engage (s : State) (n : Nat) (w : Wave) (x : WCtx) : State :=
  match w.startSerial x with
  | some v => (s.setWave n v).countSafeguard
  | none =>
    if w.runnable = 0 then s.deliver n w x .rejoinStall w.live 0 0
    else
      s.deliver n w x .pcRange (maskOf fun l => w.runnable.getLsbD l && match w.oldest with
        | some c => w.lpc 0 l == w.lpc 0 c
        | none => false) 0 0

/-- The wave goes on at a boundary: not in a wait, halted, saved, faulted or ending. -/
def Wave.atBoundary (w : Wave) : Bool :=
  (w.phase == .starting || w.phase == .active) && w.wait.isNone && !w.saved && !w.halted

/-- `%sgage` is over the limit at depth 0 outside serial steering (R105). -/
def Wave.starved (w : Wave) : Bool := w.hdep == 0 && !w.serial && decide (w.sglim < w.sgage)

/-- The handler has run too long (R106). -/
def Wave.overrun (w : Wave) : Bool := w.hdep != 0 && decide (w.sglim < w.handlerIssues)

/-- SERIAL_STEERING (R105). -/
def execSerialSteering (n : Nat) (s : State) : Host.Outcome State Fault Refusal :=
  onWave s n fun w x => if w.atBoundary && w.starved then s.engage n w x else s

/-- QUANTUM_END (R105, R237). Where the last running lane of serial steering has parked and none is runnable, REJOIN_STALL is
raised here, at the boundary behind the instruction, which has retired, as R105 has it; R108 names the instruction that
emptied RUN (DESIGN CHOICE, log entry 12). -/
def execQuantumEnd (n : Nat) (s : State) : Host.Outcome State Fault Refusal :=
  onWave s n fun w x =>
    if w.atBoundary && w.quantumOver then
      if w.runnable ≠ 0 then
        match w.enterEvent x .safeguard w.pc fun _ => w.pc with
        | some v => s.setWave n v
        | none => s.deliver n w x .pcRange w.runnable 0 0
      else if w.live = 0 then s.setWave n { w with phase := .ending }
      else s.deliver n w x .rejoinStall w.live 0 0
    else s

/-- HANDLER_OVERRUN (R106). Where the chosen lane's PC is bad, PC_RANGE is raised at depth 0 with RUN and the PC still the
handler's: no rule says in which state (DESIGN CHOICE, log entry 13). -/
def execHandlerOverrun (n : Nat) (s : State) : Host.Outcome State Fault Refusal :=
  onWave s n fun w x => if w.atBoundary && w.overrun then s.engage n { w with hdep := 0, hcause := 0, passBp := false } x else s

/-- WAVE_END (R108, R110, R223): the slot is free, and the wave is no longer a member of any barrier. -/
def execWaveEnd (n : Nat) (s : State) : Host.Outcome State Fault Refusal :=
  onWave s n fun w x =>
    if w.phase == .ending && w.drained && w.retiring.isEmpty then
      let s' := s.leaveBarriers w x
      { s' with waves := s'.waves.del n }
    else s

/-! ### Retirement of items (R295, R339) -/

/-- ITEM_RETIRE (R295, R339): the items that one instruction ended retire together, once the accesses of their lanes that
stand before it are performed. -/
def execItemRetire (n : Nat) (s : State) : Host.Outcome State Fault Refusal :=
  onWave s n fun w _ =>
    match if w.saved then none else w.readyPass with
    | some p => s.applyPass n w p
    | none => s

/-- The event that a wave's boundary brings before anything issues (Table 5.3). -/
def Wave.due (w : Wave) (n : Nat) : Option Instr :=
  if w.phase == .ending && w.drained then (if w.retiring.isEmpty then some (.waveEnd n) else some (.itemRetire n))
  else if !w.atBoundary then none
  else if w.overrun then some (.handlerOverrun n)
  else if w.quantumOver then some (.quantumEnd n)
  else if w.starved then some (.serialSteering n)
  else none

end Sys2Proof.Machine
end

