-- ==== Sys2Proof/Machine/Intervals.lean ====
section
/-! DEFINITION. Intervals of a replaying core: images of the core, the undo journal, checkpoints (R397, R398). -/

namespace Sys2Proof.Machine

/-- A block has part of itself on a core: its allocation, or a wave of its own (R288, R397). -/
def State.blockOn (s : State) (die core key : Nat) (b : Block) : Bool :=
  b.placed && b.die == die &&
    (b.cores.contains core || s.waves.any fun e => e.2.block == key && e.2.die == die && e.2.core == core && !e.2.saved)

/-- Entries of a table whose keys are among some. -/
def Tbl.only {α : Type} (t : Tbl α) (ks : List Nat) : Tbl α := t.filter fun e => ks.contains e.1

/-- What the core holds, as it is, with what its waves run by (R397). -/
def State.coreImage (s : State) (die core : Nat) : CoreImage :=
  let blocks := s.blocks.filter fun e => s.blockOn die core e.1 e.2
  let grids := Tbl.only s.grids (blocks.map fun e => e.2.grid)
  let k := s.core die core
  { waves := s.waves.filter fun e => e.2.die == die && e.2.core == core && !e.2.saved
    blocks := blocks
    lds := s.lds.filter fun e => dieOf e.1 == die && coreOf e.1 == core
    tags := s.ldsTags.filter fun e => dieOf (e.1 * 4096) == die && coreOf (e.1 * 4096) == core
    tlb := k.tlb
    stall := k.stall
    unread := k.unread
    text := k.text
    grids := grids
    kernels := Tbl.only s.kernels (grids.map fun e => e.2.kernel)
    ctxs := Tbl.only s.contexts (grids.map fun e => e.2.ctx)
    domains := s.domains }

/-- The context has replay mode set (Table 22.1). -/
def State.replays (s : State) (c : Nat) : Bool := (s.ctx c).desc.flags.getLsbD 3

/-- Contexts that hold blocks, or waves of a reserving launch, on a core. -/
def State.coreContexts (s : State) (die core : Nat) : List Nat :=
  (s.blocks.filterMap fun e =>
    if e.2.placed && e.2.die = die && e.2.cores.contains core then (s.grids.get e.2.grid).map fun g => g.ctx else none) ++
  s.waves.filterMap fun e =>
    if e.2.die = die && e.2.core = core && !e.2.saved then (s.wctx e.2).map fun x => x.grid.ctx else none

/-- Values that a step's inputs bring to the core's waves and its local store: each is an entry of the input log. What a core
works out by itself is none (R397). -/
def Inputs.count (i : Inputs) : Nat :=
  i.waves.length + i.blocks.length + (i.lds.map fun (e : Nat × Byte) => e.1 / 4).eraseDups.length

/-- Entries of the journal and of the log that an interval has. -/
def Interval.entries (i : Interval) : Nat := i.journal.length + (i.log.map fun e => e.inputs.count).sum

/-- Bytes of a core's journal area that an interval takes: its checkpoint, its journal and its log. -/
def Interval.used (i : Interval) : Nat := i.records.length + i.entries * Config.journalEntry

/-- A checkpoint of a core: what it holds, but for the bytes of its local store, to which the journal leads back. -/
def State.checkpoint (s : State) (die core : Nat) : CoreImage := { s.coreImage die core with lds := [] }

/-- A checkpoint: a new interval starts with what the core holds now, behind the one before in the journal area; that one is
kept (R397). -/
def State.newInterval (s : State) (die core : Nat) (keep : Bool) : State :=
  match (s.core die core).replay with
  | none => s
  | some r =>
    s.updCore die core fun k => { k with replay := some { r with
      interval := r.interval + 1
      prev := if keep then r.cur else none
      cur := some {
        number := r.interval + 1
        start := s.checkpoint die core
        base := match r.cur with
          | some i => i.base + i.used
          | none => 0 } } }

/-- The interval of a core is closed and its journal discarded: by a save or a resume, or because the core holds no block of
the context any more (R397, R408; log entry 31). -/
def ReplayCore.closed (r : ReplayCore) : ReplayCore := { r with due := false, cur := none, prev := none }

def State.closeInterval (s : State) (die core : Nat) : State :=
  match (s.core die core).replay with
  | none => s
  | some r => s.updCore die core fun k => { k with replay := some r.closed }

/-- The core has admitted a block or a wave of a replaying context: the first opens interval 1. A core that comes to hold the
context again opens the next one; beside other blocks of the context, after a save, none is open until the next checkpoint
(R397, R408; log entry 31). -/
def State.replayAdmit (s : State) (die core ctx : Nat) : State :=
  if !s.replays ctx then s
  else
    let first : ReplayCore := { ctx := ctx, cur := some { number := 1, start := s.checkpoint die core } }
    match (s.core die core).replay with
    | none => s.updCore die core fun k => { k with replay := some first }
    | some r =>
      if r.ctx ≠ ctx then s.updCore die core fun k => { k with replay := some first }
      else if r.cur.isSome || r.idle = false then s
      else (s.updCore die core fun k => { k with replay := some { r with idle := false } }).newInterval die core false

/-- A word of a local store, by device address of its first byte; an unlisted byte is 0. -/
def wordIn (m : Memory) (a : Nat) : Word :=
  BitVec.ofNat 32 (leNat ((List.range 4).map fun i => (Memory.find m (a + i)).getD 0))

/-- The entries of the undo journal for a step: of every word of the core's store that was written in it, or that has come to
differ, the offset and the value before (R397). -/
def journalOf (die core : Nat) (a b : Memory) (wrote : List Nat) : List (Nat × Word) :=
  let mine := (wrote.filter fun x => dieOf x == die && coreOf x == core).reverse.map fun x => x % 0x400000 / 4
  let changed := ((a.map fun (e : Nat × Byte) => e.1 % 0x400000 / 4) ++ (b.map fun (e : Nat × Byte) => e.1 % 0x400000 / 4)).filter fun o =>
    wordIn a (devAddr die core (4 * o)) != wordIn b (devAddr die core (4 * o))
  (mine ++ changed).eraseDups.map fun o => (4 * o, wordIn a (devAddr die core (4 * o)))

/-- The journal applied in reverse, from its newest entry on (R399). -/
def undoAll (die core : Nat) (m : Memory) (journal : List (Nat × Word)) : Memory :=
  journal.foldr (fun e m =>
    (List.range 4).foldl (fun m i => Memory.set (some 0) m (devAddr die core (e.1 + i)) ((leBytes 4 e.2.toNat).getD i 0)) m) m

end Sys2Proof.Machine
end

