-- ==== Sys2Proof/Machine/Reserve.lean ====
section
/-! DEFINITION. The reserving class 0x21: CLAIM, CLAIMEND and ITEMEND (R290, R291, R295, R296). -/

namespace Sys2Proof.Machine

/-- What a claim by a lane comes to (R290). -/
def claimLane (w : Wave) (x : WCtx) (c : Nat) (a : Word) (l : Nat) : Except Cause Item :=
  match (w.lane l).item with
  | none => .error .claimPhase
  | some it =>
    if a.toNat / 0x40000000 = 0 || a.toNat / 0x40000000 = 3 then .error .claimScope
    else
      match windowLoc w.die x.block x.kern.desc a 1 with
      | none => .error .windowBounds
      | some p =>
        let g := (claimForm w x p).getD 0 / 8
        if it.granules.contains g then .ok it
        else if c ≤ it.claims.length then .error .claimOverflow
        else .ok { it with granules := it.granules ++ [g], claims := it.claims ++ [claimBits g] }

/-- Claims per item that the kernel declares. -/
def WCtx.claims (x : WCtx) : Nat :=
  match x.kern.desc.reserve with
  | some r => r.2.1
  | none => 0

/-- A reserving instruction in the guarded lanes of a wave of its kind: not in handler mode (R279, R296). -/
def reserving (s : State) (w : Wave) (h : Head) (kind : WaveKind) (f : Mask → Res) : Res :=
  let g := w.guard h
  if g = 0 then .done s
  else if w.hdep ≠ 0 then .cause .steerMode g 0 0
  else if w.kind ≠ kind then .cause .claimPhase g 0 0
  else f g

/-- CLAIM (R290). -/
def execClaim (h : Head) (a : Operand) (b : Option Operand) (s : State) : Host.Outcome State Fault Refusal :=
  issue (.claim h a b) s fun s w x => reserving s w h .claim fun g =>
    let addr := laneAddr w x a b
    let rs := (lanesOf g).map fun l => (l, claimLane w x x.claims (addr l) l)
    match worstCause (rs.filterMap fun r => match r.2 with
      | .error c => some (r.1, c, (addr r.1).setWidth 64)
      | .ok _ => none) with
    | some c => .cause c.1 c.2.1 c.2.2 0
    | none =>
      .done (s.setWave s.cur (rs.foldl (fun v r => match r.2 with
        | .ok it => v.updLane r.1 fun y => { y with item := some it }
        | .error _ => v) w))

/-- The body entry that CLAIMEND gives a lane (R291). -/
def bodyEntry (w : Wave) (x : WCtx) (b : Operand) (l : Nat) : Word :=
  match b with
  | .imm c => countTarget w c
  | _ => readWord w x l b

/-- CLAIMEND (R291): candidates in ascending lane order; the lanes leave LIVE. -/
def execClaimend (h : Head) (b : Operand) (s : State) : Host.Outcome State Fault Refusal :=
  issue (.claimend h b) s fun s w x => reserving s w h .claim fun g =>
    let bad := maskOf fun l => g.getLsbD l && !x.pcOk (bodyEntry w x b l)
    if bad ≠ 0 then .cause .pcRange bad 0 0
    else
      let s := (s.retireFirst w).formBodies w.die
      match s.former w with
      | none => .cause .claimPhase g 0 0
      | some f =>
        let is := (lanesOf g).filterMap fun l => (w.lane l).item.map fun it =>
          { it with entry := bodyEntry w x b l, words := (List.range 4).map fun i => (w.lane l).reg i }
        let w' := { w.leave g with
          lanes := w.lanes.mapIdx fun l y => if g.getLsbD l then { y with item := none } else y }
        settle (s.setFormer w.die (is.foldl Former.submit f)) w x w' g

/-- ITEMEND (R295): the guarded lanes' items retire once the lanes' accesses are performed. -/
def execItemend (h : Head) (s : State) : Host.Outcome State Fault Refusal :=
  issue (.itemend h) s fun s w _ => reserving s w h .body fun g =>
    let p := s.exitItems w g
    .done (p.1.setWave p.1.cur p.2)

end Sys2Proof.Machine
end

