-- ==== Sys2Proof/Machine/Admit.lean ====
section
/-! DEFINITION. Shapes of blocks, admission limits, placement, save-pool reservations, the start of waves and blocks
(R16, R93, R270 to R273, R286, R305 to R307, R364, R371, R397, R410). -/

namespace Sys2Proof.Machine

/-! ### Shapes (R270 to R272, R286) -/

/-- One wave of a block's shape. -/
structure WaveShape where
  partner : Nat
  role : Role
  width : Nat
  /-- lanes mapped to threads -/
  mapped : Nat
  deriving DecidableEq, Repr

/-- Waves of a block without roles. -/
def plainShape (width threads span : Nat) : List WaveShape :=
  let n := (threads + width - 1) / width
  (List.range n).map fun v =>
    ⟨v * span / n, .general, width, if v = n - 1 then threads - (n - 1) * width else width⟩

/-- Waves of a block with roles (R271). -/
def roleShape (k : KernelDesc) (span : Nat) : List WaveShape :=
  ((List.range span).map fun p =>
    List.replicate k.copyWaves ⟨p, .copy, k.copyWidth, k.copyWidth⟩ ++
    List.replicate k.vectorWaves ⟨p, .vector, k.vectorWidth, k.vectorWidth⟩ ++
    if k.matrix then [⟨p, .matrix, 1, 1⟩] else []).flatten

def blockShape (k : KernelDesc) (threads span : Nat) : List WaveShape :=
  if k.hasRoles then roleShape k span else plainShape k.width threads span

/-- The shape of a block of a grid; a node block has a thread for each record (R286). -/
def gridShape (k : KernelDesc) (g : Grid) (b : Block) : List WaveShape :=
  if g.node then blockShape k b.records.length 1 else blockShape k g.threads g.span

/-! ### Limits (Table 17.2) -/

/-- Use of a core's resources. -/
structure Use where
  slots : Nat := 0
  lanes : Nat := 0
  words : Nat := 0
  granules : Nat := 0
  energy : Nat := 0
  matrix : Nat := 0
  deriving DecidableEq, Repr

def Use.add (a b : Use) : Use :=
  ⟨a.slots + b.slots, a.lanes + b.lanes, a.words + b.words, a.granules + b.granules, a.energy + b.energy, a.matrix + b.matrix⟩

/-- Weight of an energy class (R272). -/
def energyWeight (c : Nat) : Nat :=
  match c with
  | 0 => 1
  | 1 => 2
  | 2 => 3
  | _ => 5

/-- Granules of a wave's spill stacks. Table 17.2 has the spill stacks of a block's waves on a core 'each rounded up to
4 KiB': the model rounds those of each wave (DESIGN CHOICE, log entry 36). -/
def spillGranules (k : KernelDesc) (width : Nat) : Nat := (width * k.spill + 4095) / 4096

/-- What one wave of a kernel uses, its spill granules aside. -/
def waveUse (k : KernelDesc) (role : Role) (width : Nat) : Use where
  slots := 1
  lanes := width
  words := width * k.regs
  energy := energyWeight k.energy * if role = .matrix then 1 else (width + 7) / 8
  matrix := if role = .matrix then 1 else 0

/-- What a block's share on a partner needs. -/
def shareUse (k : KernelDesc) (shape : List WaveShape) (p : Nat) : Use :=
  (shape.filter fun w => w.partner == p).foldl
    (fun u w => (u.add (waveUse k w.role w.width)).add { granules := spillGranules k w.width })
    { granules := k.alloc / 4096 }

/-- What is used on a core: by its waves, and by the granules of the blocks placed there, which hold the spill stacks of
their waves until they leave. The waves of a reserving launch hold their own. -/
def State.coreUse (s : State) (die core : Nat) : Use :=
  let u := s.waves.foldl (fun u e =>
    if e.2.die = die && e.2.core = core && !e.2.saved then
      match s.wctx e.2 with
      | some x => (u.add (waveUse x.kern.desc e.2.role e.2.width)).add
          { granules := if e.2.kind = .ordinary then 0 else e.2.granules.length }
      | none => u
    else u) {}
  s.blocks.foldl (fun u e =>
    if e.2.placed && e.2.die = die then
      (List.range e.2.cores.length).foldl (fun u p =>
        if e.2.cores.getD p 48 = core then
          u.add { granules := (e.2.alloc.getD p []).length + (e.2.spill.getD p []).length }
        else u) u
    else u) u

/-- Energy budget of a core in an island state (Table 24.5). -/
def budgetOf : IslandState → Nat
  | .run => 1280
  | .reduced => 768
  | .stopped | .off => 0

/-- Every limit of Table 17.2 holds. -/
def Use.fits (u : Use) (budget : Nat) : Bool :=
  decide (u.slots ≤ 64) && decide (u.lanes ≤ 2048) && decide (u.words ≤ 262144) && decide (u.granules ≤ 768) &&
  decide (u.energy ≤ budget) && decide (u.matrix ≤ 1)

/-- A core that holds a block of a replaying context holds blocks of that context only (R397). -/
def State.replayRoom (s : State) (die core ctx : Nat) : Bool :=
  (s.coreContexts die core).all fun c => c == ctx || (!s.replays c && !s.replays ctx)

/-! ### Reservations of a waiting cooperative grid (R305) -/

/-- Placements that a choice of cores gives to a block: die and cores. -/
abbrev Placement := Nat × List Nat

/-- Lowest core that satisfies a test with the most free wave slots. -/
def bestCore (ok : Nat → Bool) (slots : Nat → Nat) : Option Nat :=
  (List.range 48).foldl (fun b c =>
    if ok c then match b with
      | none => some c
      | some d => if slots c < slots d then some c else some d
    else b) none

/-- The cores that R306 chooses on a die for a share of each partner, from a use and a test for each core. -/
def chooseCores (span : Nat) (use : Nat → Use) (ok : Nat → Nat → Bool) : Option (List Nat) :=
  if span = 1 then (bestCore (fun c => ok 0 c) fun c => (use c).slots).map fun c => [c]
  else
    ((List.range (48 / span)).find? fun i => (List.range span).all fun p => ok p (i * span + p)).map fun i =>
      (List.range span).map fun p => i * span + p

/-- The placement of R305: block after block on the lowest die where it would fit, were the device empty but for the
grid's earlier blocks. -/
def coopPlacement (k : KernelDesc) (shape : List WaveShape) (span : Nat) (budget : Nat → Nat → Nat) (room : Nat → Nat → Bool) :
    Nat → List Placement → Option (List Placement)
  | 0, acc => some acc
  | n + 1, acc =>
    let use := fun (die core : Nat) => acc.foldl (fun u (p : Placement) =>
      match p.2.idxOf? core with
      | some i => if p.1 = die then u.add (shareUse k shape i) else u
      | none => u) ({} : Use)
    let place := (List.range 4).findSome? fun die =>
      (chooseCores span (use die) fun p c => room die c && ((use die c).add (shareUse k shape p)).fits (budget die c)).map
        fun cs => (die, cs)
    match place with
    | none => none
    | some p => coopPlacement k shape span budget room n (acc ++ [p])

/-- The setting of a start's alternate holds core islands at reduced, or lower (R406: steps 5, 6 and 7). -/
def heldLow (alts : List Nat) : Bool := alts.contains 5 || alts.contains 6 || alts.contains 7

/-- The budget with which a cooperative grid's refusal is judged: a clock-stopped island counts with the budget of the
highest state the power limit allows, which the model takes to be run (R407, log entry 24), or reduced where an alternate
of the start holds it there (R406). -/
def State.coopBudget (s : State) (die core : Nat) : Nat :=
  match s.island (islandOf die core) with
  | .stopped => if heldLow s.startRec.alternates then 768 else 1280
  | st => budgetOf st

/-- The placement of a cooperative grid, on the device with every core empty. -/
def State.coopPlan (s : State) (k : KernelDesc) (g : Grid) : Option (List Placement) :=
  coopPlacement k (blockShape k g.threads g.span) g.span s.coopBudget (fun _ _ => true) g.blocks []

/-- Priority level of a rank (R353). -/
def levelOf (r : BitVec 20) : Nat := r.toNat / 8192

/-- What a waiting cooperative grid has reserved on a core, against a block of a level (R305). -/
def State.coopReserved (s : State) (level die core : Nat) : Use :=
  match s.coopWaiting with
  | none => {}
  | some n =>
    match s.grids.get n with
    | none => {}
    | some g =>
      match s.kernels.get g.kernel with
      | none => {}
      | some k =>
        if level < levelOf g.rank then {}
        else
          match s.coopPlan k.desc g with
          | none => {}
          | some ps => ps.foldl (fun u p => match p.2.idxOf? core with
            | some i => if p.1 = die then u.add (shareUse k.desc (blockShape k.desc g.threads g.span) i) else u
            | none => u) {}

/-- The grid of an entry of a die's queue, and its kernel. -/
def State.entryGrid (s : State) (q : QEntry) : Option Nat :=
  match q with
  | QEntry.block b => (s.blocks.get b).map fun k => k.grid
  | QEntry.reserving n => some n

def State.entryKernel (s : State) (q : QEntry) : Option (Grid × Kernel) :=
  match s.entryGrid q with
  | none => none
  | some gk => match s.grids.get gk with
    | none => none
    | some g => (s.kernels.get g.kernel).map fun k => (g, k)

/-- Waves of a block. -/
def State.wavesOf (s : State) (key : Nat) : List (Nat × Wave) := s.waves.filter fun e => e.2.block == key

/-- The shape that a waiting block takes up on its cores: of the waves that a saved one still has, else that of its
kernel. The waves of a reserving launch are placed one by one, and only its home allocation counts (R288). -/
def State.shapeNow (s : State) (key : Nat) (b : Block) (g : Grid) (k : Kernel) : List WaveShape :=
  if k.desc.reserve.isSome then []
  else if b.phase = .saved then (s.wavesOf key).map fun e => ⟨e.2.partner, e.2.role, e.2.width, e.2.width⟩
  else gridShape k.desc g b

/-- Cores that a waiting block spans. -/
def spanNow (b : Block) (g : Grid) : Nat :=
  if b.phase = .saved then b.cores.length else if g.node || g.span = 0 then 1 else g.span

/-- What an entry of a die's queue needs: its grid, its kernel, the shape and the span of what it places. -/
def State.entryNeed (s : State) (q : QEntry) : Option (Grid × Kernel × List WaveShape × Nat) :=
  match s.entryKernel q with
  | none => none
  | some (g, k) => match q with
    | QEntry.block n => (s.blocks.get n).map fun b => (g, k, s.shapeNow n b g k, spanNow b g)
    | QEntry.reserving _ => some (g, k, [], 1)

/-- The block is on its way off its cores. -/
def Block.leaving (b : Block) : Bool :=
  b.ending || match b.phase with
    | .draining | .saving | .flushing => true
    | _ => false

/-- The state without some blocks and their waves. -/
def State.without (s : State) (gone : List Nat) : State :=
  { s with
    blocks := s.blocks.filter fun e => !gone.contains e.1
    waves := s.waves.filter fun e => !gone.contains e.2.block }

/-- Every wave has its counters at 0, and every item that it has ended has retired (R295, R313). -/
def State.drainedBlock (s : State) (key : Nat) : Bool := (s.wavesOf key).all fun e => e.2.drained && e.2.retiring.isEmpty

/-- Every item of a reserving launch has retired. -/
def Former.over (f : Former) (n : Nat) : Bool := decide (n ≤ f.retired)

/-- The block has nothing left to run: no wave, or it is ended by its agent or by a cancellation and drained. -/
def State.retirable (s : State) (key : Nat) (b : Block) (k : KernelDesc) : Bool :=
  if b.ending then s.drainedBlock key && (b.placed || b.phase == .saved)
  else
    b.placed && (s.wavesOf key).isEmpty &&
    match k.reserve, (s.die b.die).former with
    | some r, some f => f.block == key && f.over r.1
    | some _, none => false
    | none, _ => true

/-- The block is about to retire: a pre-emption comes too late for it (R315). -/
def State.retires (s : State) (key : Nat) (b : Block) : Bool :=
  match s.entryKernel (.block key) with
  | some p => s.retirable key b p.2.desc
  | none => false

/-- Blocks of a die that are on their way off: one that retires is, and no other is selected where its room suffices
(R315). -/
def State.leavingOn (s : State) (die : Nat) : List Nat :=
  (s.blocks.filter fun e => e.2.placed && e.2.die == die && (e.2.leaving || s.retires e.1 e.2)).map fun e => e.1

/-- Blocks of the context may be placed: it is resident, and not on its way out (R361, R362). -/
def State.admitting (s : State) (c : Nat) : Bool := (s.ctx c).state == .resident && !(s.ctx c).evicting

/-- A share leaves on a core what is reserved there for waiting entries other than the one it belongs to: the resources
that the blocks on their way off will free (R309, R312). An entry of a context that is not resident counts as absent
(R362). -/
def State.sparesReserved (s : State) (self : Option QEntry) (die core : Nat) (u : Use) : Bool :=
  (s.die die).reserved.all fun r =>
    some r.1 == self || !(s.die die).queue.contains r.1 ||
    match r.2.idxOf? core, s.entryNeed r.1 with
    | some p, some n =>
      !s.admitting n.1.ctx || ((((s.without (s.leavingOn die)).coreUse die core).add (shareUse n.2.1.desc n.2.2.1 p)).add u).fits
        (budgetOf (s.island (islandOf die core)))
    | _, _ => true

/-- A core that runs blocks of a replaying context is in the run state (R381). -/
def State.replayRuns (s : State) (die core ctx : Nat) : Bool := !s.replays ctx || s.island (islandOf die core) == .run

/-- The island of a core has a clock (R407). -/
def State.clocked (s : State) (die core : Nat) : Bool :=
  match s.island (islandOf die core) with
  | .run | .reduced => true
  | .stopped | .off => false

/-- A share of an entry, or of a wave of a running launch, fits a core now. -/
def State.fitsOn (s : State) (self : Option QEntry) (ctx level die core : Nat) (u : Use) : Bool :=
  (((s.coreUse die core).add (s.coopReserved level die core)).add u).fits (budgetOf (s.island (islandOf die core))) &&
  s.sparesReserved self die core u && s.replayRoom die core ctx && s.replayRuns die core ctx && s.clocked die core

/-- The placement of R306 for a block on a die. -/
def State.placement (s : State) (self : Option QEntry) (ctx level die span : Nat) (k : KernelDesc) (shape : List WaveShape) :
    Option (List Nat) :=
  chooseCores span (s.coreUse die) fun p c => s.fitsOn self ctx level die c (shareUse k shape p)

/-- A block of a shape fits a placement. -/
def State.fitsAt (s : State) (self : Option QEntry) (die : Nat) (g : Grid) (k : Kernel) (shape : List WaveShape) (cores : List Nat) :
    Bool :=
  (List.range cores.length).all fun p =>
    s.fitsOn self g.ctx (levelOf g.rank) die (cores.getD p 48) (shareUse k.desc shape p)

/-- Placements of a span on a die: cores, or aligned groups of an island (R306). -/
def placements (span : Nat) : List (List Nat) := (List.range (48 / span)).map fun i => (List.range span).map fun p => i * span + p

/-- The entry fits somewhere on its die now. -/
def State.entryFits (s : State) (die : Nat) (q : QEntry) : Bool :=
  match s.entryNeed q with
  | none => false
  | some (g, k, shape, span) => (placements span).any fun cores => s.fitsAt (some q) die g k shape cores

/-- A block fits an empty core or group with the budget of the run state (R16, R273). -/
def everFits (k : KernelDesc) (shape : List WaveShape) (span : Nat) : Bool :=
  (List.range span).all fun p => (shareUse k shape p).fits 1280

/-! ### Granules (R410) -/

/-- Granules held on a core. -/
def State.heldGranules (s : State) (die core : Nat) : List Nat :=
  (s.blocks.map fun e =>
    if e.2.placed && e.2.die = die then
      ((List.range e.2.cores.length).map fun p =>
        if e.2.cores.getD p 48 = core then e.2.alloc.getD p [] ++ e.2.spill.getD p [] else []).flatten
    else []).flatten ++
  (s.waves.map fun e => if e.2.die = die && e.2.core = core && !e.2.saved then e.2.granules else []).flatten

/-- Granules that a share may receive on a core: as many as it needs, distinct, in the store, free. -/
def State.granulesOk (s : State) (die core alloc spill : Nat) (g : Granules) : Bool :=
  let all := g.alloc ++ g.spill
  g.alloc.length == alloc && g.spill.length == spill && decide all.Nodup &&
  all.all fun i => decide (i < 768) && !(s.heldGranules die core).contains i

/-- Granules for every core of a placement. -/
def State.shareGranulesOk (s : State) (die : Nat) (cores : List Nat) (k : KernelDesc) (shape : List WaveShape) (g : List Granules) :
    Bool :=
  g.length == cores.length && (List.range cores.length).all fun p =>
    s.granulesOk die (cores.getD p 0) (k.alloc / 4096) ((shareUse k shape p).granules - k.alloc / 4096)
      (g.getD p ⟨[], []⟩)

/-! ### Save pool (R364, R371) -/

/-- Size of a block's save record (Table 22.6). -/
def recordSize (k : KernelDesc) (shape : List WaveShape) (span : Nat) : Nat :=
  let waves := (shape.map fun w => 1024 + w.width * (16 + 4 * k.regs + k.spill)).sum
  let core := 2048 + k.alloc + if k.matrix then 1310976 else 0
  (512 + waves + span * core + 4095) / 4096 * 4096

/-- Size of the record of a reserving launch with some waves (R298, R371). -/
def launchRecordSize (k : KernelDesc) (waves : Nat) : Nat :=
  recordSize k (List.replicate waves ⟨0, .general, k.width, k.width⟩) 1

/-- Records reserved in a context's pool. -/
def State.poolRecords (s : State) (ctx : Nat) : List (Nat × Nat) :=
  (s.blocks.filterMap fun e => match s.grids.get e.2.grid with
    | some g => if g.ctx = ctx then e.2.record else none
    | none => none) ++
  s.grids.filterMap fun e => if e.2.ctx = ctx then e.2.record else none

/-- A record lies in a pool of a size, aligned, and meets no other. -/
def recordFree (pool : Nat) (rs : List (Nat × Nat)) (off size : Nat) : Bool :=
  decide (off % 4096 = 0) && decide (off + size ≤ pool) && rs.all fun r => decide (off + size ≤ r.1) || decide (r.1 + r.2 ≤ off)

/-- The first place in a pool with room for a record: its start, or the end of another record. -/
def recordPlace (pool : Nat) (rs : List (Nat × Nat)) (size : Nat) : Option Nat :=
  (0 :: rs.map fun r => (r.1 + r.2 + 4095) / 4096 * 4096).find? fun off => recordFree pool rs off size

/-- Records of some sizes have room beside those that are reserved. -/
def recordsFit (pool : Nat) : List (Nat × Nat) → List Nat → Bool
  | _, [] => true
  | rs, n :: ns => match recordPlace pool rs n with
    | some off => recordsFit pool ((off, n) :: rs) ns
    | none => false

/-- Bytes of a context's save pool. -/
def State.poolBytes (s : State) (ctx : Nat) : Nat := (s.ctx ctx).desc.poolSize.toNat * 4096

/-- A record lies in the context's pool and meets no other. -/
def State.recordOk (s : State) (ctx off size : Nat) : Bool := recordFree (s.poolBytes ctx) (s.poolRecords ctx) off size

/-- Some place of the pool has room for a record. -/
def State.poolRoom (s : State) (ctx size : Nat) : Bool := (recordPlace (s.poolBytes ctx) (s.poolRecords ctx) size).isSome

/-! ### The start of waves (R93) -/

/-- The uniform registers at the start: arguments, then the data bindings; a node block's `k0` holds its records
(R37, R277, R286). Where a data block of a node kernel binds `k0` too, R37 gives the block's base and R286 the count of
records: the model lets the binding win (DESIGN CHOICE, log entry 27). -/
def startUniforms (k : Kernel) (g : Grid) (b : Block) : List DWord :=
  let k0 := List.replicate 64 (0 : DWord)
  let k1 := (List.range g.args.length).foldl (fun r i => r.set i (g.args.getD i 0)) k0
  let k2 := if g.node then k1.set 0 (BitVec.ofNat 64 b.records.length) else k1
  k.data.foldl (fun r d => r.set d.1 d.2) k2

/-- The lowest free wave slot of a core. -/
def State.freeSlot (s : State) (die core : Nat) : Nat :=
  ((List.range 64).find? fun i =>
    !s.waves.any fun e => e.2.die == die && e.2.core == core && !e.2.saved && e.2.slot == i).getD 0

/-- The granules of a block's spill stacks, by core, dealt to its waves in the order of their numbers (R170, R410). -/
def dealSpill (k : KernelDesc) : List WaveShape → List (List Nat) → List (List Nat)
  | [], _ => []
  | sh :: rest, gs =>
    let mine := gs.getD sh.partner []
    let n := spillGranules k sh.width
    mine.take n :: dealSpill k rest (gs.set sh.partner (mine.drop n))

/-- WAVE_START (R93): a wave of a block in its slot, with the state it starts in. -/
def startWave (key : Nat) (b : Block) (k : Kernel) (g : Grid) (waveid core slot : Nat) (sh : WaveShape) (spill : List Nat) : Wave where
  block := key
  waveid := waveid
  die := b.die
  core := core
  slot := slot
  partner := sh.partner
  role := sh.role
  width := sh.width
  regs := k.desc.regs
  lanes := List.replicate sh.width { regs := List.replicate k.desc.regs 0 }
  k := startUniforms k g b
  run := firstLanes sh.mapped
  live := firstLanes sh.mapped
  hvec := k.desc.hvec
  granules := spill

/-- A wave enters the table. -/
def State.addWave (s : State) (w : Wave) : State :=
  let n := s.newKey
  { n.2 with waves := n.2.waves.put n.1 w }

/-- The waves of a block start, in the order of their numbers. -/
def State.startWaves (s : State) (key : Nat) (b : Block) (k : Kernel) (g : Grid) (shape : List WaveShape) : State :=
  (List.zip (List.range shape.length) (List.zip shape (dealSpill k.desc shape b.spill))).foldl (fun s p =>
    let core := b.cores.getD p.2.1.partner 0
    s.addWave (startWave key b k g p.1 core (s.freeSlot b.die core) p.2.1 p.2.2)) s

/-- Barriers and rings as a block starts with them (R222, R230). -/
def freshBarriers (n members : Nat) : List Barrier := List.replicate n { expected := members }

def freshRings (k : KernelDesc) (span : Nat) : List (List Ring) :=
  List.replicate span (k.rings.map fun r => match r with
    | some d => { slots := List.replicate d.depth {} }
    | none => {})

/-- A record of a node block copied into its allocation (R286). -/
def State.copyRecords (s : State) (dom : Nat) (b : Block) (size : Nat) : State :=
  (List.zip (List.range b.records.length) b.records).foldl (fun s p =>
    (List.zip (List.range size) p.2).foldl (fun s q => s.ldsWrite dom (b.allocAddr 0 (p.1 * size + q.1)) q.2) s) s

/-- The last block of the grid has been handed to a core (Table 15.2). -/
def State.handedOut (s : State) (gk : Nat) : State :=
  let waiting := s.blocks.any fun e => e.2.grid == gk && e.2.phase == .pending
  s.updGrid gk fun g =>
    if g.phase == .dispatching && decide (g.blocks ≤ g.next) && !waiting then { g with phase := .running } else g

/-- A block is placed: its resources are reserved, its allocation mapped, its barriers and rings made, its waves
started (R306, R364, R410). -/
def State.placeBlock (s : State) (key : Nat) (b : Block) (k : Kernel) (g : Grid) (die : Nat) (cores : List Nat) (gr : List Granules)
    (record : Option (Nat × Nat)) : State :=
  let shape := gridShape k.desc g b
  let b' := { b with
    die := die
    span := cores.length
    phase := .admitted
    cores := cores
    alloc := gr.map fun x => x.alloc
    spill := gr.map fun x => x.spill
    barriers := freshBarriers k.desc.barriers shape.length
    rings := freshRings k.desc cores.length
    matrix := if k.desc.matrix then List.replicate cores.length {} else []
    elapsed := 0
    record := record }
  let s := (s.setBlock key b').startWaves key b' k g shape
  let s := match k.desc.node with
    | some n => if g.node then s.copyRecords (s.ownDom g.ctx) b' n.2.1 else s
    | none => s
  let s := cores.foldl (fun s c => s.replayAdmit die c g.ctx) s
  s.handedOut b.grid

end Sys2Proof.Machine
end

