-- ==== Sys2Proof/Machine/Grids.lean ====
section
/-! DEFINITION. Launch packets, grids, the pending-launch pool, gatherers, die queues, and the retirement and
cancellation of grids (R266 to R269, R277 to R287, R304, R356). -/

namespace Sys2Proof.Machine

/-! ### Launch packets (R277, R278) -/

/-- The fields of a launch packet. -/
structure LaunchPacket where
  flags : Nat
  kernel : Nat
  span : Nat
  threads : Nat
  blocks : Nat
  args : List DWord
  deriving DecidableEq, Repr

def LaunchPacket.ofBytes (bs : List Byte) : LaunchPacket where
  flags := leField bs 8 1
  kernel := leField bs 4 4
  span := leField bs 9 1
  threads := leField bs 10 2
  blocks := leField bs 12 4
  args := (List.range 6).map fun i => BitVec.ofNat 64 (leField bs (16 + 8 * i) 8)

def LaunchPacket.coop (p : LaunchPacket) : Bool := p.flags % 2 == 1

/-- A loaded kernel of a context that a launch may name (R267). -/
def State.loadedKernel (s : State) (ctx handle : Nat) : Option Kernel :=
  match s.kernels.get handle with
  | some k => if k.ctx = ctx && !k.unloading then some k else none
  | none => none

/-- The shape of a launch is allowed for its kernel (R270, R271, R273, R288, Table 15.4). -/
def LaunchPacket.shapeOk (p : LaunchPacket) (k : KernelDesc) : Bool :=
  if k.reserve.isSome then decide (p.blocks = 0) && decide (p.threads = 0) && decide (p.span = 1) && !p.coop
  else
    decide (1 ≤ p.blocks) && (p.span == 1 || p.span == 2 || p.span == 4 || p.span == 8) &&
    (decide (k.gridBarriers = 0) || p.coop) &&
    if k.hasRoles then decide (p.threads = 0)
    else if p.span = 1 then decide (1 ≤ p.threads) && decide (p.threads ≤ 2048)
    else decide (1 ≤ p.threads) && decide (p.threads % (p.span * k.width) = 0) && decide (p.threads ≤ 2048 * p.span)

/-- The packet is well-formed (R278). -/
def State.packetOk (s : State) (ctx : Nat) (bs : List Byte) : Bool :=
  let p := LaunchPacket.ofBytes bs
  decide (leField bs 0 1 = 1) && decide (leField bs 1 3 = 0) && decide (p.flags ≤ 1) &&
  match s.loadedKernel ctx p.kernel with
  | some k => k.desc.node.isNone && p.shapeOk k.desc
  | none => false

/-! ### Grids (R268, R269) -/

/-- The next number or serial, never 0. -/
def nextWord (w : Word) : Word := if w + 1 = 0 then 1 else w + 1

/-- The grid has ended (Table 15.2). -/
def Grid.ended (g : Grid) : Bool :=
  match g.phase with
  | .retired | .refused | .cancelled => true
  | _ => false

/-- A grid of a context that has not ended has the number (R269). -/
def State.gridNumberUsed (s : State) (ctx : Nat) (n : Word) : Bool := s.grids.any fun e => e.2.ctx == ctx && e.2.num == n && !e.2.ended

/-- The next number that no live grid of the context has, with the serial beside it: the serial rises where the numbers
begin anew, so that no pair of the two comes again (R269). -/
def State.freeNumber (s : State) (ctx : Nat) : Nat → Word → Word → Word × Word
  | 0, n, r => (n, r)
  | fuel + 1, n, r =>
    if s.gridNumberUsed ctx n then State.freeNumber s ctx fuel (nextWord n) (if n + 1 = 0 then nextWord r else r) else (n, r)

/-- A grid becomes pending: it gets its number and its serial. -/
def State.newGrid (s : State) (g : Grid) : Nat × State :=
  let k := s.newKey
  let n := s.freeNumber g.ctx s.grids.length s.nextGrid s.nextSerial
  (k.1, { k.2 with
    grids := k.2.grids.put k.1 { g with num := n.1, serial := n.2 }
    nextGrid := nextWord n.1
    nextSerial := if n.1 + 1 = 0 then nextWord n.2 else n.2 })

/-- The grid of a launch packet. -/
def LaunchPacket.grid (p : LaunchPacket) (ctx : Nat) (rank : BitVec 20) : Grid where
  ctx := ctx
  kernel := p.kernel
  args := p.args
  blocks := p.blocks
  threads := p.threads
  span := p.span
  coop := p.coop
  rank := rank

/-- The grid descends from another. -/
def State.descends (s : State) (anc : Nat) : Nat → Nat → Bool
  | 0, _ => false
  | fuel + 1, n =>
    match s.grids.get n with
    | some g => match g.parent with
      | some p => p == anc || State.descends s anc fuel p
      | none => false
    | none => false

/-- Grids launched from a grid, at any depth; depth 8 is the deepest (R281). -/
def State.descendants (s : State) (anc : Nat) : List Nat :=
  (s.grids.filter fun e => s.descends anc 9 e.1).map fun e => e.1

/-- A notice about a grid's dispatch (R365). -/
def State.gridNotice (s : State) (g : Grid) (c : Cause) : State :=
  s.notice { cause := c, ctx := g.ctx, gridid := g.num.toNat }

/-- The entries of a die's queue that belong to a grid go. -/
def State.purgeQueues (s : State) (gk : Nat) : State :=
  { s with dies := s.dies.map fun (e : Nat × Die) => (e.1, { e.2 with
      pool := e.2.pool.filter fun n => n ≠ gk
      queue := e.2.queue.filter fun q => s.entryGrid q ≠ some gk }) }

/-- A grid leaves the PIFO and the place of a waiting cooperative grid. -/
def State.leavePifo (s : State) (gk : Nat) : State :=
  { s with
    pifo := s.pifo.filter fun e => e.grid ≠ some gk
    coopWaiting := if s.coopWaiting = some gk then none else s.coopWaiting }

/-- GRID_REFUSE (R273): the grid is refused, with Curator's notice; a block of a node's grid that is placed already runs
on. -/
def State.refuseGrid (s : State) (gk : Nat) (c : Cause) : State :=
  match s.grids.get gk with
  | none => s
  | some g =>
    let s := (s.purgeQueues gk).leavePifo gk
    let s := { s with blocks := s.blocks.filter fun e => e.2.grid ≠ gk || e.2.placed }
    (s.setGrid gk { g with phase := .refused, code := c.code }).gridNotice g c

/-! ### Die queues (R304, R306, R281) -/

/-- Free entries of a die's queue. -/
def Die.room (d : Die) : Nat := 256 - d.queue.length

/-- The die's queue as it becomes when entries have come: what the global dispatcher was told stays a lower bound of the
room (R23). -/
def Die.enqueued (d : Die) (q : List QEntry) : Die := { d with queue := q, report := min d.report (256 - q.length) }

/-- A new pending block enters a die's queue. -/
def State.pushBlock (s : State) (die gk num : Nat) : State :=
  let k := s.newKey
  { k.2 with blocks := k.2.blocks.put k.1 { grid := gk, num := num, die := die } }.updDie die fun d =>
    d.enqueued (d.queue ++ [QEntry.block k.1])

/-- Blocks cut from a grid, in ascending number, into a die's queue. -/
def State.pushBlocks (s : State) (die gk num : Nat) : Nat → State
  | 0 => s
  | n + 1 => State.pushBlocks (s.pushBlock die gk num) die gk (num + 1) n

/-- The grid of lowest rank in a pool; the first of equal ones. -/
def State.poolHead (s : State) (die : Nat) : Option Nat :=
  (s.die die).pool.foldl (fun b n =>
    match b with
    | none => some n
    | some m => match s.grids.get m, s.grids.get n with
      | some g, some h => if h.rank < g.rank then some n else some m
      | _, _ => some m) none

def State.dropPool (s : State) (die gk : Nat) : State :=
  s.updDie die fun d => { d with pool := d.pool.filter fun n => n ≠ gk }

/-- Entries of the PIFO that belong to no queue: cooperative children (R281). They stand beside the 4,096 entries of the
queues, one for each child, and are not limited: the specification does not say whether they take one of those (DESIGN
CHOICE, log entry 23). -/
def childQueue (gk : Nat) : Nat := 4096 + gk

/-- One step of a die dispatcher's intake from its pool: a block enters the queue, or a grid leaves the pool. -/
def State.poolStep (s : State) (die : Nat) : State :=
  match s.poolHead die with
  | none => s
  | some gk =>
    match s.grids.get gk with
    | none => s.dropPool die gk
    | some g =>
      match s.kernels.get g.kernel with
      | none => s.dropPool die gk
      | some k =>
        if g.coop then
          let s := s.dropPool die gk
          { s with pifo := s.pifo ++ [{ rank := g.rank, queue := childQueue gk, packet := leBytes 64 1, grid := some gk }] }
        else if k.desc.reserve.isSome then
          if (s.die die).room = 0 then s
          else
            ((s.dropPool die gk).updDie die fun d => d.enqueued (d.queue ++ [.reserving gk])).updGrid gk fun g =>
              { g with phase := .dispatching }
        else if !everFits k.desc (blockShape k.desc g.threads g.span) g.span then s.refuseGrid gk .launchResource
        else if (s.die die).room = 0 then s
        else
          let s := (s.pushBlock die gk g.next).updGrid gk fun g => { g with next := g.next + 1, phase := .dispatching }
          if g.blocks ≤ g.next + 1 then s.dropPool die gk else s

/-- Closed batches that found no room enter the queue (R285). -/
def State.pushClosed (s : State) (die : Nat) : State :=
  ((s.die die).gatherers.map fun g => g.closed).flatten.foldl (fun s b =>
    let d := s.die die
    if d.room = 0 || d.queue.contains (.block b) || (match s.blocks.get b with
      | some k => k.phase != .pending
      | none => true) then s
    else s.updDie die fun d => d.enqueued (d.queue ++ [.block b])) s

/-- The die dispatcher takes what its queue has room for. -/
def State.intake (s : State) (die : Nat) : State :=
  (List.range (256 + (s.die die).pool.length)).foldl (fun s _ => s.poolStep die) (s.pushClosed die)

/-! ### Gatherers (R285 to R287, R356) -/

/-- The block of a closed batch can fit an empty core (R16, R273, R286). -/
def State.batchFits (s : State) (g : Gatherer) : Bool :=
  match s.kernels.get g.kernel with
  | some k => everFits k.desc (blockShape k.desc g.filling.length 1) 1
  | none => true

/-- The grid of a node: its rank is that of the launch or packet that obtained the gatherer. -/
def nodeGrid (ctx kernel die : Nat) (rank : BitVec 20) : Grid :=
  { ctx := ctx, kernel := kernel, rank := rank, die := some die, node := true }

/-- The node's grid is refused for a batch that fits no core; the gatherer goes on with a new grid, unless it is unbound, and
with the next number of a batch (R273, R286). -/
def State.refuseBatch (s : State) (die i : Nat) (g : Gatherer) : State :=
  let rank := match s.grids.get g.grid with
    | some q => q.rank
    | none => 0
  let t := s.refuseGrid g.grid .launchResource
  let n := if g.unbound then (g.grid, t) else t.newGrid (nodeGrid g.ctx g.kernel die rank)
  n.2.updDie die fun d => { d with
    gatherers := d.gatherers.set i { g with grid := n.1, filling := [], countdown := 0, closed := [], batch := g.batch + 1 } }

/-- A batch closes: it becomes a pending block of the node's grid. A block that fits no core refuses its grid (R16, R273). -/
def State.closeBatch (s : State) (die i : Nat) (g : Gatherer) : State :=
  if !s.batchFits g then s.refuseBatch die i g
  else
    let k := s.newKey
    let b : Block := { grid := g.grid, num := g.batch.toNat, die := die, records := g.filling }
    let s := { k.2 with blocks := k.2.blocks.put k.1 b }.updGrid g.grid fun q =>
      { q with blocks := q.blocks + 1, next := q.next + 1, phase := .dispatching }
    s.updDie die fun d => { d.enqueued (if d.room = 0 then d.queue else d.queue ++ [.block k.1]) with
      gatherers := d.gatherers.set i { g with filling := [], countdown := 0, closed := g.closed ++ [k.1], batch := g.batch + 1 } }

/-- Records, size and countdown of a node kernel. -/
def KernelDesc.nodeOf (k : KernelDesc) : Nat × Nat × Nat := k.node.getD (0, 0, 0)

/-- A full filling batch closes where no batch is closed (R285). -/
def State.closeFull (s : State) (die i : Nat) : State :=
  match (s.die die).gatherers[i]? with
  | none => s
  | some g =>
    match s.kernels.get g.kernel with
    | none => s
    | some k =>
      if g.closed.isEmpty && !g.unbound && decide (k.desc.nodeOf.1 ≤ g.filling.length) && !g.filling.isEmpty then
        s.closeBatch die i g
      else s

/-- The place of a node kernel's gatherer on a die. -/
def State.gathererOf (s : State) (die kernel : Nat) : Option Nat :=
  (s.die die).gatherers.findIdx? fun g => g.kernel == kernel

/-- A gatherer obtained, with the node's grid, where one is free (R285). -/
def State.obtain (s : State) (die ctx kernel : Nat) (rank : BitVec 20) : Option (Nat × State) :=
  match s.gathererOf die kernel with
  | some i => some (i, s)
  | none =>
    if 64 ≤ ((s.die die).gatherers.filter fun g => !g.unbound).length then none
    else
      let q := s.newGrid (nodeGrid ctx kernel die rank)
      let i := (s.die die).gatherers.length
      some (i, q.2.updDie die fun d => { d with gatherers := d.gatherers ++ [{ ctx := ctx, kernel := kernel, grid := q.1 }] })

/-- A die's gatherer of a node kernel would take a record: one is bound or free, and its filling batch has room (R287). -/
def State.nodeRoom (s : State) (die kernel : Nat) (k : KernelDesc) : Bool :=
  match s.gathererOf die kernel with
  | some i => match (s.die die).gatherers[i]? with
    | some g => !g.unbound && decide (g.filling.length < k.nodeOf.1)
    | none => false
  | none => decide (((s.die die).gatherers.filter fun g => !g.unbound).length < 64)

/-- A record appended to the filling batch of a node kernel's gatherer (R287): whether it was taken, and the state. -/
def State.nodePut (s : State) (die ctx kernel : Nat) (k : KernelDesc) (rank : BitVec 20) (bs : List Byte) : Bool × State :=
  match s.obtain die ctx kernel rank with
  | none => (false, s)
  | some p =>
    match (p.2.die die).gatherers[p.1]? with
    | none => (false, s)
    | some g =>
      if g.unbound || decide (k.nodeOf.1 ≤ g.filling.length) then (false, s)
      else
        let g' := { g with
          filling := g.filling ++ [bs]
          countdown := if g.filling.isEmpty then k.nodeOf.2.2 else g.countdown }
        (true, (p.2.updDie die fun d => { d with gatherers := d.gatherers.set p.1 g' }).closeFull die p.1)

/-- A node's grid whose gatherer is unbound and whose blocks have all retired is retiring. -/
def State.nodeSettle (s : State) (gk : Nat) : State :=
  let bound := s.dies.any fun e => e.2.gatherers.any fun g => g.grid == gk && !g.unbound
  s.updGrid gk fun g =>
    if g.node && !bound && decide (g.blocks ≤ g.retired) && !g.ended then { g with phase := .retiring } else g

/-- Unbinding (R356): the filling batch closes, beside one that is closed already, and no record is taken any more. -/
def State.unbind (s : State) (die i : Nat) : State :=
  match (s.die die).gatherers[i]? with
  | none => s
  | some g =>
    let s := s.updDie die fun d => { d with gatherers := d.gatherers.modify i fun g => { g with unbound := true } }
    (if g.filling.isEmpty || g.unbound then s else s.closeBatch die i { g with unbound := true }).nodeSettle g.grid

/-- Every gatherer that a test picks is unbound. -/
def State.unbindAll (s : State) (p : Gatherer → Bool) : State :=
  (List.range 4).foldl (fun s die =>
    (List.range (s.die die).gatherers.length).foldl (fun s i =>
      match (s.die die).gatherers[i]? with
      | some g => if p g then s.unbind die i else s
      | none => s) s) s

/-- BATCH_COUNTDOWN (R285): the countdown has lapsed with at least one record. -/
def execBatchCountdown (die i : Nat) (s : State) : Host.Outcome State Fault Refusal :=
  match (s.die die).gatherers[i]? with
  | none => .next s
  | some g =>
    .next (if g.countdown = 0 && !g.filling.isEmpty && g.closed.isEmpty && !g.unbound then s.closeBatch die i g else s)

/-- GATHERER_UNBIND (R356). -/
def execGathererUnbind (die i : Nat) (s : State) : Host.Outcome State Fault Refusal := .next (s.unbind die i)

/-! ### The launch class 0x20 (R279 to R287) -/

/-- An instruction of the launch class: once for the wave, not in handler mode (R279). Where it has passed its window
checks and is of the kind that exposes, STEER_MODE leaves its block exposed (R308). -/
def launchOnce (s : State) (w : Wave) (h : Head) (f : Mask → Res) (exp : Bool := false) : Res :=
  once s w h fun g => if w.hdep ≠ 0 then (onceCause g .steerMode 0).exposing s w exp else f g

/-- The handle that names a grid (R280). -/
def Grid.handle (g : Grid) : DWord := g.serial ++ g.num

/-- DLAUNCH (R280). -/
def execDlaunch (h : Head) (d a : Operand) (s : State) : Host.Outcome State Fault Refusal :=
  issue (.dlaunch h d a) s fun s w x => launchOnce s w h (exp := (checkStruct w x (structAddr w x a) 64 64).isOk) fun g =>
    let addr := structAddr w x a
    match checkStruct w x addr 64 64 with
    | .error c => onceCause g c (addr.setWidth 64)
    | .ok _ =>
      let s1 := s.flushStores s.cur (s.waveDom x)
      let bs := s1.structRead x (structBytes w x addr 64)
      if !s1.packetOk x.grid.ctx bs then (onceCause g .launchPacket 0).exposing s w true
      else if !w.loads.isEmpty then .stall s1
      else
        let s1 := s1.expose w true
        let put := fun (s : State) (v : DWord) =>
          Res.done (s.updWave s.cur fun u => (u.setUni (uniNo d) v).reportPred h (v != 0))
        if x.grid.depth = 8 || decide (1024 ≤ (s1.die w.die).pool.length) then put s1 0
        else
          let n := s1.newGrid { (LaunchPacket.ofBytes bs).grid x.grid.ctx x.grid.rank with
            parent := some x.block.grid, depth := x.grid.depth + 1, die := some w.die }
          let s2 := n.2.updDie w.die fun q => { q with pool := q.pool ++ [n.1] }
          put s2 (match s2.grids.get n.1 with
            | some g => g.handle
            | none => 0)

/-- The grid that a handle names in a wave of a grid (R282). -/
def State.byHandle (s : State) (x : WCtx) (v : DWord) : Option (Nat × Grid) :=
  s.grids.find? fun e => e.2.handle == v && e.2.serial != 0 && e.2.parent == some x.block.grid

/-- The status of an ended grid (Table 15.6). -/
def Grid.status (g : Grid) : Option DWord :=
  match g.phase with
  | .retired => if g.faulted then some (BitVec.ofNat 64 (g.code.toNat * 65536 + 3)) else some 1
  | .refused => some (BitVec.ofNat 64 (g.code.toNat * 65536 + 2))
  | .cancelled => some 4
  | _ => none

/-- What DLWAIT on a handle returns, where it returns (R282). -/
def State.waitStatus (s : State) (x : WCtx) (v : DWord) : Option DWord :=
  match s.byHandle x v with
  | none => some 5
  | some e => e.2.status

/-- DLWAIT (R282). -/
def execDlwait (h : Head) (d a : Operand) (s : State) : Host.Outcome State Fault Refusal :=
  issue (.dlwait h d a) s fun s w x => launchOnce s w h fun _ =>
    let v := readUni w x a
    match s.waitStatus x v with
    | some r => .done (s.updWave s.cur fun u => u.setUni (uniNo d) r)
    | none => .wait (s.updWave s.cur fun u => { u with wait := some (.dlwait v (uniNo d)) })

/-- DLWAIT_WAKE (R282). -/
def execDlwaitWake (n : Nat) (s : State) : Host.Outcome State Fault Refusal :=
  onWave s n fun w x =>
    match w.wait with
    | some (.dlwait v dst) =>
      match s.waitStatus x v with
      | some r => if w.wakeable then s.wake n fun u => u.setUni dst r else s
      | none => s
    | _ => s

/-- A loaded node kernel of a context. -/
def State.nodeKernel (s : State) (ctx kn : Nat) : Option Kernel :=
  match s.loadedKernel ctx kn with
  | some k => if k.desc.node.isSome then some k else none
  | none => none

/-- Bytes of a record of a node kernel; one where there is none of that handle. -/
def State.nodeBytes (s : State) (ctx kn : Nat) : Nat :=
  match s.nodeKernel ctx kn with
  | some k => k.desc.nodeOf.2.1
  | none => 1

/-- NODEPUT (R287): the window check comes first, with the record's size, and with one byte where the operand names no node
kernel that could give the size (log entry 18). -/
def execNodeput (h : Head) (d : Option Operand) (a b : Operand) (s : State) : Host.Outcome State Fault Refusal :=
  issue (.nodeput h d a b) s fun s w x =>
    let addr := structAddr w x a
    let kn := (structAddr w x b).toNat
    let size := s.nodeBytes x.grid.ctx kn
    launchOnce s w h (exp := (checkStruct w x addr size 16).isOk) fun g =>
    match checkStruct w x addr size 16 with
    | .error c => onceCause g c (addr.setWidth 64)
    | .ok _ =>
      match s.nodeKernel x.grid.ctx kn with
      | none => (onceCause g .launchPacket 0).exposing s w true
      | some k =>
        let s1 := s.flushStores s.cur (s.waveDom x)
        if !w.loads.isEmpty then .stall s1
        else
          let bs := s1.structRead x (structBytes w x addr size)
          let r := (s1.expose w true).nodePut w.die x.grid.ctx kn k.desc x.grid.rank bs
          .done (r.2.updWave s.cur fun u =>
            (match d with
              | some q => u.setUni (uniNo q) (if r.1 then 1 else 0)
              | none => u).reportPred h r.1)

/-! ### Ends of grids (R268) -/

/-- GRID_RETIRE (R268): every block and every descendant has ended. -/
def execGridRetire (gk : Nat) (s : State) : Host.Outcome State Fault Refusal :=
  match s.grids.get gk with
  | none => .next s
  | some g =>
    let allOver := (s.descendants gk).all fun n => ((s.grids.get n).map fun (c : Grid) => c.ended).getD true
    if g.phase == .retiring && allOver then .next (s.setGrid gk { g with phase := .retired, record := none })
    else .next s

/-- Blocks of some kind stop: those that are on no core are gone with their waves, the others drain and end (R268, R361). -/
def State.stopBlocks (s : State) (p : Block → Bool) : State :=
  let gone := fun (b : Block) => p b && !b.placed
  { s with
    waves := s.waves.filter fun e => match s.blocks.get e.2.block with
      | some b => !gone b
      | none => true
    blocks := (s.blocks.filter fun e => !gone e.2).map fun (e : Nat × Block) =>
      if p e.2 then (e.1, { e.2 with ending := true }) else e }

/-- The node kernels whose grid has been cancelled keep their gatherers, with the filling batch and the number of the next: each
goes on with a new grid, and closes a full filling batch (R285, R286, R356; DEDUCED, log entry 26). -/
def State.regather (s : State) (gk : Nat) (rank : BitVec 20) : State :=
  (List.range 4).foldl (fun s die =>
    (List.range (s.die die).gatherers.length).foldl (fun s i =>
      match (s.die die).gatherers[i]? with
      | some g =>
        if g.grid ≠ gk then s
        else
          let n := s.newGrid (nodeGrid g.ctx g.kernel die rank)
          (n.2.updDie die fun d => { d with gatherers := d.gatherers.set i { g with grid := n.1, closed := [] } }).closeFull die i
      | none => s) s) s

/-- A grid that has not ended is cancelled: its pending and saved blocks end, its placed ones stop and drain. The gatherer of
a node's grid stays, unless it is unbound or the context is ending. -/
def State.cancelOne (s : State) (gk : Nat) : State :=
  match s.grids.get gk with
  | none => s
  | some g =>
    match g.phase with
    | .pending | .dispatching | .running =>
      let s := ((s.purgeQueues gk).leavePifo gk).stopBlocks fun b => b.grid == gk
      { s with
        grids := s.grids.put gk { g with phase := .cancelled, record := none }
        dies := s.dies.map fun (e : Nat × Die) => (e.1, { e.2 with
          gatherers := e.2.gatherers.filter fun r => r.grid ≠ gk || !r.unbound && (s.ctx g.ctx).state != CtxState.ending
          savedFormers := e.2.savedFormers.filter fun f => f.grid ≠ gk }) }.regather gk g.rank
    | _ => s

/-- The grid and every grid launched from it are cancelled. -/
def State.cancelGrid (s : State) (gk : Nat) : State := (s.descendants gk).foldl State.cancelOne (s.cancelOne gk)

/-- GRID_CANCEL (R268). -/
def execGridCancel (gk : Nat) (s : State) : Host.Outcome State Fault Refusal := .next (s.cancelGrid gk)

/-! ### Unloading (R267) -/

/-- KERNEL_UNLOAD (R267, R310, R356): the object's kernels are unloading, and its gatherers unbound. -/
def execKernelUnload (ctx obj : Nat) (s : State) : Host.Outcome State Fault Refusal :=
  let mine := fun (k : Kernel) => k.ctx == ctx && k.obj == obj
  let ks := s.kernels.map fun (e : Nat × Kernel) => if mine e.2 then (e.1, { e.2 with unloading := true }) else e
  let s1 := { s with kernels := ks }
  .next (s1.unbindAll fun g => match s.kernels.get g.kernel with
    | some k => mine k
    | none => false)

/-- KERNEL_UNLOADED (R267, R310): no grid of the object remains; the handles are freed, the history is cleared. -/
def execKernelUnloaded (ctx obj : Nat) (s : State) : Host.Outcome State Fault Refusal :=
  let hs := (s.kernels.filter fun e => e.2.ctx == ctx && e.2.obj == obj && e.2.unloading).map fun e => e.1
  let busy := s.grids.any fun e => hs.contains e.2.kernel && !e.2.ended
  if busy then .next s
  else
    .next { s with
      kernels := s.kernels.filter fun e => !hs.contains e.1
      dies := s.dies.map fun (e : Nat × Die) => (e.1, { e.2 with
        history := e.2.history.filter fun q => !hs.contains q.1
        gatherers := e.2.gatherers.filter fun g => !hs.contains g.kernel })
      cores := s.cores.map fun (e : Nat × Core) => (e.1, { e.2 with text := e.2.text.filter fun q => !hs.contains q.1 }) }

end Sys2Proof.Machine
end

