-- ==== Sys2Proof/Machine/Dispatching.lean ====
section
/-! DEFINITION. Dispatch: the PIFO's head, batches, cooperative grids, admission of blocks, the start of reserving
launches and the forming of their waves (R23, R288, R289, R294, R304 to R307, R338, R347, R354, R362, R364). -/

namespace Sys2Proof.Machine

/-! ### The PIFO (R347, R354) -/

/-- Type code of an entry's packet (Table 21.5). -/
def PifoEntry.kind (e : PifoEntry) : Nat := leField e.packet 0 1

/-- The node kernel that a NODE packet names, with the record size it gives (R347). -/
def State.nodeOfPacket (s : State) (ctx : Nat) (bs : List Byte) : Option KernelDesc :=
  match s.loadedKernel ctx (leField bs 12 4) with
  | some k => if k.desc.node.isSome && k.desc.nodeOf.2.1 == leField bs 10 2 then some k.desc else none
  | none => none

/-- A NODE packet's record would be taken on some die; or its kernel is loaded no more, and the packet is refused when it
is served. While no gatherer is free it waits (R356). -/
def State.nodeReady (s : State) (e : PifoEntry) : Bool :=
  match s.queues.get e.queue with
  | none => true
  | some q => match s.nodeOfPacket q.ctx e.packet with
    | none => true
    | some k => (List.range 4).any fun die => s.nodeRoom die (leField e.packet 12 4) k

/-- The entry may be served now: not a WAIT or a BARRIER, which wait without holding up others (R347; DEDUCED, log entry
23), nor a NODE while no gatherer is free (R356), nor the cooperative grid that waits for its reservation (R305). -/
def State.servable (s : State) (e : PifoEntry) : Bool :=
  (e.kind == 1 || e.kind == 3 || e.kind == 4 || e.kind == 6 || e.kind == 2 && s.nodeReady e) &&
  (e.grid.isNone || e.grid != s.coopWaiting)

/-- The entry of lowest rank; the first that entered among equal ones (R354). -/
def lowestRank : List PifoEntry → Option PifoEntry
  | [] => none
  | e :: es => match lowestRank es with
    | some f => if f.rank < e.rank then some f else some e
    | none => some e

/-- The head of the PIFO, where dispatch is not frozen (R377). -/
def State.pifoHead (s : State) : Option PifoEntry :=
  if s.frozen then none else lowestRank (s.pifo.filter s.servable)

/-- `n` bytes of a queue's header from byte `off`, as a number (Table 21.1); 0 where the page is not mapped. -/
def State.hdr (s : State) (q : Queue) (off n : Nat) : Nat :=
  match s.translateNow q.ctx (q.header + BitVec.ofNat 64 off) .readWrite with
  | .ok pa dom _ => leNat (s.memReads dom pa n)
  | _ => 0

def State.setHdr (s : State) (q : Queue) (off n v : Nat) : State :=
  match s.translateNow q.ctx (q.header + BitVec.ofNat 64 off) .readWrite with
  | .ok pa dom _ => s.memWrites dom pa (leBytes n v)
  | _ => s

/-- A 32-bit count of the header rises, wrapping as a memory word does. -/
def State.qCount (s : State) (q : Queue) (off n : Nat) : State := s.setHdr q off 4 (s.hdr q off 4 + n)

/-- A packet is refused: counted, and its cause noticed (R348). -/
def State.refusePacket (s : State) (q : Queue) (c : Cause × Nat × DWord) : State :=
  (s.qCount q 48 1).notice { cause := c.1, ctx := q.ctx, arg := BitVec.ofNat 32 c.2.1, address := c.2.2 }

/-- An entry leaves the PIFO. -/
def State.dropEntry (s : State) (qn : Nat) : State := { s with pifo := s.pifo.filter fun e => e.queue ≠ qn }

/-- The grid of a LAUNCH entry becomes pending (R268, R347). A kernel that has begun to unload since the packet was taken
refuses it (R267, R348). -/
def State.acceptLaunch (s : State) (e : PifoEntry) : Option Nat × State :=
  match e.grid with
  | some g => (some g, s)
  | none =>
    match s.queues.get e.queue with
    | none => (none, s.dropEntry e.queue)
    | some q =>
      if !s.packetOk q.ctx e.packet then (none, (s.dropEntry e.queue).refusePacket q (.launchPacket, 0, 0))
      else
        let n := s.newGrid { (LaunchPacket.ofBytes e.packet).grid q.ctx e.rank with queue := some e.queue }
        (some n.1, { n.2 with
          pifo := n.2.pifo.map fun (f : PifoEntry) => if f.queue = e.queue then { f with grid := some n.1 } else f
          queues := n.2.queues.put e.queue { q with grids := q.grids ++ [n.1] } })

/-- LAUNCH (R347): a queue's LAUNCH packet is accepted, and its grid becomes pending, when the entry
stands at the head of the PIFO (R354). -/
def execLaunch (q : Nat) (s : State) : Host.Outcome State Fault Refusal :=
  match s.pifoHead with
  | some e => .next (if e.queue = q && e.kind = 1 then (s.acceptLaunch e).2 else s)
  | none => .next s

/-! ### Serving a grid (R288, R304, R305) -/

/-- Dies in the order of the rotation. -/
def State.turnOrder (s : State) : List Nat := (List.range 4).map fun i => (s.rotation + i) % 4

/-- The die that dispatch gives to a reserving launch (R288): the next that neither runs one nor holds one waiting, else
the next; a die that reported 0 is skipped. -/
def State.reservingDie (s : State) : Option Nat :=
  let open_ := s.turnOrder.filter fun d => decide (0 < (s.die d).report)
  let idle := fun d => (s.die d).former.isNone && (s.die d).queue.all fun q => match q with
    | QEntry.reserving _ => false
    | QEntry.block b => match s.blocks.get b with
      | some k => match s.grids.get k.grid with
        | some g => match s.kernels.get g.kernel with
          | some kd => kd.desc.reserve.isNone
          | none => true
        | none => true
      | none => true
  match open_.find? idle with
  | some d => some d
  | none => open_.head?

/-- A waiting cooperative grid holds back another grid of equal or less urgent level (R305). -/
def State.heldByCoop (s : State) (g : Grid) : Bool :=
  match s.coopWaiting with
  | none => false
  | some n => match s.grids.get n with
    | some c => decide (levelOf c.rank ≤ levelOf g.rank)
    | none => false

/-- A pending grid is taken by dispatch (R23, R268, R273, R288, R304, R305). Each entry that goes out counts against the
die's last report. A cooperative grid of equal or less urgent level
waits behind the one that waits for its reservation; a more urgent one takes its place, and the other is served anew. -/
def State.serveGrid (s : State) (gk : Nat) : State :=
  match s.grids.get gk with
  | none => s.leavePifo gk
  | some g =>
    match s.kernels.get g.kernel with
    | none => s.refuseGrid gk .launchPacket
    | some k =>
      let shape := blockShape k.desc g.threads g.span
      if g.phase != .pending && g.phase != .dispatching then s.leavePifo gk
      else if k.desc.reserve.isSome then
        match if s.heldByCoop g then none else s.reservingDie with
        | none => s
        | some d =>
          (({ (s.leavePifo gk) with rotation := (d + 1) % 4 }).updDie d fun q =>
            { q.enqueued (q.queue ++ [QEntry.reserving gk]) with
              report := min (q.report - 1) (256 - (q.queue.length + 1)) }).updGrid gk fun g =>
              { g with phase := .dispatching, die := some d }
      else if !everFits k.desc shape g.span then s.refuseGrid gk .launchResource
      else if g.coop then
        if (s.coopPlan k.desc g).isNone then s.refuseGrid gk .launchCoop
        else if s.heldByCoop g then s
        else { (s.updGrid gk fun g => { g with phase := .dispatching }) with coopWaiting := some gk }
      else s.updGrid gk fun g => { g with phase := .dispatching }

/-- PIFO_SERVE (R354): the head goes to the global dispatcher. -/
def execPifoServe (s : State) : Host.Outcome State Fault Refusal :=
  match s.pifoHead with
  | none => .next s
  | some e =>
    if e.kind = 1 then
      match s.acceptLaunch e with
      | (some g, t) => .next (t.serveGrid g)
      | (none, t) => .next t
    else .next s

/-- DIE_SLOT_REPORT (R23). -/
def execDieSlotReport (die : Nat) (s : State) : Host.Outcome State Fault Refusal :=
  let t := s.intake die
  .next (t.updDie die fun d => { d with report := d.room })

/-- GLOBAL_DISPATCH_BATCH (R304): the next die in the rotation that reported room receives a batch of the grid at the
head. -/
def execGlobalDispatchBatch (s : State) : Host.Outcome State Fault Refusal :=
  match s.pifoHead with
  | none => .next s
  | some e =>
    match e.grid with
    | none => .next s
    | some gk =>
      match s.grids.get gk with
      | none => .next s
      | some g =>
        if g.phase != .dispatching || g.coop || s.heldByCoop g then .next s
        else
          match s.turnOrder.find? fun d => decide (0 < (s.die d).report) with
          | none => .next s
          | some d =>
            let n := min 64 (min (s.die d).report (g.blocks - g.next))
            let t := s.pushBlocks d gk g.next n
            let t := t.updDie d fun q => { q with report := min q.report ((s.die d).report - n) }
            let t := { (t.updGrid gk fun g => { g with next := g.next + n }) with rotation := (d + 1) % 4 }
            .next (if g.blocks ≤ g.next + n then t.leavePifo gk else t)

/-! ### Placing a cooperative grid (R305) -/

/-- Resources of a placement are free now on the cores of a block, and the granules and the record can be had. -/
def State.placeable (s : State) (g : Grid) (k : Kernel) (shape : List WaveShape) (die : Nat) (cores : List Nat)
    (gr : List Granules) (rec : Nat) : Bool :=
  (List.range cores.length).all (fun p =>
    let c := cores.getD p 48
    ((s.coreUse die c).add (shareUse k.desc shape p)).fits (budgetOf (s.island (islandOf die c))) &&
    s.sparesReserved none die c (shareUse k.desc shape p) && s.replayRoom die c g.ctx && s.replayRuns die c g.ctx) &&
  s.shareGranulesOk die cores k.desc shape gr && s.recordOk g.ctx rec (recordSize k.desc shape cores.length)

/-- The blocks of a cooperative grid placed one after the other; none where some block's place is not free. -/
def State.placeAll (s : State) (gk : Nat) (g : Grid) (k : Kernel) (shape : List WaveShape) :
    Nat → List Placement → List (List Granules) → List Nat → Option State
  | _, [], _, _ => some s
  | num, p :: ps, gr :: grs, r :: rs =>
    if s.placeable g k shape p.1 p.2 gr r then
      let n := s.newKey
      let b : Block := { grid := gk, num := num, die := p.1 }
      (n.2.placeBlock n.1 b k g p.1 p.2 gr (some (r, recordSize k.desc shape p.2.length))).placeAll gk g k shape (num + 1) ps grs rs
    else none
  | _, _, _, _ => none

/-- COOP_GRID_PLACE (R305, R364): all the blocks of the waiting grid, in one step; with grid barriers, a 32-byte grid
record is reserved too (R222, R372). Without room for the records Curator is told, once while the grid waits. -/
def execCoopGridPlace (gk : Nat) (gr : List (List Granules)) (recs : List Nat) (s : State) : Host.Outcome State Fault Refusal :=
  match s.grids.get gk with
  | none => .next s
  | some g =>
    match s.kernels.get g.kernel with
    | none => .next s
    | some k =>
      if s.coopWaiting != some gk || s.frozen || !s.admitting g.ctx then .next s
      else
        match s.coopPlan k.desc g with
        | none => .next s
        | some ps =>
          let shape := blockShape k.desc g.threads g.span
          let n := k.desc.gridBarriers
          let g' := { g with
            phase := .running
            next := g.blocks
            barriers := freshBarriers n (g.blocks * shape.length)
            record := if n = 0 then none else some (recs.getD g.blocks 0, 32) }
          let sizes := ps.map fun p => recordSize k.desc shape p.2.length
          if !recordsFit (s.poolBytes g.ctx) (s.poolRecords g.ctx) (if n = 0 then sizes else sizes ++ [4096]) then
            if s.coopTold = some gk then .next s else .next { (s.gridNotice g .savePool) with coopTold := some gk }
          else if n ≠ 0 && !s.recordOk g.ctx (recs.getD g.blocks 1) 4096 then .next s
          else
            match (s.setGrid gk g').placeAll gk g' k shape 0 ps gr recs with
            | none => .next s
            | some t => .next (t.leavePifo gk)

/-! ### The die's queue (R306, R309, R362, R283) -/

/-- Grids that waves of a block wait for in DLWAIT, with their descendants (R283). -/
def State.waitedGrids (s : State) (key : Nat) (b : Block) : List Nat :=
  let hs := s.waves.filterMap fun e => if e.2.block = key then
    match e.2.wait with
    | some (.dlwait v _) => some v
    | _ => none
    else none
  let gs := (s.grids.filter fun e => e.2.parent == some b.grid && hs.contains e.2.handle).map fun e => e.1
  gs ++ (gs.map s.descendants).flatten

/-- A block saved while it waited on a child is held back while a block of the child, or of a descendant, is pending on
the die (R283). -/
def State.heldBack (s : State) (die key : Nat) : Bool :=
  match s.blocks.get key with
  | none => false
  | some b =>
    b.waitedChild &&
    let gs := s.waitedGrids key b
    (match s.coopWaiting with
      | some n => gs.contains n
      | none => false) ||
    (s.die die).pool.any (fun n => gs.contains n) ||
    (s.die die).queue.any fun q => match q with
      | QEntry.block n => match s.blocks.get n with
        | some c => gs.contains c.grid && c.phase == .pending
        | none => false
      | QEntry.reserving n => gs.contains n

/-- The entry stands in the queue in the sense of R306: its context is resident, a reserving launch finds none running on
the die, and it is not held back (R283, R288, R362). -/
def State.stands (s : State) (die : Nat) (q : QEntry) : Bool :=
  match s.entryKernel q with
  | none => false
  | some e =>
    s.admitting e.1.ctx && (e.2.desc.reserve.isNone || (s.die die).former.isNone) &&
    match q with
    | QEntry.block n => !s.heldBack die n
    | QEntry.reserving _ => true

/-- The head of a die's queue. -/
def State.queueHead (s : State) (die : Nat) : Option QEntry := (s.die die).queue.find? fun q => s.stands die q

/-- The entry that may be placed: one for which resources are reserved, once it fits, else the head (R306, R309). -/
def State.candidate (s : State) (die : Nat) : Option QEntry :=
  match (s.die die).queue.find? fun q =>
    ((s.die die).reserved.any fun r => r.1 == q) && s.stands die q && s.entryFits die q with
  | some q => some q
  | none => s.queueHead die

/-- A placed entry leaves the queue; a reservation for it has been used. -/
def State.leaveQueue (s : State) (die : Nat) (q : QEntry) : State :=
  s.updDie die fun d => { d with
    queue := d.queue.filter fun r => r != q
    reserved := d.reserved.filter fun r => r.1 != q
    told := if d.told.map QEntry.block = some q then none else d.told }

/-- The closed batch of a placed node block leaves its gatherer (R285). -/
def State.batchPlaced (s : State) (die key : Nat) : State :=
  match (s.die die).gatherers.findIdx? fun g => g.closed.contains key with
  | none => s
  | some i =>
    (s.updDie die fun d =>
      { d with gatherers := d.gatherers.modify i fun g => { g with closed := g.closed.filter (· ≠ key) } }).closeFull die i

/-- BLOCK_ADMIT (R306, R307, R364): the candidate, a pending block, is placed on the cores that R306 chooses, with
granules and a save record that are free; without room for the record Curator is told, once while the block waits. -/
def execBlockAdmit (die : Nat) (gr : List Granules) (rec : Nat) (s : State) : Host.Outcome State Fault Refusal :=
  let s := s.intake die
  match s.candidate die with
  | some (QEntry.block key) =>
    match s.blocks.get key, s.entryKernel (.block key) with
    | some b, some (g, k) =>
      let shape := gridShape k.desc g b
      let span := if g.node then 1 else g.span
      let size := recordSize k.desc shape span
      if b.phase != .pending then .next s
      else
        match s.placement (some (.block key)) g.ctx (levelOf g.rank) die span k.desc shape with
        | none => .next s
        | some cores =>
          if !s.poolRoom g.ctx size then
            if (s.die die).told = some key then .next s
            else .next ((s.gridNotice g .savePool).updDie die fun d => { d with told := some key })
          else if s.shareGranulesOk die cores k.desc shape gr && s.recordOk g.ctx rec size then
            .next (((s.leaveQueue die (.block key)).placeBlock key b k g die cores gr (some (rec, size))).batchPlaced die key)
          else .next s
    | _, _ => .next s
  | _ => .next s

/-! ### Reserving launches (R288, R289, R294, R338) -/

/-- RESERVING_LAUNCH_START (R288, R364): the launch at the head starts on its home core, with a save record that grows as
its waves are formed; without room for the record Curator is told, once while the launch waits. -/
def execReservingLaunchStart (die home : Nat) (p : LaunchPlace) (s : State) : Host.Outcome State Fault Refusal :=
  let gr := p.granules
  let offset := p.rec_
  let s := s.intake die
  match s.candidate die with
  | some (QEntry.reserving gk) =>
    match s.grids.get gk, s.entryKernel (.reserving gk) with
    | some g, some (_, k) =>
      let n := k.desc.alloc / 4096
      let size := launchRecordSize k.desc 0
      if !(decide (home < 48) && s.fitsOn (some (.reserving gk)) g.ctx (levelOf g.rank) die home { granules := n } &&
          s.granulesOk die home n 0 gr) then .next s
      else if !s.poolRoom g.ctx size then
        if (s.die die).told = some gk then .next s
        else .next ((s.gridNotice g .savePool).updDie die fun d => { d with told := some gk })
      else if s.recordOk g.ctx offset size then
        let q := s.newKey
        let b : Block :=
          { grid := gk, num := 0, die := die, phase := .admitted, cores := [home], alloc := [gr.alloc], spill := [[]]
            record := some (offset, size) }
        let t := ((q.2.leaveQueue die (QEntry.reserving gk)).setBlock q.1 b).updDie die fun d =>
          { d with former := some { grid := gk, block := q.1, home := home } }
        .next ((t.updGrid gk fun g => { g with phase := .running }).replayAdmit die home g.ctx)
      else .next s
    | _, _ => .next s
  | _ => .next s

/-- A wave of a reserving launch enters a core: the core admits it, and its spill granules are free (R294, R307). -/
def State.waveFits (s : State) (die core : Nat) (g : Grid) (k : KernelDesc) (spill : List Nat) : Bool :=
  let n := spillGranules k k.width
  decide (core < 48) &&
  s.fitsOn none g.ctx (levelOf g.rank) die core ((waveUse k .general k.width).add { granules := n }) &&
  s.granulesOk die core 0 n ⟨[], spill⟩

/-- The launch that runs on a die: its former, block, grid and kernel, while its block issues. -/
def State.launchOf (s : State) (die : Nat) : Option (Former × Block × Grid × Kernel) :=
  match (s.die die).former with
  | none => none
  | some f =>
    match s.blocks.get f.block, s.entryKernel (.block f.block) with
    | some b, some (g, k) =>
      let live := match b.phase with
        | .admitted | .running | .resumed | .faulted => true
        | _ => false
      if live && !b.ending then some (f, b, g, k) else none
    | _, _ => none

/-- The save record of a launch grows with a wave: where it may lie then, or none where it has no room (R298, R364). -/
def State.growRecord (s : State) (key : Nat) (b : Block) (g : Grid) (k : KernelDesc) (rec : Nat) : Option State :=
  let size := max (launchRecordSize k ((s.wavesOf key).length + 1)) (match b.record with
    | some r => r.2
    | none => 0)
  let t := s.setBlock key { b with record := none }
  if t.recordOk g.ctx rec size then some (s.setBlock key { b with record := some (rec, size) }) else none

/-- CLAIM_WAVE_FORM (R289, R338): the claim wave that is due starts on a core. -/
def execClaimWaveForm (die core : Nat) (p : WavePlace) (s : State) : Host.Outcome State Fault Refusal :=
  let spill := p.spill
  let offset := p.rec_
  let s := s.formBodies die
  match s.launchOf die with
  | none => .next s
  | some (f, b, g, k) =>
    let fits := s.claimDue f k.desc && s.waveFits die core g k.desc spill
    match if fits then s.growRecord f.block b g k.desc offset else none with
    | none => .next s
    | some t =>
      let n := min k.desc.width ((k.desc.reserve.getD (0, 0, false)).1 - f.next)
      let w := startWave f.block b k g f.formed core (t.freeSlot die core) ⟨0, .general, k.desc.width, n⟩ spill
      let w := { w with
        kind := .claim
        item := BitVec.ofNat 32 f.next
        lanes := w.lanes.mapIdx fun l x =>
          let x := x.setReg 0 (BitVec.ofNat 32 (f.next + l))
          if l < n then { x with item := some { index := f.next + l } } else x }
      .next (((t.addWave w).setFormer die { f with next := f.next + n, formed := f.formed + 1 }).replayAdmit die core g.ctx)

/-- BODY_WAVE_FORM (R294, R338): the body waves that can be formed are formed, and the first of those formed starts on a
core that admits it. -/
def execBodyWaveForm (die core : Nat) (p : WavePlace) (s : State) : Host.Outcome State Fault Refusal :=
  let spill := p.spill
  let offset := p.rec_
  let s := s.formBodies die
  match s.launchOf die with
  | none => .next s
  | some (f, b, g, k) =>
    match f.ready with
    | (first :: more) :: later =>
      match if s.waveFits die core g k.desc spill then s.growRecord f.block b g k.desc offset else none with
      | none => .next s
      | some t =>
        let is := first :: more
        let w := startWave f.block b k g f.formed core (t.freeSlot die core) ⟨0, .general, k.desc.width, is.length⟩ spill
        let w := { w with
          kind := .body
          pc := first.entry
          item := BitVec.ofNat 32 (is.foldl (fun m i => min m i.index) first.index)
          lanes := w.lanes.mapIdx fun l x =>
            match is[l]? with
            | none => x
            | some it =>
              { (List.range 4).foldl (fun (y : Lane) i => y.setReg i (it.words.getD i 0)) x with
                lpc0 := first.entry, item := some it } }
        .next (((t.addWave w).setFormer die { f with ready := later, formed := f.formed + 1 }).replayAdmit die core g.ctx)
    | _ => .next s

end Sys2Proof.Machine
end

