-- ==== Sys2Proof/Machine/Queues.lean ====
section
/-! DEFINITION. Queues: claims, notifies, the taking and serving of packets, rank programs, queue states
(R342 to R358). -/

namespace Sys2Proof.Machine

/-! ### Headers (R342, Table 21.1) -/

/-- Codes of Table 21.2. -/
def QueuePhase.code : QueuePhase → Nat
  | .created => 1
  | .bound => 2
  | .opened => 3
  | .draining => 4
  | .closed => 5

/-- The difference of two indices (R342). -/
def idxSub (a b : Nat) : Nat := (a + 2 ^ 24 - b % 2 ^ 24) % 2 ^ 24

def State.qWrite (s : State) (q : Queue) : Nat := s.hdr q 32 3
def State.qRead (s : State) (q : Queue) : Nat := s.hdr q 36 3
def State.qState (s : State) (q : Queue) : Nat := s.hdr q 39 1
def State.qDoorbell (s : State) (q : Queue) : Nat := s.hdr q 40 3

def State.setQueue (s : State) (n : Nat) (q : Queue) : State := { s with queues := s.queues.put n q }

/-- The header lies on a mapped page and its state byte is 0: the queue is destroyed (R343). -/
def State.qGone (s : State) (q : Queue) : Bool :=
  match s.translateNow q.ctx (q.header + 39) .readWrite with
  | .ok pa dom _ => leNat (s.memReads dom pa 1) == 0
  | _ => false

/-- The hub lets a queue's number go, with a packet that has not become a grid (R343). -/
def State.dropQueue (s : State) (qn : Nat) : State :=
  { s with queues := s.queues.del qn, pifo := s.pifo.filter fun e => e.queue ≠ qn || e.grid.isSome }

/-- A queue whose header says that it is destroyed is no queue any more (R343). -/
def State.settleQueue (s : State) (qn : Nat) : State :=
  match s.queues.get qn with
  | some q => if s.qGone q then s.dropQueue qn else s
  | none => s

/-! ### Claims (R344 to R346) -/

/-- The outcome of a claim on a header's bytes 16 to 39: status, index, new write index (R344). -/
def claimOutcome (bs : List Byte) (n : Nat) : Nat × Nat × Option Nat :=
  let entries := leField bs 4 4
  let write := leField bs 16 3
  let room := entries - idxSub write (leField bs 20 3)
  if leField bs 23 1 ≠ 3 then (3, 0, none)
  else if room < n then (2, 0, none)
  else (1, write, some ((write + n) % 2 ^ 24))

/-- QCLAIM with the header found (R346). -/
def claimRes (h : Head) (d : Operand) (n pa dom : Nat) (s : State) : Res :=
  let r := if n = 0 || 64 < n then (2, 0, none) else claimOutcome (s.memReads dom (pa + 16) 24) n
  let s1 := match r.2.2 with
    | some v => s.memWrites dom (pa + 32) (leBytes 3 v)
    | none => s
  .done (s1.updWave s.cur fun u =>
    (u.setUni (uniNo d) (BitVec.ofNat 64 (r.1 * 2 ^ 32 + r.2.1))).reportPred h (r.1 == 1))

/-- QCLAIM (R346). -/
def execQclaim (h : Head) (d a : Operand) (b : Option Operand) (s : State) : Host.Outcome State Fault Refusal :=
  issue (.qclaim h d a b) s fun s w x => launchOnce s w h fun g =>
    let va := readUni w x a
    let n := match b with
      | some o => (readUni w x o).toNat
      | none => 1
    if va.toNat % 64 ≠ 0 then onceCause g .misaligned va
    else
      match s.translateAll w x.grid.ctx ((lanesOf g).map fun l => (l, va)) .readWrite with
      | .error r => r
      | .ok [] => .stall s
      | .ok (t :: _) => claimRes h d n t.2.1 t.2.2 s

/-- QUEUE_CLAIM_REMOTE (R344): a compare-and-swap of the claim word, which makes the same test. -/
def execQueueClaimRemote (qn : Nat) (expected : BitVec 64) (n : Nat) (s : State) : Host.Outcome State Fault Refusal :=
  let s := s.settleQueue qn
  match s.queues.get qn with
  | none => .next (s.report .refused)
  | some q =>
    let old := s.hdr q 32 8
    let t := s.report (.bytes (leBytes 8 old))
    if old ≠ expected.toNat || n = 0 || 64 < n then .next t
    else
      match (claimOutcome (leBytes 24 (s.hdr q 16 24)) n).2.2 with
      | some v => .next (t.setHdr q 32 3 v)
      | none => .next t

/-! ### Notifies (R349 to R352) -/

/-- A notify with index w advances (R349). -/
def State.advances (s : State) (q : Queue) (w : Nat) : Bool :=
  let d := idxSub w (s.qDoorbell q)
  decide (0 < d) && decide (d ≤ idxSub (s.qWrite q) (s.qDoorbell q))

/-- The queue takes notifies: it is open, full or draining (R351). -/
def State.qLive (s : State) (q : Queue) : Bool := s.qState q == 3 || s.qState q == 4

/-- The hub reads the unready slot again at a later notify (R349). -/
def State.rouse (s : State) (qn : Nat) : State := { s with queues := s.queues.upd qn fun q => { q with stopped := false } }

/-- A notify for a bound queue, after the checks of who sends it: whether it is accepted, and the state. -/
def State.notifyQueue (s : State) (qn : Nat) (q : Queue) (w : Nat) : Nat × State :=
  if !s.qLive q then (3, (s.qCount q 44 1).rouse qn)
  else if s.advances q w then (1, (s.setHdr q 40 3 w).rouse qn)
  else (2, (s.qCount q 44 1).rouse qn)

/-- The queue is bound to a context (R343). -/
def Queue.boundTo (q : Queue) (ctx : Nat) : Bool := q.phase != .created && q.ctx == ctx

/-- QNOTIFY once its status is known (R352): it goes to D with the queue's doorbell, whether it is ACCEPTED to the guard's
predicate. -/
def notifyDone (h : Head) (d : Option Operand) (status : Nat) (doorbell : BitVec 24) (s : State) : Res :=
  .done (s.updWave s.cur fun u =>
    (match d with
      | some o => u.setUni (uniNo o) (BitVec.ofNat 64 (status * 2 ^ 32 + doorbell.toNat))
      | none => u).reportPred h (status == 1))

/-- The doorbell that QNOTIFY reports: the queue's, or a free value where there is no such queue (R352). -/
def State.doorbellOf (s : State) (qn accn : Nat) : BitVec 24 :=
  match s.queues.get qn with
  | some q => BitVec.ofNat 24 (s.qDoorbell q)
  | none => Config.noDoorbell accn

/-- A notify for a queue that is not bound to the sender's context: dropped and counted (R351). -/
def State.dropNotify (s : State) (qn : Nat) : State :=
  match s.queues.get qn with
  | some q => (s.qCount q 44 1).rouse qn
  | none => s

/-- QNOTIFY (R351, R352, R308): NOT_BOUND is found before anything is waited for. A queue number of more than 12 bits is
NOT_BOUND though its queue may be bound, and R351 counts no drop for that. -/
def execQnotify (h : Head) (d : Option Operand) (a b : Operand) (s : State) : Host.Outcome State Fault Refusal :=
  issue (.qnotify h d a b) s fun s w x => launchOnce s w h (exp := true) fun _ =>
    let r := structAddr w x a
    let qn := r.toNat % 4096
    let n := w.accn.toNat
    let t := (s.settleQueue qn).expose w true
    match (t.queues.get qn).filter fun q => q.boundTo x.grid.ctx with
    | none =>
      let t := t.dropNotify qn
      notifyDone h d 4 (t.doorbellOf qn n) t
    | some q =>
      if 4096 ≤ r.toNat then notifyDone h d 4 (t.doorbellOf qn n) (t.rouse qn)
      else
        let s1 := s.flushStores s.cur (s.waveDom x)
        if !w.loads.isEmpty then .stall s1
        else
          let p := (t.flushStores s.cur (s.waveDom x)).notifyQueue qn q ((readUni w x b).toNat % 2 ^ 24)
          notifyDone h d p.1 (p.2.doorbellOf qn n) p.2

/-- A link that carries an authenticated session (R385, R386). -/
def Link.carries (l : Link) (session : Nat) : Bool :=
  l.session == some session && (l.state == .authenticated || l.state == .degraded)

/-- A tag or nonce failure of the session over a port (R385). -/
def State.notifyFailed (s : State) (port : Nat) : State :=
  s.setLink port { s.link port with failures := (s.link port).failures + 1 }

/-- REMOTE_NOTIFY (R350, R351). -/
def execRemoteNotify (port session : Nat) (bytes : List Byte) (s : State) : Host.Outcome State Fault Refusal :=
  if !(s.link port).carries session || bytes.length ≠ 64 then .next s
  else
    let qn := leField bytes 4 4
    let s := s.settleQueue qn
    match s.queues.get qn with
    | none => .next s
    | some q =>
      let nonce := leField bytes 48 8
      let fresh := match q.nonce with
        | some v => decide (v.toNat < nonce)
        | none => true
      let true_ := leField bytes 56 8 == (Config.notifyTag q.key (bytes.take 56)).toNat && fresh
      let clear := leField bytes 0 4 == 0 && leField bytes 11 1 == 0 && leField bytes 12 36 == 0
      if !true_ then .next ((s.qCount q 44 1).notifyFailed port)
      else if !clear then .next (s.qCount q 44 1)
      else if q.phase == .created || q.session != some session then .next ((s.qCount q 44 1).rouse qn)
      else
        let r := s.notifyQueue qn q (leField bytes 8 3)
        .next (if r.1 = 1 then { r.2 with queues := r.2.queues.upd qn fun q => { q with nonce := some (BitVec.ofNat 64 nonce) } } else r.2)

/-- SUPERVISOR_NOTIFY (R349): a local notify by the supervisor as a producer. -/
def execSupervisorNotify (qn : Nat) (idx : BitVec 24) (s : State) : Host.Outcome State Fault Refusal :=
  let s := s.settleQueue qn
  match s.queues.get qn with
  | none => .next (s.report .refused)
  | some q => if q.phase == .created then .next ((s.qCount q 44 1).rouse qn) else .next (s.notifyQueue qn q idx.toNat).2

/-- SLOT_REREAD (R349). -/
def execSlotReread (qn : Nat) (s : State) : Host.Outcome State Fault Refusal := .next (s.rouse qn)

/-! ### Rank programs (R353) -/

/-- One step over a packet: the accumulator, or the end. -/
def rankStep (packet : List Byte) (base : BitVec 20) (acc : Nat) (st : BitVec 32) : Option Nat :=
  let f := fun lo n => (st.extractLsb' lo n).toNat
  match f 28 4 with
  | 1 => some (acc ||| ((leField packet (4 * f 24 4) 4 >>> f 19 5) % 2 ^ f 14 5) <<< f 9 5 % 2 ^ 32)
  | 2 => some ((acc + ((st.extractLsb' 0 20).signExtend 32).toNat) % 2 ^ 32)
  | 3 => some (min acc (f 0 20))
  | 4 => some (max acc (f 0 20))
  | 5 => some (if f 5 1 = 1 then acc >>> f 0 5 else acc <<< f 0 5 % 2 ^ 32)
  | 6 => some (acc &&& f 0 20)
  | 7 => some ((acc + base.toNat) % 2 ^ 32)
  | _ => none

def rankRun (packet : List Byte) (base : BitVec 20) : List (BitVec 32) → Nat → Nat
  | [], acc => acc
  | st :: rest, acc => match rankStep packet base acc st with
    | some a => rankRun packet base rest a
    | none => acc

/-- The rank of a packet. -/
def rankOf (packet : List Byte) (base : BitVec 20) (prog : List (BitVec 32)) : BitVec 20 :=
  BitVec.ofNat 20 (min 0xfffff (rankRun packet base prog 0))

/-- A step that an install accepts (R353, Table 21.7). -/
def rankStepOk (st : BitVec 32) : Bool :=
  let f := fun lo n => (st.extractLsb' lo n).toNat
  match f 28 4 with
  | 0 | 7 => f 0 28 == 0
  | 1 => f 0 9 == 0 && decide (1 ≤ f 14 5) && decide (f 14 5 ≤ 20)
  | 2 | 3 | 4 | 6 => f 20 8 == 0
  | 5 => f 6 22 == 0
  | _ => false

/-- RANK_PROGRAM_INSTALL (R353). -/
def execRankProgramInstall (idx : Nat) (steps : List (BitVec 32)) (s : State) : Host.Outcome State Fault Refusal :=
  if decide (idx < 64) && !steps.isEmpty && decide (steps.length ≤ 8) && steps.all rankStepOk then
    .next { s with rankPrograms := s.rankPrograms.put idx steps }
  else .next (s.report .refused)

/-! ### Refusals (R348) -/

/-- Reserved bytes of a packet, as runs of first byte and length. -/
def packetReserved (kind : Nat) : List (Nat × Nat) :=
  match kind with
  | 2 => [(1, 9), (24, 40)]
  | 3 => [(1, 3), (5, 3), (16, 48)]
  | 4 | 5 => [(1, 3), (5, 3), (24, 40)]
  | 6 => [(1, 7), (40, 24)]
  | 7 => [(1, 63)]
  | _ => []

/-- Addresses of a packet: first byte of the field, alignment, what it is for. -/
def packetAddrs (kind : Nat) : List (Nat × Nat × Need) :=
  match kind with
  | 2 => [(16, 16, .read)]
  | 3 => [(8, 128, .read)]
  | 4 | 5 => [(8, 8, .readWrite)]
  | 6 => [(8, 8, .write), (24, 8, .readWrite)]
  | _ => []

/-- A 64-bit field of a packet. -/
def packetAddr (bs : List Byte) (off : Nat) : DWord := BitVec.ofNat 64 (leField bs off 8)

/-- What an address of a packet raises: alignment, translation, permission. -/
def State.addrCause (s : State) (ctx : Nat) (va : DWord) (align : Nat) (need : Need) : Option (Cause × Nat × DWord) :=
  if va.toNat % align ≠ 0 then some (.misaligned, 0, va)
  else match s.translateNow ctx va need with
    | .bad c reason => some (c, reason, va)
    | _ => none

/-- The last byte of a NODE packet's record, which may lie on another page than the first. -/
def recordEnd (kind : Nat) (bs : List Byte) : List DWord :=
  if kind = 2 then [packetAddr bs 16 + BitVec.ofNat 64 (leField bs 10 2 - 1)] else []

/-- Bytes of HBM from a virtual address on, each through its own page. -/
def State.virtReads (s : State) (ctx : Nat) (va : DWord) (n : Nat) : List Byte :=
  ((List.range n).map fun i => match s.translateNow ctx (va + BitVec.ofNat 64 i) .read with
    | .ok pa dom _ => s.memReads dom pa 1
    | _ => [0]).flatten

/-- The cause for which a packet is refused (R348). -/
def State.packetCause (s : State) (ctx : Nat) (bs : List Byte) : Option (Cause × Nat × DWord) :=
  let kind := leField bs 0 1
  let shape := match kind with
    | 1 => s.packetOk ctx bs
    | 2 => (s.nodeOfPacket ctx bs).isSome
    | 3 => decide (leField bs 4 1 ≤ 3)
    | 4 | 5 => decide (leField bs 4 1 ≤ 1)
    | 6 | 7 => true
    | _ => false
  if !shape || !((packetReserved kind).all fun r => leField bs r.1 r.2 == 0) then some (.launchPacket, 0, 0)
  else
    ((packetAddrs kind).findSome? fun a => s.addrCause ctx (packetAddr bs a.1) a.2.1 a.2.2).or
      ((recordEnd kind bs).findSome? fun va => s.addrCause ctx va 1 .read)

/-! ### Taking packets (R347, R355, R376) -/

/-- Virtual address of a slot (R342). -/
def State.slotVa (s : State) (q : Queue) (n : Nat) : DWord :=
  BitVec.ofNat 64 (s.hdr q 24 8 + 64 * (n % max 1 (s.hdr q 20 4)))

/-- The thread that serves the queue runs (R355, R376, R377). -/
def State.served (s : State) (q : Queue) : Bool := !s.frozen && !(s.threads.getD q.thread {}).silent

/-- PACKET_TAKE (R347 to R349, R353, R355). -/
def execPacketTake (qn : Nat) (s : State) : Host.Outcome State Fault Refusal :=
  let s := s.settleQueue qn
  match s.queues.get qn with
  | none => .next s
  | some q =>
    let r := s.qRead q
    if !s.served q || !s.qLive q || q.stopped || s.pifo.any (fun e => e.queue == qn) || r = s.qDoorbell q then .next s
    else
      match s.translateNow q.ctx (s.slotVa q r) .readWrite with
      | .ok pa dom _ =>
        let bs := s.memReads dom pa 64
        if leField bs 0 1 = 0 then .next (s.setQueue qn { q with stopped := true })
        else
          let t := (s.setHdr q 36 3 ((r + 1) % 2 ^ 24)).memWrites dom pa [0]
          match s.packetCause q.ctx bs with
          | some c => .next (t.refusePacket q c)
          | none =>
            .next { t with pifo := t.pifo ++
              [{ rank := rankOf bs q.base ((s.rankPrograms.get q.program).getD []), queue := qn, packet := bs }] }
      | _ => .next s

/-- The supervisor gives a queue to the thread of a cluster that is not silent (R376). -/
def State.assignQueue (s : State) (qn cluster : Nat) : State :=
  if decide (cluster < 4) && !(s.threads.getD cluster {}).silent then
    { s with queues := s.queues.upd qn fun q => { q with thread := cluster } }
  else s

/-! ### Serving packets (R347) -/

/-- An entry of a queue and of a kind that may be served now. -/
def withEntry (s : State) (qn kind : Nat) (f : PifoEntry → Queue → State) : Host.Outcome State Fault Refusal :=
  match s.pifo.find? fun e => e.queue == qn && e.kind == kind, s.queues.get qn with
  | some e, some q => .next (if s.frozen then s else f e q)
  | _, _ => .next s

/-- The entry at the head of the PIFO, whose addresses still translate; else it is refused. -/
def withHead (s : State) (qn kind : Nat) (f : PifoEntry → Queue → State) : Host.Outcome State Fault Refusal :=
  withEntry s qn kind fun e q =>
    if s.pifoHead.map (fun h => h.queue) ≠ some qn then s
    else match s.packetCause q.ctx e.packet with
      | some c => (s.dropEntry qn).refusePacket q c
      | none => f e q

/-- The entry stands at the head of the PIFO (R354). -/
def State.leads (s : State) (e : PifoEntry) : Bool := s.pifoHead.map (fun f => f.queue) == some e.queue

/-- NODE (R285, R287, R347, R354, R356): the record goes to the gatherer; while no gatherer takes it the packet stays, and
other queues are served. -/
def execNode (qn die : Nat) (s : State) : Host.Outcome State Fault Refusal :=
  withHead s qn 2 fun e q =>
    match s.nodeOfPacket q.ctx e.packet with
    | some k =>
      let r := s.nodePut die q.ctx (leField e.packet 12 4) k e.rank
        (s.virtReads q.ctx (packetAddr e.packet 16) k.nodeOf.2.1)
      if r.1 && decide (die < 4) then r.2.dropEntry qn else s
    | none => s

/-- COPY (R347): the die's engine gets the card. -/
def execCopy (qn : Nat) (s : State) : Host.Outcome State Fault Refusal :=
  withHead s qn 3 fun e q =>
    let die := leField e.packet 4 1
    if 16 ≤ (s.core die 0).unread.length then s
    else
      let k := s.newKey
      let c : Card := { die := die, core := 0, ctx := q.ctx, va := packetAddr e.packet 8, queue := some qn }
      let t := { k.2 with cards := k.2.cards.put k.1 c }.updCore die 0 fun r => { r with unread := r.unread ++ [k.1] }
      (t.setQueue qn { q with cards := q.cards ++ [k.1] }).dropEntry qn

/-- A signal word changed at its port reducer. -/
def State.signal (s : State) (ctx : Nat) (va : DWord) (v : Nat) (set : Bool) : State :=
  match s.translateNow ctx va .readWrite with
  | .ok pa dom _ => s.memWrites dom pa (leBytes 8 (if set then v else (leNat (s.memReads dom pa 8) + v) % 2 ^ 64))
  | _ => s

/-- SIGNAL (R347). -/
def execSignal (qn : Nat) (s : State) : Host.Outcome State Fault Refusal :=
  withHead s qn 4 fun e q =>
    (s.signal q.ctx (packetAddr e.packet 8) (leField e.packet 16 8) (leField e.packet 4 1 == 1)).dropEntry qn

/-- WRITE_SIGNAL (R347, R315): the data, then the signal. -/
def execWriteSignal (qn : Nat) (s : State) : Host.Outcome State Fault Refusal :=
  withHead s qn 6 fun e q =>
    let t := match s.translateNow q.ctx (packetAddr e.packet 8) .write with
      | .ok pa dom _ => s.memWrites dom pa (leBytes 8 (leField e.packet 16 8))
      | _ => s
    (t.signal q.ctx (packetAddr e.packet 24) (leField e.packet 32 8) false).dropEntry qn

/-- The test of a WAIT packet (Table 21.5). -/
def State.waitHolds (s : State) (ctx : Nat) (bs : List Byte) : Bool :=
  match s.translateNow ctx (packetAddr bs 8) .readWrite with
  | .ok pa dom _ =>
    let v := leNat (s.memReads dom pa 8)
    if leField bs 4 1 = 1 then v == leField bs 16 8 else decide (leField bs 16 8 ≤ v)
  | _ => false

/-- WAIT (R347): the packet stays until its test holds. -/
def execWait (qn : Nat) (s : State) : Host.Outcome State Fault Refusal :=
  withEntry s qn 5 fun e q =>
    match s.packetCause q.ctx e.packet with
    | some c => (s.dropEntry qn).refusePacket q c
    | none => if s.waitHolds q.ctx e.packet then s.dropEntry qn else s

/-- WAIT_SATISFIED (R347). -/
def execWaitSatisfied (qn : Nat) (s : State) : Host.Outcome State Fault Refusal :=
  withEntry s qn 5 fun e q => if s.waitHolds q.ctx e.packet then s.dropEntry qn else s

/-- BARRIER (R347): every earlier LAUNCH of the queue has ended, every earlier COPY has written its last record. -/
def execBarrier (qn : Nat) (s : State) : Host.Outcome State Fault Refusal :=
  withEntry s qn 7 fun _ q =>
    let grids := q.grids.all fun g => match s.grids.get g with
      | some k => k.ended
      | none => true
    if grids && q.cards.all (fun c => (s.cards.get c).isNone) then
      (s.setQueue qn { q with grids := [], cards := [] }).dropEntry qn
    else s

/-- PIFO_REINSERT (R354): the entry comes after those that are there, with its new rank, and so does its grid. -/
def execPifoReinsert (qn : Nat) (rank : BitVec 20) (s : State) : Host.Outcome State Fault Refusal :=
  match s.pifo.find? fun e => e.queue == qn with
  | none => .next s
  | some e =>
    let t := { s with pifo := (s.pifo.filter fun f => f.queue ≠ qn) ++ [{ e with rank := rank }] }
    .next (match e.grid with
      | some g => t.updGrid g fun k => { k with rank := rank }
      | none => t)

/-! ### States of a queue (R343) -/

/-- A queue in one of some phases enters a phase, with its header's state byte. -/
def moveQueue (s : State) (qn : Nat) (ok : Queue → Bool) (to_ : QueuePhase) (f : Queue → Queue) : Host.Outcome State Fault Refusal :=
  let s := s.settleQueue qn
  match s.queues.get qn with
  | some q => if ok q then .next ((s.setHdr q 39 1 to_.code).setQueue qn { f q with phase := to_ }) else .next (s.report .refused)
  | none => .next (s.report .refused)

/-- The number of slots is one that a header may give. -/
def entriesOk (n : Nat) : Bool := (List.range 16).any fun i => n == 2 ^ (i + 1)

/-- QUEUE_CREATE (R342, R343): the header, on an ordinary page of device or domain sharing, is written, the number
reserved. -/
def execQueueCreate (qn ctx : Nat) (hdr : BitVec 64) (entries : Nat) (base : BitVec 64) (s : State) :
    Host.Outcome State Fault Refusal :=
  let s := s.settleQueue qn
  let live := match (s.ctx ctx).state with
    | .created | .resident | .standby => true
    | _ => false
  if (s.queues.get qn).isSome || decide (4096 ≤ qn) || !live || !entriesOk entries || decide (hdr.toNat % 64 ≠ 0) ||
      decide (base.toNat % 64 ≠ 0) then .next (s.report .refused)
  else
    match s.translateNow ctx hdr .readWrite with
    | .ok _ _ 0 => .next (s.report .refused)
    | .ok pa dom _ =>
      let bytes := leBytes 16 0 ++ leBytes 4 qn ++ leBytes 4 entries ++ leBytes 8 base.toNat ++ leBytes 7 0 ++ leBytes 1 1 ++ leBytes 24 0
      .next ((s.memWrites dom pa bytes).setQueue qn { ctx := ctx, header := hdr, thread := qn % 4 })
    | _ => .next (s.report .refused)

/-- The number that stands for a queue's key: it is derived from its session and its number (R350); 0 for a queue without
remote producers. -/
def keyNo (session : Option Nat) (qn : Nat) : Nat :=
  match session with
  | some v => 1 + v * 4096 + qn
  | none => 0

/-- QUEUE_BIND (R343, R350): the security engine derives the queue's key. -/
def execQueueBind (qn ctx program : Nat) (base : BitVec 20) (session : Option Nat) (s : State) :
    Host.Outcome State Fault Refusal :=
  moveQueue s qn (fun q => q.phase == .created && q.ctx == ctx && (s.rankPrograms.get program).isSome)
    .bound fun q => { q with program := program, base := base, session := session, nonce := none, key := keyNo session qn }

/-- QUEUE_OPEN (R343): a bound or a closed queue opens. -/
def execQueueOpen (qn : Nat) (s : State) : Host.Outcome State Fault Refusal :=
  moveQueue s qn (fun q => q.phase == .bound || q.phase == .closed) .opened id

/-- QUEUE_DRAIN (R343). -/
def execQueueDrain (qn : Nat) (s : State) : Host.Outcome State Fault Refusal :=
  moveQueue s qn (fun q => q.phase == .opened) .draining id

/-- QUEUE_CLOSED (R343): read has reached write. -/
def execQueueClosed (qn : Nat) (s : State) : Host.Outcome State Fault Refusal :=
  match s.queues.get qn with
  | none => .next s
  | some q => if q.phase == .draining && s.qRead q == s.qWrite q then moveQueue s qn (fun _ => true) .closed id else .next s

/-- QUEUE_FORCE_CLOSE (R343): claimed and unannounced slots are added to dropped. -/
def execQueueForceClose (qn : Nat) (s : State) : Host.Outcome State Fault Refusal :=
  let s := s.settleQueue qn
  match s.queues.get qn with
  | none => .next (s.report .refused)
  | some q =>
    moveQueue (if q.phase == .draining then s.qCount q 44 (idxSub (s.qWrite q) (s.qDoorbell q)) else s) qn
      (fun q => q.phase == .draining) .closed id

/-- The queue is destroyed: its state byte is 0, its number free. -/
def State.destroyQueue (s : State) (qn : Nat) : State :=
  match s.queues.get qn with
  | none => s
  | some q => (s.setHdr q 39 1 0).dropQueue qn

/-- QUEUE_DESTROY (R343). -/
def execQueueDestroy (qn : Nat) (s : State) : Host.Outcome State Fault Refusal :=
  let s := s.settleQueue qn
  match s.queues.get qn with
  | none => .next (s.report .refused)
  | some q => if q.phase == .created || q.phase == .closed then .next (s.destroyQueue qn) else .next (s.report .refused)

end Sys2Proof.Machine
end

