-- ==== Sys2Proof/Machine/Loader.lean ====
section
/-! DEFINITION. The loader: kernel notes, its checks, STRIP, data blocks (R37 to R43, R266, R276, R284, R288, R300, R409). -/

namespace Sys2Proof

/-- Pages of 64 KiB that a data block takes. -/
def DataBlock.pages (b : DataBlock) : Nat := max 1 ((b.bytes.length + 65535) / 65536)

end Sys2Proof

namespace Sys2Proof.Machine

/-! ### Notes (R40, Table 2.4) -/

/-- The owner name `Henard`, ending in NUL. -/
def noteOwner : List Byte := [0x48, 0x65, 0x6e, 0x61, 0x72, 0x64, 0]

/-- Role of a role code (R40). -/
def roleOf (c : Nat) : Role :=
  match c % 4 with
  | 0 => .general
  | 1 => .copy
  | 2 => .matrix
  | _ => .vector

/-- The 16-bit field of a ring. -/
def ringField (d : List Byte) (n : Nat) : Nat := leField d (16 + 2 * n) 2

/-- The kernel that a descriptor declares. Table 2.4 gives each role two bytes, 'waves, width': the model takes the waves from
the lower one and the width from the higher (DESIGN CHOICE, log entry 27). -/
def descOf (d : List Byte) : KernelDesc :=
  let b := fun i => leField d i 1
  let flag := fun i => b 2 / 2 ^ i % 2 == 1
  { level := b 0
    hintLevel := b 1
    stripFlag := flag 0
    idempotent := flag 1
    floorClass := b 3
    deviceClass := b 4
    width := b 5
    energy := b 6
    regs := 16 * b 7
    copyWaves := b 8
    copyWidth := b 9
    vectorWaves := b 10
    vectorWidth := b 11
    matrix := b 12 == 1
    barriers := b 13
    gridBarriers := b 14
    rings := (List.range 8).map fun n =>
      if b 15 / 2 ^ n % 2 = 1 then
        let f := ringField d n
        some { depth := f / 256 % 16, consumer := roleOf (f / 4), producer := roleOf f }
      else none
    spill := leField d 32 4
    shared := leField d 36 4
    reserve := if leField d 40 4 = 0 then none else some (leField d 40 4, b 44, flag 3)
    node :=
      if leField d 46 2 = 0 then none
      else some (b 45, leField d 46 2, if leField d 48 4 = 0 then 65536 else leField d 48 4)
    hvec := BitVec.ofNat 32 (leField d 56 4) }

/-! ### Check 1 (R41, R276, R284, R288, R300) -/

def widthOk (w : Nat) : Bool := w == 8 || w == 16 || w == 32 || w == 64

/-- Waves and width of a role: both 0, or both in range. -/
def roleOk (n w : Nat) : Bool := (n == 0 && w == 0) || (decide (1 ≤ n) && decide (n ≤ 64) && widthOk w)

/-- The kernel declares the role of a code. -/
def KernelDesc.declares (k : KernelDesc) (c : Nat) : Bool :=
  match roleOf c with
  | .general => false
  | .copy => decide (0 < k.copyWaves)
  | .matrix => k.matrix
  | .vector => decide (0 < k.vectorWaves)

/-- A ring's field agrees with the ring mask and the declared roles. The field of an undeclared ring is 0 in every bit: Table
2.4 says so of its slots, and not of its role codes (DESIGN CHOICE, log entry 27). -/
def ringOk (d : List Byte) (k : KernelDesc) (n : Nat) : Bool :=
  let f := ringField d n
  if leField d 15 1 / 2 ^ n % 2 = 0 then f == 0
  else
    f / 4096 == 0 && f / 16 % 16 == 0 && decide (1 ≤ f / 256 % 16) && decide (f / 256 % 16 ≤ 8) &&
    f / 4 % 4 != f % 4 && k.declares (f / 4) && k.declares f

/-- The name `.text.` of a kernel's section (R39). -/
def textPrefix : List Byte := [0x2e, 0x74, 0x65, 0x78, 0x74, 0x2e]

/-- The name `.data.` of a data block's section. -/
def dataPrefix : List Byte := [0x2e, 0x64, 0x61, 0x74, 0x61, 0x2e]

/-- A section index is that of the kernel's text section, aligned to 64 bytes (R39, R40). One that is not aligned so fails check
1 with LOAD_NOTE, since the note names it (DESIGN CHOICE, log entry 27). -/
def sectionOk (elf : Elf) (im : KernelImage) (n : Nat) : Bool :=
  match elf.sections[n]? with
  | some c => c.name == textPrefix ++ im.name && decide (c.align % 64 = 0) && decide (0 < c.align)
  | none => false

/-- The names `.note.henard`, `.symtab` and `.strtab` (R39). -/
def fixedSections : List (List Byte) :=
  [[0x2e, 0x6e, 0x6f, 0x74, 0x65, 0x2e, 0x68, 0x65, 0x6e, 0x61, 0x72, 0x64],
    [0x2e, 0x73, 0x79, 0x6d, 0x74, 0x61, 0x62], [0x2e, 0x73, 0x74, 0x72, 0x74, 0x61, 0x62]]

/-- The file has the container of a code object (R39): class, data, type and machine, no relocations and no program
interpreter; the sections of its notes, symbols and strings, and one for each data block; symbols that name each kernel,
label and data block. -/
def isCodeObject (elf : Elf) (kernels : List KernelImage) : Bool :=
  elf.class64 && elf.lsb && elf.dyn && elf.machine == 0x4a6b && !elf.relocations && !elf.interpreter &&
  (fixedSections.all fun n => elf.sections.any fun c => c.name == n) &&
  kernels.all fun im =>
    elf.symbols.contains im.name && (im.labels.all fun l => elf.symbols.contains l.1) &&
    im.data.all fun b => elf.symbols.contains b.name && elf.sections.any fun c => c.name == dataPrefix ++ b.name

/-- Every field lies in its range, `arch_min` and `device_class` aside, which have checks of their own; `hint_level` is 0 to
15, and a level past 1 has its own check besides (Tables 2.3 to 2.5). Records without a size,
or a size without records, claims without items, or items without claims, are refused too: no rule speaks of such a pair
(DESIGN CHOICE, log entry 27). -/
def rangesOk (d : List Byte) (text : Nat) : Bool :=
  let b := fun i => leField d i 1
  let k := descOf d
  let hv := leField d 56 4
  decide (b 1 < 16) && decide (b 2 < 16) && decide (b 3 ≤ 1) && widthOk (b 5) && decide (b 6 ≤ 3) && decide (1 ≤ b 7) && decide (b 7 ≤ 16) &&
  roleOk (b 8) (b 9) && roleOk (b 10) (b 11) && decide (b 12 ≤ 1) && decide (b 13 ≤ 16) && decide (b 14 ≤ 4) &&
  ((List.range 8).all fun n => ringOk d k n) &&
  decide (k.spill ≤ 65536) && decide (k.spill % 16 = 0) && decide (k.shared ≤ 3145728) &&
  decide (leField d 40 4 ≤ 2 ^ 31) && decide (b 44 ≤ 16) && ((leField d 40 4 == 0) == (b 44 == 0)) &&
  decide (leField d 46 2 ≤ 256) && ((leField d 46 2 == 0) == (b 45 == 0)) && decide (leField d 48 4 ≤ 2 ^ 24) &&
  leField d 52 4 == 0 && leField d 62 2 == 0 &&
  if b 2 / 4 % 2 = 1 then decide (hv % 12 = 0) && decide (hv < text) else hv == 0xffffffff

/-- What a kernel may declare together: level 1 (R276), nodes (R284), reserving launches (R288). -/
def mixOk (k : KernelDesc) : Bool :=
  let rings := k.rings.any fun r => r.isSome
  let bare := !k.hasRoles && k.barriers == 0 && k.gridBarriers == 0 && !rings
  (k.level != 1 || (k.width == 32 && (k.copyWidth == 0 || k.copyWidth == 32) && (k.vectorWidth == 0 || k.vectorWidth == 32) &&
    !rings && k.reserve.isNone && k.node.isNone)) &&
  (match k.node with
    | some n => bare && k.reserve.isNone && decide (n.1 * n.2.1 ≤ k.shared)
    | none => true) &&
  (k.reserve.isNone || bare)

/-- The cause of the first check of Table 2.5 that a kernel's note fails. -/
def noteCause (elf : Elf) (im : KernelImage) : Option Cause :=
  match im.note with
  | none => some .loadNote
  | some n =>
    let k := descOf n.desc
    if n.owner ≠ noteOwner || n.kind ≠ 0x4b02 || n.desc.length ≠ 64 || !rangesOk n.desc im.text.length ||
        !sectionOk elf im (leField n.desc 60 2) || !mixOk k then
      some .loadNote
    else if k.level ≠ 1 && k.level ≠ 2 then some .loadArch
    else if decide (1 < k.hintLevel) && !k.stripFlag then some .loadHint
    else if 1 < k.deviceClass then some .loadClass
    else if !everFits k (blockShape k k.width 1) 1 then some .loadResource
    else none

/-! ### STRIP (R42) -/

/-- The byte of a word that holds chk in bits [5:4]. -/
def isChkByte (i : Nat) : Bool := i % 12 == 8

/-- The text with every chk field at 00. -/
def stripText (text : List Byte) : List Byte := text.mapIdx fun i b => if isChkByte i then b &&& 0xcf else b

/-- Words that STRIP changes. -/
def stripCount (text : List Byte) : Nat := (text.mapIdx fun i b => if isChkByte i && b &&& 0x30 != 0 then 1 else 0).sum

/-! ### Data blocks (R37) -/

/-- The address space holds nothing where the block will lie. -/
def State.vacant (s : State) (ctx : Nat) (b : DataBlock) : Bool :=
  (List.range b.pages).all fun i => match s.walk ctx (b.va + BitVec.ofNat 64 (65536 * i)) with
    | .error 2 => true
    | _ => false

/-- Physical addresses of the entries on the walk of a block's page. -/
def State.pagePath (s : State) (ctx : Nat) (b : DataBlock) (i : Nat) : List Nat :=
  s.pathOf ctx (b.va + BitVec.ofNat 64 (65536 * i))

/-- The block is mapped by leaves of its own: each page's leaf is one that the loader writes, and every valid entry that
it writes stands on the path of some page of the block (R37). -/
def State.ownLeaves (s : State) (ctx : Nat) (b : DataBlock) : Bool :=
  ((List.range b.pages).all fun i => match (s.pagePath ctx b i).getLast? with
    | some a => b.leaves.any fun e => e.1 == a
    | none => false) &&
  b.leaves.all fun e => e.2.toNat % 2 == 0 || (List.range b.pages).any fun i => (s.pagePath ctx b i).contains e.1

/-- The loader's leaves written. -/
def State.putLeaves (s : State) (b : DataBlock) : State :=
  b.leaves.foldl (fun s e => s.hbmWrites 0 e.1 (leBytes 8 e.2.toNat)) s

/-- The leaves map the block to its place with the own domain and device sharing, as ordinary writable pages, or as
read-only images with `ro`. -/
def State.leavesOk (s : State) (ctx : Nat) (b : DataBlock) : Bool :=
  decide (b.va.toNat % 65536 = 0) && decide (b.pa.toNat % 65536 = 0) &&
  (List.range b.pages).all fun i => match s.walk ctx (b.va + BitVec.ofNat 64 (65536 * i)) with
    | .ok e => e.phys (b.va.toNat + 65536 * i) == b.pa.toNat + 65536 * i && e.dom == s.ownDom ctx && e.sharing == 1 && e.r &&
        (if b.ro then e.kind == 2 else e.kind == 0 && e.w)
    | .error _ => false

/-- A data block placed in HBM; none where its place is not one that R37 allows. -/
def State.placeData (s : State) (ctx : Nat) (b : DataBlock) : Option State :=
  let t := s.putLeaves b
  if decide (b.reg ≤ 55) && decide (b.pa.toNat + b.bytes.length ≤ hbmBytes) && s.vacant ctx b && t.leavesOk ctx b &&
      t.ownLeaves ctx b then
    some (t.hbmWrites (s.ownDom ctx) b.pa.toNat b.bytes)
  else none

/-- The data blocks of a kernel, bound to different registers. -/
def State.placeAllData (s : State) (ctx : Nat) (bs : List DataBlock) : Option State :=
  if (bs.map fun b => b.reg).Nodup then bs.foldlM (fun s b => s.placeData ctx b) s else none

/-! ### Loading (R41, R266) -/

/-- The next handle that no loaded kernel has: nonzero and of 32 bits (R266). -/
def State.freeHandle (s : State) : Nat → Word → Word
  | 0, n => n
  | fuel + 1, n => if (s.kernels.get n.toNat).isSome then State.freeHandle s fuel (nextWord n) else n

/-- The text of a kernel lies in HBM where the loader has put it (R39: aligned to 64 bytes). -/
def textPlaced (im : KernelImage) : Bool := decide (im.place % 64 = 0) && decide (im.place + im.text.length ≤ hbmBytes)

/-- The kernels of an accepted object enter the state, in the order of their notes; the answer lists their handles. The
object goes by the handle of its first kernel. -/
def State.enterKernels (s : State) (ctx : Nat) (obj : Option Nat) (strip : Bool) : List KernelImage → Option (List Nat × State)
  | [] => some ([], s)
  | im :: rest =>
    match s.placeAllData ctx im.data, im.note with
    | some t, some n =>
      if !textPlaced im then none
      else
        let h := t.freeHandle t.kernels.length t.nextHandle
        let text := if strip then stripText im.text else im.text
        let k : Kernel := {
          ctx := ctx
          obj := obj.getD h.toNat
          desc := descOf n.desc
          text := text
          data := im.data.map fun b => (b.reg, b.va)
          place := some im.place }
        let u := { t.hbmWrites (t.ownDom ctx) im.place text with
          kernels := t.kernels.put h.toNat k
          nextHandle := nextWord h }
        (u.enterKernels ctx (some (obj.getD h.toNat)) strip rest).map fun r => (h.toNat :: r.1, r.2)
    | _, _ => none

/-- The context holds work: it is created, resident or standby. -/
def CtxState.live (c : CtxState) : Bool :=
  match c with
  | .created | .resident | .standby => true
  | .free | .ending => false

/-- The first kernel, in the order of the notes, whose note fails a check: its place, its name, the cause (R41). -/
def firstRefused (elf : Elf) : Nat → List KernelImage → Option (Cause × Nat × List Byte)
  | _, [] => none
  | i, im :: rest => match noteCause elf im with
    | some c => some (c, i, im.name)
    | none => firstRefused elf (i + 1) rest

/-- LOAD_CODE_OBJECT (R39, R41, R42, R266): the first note that fails a check refuses the whole object, with its kernel's
name; a file that is no code object is refused, and so is one whose blocks or texts cannot lie where the loader puts them. -/
def execLoadCodeObject (ctx : Nat) (o : CodeObject) (s : State) : Host.Outcome State Fault Refusal :=
  let elf := o.elf
  let kernels := o.kernels
  match firstRefused elf 0 kernels with
  | some r => .next (s.report (.loadRefused ctx r.1 r.2.1 r.2.2))
  | none =>
    let strip := kernels.any fun im => match im.note with
      | some n => (descOf n.desc).stripFlag
      | none => false
    let changed := if strip then (kernels.map fun im => stripCount im.text).sum else 0
    match if (s.ctx ctx).state.live && isCodeObject elf kernels then s.enterKernels ctx none strip kernels else none with
    | none => .next (s.report .refused)
    | some r => .next (r.2.report (.loaded ctx r.1 changed))

end Sys2Proof.Machine
end

