-- ==== Sys2Proof/Machine/SaveArea.lean ====
section
/-! DEFINITION. The save area: the bytes of a block's save record and of a grid record (R371 to R374). -/

namespace Sys2Proof.Machine

def zeros (n : Nat) : List Byte := List.replicate n 0

/-- State code of Table 22.8. -/
def Wave.stateCode (w : Wave) : Nat :=
  if w.phase = .faulted then 6
  else if w.halted then 5
  else if w.wait.isSome then 4
  else if w.hdep ≠ 0 then 3
  else if w.serial then 2
  else 1

/-- The wait word of Table 22.8. -/
def waitBytes : Option Wait → List Byte
  | none => zeros 4
  | some (.bar b) => leBytes 1 1 ++ leBytes 1 b ++ zeros 2
  | some (.sracq r p _) => leBytes 1 2 ++ leBytes 1 r ++ leBytes 1 p ++ zeros 1
  | some (.srwait r p _) => leBytes 1 3 ++ leBytes 1 r ++ leBytes 1 p ++ zeros 1
  | some (.arrwait _ _ _) => leBytes 4 4
  | some (.crsleep _) => leBytes 4 5
  | some (.dlwait _ _) => leBytes 4 6

/-- Bit 2b of each barrier's pend, bit 2b + 1 of its pphase. -/
def Wave.barrierBits (w : Wave) : Nat :=
  ((List.range 20).map fun b =>
    (if w.pend.getLsbD b then 4 ^ b else 0) + if w.pphase.getLsbD b then 2 * 4 ^ b else 0).sum

/-- The fixed part of a wave record, 1,024 bytes (Table 22.8). -/
def Wave.fixedBytes (w : Wave) : List Byte :=
  zeros 16 ++ leBytes 1 w.partner ++ leBytes 1 w.width ++ leBytes 1 (w.regs / 16) ++ leBytes 1 (roleCode w.role) ++
  leBytes 4 w.waveid ++ leBytes 4 w.stateCode ++ leBytes 4 w.pc.toNat ++
  leBytes 8 w.run.toNat ++ leBytes 8 w.live.toNat ++ leBytes 8 w.park.toNat ++
  leBytes 8 w.evtm.toNat ++ leBytes 8 w.hrun1.toNat ++ leBytes 8 w.hrun2.toNat ++ leBytes 8 w.keepMask.toNat ++
  leBytes 4 w.keepCause.toNat ++ leBytes 4 w.hpc2.toNat ++ leBytes 4 w.hpc1.toNat ++ leBytes 4 w.hvec.toNat ++
  leBytes 4 w.hdep.toNat ++ leBytes 4 w.hcause.toNat ++
  leBytes 1 (if w.serial then 1 else 0) ++ leBytes 1 w.chosen ++ zeros 2 ++
  leBytes 4 w.sgcnt.toNat ++ leBytes 4 w.sgq.toNat ++ leBytes 4 w.sglim.toNat ++
  leBytes 4 w.quantum.toNat ++ leBytes 4 w.handlerIssues.toNat ++
  leBytes 4 w.fflags.toNat ++ leBytes 4 w.dither.toNat ++ leBytes 4 w.arrw.toNat ++ waitBytes w.wait ++
  leBytes 8 w.accn.toNat ++ leBytes 8 w.barrierBits ++ zeros 344 ++
  ((List.range 64).map fun i => leBytes 8 (w.uni i).toNat).flatten

/-- Place of a spill byte among the bytes of the wave's granules (R170). -/
def Wave.spillPlace (w : Wave) (l off : Nat) : Nat := (off / 4 * w.width + l) * 4 + off % 4

/-- The part of a lane: its block, its registers, its spill stack, which `spillImage` holds (R373). -/
def Wave.laneBytes (w : Wave) (spill l : Nat) : List Byte :=
  let x := w.lane l
  leBytes 1 (x.q.toNat / 2 * 2) ++ zeros 3 ++ leBytes 4 x.lpc0.toNat ++ leBytes 4 x.lpc1.toNat ++ leBytes 4 x.age.toNat ++
  ((List.range w.regs).map fun i => leBytes 4 (x.reg i).toNat).flatten ++
  (List.range spill).map fun off => (w.spillImage.get (w.spillPlace l off)).getD 0

def Wave.saveBytes (w : Wave) (spill : Nat) : List Byte :=
  w.fixedBytes ++ ((List.range w.width).map fun l => w.laneBytes spill l).flatten

/-- A ring slot's 16 bytes (R374). -/
def RingSlot.saveBytes (t : RingSlot) : List Byte :=
  let st := match t.state with
    | .empty => 0
    | .acquired => 1
    | .full => 2
    | .taken => 3
  leBytes 1 (st + (if t.phase then 4 else 0) + (if t.fault then 8 else 0) + if t.bound.isSome then 16 else 0) ++ zeros 3 ++
  match t.bound with
  | some (a, g) => leBytes 4 g.toNat ++ leBytes 4 a.toNat ++ zeros 4
  | none => zeros 12

/-- A ring's 256 bytes (R374). -/
def Ring.saveBytes (r : Ring) : List Byte :=
  let bs := leBytes 1 r.ap ++ leBytes 1 r.wp ++ zeros 14 ++ (r.slots.map RingSlot.saveBytes).flatten
  bs ++ zeros (256 - bs.length)

/-- A matrix sequencer's bytes (R374). -/
def Matrix.saveBytes (m : Matrix) : List Byte :=
  ((List.range 131072).map fun c => leBytes 4 ((m.acc.get c).getD 0).toNat).flatten ++
  ((List.range 786432).map fun i => (m.vit.get i).getD 0) ++
  ((List.range 192).map fun v => match m.desc.get v with
    | none => 0
    | some d => BitVec.ofNat 8 (128 + (if d.s24 then 16 else 0) + d.wd.code.toNat)) ++
  leBytes 1 m.phase.toNat ++ zeros 63

/-- A barrier's 8 bytes (Table 22.7). -/
def Barrier.saveBytes (b : Barrier) : List Byte :=
  leBytes 2 (if b.phase then 1 else 0) ++ leBytes 2 b.arrived ++ leBytes 2 b.expected ++ zeros 2

/-- The header of a save record (Table 22.7). -/
def saveHeader (b : Block) (g : Grid) (waves : List Wave) (size : Nat) (edited : Bool) : List Byte :=
  let flag := fun (c : Bool) (n : Nat) => if c then n else 0
  leBytes 1 1 ++ leBytes 1 b.span ++ leBytes 1 b.die ++
  leBytes 1 (flag b.exposed 1 + flag (waves.any fun w => w.phase == .faulted) 2 + flag (waves.any fun w => w.halted) 4 +
    flag b.waitedChild 8 + flag edited 16) ++
  leBytes 4 size ++ leBytes 4 waves.length ++ leBytes 4 g.kernel ++ leBytes 4 g.num.toNat ++ leBytes 4 b.num ++
  leBytes 8 b.elapsed ++ ((List.range 8).map fun p => BitVec.ofNat 8 (b.cores.getD p 0)) ++ zeros 24 ++
  ((List.range 16).map fun i => (b.barriers.getD i {}).saveBytes).flatten ++ zeros 320

/-- A block's save record (Table 22.6). -/
def saveRecord (b : Block) (g : Grid) (k : KernelDesc) (waves : List Wave) (size : Nat) (edited : Bool) : List Byte :=
  saveHeader b g waves size edited ++
  (waves.map fun w => w.saveBytes k.spill).flatten ++
  ((List.range b.span).map fun p =>
    ((List.range 8).map fun r => ((b.rings.getD p []).getD r {}).saveBytes).flatten ++
    ((List.range k.alloc).map fun i => ((b.image.getD p []).get i).getD 0) ++
    if k.matrix then (b.matrix.getD p {}).saveBytes else []).flatten

/-- The 32-byte grid record (R372). -/
def Grid.saveBytes (g : Grid) : List Byte := ((List.range 4).map fun i => (g.barriers.getD i {}).saveBytes).flatten

/-- Bytes written at a virtual address of a context's save pool, in runs that no page boundary cuts. A page that
Curator has not mapped receives nothing. -/
def State.poolWrites (s : State) (c : Nat) (va : Nat) (bs : List Byte) : State :=
  (List.range (bs.length / 4096 + 2)).foldl (fun s i =>
    let lo := 4096 * i - va % 4096
    let hi := 4096 * (i + 1) - va % 4096
    match s.translateNow c (BitVec.ofNat 64 (va + lo)) .write with
    | .ok pa dom _ => s.memWrites dom pa ((bs.take hi).drop lo)
    | _ => s) s

/-! ### A record read back (R375) -/

/-- Bytes of a record as a resume uses them: one that still holds what the device wrote last stands for the state as it is
now; another is as it was or as it is, by a free choice for each (R375). -/
def State.poolMixed (s : State) (c va : Nat) (written now : List Byte) : List Byte :=
  now.mapIdx fun i b =>
    match s.translateNow c (BitVec.ofNat 64 (va + i)) .readWrite with
    | .ok pa dom _ =>
      let n := (s.memReads dom pa 1).headD b
      if n = written.getD i b then b else if Config.savedByteNew i s.fresh then n else b
    | _ => b

/-- A number of the record. -/
def wordAt (bs : List Byte) (lo : Nat) : Word := BitVec.ofNat 32 (leField bs lo 4)
def dwordAt (bs : List Byte) (lo : Nat) : DWord := BitVec.ofNat 64 (leField bs lo 8)

/-- Bit 2b + odd of each of 20 pairs. -/
def pairBits (n odd : Nat) : BitVec 20 := BitVec.ofNat 20 (((List.range 20).map fun b => n / 2 ^ (2 * b + odd) % 2 * 2 ^ b).sum)

/-- The wait that a wait word gives a wave: none; BARWAIT at a barrier; of a wait of the kind that the wave was in, with its
ring and position. The word holds no register and no address, so that another kind leaves the wait as it was (DESIGN CHOICE,
log entry 25). -/
def loadWait (old : Option Wait) (kind ix pos : Nat) : Option Wait :=
  match kind, old with
  | 0, _ => none
  | 1, _ => some (.bar ix)
  | 2, some (.sracq _ _ d) => some (.sracq ix pos d)
  | 3, some (.srwait _ _ d) => some (.srwait ix pos d)
  | _, o => o

/-- The state that a code gives a wave (Table 22.8). A wave without a fault record cannot become faulted (DESIGN CHOICE, log
entry 25). -/
def Wave.loadState (w : Wave) (code : Nat) : Wave :=
  if code = w.stateCode then w
  else
    match code with
    | 6 => if w.fault.isSome then { w with phase := .faulted } else w
    | 5 => { w with phase := .active, halted := true }
    | 1 | 2 | 3 | 4 => { w with phase := .active, halted := false, haltReq := false }
    | _ => w

/-- A width that a wave can have (R40). -/
def widthOr (old n : Nat) : Nat := if n = 1 || n = 8 || n = 16 || n = 32 || n = 64 then n else old

/-- A count of registers that a wave can have (R40). -/
def regsOr (old n : Nat) : Nat := if decide (1 ≤ n) && decide (n ≤ 16) then n * 16 else old

/-- A role code. -/
def roleOr (old : Role) (n : Nat) : Role :=
  match n with
  | 0 => .general
  | 1 => .copy
  | 2 => .matrix
  | 3 => .vector
  | _ => old

/-- The fixed part of a wave, from its bytes (Table 22.8). A value that a field cannot have leaves the field as it was
(DESIGN CHOICE, log entry 25). -/
def Wave.loadFixed (w : Wave) (span : Nat) (bs : List Byte) : Wave :=
  { w.loadState (leField bs 24 4) with
    partner := if leField bs 16 1 < span then leField bs 16 1 else w.partner
    width := widthOr w.width (leField bs 17 1)
    regs := regsOr w.regs (leField bs 18 1)
    role := roleOr w.role (leField bs 19 1)
    waveid := leField bs 20 4
    wait := loadWait w.wait (leField bs 148 1) (leField bs 149 1) (leField bs 150 1)
    pc := wordAt bs 28, run := dwordAt bs 32, live := dwordAt bs 40, park := dwordAt bs 48, evtm := dwordAt bs 56
    hrun1 := dwordAt bs 64, hrun2 := dwordAt bs 72, keepMask := dwordAt bs 80
    keepCause := BitVec.ofNat 3 (leField bs 88 4)
    hpc2 := wordAt bs 92, hpc1 := wordAt bs 96, hvec := wordAt bs 100
    hdep := BitVec.ofNat 2 (leField bs 104 4), hcause := BitVec.ofNat 3 (leField bs 108 4)
    serial := leField bs 112 1 % 2 == 1, chosen := leField bs 113 1 % 64
    sgcnt := wordAt bs 116, sgq := wordAt bs 120, sglim := wordAt bs 124
    quantum := wordAt bs 128, handlerIssues := wordAt bs 132
    fflags := BitVec.ofNat 5 (leField bs 136 4), dither := BitVec.ofNat 6 (leField bs 140 4), arrw := wordAt bs 144
    accn := dwordAt bs 152, pend := pairBits (leField bs 160 8) 0, pphase := pairBits (leField bs 160 8) 1
    k := (List.range 64).map fun i => dwordAt bs (512 + 8 * i)
    passBp := w.passBp && wordAt bs 28 == w.pc && BitVec.ofNat 2 (leField bs 104 4) == w.hdep }

/-- A lane with a number of registers from its bytes. -/
def Lane.load (x : Lane) (regs : Nat) (bs : List Byte) : Lane :=
  { x with
    q := BitVec.ofNat 8 (leField bs 0 1 / 2 * 2), lpc0 := wordAt bs 4, lpc1 := wordAt bs 8, age := wordAt bs 12
    regs := (List.range regs).map fun i => wordAt bs (16 + 4 * i) }

/-- A wave from the bytes that begin with its record. -/
def Wave.load (w : Wave) (span spill : Nat) (bs : List Byte) : Wave :=
  let v := w.loadFixed span bs
  let size := 16 + 4 * v.regs + spill
  let lane := fun l => (bs.drop (1024 + l * size)).take size
  { v with
    lanes := (List.range v.width).map fun l => (w.lanes.getD l { regs := [] }).load v.regs (lane l)
    spillImage := ((List.range v.width).map fun l => ((List.range spill).filterMap fun off =>
      let b := (lane l).getD (16 + 4 * v.regs + off) 0
      if b = 0 then none else some (v.spillPlace l off, b))).flatten }

/-- Bytes of a wave's record. -/
def Wave.recordBytes (w : Wave) (spill : Nat) : Nat := 1024 + w.width * (16 + 4 * w.regs + spill)

/-- The waves of a block from the bytes that follow its header. -/
def loadWaves (span spill : Nat) : List (Nat × Wave) → List Byte → List (Nat × Wave)
  | [], _ => []
  | e :: es, bs =>
    let w := e.2.load span spill bs
    (e.1, w) :: loadWaves span spill es (bs.drop (w.recordBytes spill))

def Barrier.load (bs : List Byte) : Barrier := ⟨leField bs 0 2 % 2 == 1, leField bs 2 2, leField bs 4 2⟩

def RingSlot.load (bs : List Byte) : RingSlot :=
  let f := leField bs 0 1
  { state := match f % 4 with
      | 0 => .empty
      | 1 => .acquired
      | 2 => .full
      | _ => .taken
    phase := f / 4 % 2 == 1
    fault := f / 8 % 2 == 1
    bound := if f / 16 % 2 = 1 then some (wordAt bs 8, BitVec.ofNat 24 (leField bs 4 4)) else none }

def Ring.load (r : Ring) (bs : List Byte) : Ring :=
  { r with
    ap := leField bs 0 1, wp := leField bs 1 1
    slots := r.slots.mapIdx fun i _ => RingSlot.load ((bs.drop (16 + 16 * i)).take 16) }

/-- Nonzero values of a run of bytes, by place. -/
def sparse {α : Type} [DecidableEq α] (zero : α) (n : Nat) (f : Nat → α) : Tbl α :=
  (List.range n).filterMap fun i => if f i = zero then none else some (i, f i)

def Matrix.load (m : Matrix) (bs : List Byte) : Matrix :=
  { m with
    acc := sparse 0 131072 fun c => wordAt bs (4 * c)
    vit := sparse 0 786432 fun i => bs.getD (524288 + i) 0
    desc := (List.range 192).filterMap fun v =>
      let d := leField bs (1310720 + v) 1
      if d / 128 = 1 then some (v, ⟨SlotWidth.ofCode (BitVec.ofNat 3 d), d / 16 % 2 == 1⟩) else none
    phase := BitVec.ofNat 6 (leField bs 1310912 1) }

/-- A block from its record: header and core sections (Tables 22.6, 22.7, R374), the latter behind the records of waves `ws`.
The format, the span, the die, the size and the kernel are those of the queue's own entry for the block: of the two values
that R375 allows each such byte, the old one (DESIGN CHOICE, log entry 25). -/
def Block.loadRecord (b : Block) (k : KernelDesc) (ws : List Wave) (bs : List Byte) : Block :=
  let start := 512 + (ws.map fun w => w.recordBytes k.spill).sum
  let size := 2048 + k.alloc + if k.matrix then 1310976 else 0
  let part := fun p => (bs.drop (start + p * size)).take size
  { b with
    exposed := leField bs 3 1 % 2 == 1
    waitedChild := leField bs 3 1 / 8 % 2 == 1
    num := leField bs 20 4
    elapsed := leField bs 24 8
    cores := b.cores.mapIdx fun p _ => leField bs (32 + p) 1
    barriers := b.barriers.mapIdx fun i _ => Barrier.load ((bs.drop (64 + 8 * i)).take 8)
    rings := b.rings.mapIdx fun p rs => rs.mapIdx fun r g => g.load (((part p).drop (256 * r)).take 256)
    image := b.image.mapIdx fun p _ => sparse 0 k.alloc fun i => (part p).getD (2048 + i) 0
    matrix := b.matrix.mapIdx fun p m => m.load ((part p).drop (2048 + k.alloc)) }

/-- The bytes of granules of a core that belong to a domain, those that are not 0, by place (R374). -/
def State.granuleImage (s : State) (dom die core : Nat) (gs : List Nat) : Tbl Byte :=
  ((List.range gs.length).map fun i =>
    let g := devAddr die core 0 / 4096 + gs.getD i 0
    if s.ldsTags.get g = some dom then
      (s.lds.filter fun e => e.1 / 4096 == g).map fun (e : Nat × Byte) => (i * 4096 + e.1 % 4096, e.2)
    else []).flatten

/-- An image restored onto granules of a core (R313). -/
def State.restoreGranules (s : State) (dom die core : Nat) (gs : List Nat) (image : Tbl Byte) : State :=
  (List.range gs.length).foldl (fun s i =>
    let g := devAddr die core 0 / 4096 + gs.getD i 0
    let s := { s with lds := clearGranule s.lds g, ldsTags := s.ldsTags.put g dom }
    (image.filter fun e => e.1 / 4096 == i).foldl (fun s e => s.coreWrite dom (g * 4096 + e.1 % 4096) e.2) s) s

/-- The bytes of an allocation on one core. -/
def State.allocImage (s : State) (dom : Nat) (b : Block) (p : Nat) : Tbl Byte :=
  s.granuleImage dom b.die (b.cores.getD p 0) (b.alloc.getD p [])

/-- An allocation restored onto its new granules (R313). -/
def State.restoreAlloc (s : State) (dom : Nat) (b : Block) (p : Nat) (image : Tbl Byte) : State :=
  s.restoreGranules dom b.die (b.cores.getD p 0) (b.alloc.getD p []) image

/-- A wave as it leaves its core: its spill stacks go with it. -/
def Wave.packed (w : Wave) (s : State) (dom : Nat) : Wave :=
  { w with spillImage := s.granuleImage dom w.die w.core w.granules }

/-- A block with the images of its allocation, as its record shows it. -/
def State.imaged (s : State) (dom : Nat) (b : Block) : Block :=
  { b with image := (List.range b.cores.length).map fun p => s.allocImage dom b p }

/-- The record of a block as it stands (R371, R397). -/
def State.blockBytes (s : State) (key : Nat) (b : Block) (g : Grid) (k : Kernel) (edited : Bool) : List Byte :=
  let dom := s.ownDom g.ctx
  saveRecord (s.imaged dom b) g k.desc ((s.wavesOf key).map fun e => e.2.packed s dom) ((b.record.map fun r => r.2).getD 0) edited

/-- Bytes of a record of the save pool that have come to differ are written. -/
def State.poolPatch (s : State) (c va : Nat) (old new : List Byte) : State :=
  (List.range new.length).foldl (fun t i =>
    if new[i]? = old[i]? then t else t.poolWrites c (va + i) (new[i]?).toList) s

/-- The record of a saved block in the pool follows the block (R369, R375, R379). -/
def State.rewriteRecord (s : State) (key : Nat) : State :=
  match s.blocks.get key, s.entryKernel (.block key) with
  | some b, some (g, k) =>
    match b.phase, b.record with
    | .saved, some r =>
      let bytes := saveRecord b g k.desc ((s.wavesOf key).map fun e => e.2) r.2 (s.ctx g.ctx).edited
      (s.poolPatch g.ctx ((s.ctx g.ctx).desc.savePool.toNat + r.1) b.written bytes).setBlock key { b with written := bytes }
    | _, _ => s
  | _, _ => s

/-- After a change of a wave's state: where the wave is saved, its record follows. -/
def State.rewritten (s : State) (w : Wave) : State := if w.saved then s.rewriteRecord w.block else s

end Sys2Proof.Machine
end

