-- ==== Sys2Proof/Machine/Preempt.lean ====
section
/-! DEFINITION. Pre-emption: victims, the choice of drain, save or flush, saving, resuming, flushing, slices, and the
retirement of blocks (R229, R283, R298, R303, R308 to R315, R337, R363, R364). -/

namespace Sys2Proof.Machine

/-! ### Victims (R283, R309) -/

/-- A block that may be chosen for a waiting entry of a grid: for the head of the queue, one of a less urgent level (R309);
for any pending entry, one that waits on the grid (R283). -/
def State.victim (s : State) (die gk : Nat) (g : Grid) (head : Bool) (key : Nat) (b : Block) : Bool :=
  b.placed && b.die == die && !b.leaving && !s.retires key b &&
  match s.grids.get b.grid with
  | some h => head && decide (levelOf g.rank < levelOf h.rank) || (s.waitedGrids key b).contains gk
  | none => false

/-- Victims with their levels. -/
def State.victims (s : State) (die gk : Nat) (g : Grid) (head : Bool) : List (Nat × Nat) :=
  (s.blocks.filter fun e => s.victim die gk g head e.1 e.2).map fun e =>
    (e.1, match s.grids.get e.2.grid with
      | some h => levelOf h.rank
      | none => 127)

/-- The least urgent set of victims, then the fewest, that makes a test hold: the level of its most urgent member, and
the set. -/
def chooseVictims (ok : List Nat → Bool) (vs : List (Nat × Nat)) : Option (Nat × List Nat) :=
  match (List.range 128).reverse.find? fun t => ok ((vs.filter fun v => decide (t ≤ v.2)).map fun v => v.1) with
  | none => none
  | some t =>
    let pool := (vs.filter fun v => decide (t ≤ v.2)).map fun v => v.1
    ((List.range (pool.length + 1)).findSome? fun n => (List.sublistsLen n pool).find? ok).map fun set => (t, set)

/-- The better of two choices: least urgent victims, then fewest, then the earlier, whose cores are lower. -/
def betterVictims (a b : Option (Nat × List Nat)) : Option (Nat × List Nat) :=
  match a, b with
  | none, y => y
  | x, none => x
  | some x, some y => if x.1 < y.1 || (x.1 == y.1 && decide (y.2.length < x.2.length)) then some y else some x

/-- The victims for a waiting entry (R283, R309), and the cores that it is then to have; a block that retires counts as gone
(R315). -/
def State.victimSet (s : State) (die : Nat) (q : QEntry) (gk : Nat) : Option (List Nat × List Nat) :=
  match s.entryNeed q with
  | none => none
  | some (g, k, shape, span) =>
    let t := s.without (s.leavingOn die)
    let vs := s.victims die gk g (s.queueHead die == some q)
    (placements span).foldl (fun best cores =>
      let c := chooseVictims (fun set => (t.without set).fitsAt (some q) die g k shape cores) vs
      if betterVictims (best.map fun b => (b.1, b.2.1)) c == best.map (fun b => (b.1, b.2.1)) then best
      else c.map fun r => (r.1, r.2, cores)) (none : Option (Nat × List Nat × List Nat)) |>.map fun r => r.2

/-- The blocks of a die that wait on a cooperative grid and stand where R305 places it, where its blocks find no room there
(R283). -/
def State.coopParents (s : State) (die gk : Nat) : List Nat :=
  match s.grids.get gk with
  | none => []
  | some g => match s.kernels.get g.kernel with
    | none => []
    | some k => match s.coopPlan k.desc g with
      | none => []
      | some ps =>
        let shape := blockShape k.desc g.threads g.span
        let need := fun c => ps.foldl (fun u p => match p.2.idxOf? c with
          | some i => if p.1 = die then u.add (shareUse k.desc shape i) else u
          | none => u) ({} : Use)
        let ok := fun set => (List.range 48).all fun c =>
          need c == ({} : Use) || ((((s.without (s.leavingOn die)).without set).coreUse die c).add (need c)).fits
            (budgetOf (s.island (islandOf die c)))
        let vs := (s.blocks.filter fun e => e.2.placed && e.2.die == die && !e.2.leaving && !s.retires e.1 e.2 &&
          (s.waitedGrids e.1 e.2).contains gk).map fun e => (e.1, 0)
        match chooseVictims ok vs with
        | some r => r.2
        | none => []

/-! ### The choice (R310, R311) -/

/-- Durations of a kernel on a die, at most 16. -/
def Die.durations (d : Die) (kernel : Nat) : List Nat := (d.history.get kernel).getD []

/-- The action of Table 17.3 for a block, as the phase that it enters. A block that was saved with a wave still faulted is resumed,
then running, as Table 17.1 has it, and no longer faulted: it may be drained or flushed (R303, R311; DESIGN CHOICE, log entry
25). -/
def State.preemptAction (s : State) (key : Nat) (b : Block) : BlockPhase :=
  match s.grids.get b.grid with
  | none => .saving
  | some g =>
    match s.kernels.get g.kernel with
    | none => .saving
    | some k =>
      let ds := (s.die b.die).durations g.kernel
      let m := ds.sum / max 1 ds.length
      let e := b.elapsed
      let ws := s.wavesOf key
      let first := b.phase == .faulted || decide (0 < k.desc.gridBarriers) || k.desc.reserve.isSome ||
        ws.any fun v => v.2.halted || v.2.haltReq || match v.2.wait with
          | some (.dlwait _ _) => true
          | _ => false
      if first then .saving
      else if ds.length < 4 then .saving
      else if 0 < (s.ctx g.ctx).desc.drainBudget.toNat && decide (85 * m ≤ 100 * e) &&
          decide (m - e ≤ (s.ctx g.ctx).desc.drainBudget.toNat) then .draining
      else if k.desc.idempotent && !b.exposed && decide (4 * e < m) then .flushing
      else .saving

/-- A block selected for pre-emption; with grid barriers, every block of its grid is saved (R229). -/
def State.selectBlock (s : State) (key : Nat) : State :=
  match s.blocks.get key with
  | none => s
  | some b =>
    if !b.placed || b.leaving || s.retires key b then s
    else
      let whole := match s.grids.get b.grid with
        | some g => !g.barriers.isEmpty
        | none => false
      if whole then
        { s with blocks := s.blocks.map fun (e : Nat × Block) =>
            if e.2.grid = b.grid && e.2.placed && !e.2.ending then (e.1, { e.2 with phase := .saving }) else e }
      else s.setBlock key { b with phase := s.preemptAction key b, drained := 0 }

/-- The entry of a die's queue that a key names: a block, or a reserving launch by its grid. -/
def State.entryOf (s : State) (die key : Nat) : Option QEntry :=
  (s.die die).queue.find? fun q => q == .block key || q == .reserving key

/-- The entry has not been placed yet: a block of the queue that is saved has. -/
def State.entryPending (s : State) (q : QEntry) : Bool :=
  match q with
  | QEntry.block n => match s.blocks.get n with
    | some b => b.phase == .pending
    | none => false
  | QEntry.reserving _ => true

/-- Resources are reserved for an entry on some cores. -/
def State.reserve (s : State) (die : Nat) (q : QEntry) (cores : List Nat) : State :=
  s.updDie die fun d => { d with reserved := d.reserved.filter (fun r => r.1 != q) ++ [(q, cores)] }

/-- PREEMPT_REQUEST (R283, R309): the die dispatcher selects the victims for an entry of its queue that cannot be placed,
and reserves what they free for it; for a cooperative grid that waits, the blocks that wait on it. -/
def execPreemptRequest (die key : Nat) (s : State) : Host.Outcome State Fault Refusal :=
  let s := s.intake die
  match s.entryOf die key with
  | some q =>
    match s.entryGrid q with
    | none => .next s
    | some gk =>
      let child := s.blocks.any fun e => e.2.placed && e.2.die == die && !e.2.leaving && (s.waitedGrids e.1 e.2).contains gk
      let asks := s.queueHead die == some q || (child && s.entryPending q)
      let has := (s.die die).reserved.any fun r => r.1 == q
      if !asks || !s.stands die q || has || s.entryFits die q then .next s
      else
        match s.victimSet die q gk with
        | none => .next s
        | some vs => .next ((vs.1.foldl State.selectBlock s).reserve die q vs.2)
  | none => .next (if s.coopWaiting = some key then (s.coopParents die key).foldl State.selectBlock s else s)

/-- DRAIN_BUDGET_EXPIRE (R312); a block that retires now does so (R315). -/
def execDrainBudgetExpire (key : Nat) (s : State) : Host.Outcome State Fault Refusal :=
  match s.blocks.get key with
  | none => .next s
  | some b =>
    match s.grids.get b.grid with
    | none => .next s
    | some g =>
      if b.phase == .draining && decide ((s.ctx g.ctx).desc.drainBudget.toNat ≤ b.drained) && !s.retires key b then
        .next (s.setBlock key { b with phase := .saving })
      else .next s

/-! ### Leaving a die -/

/-- Slice counts of contexts that hold no core of the die any more are dropped (R363). -/
def State.dropSlices (s : State) (die : Nat) : State :=
  let held := s.blocks.filterMap fun e =>
    if e.2.placed && e.2.die = die then (s.grids.get e.2.grid).map fun g => g.ctx else none
  s.updDie die fun d => { d with slices := d.slices.filter fun e => held.contains e.1 }

/-- Every binding of the block's rings whose word has moved on has posted (R337). -/
def State.bindingsPosted (s : State) (b : Block) (k : KernelDesc) (dom : Nat) : Bool :=
  b.rings.all fun rs => rs.all fun r => r.slots.all fun t => match t.bound with
    | some (a, g) => !(s.boundWord b k dom a).ready g.toNat
    | none => true

/-- The text of a kernel that some cores hold is discarded: at a save, and where a block comes back, since its waves fetch anew.
Other waves of the kernel there fetch anew with them, as R117 lets them (R375; DEDUCED, log entry 25). -/
def State.discardText (s : State) (die kernel : Nat) (cores : List Nat) : State :=
  cores.foldl (fun s core => s.updCore die core fun c => { c with text := c.text.del kernel }) s

/-- Cores that a block's waves and allocation are on. -/
def State.coresOf (s : State) (key : Nat) (b : Block) : List Nat := (b.cores ++ (s.wavesOf key).map fun e => e.2.core).eraseDups

/-- No core of the block waits for Curator to resolve a page fault: a pre-emption is honoured once the stall ends
(Table 9.15). -/
def State.unstalled (s : State) (key : Nat) (b : Block) : Bool :=
  (s.coresOf key b).all fun c => (s.core b.die c).stall.isEmpty

/-- A save or a resume closes the interval of every core it touches; none opens before the next checkpoint (R397, R408). On a
core that the context comes to by the resume, the first interval opens. -/
def State.closeIntervals (s : State) (die ctx : Nat) (cores : List Nat) : State :=
  cores.foldl (fun s c => (s.closeInterval die c).replayAdmit die c ctx) s

/-- The place at which a saved block re-enters the queue (R283, R306): ahead of every pending entry of equal or less
urgent level; behind the pending entries of the grids that it waits for. -/
def State.savedPlace (s : State) (die key : Nat) (b : Block) (level : Nat) : Nat :=
  let q := (s.die die).queue
  let waited := s.waitedGrids key b
  let pending := fun e => match e with
    | QEntry.reserving _ => true
    | QEntry.block n => match s.blocks.get n with
      | some c => c.phase == .pending
      | none => false
  let lv := fun e => match s.entryKernel e with
    | some p => levelOf p.1.rank
    | none => 0
  let ahead := (q.findIdx? fun e => pending e && decide (level ≤ lv e)).getD q.length
  let behind := ((List.range q.length).filter fun i => match q[i]? with
    | some e => pending e && (match s.entryGrid e with
      | some gk => waited.contains gk
      | none => false)
    | none => false).getLast?
  if b.waitedChild then max ahead (match behind with
    | some i => i + 1
    | none => 0) else ahead

/-- BLOCK_SAVE (R229, R298, R313, R337, R371 to R375): once the counters are 0 and the bindings have posted, the record is
written, the resources are freed, and the block re-enters its die's queue. A queue that holds 256 entries already takes it all
the same, and reports no free slot: no rule says what happens there (R304; DESIGN CHOICE, log entry 25). -/
def execBlockSave (key : Nat) (s : State) : Host.Outcome State Fault Refusal :=
  match s.blocks.get key, s.entryKernel (.block key) with
  | some b, some (g, k) =>
    let dom := s.ownDom g.ctx
    if b.phase != .saving || b.ending || s.retires key b || !s.drainedBlock key || !s.unstalled key b ||
        !s.bindingsPosted b k.desc dom then .next s
    else
      let s := s.formBodies b.die
      let ws := (s.wavesOf key).map fun e => (e.1, e.2.packed s dom)
      let b1 := { s.imaged dom b with
        waitedChild := ws.any fun e => match e.2.wait with
          | some (.dlwait _ _) => true
          | _ => false }
      let size := match b.record with
        | some r => r.2
        | none => 0
      let bytes := saveRecord b1 g k.desc (ws.map fun e => e.2) size (s.ctx g.ctx).edited
      let pool := (s.ctx g.ctx).desc.savePool.toNat
      let s1 := match b.record with
        | some r => s.poolWrites g.ctx (pool + r.1) bytes
        | none => s
      let s2 := match g.record with
        | some r => (s1.poolWrites g.ctx (pool + r.1) g.saveBytes).updGrid b.grid fun g => { g with written := g.saveBytes }
        | none => s1
      let cores := s.coresOf key b
      let i := s.savedPlace b.die key b1 (levelOf g.rank)
      let s3 := { s2 with waves := s2.waves.map fun (e : Nat × Wave) =>
        if e.2.block = key then (e.1, { e.2.packed s dom with saved := true, granules := [] }) else e }
      let s4 := (s3.setBlock key { b1 with phase := .saved, alloc := [], spill := [], written := bytes }).updDie b.die fun d => { d.enqueued (d.queue.take i ++ [QEntry.block key] ++ d.queue.drop i) with
        former := match d.former with
          | some f => if f.block = key then none else some f
          | none => none
        savedFormers := match d.former with
          | some f => if f.block = key then d.savedFormers ++ [f] else d.savedFormers
          | none => d.savedFormers }
      .next (((s4.discardText b.die g.kernel cores).closeIntervals b.die g.ctx cores).dropSlices b.die)
  | _, _ => .next s

/-- Waves of a resumed block on their new cores, in the lowest free slots, with their spill stacks restored. -/
def State.seatWaves (s : State) (dom die : Nat) : List ((Nat × Wave) × Nat × List Nat) → State
  | [] => s
  | ((n, w), core, spill) :: rest =>
    ((s.setWave n { w with
      core := core, slot := s.freeSlot die core, saved := false, granules := spill, spillImage := [] }).restoreGranules
        dom die core spill w.spillImage).seatWaves dom die rest

/-- Cores and granules for the waves of a saved reserving launch, one of each for every wave, fit (R298, R307). -/
def State.wavesFit (s : State) (die : Nat) (g : Grid) (k : Kernel) : List (Nat × Wave) → List Nat → List Granules → Bool
  | [], [], [] => true
  | e :: es, c :: cs, gr :: grs =>
    s.waveFits die c g k.desc gr.spill &&
    ({ s with waves := s.waves.put e.1 { e.2 with core := c, saved := false, granules := gr.spill } }).wavesFit die g k es cs grs
  | _, _, _ => false

/-- The home core that a saved launch comes back to: the one it left is preferred (R298, R313). -/
def State.homeOk (s : State) (die key home : Nat) (b : Block) (g : Grid) (k : Kernel) : Bool :=
  let fits := fun c => s.fitsOn (some (.block key)) g.ctx (levelOf g.rank) die c { granules := k.desc.alloc / 4096 }
  decide (home < 48) && fits home && (home == b.cores.headD 48 || !fits (b.cores.headD 48))

/-- A saved reserving launch goes onto a home core, and each of its waves onto a core (R298). -/
def State.resumeLaunch (s : State) (die key : Nat) (b : Block) (g : Grid) (k : Kernel) (cores : List Nat) (gr : List Granules) :
    Option State :=
  let dom := s.ownDom g.ctx
  let ws := s.wavesOf key
  let t := s.leaveQueue die (.block key)
  let home := cores.headD 48
  let hg := gr.headD ⟨[], []⟩
  let b' := { b with phase := .resumed, cores := [home], alloc := [hg.alloc], spill := [[]] }
  match (s.die die).savedFormers.find? fun f => f.block == key with
  | none => none
  | some f =>
    if s.homeOk die key home b g k && s.granulesOk die home (k.desc.alloc / 4096) 0 hg &&
        (t.setBlock key b').wavesFit die g k ws cores.tail gr.tail then
      let t := (t.setBlock key b').restoreAlloc dom b' 0 (b.image.getD 0 [])
      let t := (t.seatWaves dom die (List.zip ws (List.zip cores.tail (gr.tail.map fun x => x.spill)))).updDie die fun d =>
        { d with former := some { f with home := home }, savedFormers := d.savedFormers.filter fun q => q.block ≠ key }
      some ((t.discardText die g.kernel (t.coresOf key b')).closeIntervals die g.ctx (t.coresOf key b'))
    else none

/-- The cores that a saved block comes back to: any placement of R306 with its span, but the cores that it left where it
fits there (R313). -/
def State.resumeCores (s : State) (die key : Nat) (b : Block) (g : Grid) (k : Kernel) (cores : List Nat) : Bool :=
  let fits := fun cs => s.fitsAt (some (.block key)) die g k (s.shapeNow key b g k) cs
  (placements b.cores.length).contains cores && fits cores && (cores == b.cores || !fits b.cores)

/-- A saved block that may be placed goes onto cores of its die (R313). -/
def State.resumeBlock (s : State) (die key : Nat) (b : Block) (g : Grid) (k : Kernel) (cores : List Nat) (gr : List Granules) :
    Option State :=
  let dom := s.ownDom g.ctx
  let ws := s.wavesOf key
  let shape := s.shapeNow key b g k
  if s.resumeCores die key b g k cores && s.shareGranulesOk die cores k.desc shape gr then
    let b' := { b with
      phase := .resumed
      cores := cores
      alloc := gr.map fun x => x.alloc
      spill := gr.map fun x => x.spill }
    let t := (List.range cores.length).foldl (fun t p => t.restoreAlloc dom b' p (b.image.getD p []))
      ((s.leaveQueue die (.block key)).setBlock key { b' with image := [] })
    let t := t.seatWaves dom die ((List.zip ws (dealSpill k.desc shape b'.spill)).map fun e => (e.1, cores.getD e.1.2.partner 0, e.2))
    some ((t.discardText die g.kernel cores).closeIntervals die g.ctx cores)
  else none

/-- The barriers of a grid as the bytes of its record give them now (R372, R375). -/
def State.rereadGrid (s : State) (gk : Nat) : State :=
  match s.grids.get gk with
  | none => s
  | some g =>
    match g.record with
    | none => s
    | some r =>
      let now := s.poolMixed g.ctx ((s.ctx g.ctx).desc.savePool.toNat + r.1) g.written g.saveBytes
      if now = g.saveBytes then s
      else s.setGrid gk { g with barriers := g.barriers.mapIdx fun i _ => Barrier.load ((now.drop (8 * i)).take 8) }

/-- The grid that the number in a record names: one of the same context and kernel that has not ended; else the block's own. -/
def State.gridNamed (s : State) (gk num : Nat) : Nat :=
  match s.grids.get gk with
  | none => gk
  | some g =>
    if g.num.toNat = num then gk
    else ((s.grids.find? fun e => e.2.ctx == g.ctx && e.2.kernel == g.kernel && e.2.num.toNat == num && !e.2.ended).map
      fun e => e.1).getD gk

/-- A saved block and its waves as the bytes of their record give them now: with no byte of it changed, as they are. Of
the waves as many come back as the record says are present, and the block belongs to the grid that it names (R372,
R375). -/
def State.rereadBlock (s : State) (key : Nat) : State :=
  match s.blocks.get key, s.entryKernel (.block key) with
  | some b, some (g, k) =>
    match b.record with
    | none => s
    | some r =>
      let ws := s.wavesOf key
      let old := saveRecord b g k.desc (ws.map fun e => e.2) r.2 (s.ctx g.ctx).edited
      let now := s.poolMixed g.ctx ((s.ctx g.ctx).desc.savePool.toNat + r.1) b.written old
      if now = old then s
      else
        let vs := loadWaves b.span k.desc.spill ws (now.drop 512)
        let b' := { b.loadRecord k.desc (vs.map fun e => e.2) now with grid := s.gridNamed b.grid (leField now 16 4) }
        let gone := (ws.drop (leField now 8 4)).map fun e => e.1
        let t := vs.foldl (fun s e => s.setWave e.1 e.2) (s.setBlock key b')
        { t with waves := t.waves.filter fun e => !gone.contains e.1 }
  | _, _ => s

/-- A saved block, with the barriers of its grid, as their records are now (R372, R375). -/
def State.reread (s : State) (key : Nat) : State :=
  (match s.blocks.get key with
    | some b => s.rereadGrid b.grid
    | none => s).rereadBlock key

/-- The block is saved, and its grid has grid barriers. -/
def State.together (s : State) (q : QEntry) : Bool :=
  match q with
  | QEntry.block n => match s.blocks.get n, s.entryKernel q with
    | some b, some p => b.phase == .saved && !p.1.barriers.isEmpty
    | _, _ => false
  | QEntry.reserving _ => false

/-- The saved block may be placed on its die. Of grids with grid barriers all blocks resume together, whatever the order in
which they came into the queues: for one of their blocks the others, and those of other such grids, are passed over (R229,
DEDUCED, log entry 18). -/
def State.resumeHead (s : State) (die key : Nat) : Bool :=
  let q := QEntry.block key
  let t := if s.together q then s.updDie die fun d => { d with queue := d.queue.filter fun r => r == q || !s.together r } else s
  t.candidate die == some q

/-- One saved block that may be placed on its die is resumed, from its record as it is (R375). -/
def State.resumeOne (s : State) (key : Nat) (cores : List Nat) (gr : List Granules) : Option State :=
  let s := s.reread key
  match s.blocks.get key, s.entryKernel (.block key) with
  | some b, some (g, k) =>
    if b.phase != .saved || !s.resumeHead b.die key || b.ending then none
    else if k.desc.reserve.isSome then s.resumeLaunch b.die key b g k cores gr
    else s.resumeBlock b.die key b g k cores gr
  | _, _ => none

/-- The blocks of a grid with grid barriers resume together: cores and granules are those of one block after the other
(R229). -/
def State.resumeAll (s : State) : List (Nat × Nat) → List Nat → List Granules → Option State
  | [], _, _ => some s
  | (key, span) :: rest, cores, gr =>
    match s.resumeOne key (cores.take span) (gr.take span) with
    | some t => t.resumeAll rest (cores.drop span) (gr.drop span)
    | none => none

/-- Saved blocks of a grid with their spans, in ascending number. -/
def State.savedOf (s : State) (gk : Nat) : List (Nat × Nat) :=
  (sortBy (fun e => e.2.num) (s.blocks.filter fun e => e.2.grid == gk && e.2.phase == .saved)).map fun e =>
    (e.1, e.2.cores.length)

/-- BLOCK_RESUME (R229, R298, R313): a saved block that stands at the head goes onto cores of its die; a saved reserving
launch onto its home core and a core for each of its waves. Of a grid with grid barriers every block resumes, in one step,
once every one is saved. -/
def execBlockResume (die key : Nat) (cores : List Nat) (gr : List Granules) (s : State) : Host.Outcome State Fault Refusal :=
  match s.blocks.get key, s.entryKernel (.block key) with
  | some b, some (g, _) =>
    if b.die != die then .next s
    else
      let r :=
        if g.barriers.isEmpty then s.resumeOne key cores gr
        else if s.blocks.any fun e => e.2.grid == b.grid && e.2.phase == .saving then none
        else s.resumeAll (s.savedOf b.grid) cores gr
      match r with
      | some t => .next t
      | none => .next s
  | _, _ => .next s

/-- BLOCK_FLUSH (R314): once the counters are 0 the block is pending again, at the head of its die's queue, also of one that is
full (R304; DESIGN CHOICE, log entry 25). -/
def execBlockFlush (key : Nat) (s : State) : Host.Outcome State Fault Refusal :=
  match s.blocks.get key with
  | none => .next s
  | some b =>
    if b.phase != .flushing || b.ending || s.retires key b || !s.drainedBlock key || !s.unstalled key b then .next s
    else
      let b' : Block := { grid := b.grid, num := b.num, die := b.die, records := b.records }
      let s1 := { s with waves := s.waves.filter fun e => e.2.block ≠ key }
      let s2 := (s1.setBlock key b').updDie b.die fun d => d.enqueued (QEntry.block key :: d.queue)
      .next (s2.dropSlices b.die)

/-! ### Retirement (R268, R288, R303, R310, R369) -/

/-- A duration enters the history of a kernel on a die (R310). -/
def Die.record (d : Die) (kernel e : Nat) : Die :=
  let ds := d.durations kernel ++ [e]
  { d with history := d.history.put kernel (ds.drop (ds.length - 16)) }

/-- The waves that a block ended by its agent still has end with it: they leave their barriers (R223, R369). -/
def State.endWaves (s : State) (key : Nat) : State :=
  (s.wavesOf key).foldl (fun s e => match s.wctx e.2 with
    | some x => s.leaveBarriers e.2 x
    | none => s) s

/-- The grid after one of its blocks has retired. -/
def Grid.afterBlock (g : Grid) (b : Block) : Grid :=
  let g := { g with
    retired := g.retired + 1
    faulted := g.faulted || b.code != 0
    code := if g.code = 0 then b.code else g.code }
  match g.phase with
  | .pending | .dispatching | .running =>
    if !g.node && decide (g.blocks ≤ g.retired) && decide (g.blocks ≤ g.next) then { g with phase := .retiring } else g
  | _ => g

/-- BLOCK_RETIRE (R223, R268, R303, R310, R364, R369): resources and the record are freed; a cancelled block only ends. -/
def execBlockRetire (key : Nat) (s : State) : Host.Outcome State Fault Refusal :=
  match s.blocks.get key, s.entryKernel (.block key) with
  | some b, some (g, k) =>
    if !s.retirable key b k.desc then .next s
    else
      let s0 := s.endWaves key
      let s1 := { s0 with
        waves := s0.waves.filter fun e => e.2.block ≠ key
        blocks := s0.blocks.put key { b with phase := .retired, alloc := [], spill := [], record := none, image := [] } }
      let s2 := s1.updDie b.die fun d => { d with
        queue := d.queue.filter fun q => q != QEntry.block key
        former := match d.former with
          | some f => if f.block = key then none else some f
          | none => none
        savedFormers := d.savedFormers.filter fun f => f.block ≠ key }
      let s3 := if g.phase = .cancelled then s2
        else ((s2.updDie b.die fun d => d.record g.kernel b.elapsed).updGrid b.grid fun g => g.afterBlock b).nodeSettle b.grid
      .next (s3.dropSlices b.die)
  | _, _ => .next s

/-! ### Slices (R363) -/

/-- The victims of an expired slice: the context's blocks on the die in ascending number, until the waiting block can be
placed. -/
def sliceVictims (ok : List Nat → Bool) : List Nat → List Nat → List Nat
  | acc, [] => acc
  | acc, k :: ks => if ok acc then acc else sliceVictims ok (acc ++ [k]) ks

/-- The first entry of a die's queue that belongs to another context and stands. -/
def State.waitingOther (s : State) (die ctx : Nat) : Option QEntry :=
  (s.die die).queue.find? fun q => s.stands die q && match s.entryKernel q with
    | some p => p.1.ctx != ctx
    | none => false

/-- Blocks of a context on a die that can be selected, in ascending number. -/
def State.sliceBlocks (s : State) (die ctx : Nat) : List Nat :=
  (sortBy (fun e => e.2.num) (s.blocks.filter fun e => e.2.placed && e.2.die == die && !e.2.leaving &&
    match s.grids.get e.2.grid with
    | some h => h.ctx == ctx
    | none => false)).map fun e => e.1

/-- SLICE_EXPIRE (R363, R315): the count restarts, and the cycles past expiry count on in the next slice; an entry of another
context that waits, a block or a reserving launch, has blocks selected for it. -/
def execSliceExpire (die ctx : Nat) (s : State) : Host.Outcome State Fault Refusal :=
  let n := ((s.die die).slices.get ctx).getD 0
  if n < (s.ctx ctx).desc.slice.toNat || (s.ctx ctx).desc.slice = 0 then .next s
  else
    let s := (s.intake die).updDie die fun d => { d with slices := d.slices.put ctx (n - (s.ctx ctx).desc.slice.toNat) }
    match (s.waitingOther die ctx).bind fun q => (s.entryNeed q).map fun n => (q, n) with
    | none => .next s
    | some (q, g, k, shape, span) =>
      let t := s.without (s.leavingOn die)
      let at_ := fun set => (placements span).find? fun cores => (t.without set).fitsAt (some q) die g k shape cores
      let vs := sliceVictims (fun set => (at_ set).isSome) [] (s.sliceBlocks die ctx)
      if vs.isEmpty then .next s
      else
        let u := vs.foldl State.selectBlock s
        .next (match at_ vs with
          | some cores => u.reserve die q cores
          | none => u)

end Sys2Proof.Machine
end

