-- ==== Sys2Proof/Machine/Contexts.lean ====
section
/-! DEFINITION. Contexts, descriptor writes, what agents choose for a fault, the supervisor's failure and its recovery,
and supervisor accesses (R213, R246 to R248, R359 to R362, R369, R370, R375 to R377). -/

namespace Sys2Proof

/-- The shared domains of a descriptor. -/
def CtxDesc.attached (d : CtxDesc) : List Nat := (d.shared.map fun v => v.toNat).filter fun n => n != 0xffff

/-- The cause is of the TRAP class: its instruction retires when the wave is continued past it (R116). -/
def Cause.trapClass : Cause → Bool
  | .trap | .brk | .syscall => true
  | _ => false

end Sys2Proof

namespace Sys2Proof.Machine

/-! ### Creating and moving contexts (R360 to R362) -/

/-- Some context that is not free owns the domain, or has it attached. -/
def State.domainHeld (s : State) (dom : Nat) : Bool :=
  s.contexts.any fun e => e.2.state != .free &&
    (e.2.desc.ownDomain.toNat == dom || e.2.desc.shared.any fun d => d.toNat == dom)

/-- Some context that is not free owns the domain. -/
def State.domainOwned (s : State) (dom : Nat) : Bool :=
  s.contexts.any fun e => e.2.state != .free && e.2.desc.ownDomain.toNat == dom

/-- A shared domain that a slot may name: not the supervisor's, and no context's own (R246). -/
def State.sharable (s : State) (dom : Nat) : Bool := decide (1 ≤ dom) && decide (dom ≤ 1023) && !s.domainOwned dom

/-- Keys for a domain that has none. -/
def State.keyed (s : State) (dom : Nat) : State := if (s.domain dom).live then s else s.enkey dom

/-- A descriptor that Curator may write (Table 22.1); a sealed context has no replay mode (Table 22.9). -/
def State.descOk (s : State) (d : CtxDesc) : Bool :=
  decide (1 ≤ d.ownDomain.toNat) && decide (d.ownDomain.toNat ≤ 1023) && !s.domainHeld d.ownDomain.toNat &&
  d.shared.length == 4 && d.attached.all (fun n => s.sharable n && n != d.ownDomain.toNat) &&
  decide (d.savePool.toNat % 65536 = 0) && decide (1 ≤ d.slice.toNat) && !(d.flags.getLsbD 2 && d.flags.getLsbD 3) &&
  decide (d.tableRoot.toNat % 4096 = 0)

/-- A descriptor as the device takes it: it ignores the reserved flags, and sets DEBUG_EDITED itself (R10, R360). -/
def takenDesc (d : CtxDesc) : CtxDesc := { d with flags := d.flags &&& 0x0f }

/-- State code of Table 22.2. -/
def CtxState.code (c : CtxState) : Nat :=
  match c with
  | .free => 0
  | .created => 1
  | .resident => 2
  | .standby => 3
  | .ending => 4

/-- A context descriptor's 64 bytes in hub memory (Table 22.1). -/
def Context.bytes (c : Context) : List Byte :=
  let d := c.desc
  leBytes 8 d.tableRoot.toNat ++ zeros 5 ++ leBytes 1 c.state.code ++ leBytes 2 d.ownDomain.toNat ++
  ((List.range 4).map fun i => leBytes 2 (d.shared.getD i 0xffff).toNat).flatten ++ leBytes 2 d.owner.toNat ++
  leBytes 2 d.trapHandler.toNat ++ leBytes 1 d.flags.toNat ++ leBytes 3 d.drainBudget.toNat ++ leBytes 4 d.slice.toNat ++
  leBytes 4 d.poolSize.toNat ++ leBytes 8 d.savePool.toNat ++ zeros 16

/-- CONTEXT_CREATE (R10, R246, R360, R361): the security engine generates the keys of its domain. -/
def execContextCreate (ctx : Nat) (desc : CtxDesc) (s : State) : Host.Outcome State Fault Refusal :=
  if decide (ctx < 256) && (s.ctx ctx).state == .free && s.startRec.started && s.descOk desc then
    .next (desc.attached.foldl State.keyed ((s.enkey desc.ownDomain.toNat).setCtx ctx { state := .created, desc := takenDesc desc }))
  else .next (s.report .refused)

/-- Contexts that are resident. -/
def State.residents (s : State) : Nat := (s.contexts.filter fun e => e.2.state == .resident).length

/-- MAKE_RESIDENT (R361, R362): a 65th resident context is refused. -/
def execMakeResident (ctx : Nat) (s : State) : Host.Outcome State Fault Refusal :=
  match (s.ctx ctx).state with
  | .created | .standby =>
    if s.residents < 64 then .next (s.updCtx ctx fun c => { c with state := .resident }) else .next (s.report .refused)
  | _ => .next (s.report .refused)

/-- The block belongs to a context. -/
def State.blockCtx (s : State) (b : Block) : Option Nat := (s.grids.get b.grid).map fun g => g.ctx

/-- Some block of the context is on compute. -/
def State.onCompute (s : State) (ctx : Nat) : Bool := s.blocks.any fun e => e.2.placed && s.blockCtx e.2 == some ctx

/-- Grids with grid barriers that have a placed block of some kind: their blocks are saved together (R229). -/
def State.wholeGrids (s : State) (p : Nat → Block → Bool) : List Nat :=
  (s.blocks.filter fun e => p e.1 e.2 && e.2.placed && match s.grids.get e.2.grid with
    | some g => !g.barriers.isEmpty
    | none => false).map fun e => e.2.grid

/-- Every placed block of some kind is selected for saving, and with it every block of a grid with grid barriers (R229);
one that is on its way off goes on (R382). -/
def State.saveBlocks (s : State) (p : Nat → Block → Bool) : State :=
  let whole := s.wholeGrids p
  { s with
    blocks := s.blocks.map fun (e : Nat × Block) =>
      if (p e.1 e.2 || whole.contains e.2.grid) && e.2.placed && !e.2.leaving && !e.2.ending then
        (e.1, { e.2 with phase := .saving })
      else e }

/-- CONTEXT_EVICT (R361, R382): the context is standby once no block of it remains on compute. -/
def execContextEvict (ctx : Nat) (s : State) : Host.Outcome State Fault Refusal :=
  if (s.ctx ctx).state != .resident then .next (s.report .refused)
  else if s.onCompute ctx then
    .next ((s.saveBlocks fun _ b => s.blockCtx b == some ctx).updCtx ctx fun c => { c with evicting := true })
  else .next (s.updCtx ctx fun c => { c with state := .standby, evicting := false })

/-! ### Debug rights end (R380) -/

/-- The wave belongs to a context. -/
def State.waveOf (s : State) (ctx : Nat) (w : Wave) : Bool :=
  match s.wctx w with
  | some x => x.grid.ctx == ctx
  | none => false

/-- Replay mode of a context ends: the journals go (R380). -/
def State.endReplay (s : State) (ctx : Nat) : State :=
  { (s.updCtx ctx fun c => { c with desc := { c.desc with flags := c.desc.flags &&& 0xf7 } }) with
    cores := s.cores.map fun (e : Nat × Core) => (e.1, match e.2.replay with
      | some r => if r.ctx = ctx then { e.2 with replay := none } else e.2
      | none => e.2) }

/-- A halted wave released into the state it came from. -/
def Wave.release (w : Wave) : Wave :=
  { w with halted := false, haltReq := false, atBrkpt := false, passBp := false, stepping := false }

/-- Revocation (R380): edits stand, halted waves are released, breakpoints cleared, the trace sealed, replay ended. -/
def State.revoke (s : State) (ctx : Nat) : State :=
  match (s.ctx ctx).debug with
  | none => s
  | some _ =>
    let t := s.closeFolio ctx true
    let t := { t with waves := t.waves.map fun (e : Nat × Wave) => if s.waveOf ctx e.2 then (e.1, e.2.release) else e }
    (t.updCtx ctx fun c => { c with debug := none }).endReplay ctx

/-! ### Ending a context (R361, R247) -/

/-- Domains attached to a context and to no other. -/
def State.lastAttached (s : State) (ctx : Nat) : List Nat :=
  (s.ctx ctx).desc.attached.filter fun n =>
    !s.contexts.any fun e => e.1 != ctx && e.2.state != .free && e.2.desc.attached.contains n

/-- Ending begins: grids cancelled, and every block of the context stopped, those of a refused node grid too; queues
destroyed, gatherers unbound, the debug right revoked, cards cancelled. -/
def State.beginEnd (s : State) (ctx : Nat) : State :=
  let s := s.revoke ctx
  let s := s.updCtx ctx fun c => { c with state := .ending, evicting := false }
  let gs := (s.grids.filter fun e => e.2.ctx == ctx).map fun (e : Nat × Grid) => e.1
  let s := gs.foldl State.purgeQueues ((gs.foldl State.cancelGrid s).stopBlocks fun b => gs.contains b.grid)
  let qs := (s.queues.filter fun e => e.2.ctx == ctx).map fun (e : Nat × Queue) => e.1
  let s := { qs.foldl State.destroyQueue s with pifo := s.pifo.filter fun e => !qs.contains e.queue }
  let s := s.unbindAll fun g => g.ctx == ctx
  (s.cards.filter fun e => e.2.ctx == ctx).foldl (fun s e => s.endCard e.1 e.2 3 0) s

/-- What is left of a context goes, open sequences with it (R334), and its domain keys are discarded: free. -/
def State.finishEnd (s : State) (ctx : Nat) : State :=
  let doms := s.ownDom ctx :: s.lastAttached ctx
  let ks := (s.kernels.filter fun e => e.2.ctx == ctx).map fun (e : Nat × Kernel) => e.1
  let gs := (s.grids.filter fun e => e.2.ctx == ctx).map fun (e : Nat × Grid) => e.1
  let s := { s with
    waves := s.waves.filter fun e => !s.waveOf ctx e.2
    blocks := s.blocks.filter fun e => !gs.contains e.2.grid
    grids := s.grids.filter fun e => !gs.contains e.1
    kernels := s.kernels.filter fun e => !ks.contains e.1
    seqs := s.seqs.filter fun q => q.ctx != ctx
    dies := s.dies.map fun (e : Nat × Die) => (e.1, { e.2 with
      walks := e.2.walks.filter fun w => w.ctx != ctx
      gatherers := e.2.gatherers.filter fun g => g.ctx != ctx
      history := e.2.history.filter fun q => !ks.contains q.1
      slices := e.2.slices.del ctx })
    cores := s.cores.map fun (e : Nat × Core) => (e.1, { e.2 with
      tlb := e.2.tlb.filter fun t => t.ctx != ctx
      stall := e.2.stall.filter fun p => p.ctx != ctx
      text := e.2.text.filter fun q => !ks.contains q.1 }) }
  (doms.foldl State.discard s).setCtx ctx {}

/-- CONTEXT_END (R361): ending, and free once no block of the context runs. -/
def State.endContext (s : State) (ctx : Nat) : State :=
  let t := match (s.ctx ctx).state with
    | .created | .resident | .standby => s.beginEnd ctx
    | _ => s
  if (t.ctx ctx).state == .ending && !t.onCompute ctx then t.finishEnd ctx else t

/-- CONTEXT_END (R361). -/
def execContextEnd (ctx : Nat) (s : State) : Host.Outcome State Fault Refusal :=
  if (s.ctx ctx).state == .free then .next (s.report .refused) else .next (s.endContext ctx)

/-! ### Descriptor writes (R360) -/

/-- A write of a field; none where Table 22.1 or the state of the context does not allow it. -/
def State.writeDesc (s : State) (ctx : Nat) (wr : DescWrite) : Option State :=
  let c := s.ctx ctx
  let put := fun (d : CtxDesc) => some (s.setCtx ctx { c with desc := d })
  match wr with
  | .slice v => if v = 0 then none else put { c.desc with slice := v }
  | .drainBudget v => put { c.desc with drainBudget := v }
  | .delegation t a =>
    put { c.desc with flags := (c.desc.flags &&& 0xfc) ||| (if t then 1 else 0) ||| (if a then 2 else 0) }
  | .replay on base area =>
    if !on then some (s.endReplay ctx)
    else if (c.debug).isNone || s.onCompute ctx then none
    else some (s.setCtx ctx { c with desc := { c.desc with flags := c.desc.flags ||| 8 }, area := area, areaBase := base })
  | .trapHandler v => put { c.desc with trapHandler := v }
  | .savePool base size =>
    if base.toNat % 65536 ≠ 0 || !(s.poolRecords ctx).isEmpty then none else put { c.desc with savePool := base, poolSize := size }
  | .tableRoot v => if v.toNat % 4096 ≠ 0 then none else put { c.desc with tableRoot := v }
  | .attach slot dom =>
    if decide (1 ≤ slot) && decide (slot ≤ 4) && c.desc.shared.getD (slot - 1) 0 == 0xffff && s.sharable dom then
      some ((s.keyed dom).setCtx ctx { c with desc := { c.desc with shared := c.desc.shared.set (slot - 1) (BitVec.ofNat 16 dom) } })
    else none
  | .detach slot =>
    let dom := (c.desc.shared.getD (slot - 1) 0xffff).toNat
    if decide (1 ≤ slot) && decide (slot ≤ 4) && dom != 0xffff then
      let t := s.setCtx ctx { c with desc := { c.desc with shared := c.desc.shared.set (slot - 1) 0xffff } }
      let t := { t with cores := t.cores.map fun (e : Nat × Core) =>
        (e.1, { e.2 with tlb := e.2.tlb.filter fun q => !(q.ctx == ctx && q.dom == dom) }) }
      some (if (s.lastAttached ctx).contains dom && !(t.ctx ctx).desc.attached.contains dom then t.discard dom else t)
    else none

/-- CONTEXT_DESCRIPTOR_WRITE (R246, R247, R360). -/
def execContextDescriptorWrite (ctx : Nat) (wr : DescWrite) (s : State) : Host.Outcome State Fault Refusal :=
  match if (s.ctx ctx).state.live then s.writeDesc ctx wr else none with
  | some t => .next t
  | none => .next (s.report .refused)

/-! ### What the agent that takes a cause chooses (R369) -/

/-- The block of a wave that was resumed: running once none of its waves is faulted. -/
def State.unfault (s : State) (key : Nat) : State :=
  if (s.wavesOf key).any fun e => e.2.phase == .faulted then s
  else s.updBlock key fun b => { b with phase := if b.phase = .faulted then .running else b.phase }

/-- A wave of a context is faulted, and its block has not been ended. -/
def State.heldIn (s : State) (c n : Nat) : Bool :=
  match s.waves.get n with
  | some w => match s.wctx w with
    | some x => w.phase == .faulted && !x.block.ending && x.grid.ctx == c
    | none => false
  | none => false

/-- The cause of a faulted wave can be taken: dispatch is not frozen, or a restarted Curator takes those that it has found,
each context's in sequence order (R377). -/
def State.mayTake (s : State) (c n : Nat) : Bool :=
  !s.frozen || match s.taking with
    | some l => l.find? (s.heldIn c) == some n
    | none => false

/-- A faulted wave, while its cause can be taken (R377): the wave resumes as `f` says, its record leaves the log. -/
def onFaulted (n : Nat) (s : State) (f : Wave → WCtx → FaultRec → State) : Host.Outcome State Fault Refusal :=
  onWave s n fun w x =>
    match w.fault with
    | some r => if w.phase == .faulted && s.mayTake x.grid.ctx n && !x.block.ending then f w x r else s
    | none => s

/-- The wave resumes: its fault record has been read; the save record of a saved one follows (R369, R375). -/
def State.resumeFault (s : State) (n : Nat) (w : Wave) (ctx : Nat) (r : FaultRec) : State :=
  (((s.setWave n { w with phase := .active, fault := none }).updCtx ctx fun c => { c with log := c.log.erase r }).unfault
    w.block).rewritten w

/-- FAULT_RETRY (R369). -/
def execFaultRetry (n : Nat) (s : State) : Host.Outcome State Fault Refusal :=
  onFaulted n s fun w x r => s.resumeFault n { w with passBp := false } x.grid.ctx r

/-- PC_RANGE at the instruction of a faulted wave, which takes no effect and does not retire (R95); a saved block stays
saved. -/
def State.badTarget (s : State) (n : Nat) (w : Wave) (x : WCtx) (r : FaultRec) : State :=
  let t := (s.updCtx x.grid.ctx fun c => { c with log := c.log.erase r }).deliver n w x .pcRange w.run 0 0
  if w.saved then (t.updBlock w.block fun b => { b with phase := x.block.phase }).rewritten w else t

/-- FAULT_CONTINUE (R95, R116, R369, R396): the last word of a text has no instruction behind it. -/
def execFaultContinue (n : Nat) (s : State) : Host.Outcome State Fault Refusal :=
  onFaulted n s fun w x r =>
    if x.pcOk w.nextPc then
      s.resumeFault n { (if r.cause.trapClass then w.retire w else w).goto w.nextPc with passBp := false } x.grid.ctx r
    else s.badTarget n w x r

/-- FAULT_REDIRECT (R95, R369): a bad target raises PC_RANGE at the wave's instruction. -/
def execFaultRedirect (n : Nat) (pc : BitVec 32) (s : State) : Host.Outcome State Fault Refusal :=
  onFaulted n s fun w x r =>
    if x.pcOk pc then s.resumeFault n ({ w with passBp := false }.goto pc) x.grid.ctx r else s.badTarget n w x r

/-- FAULT_END (R369): the waves of the block stop, and its grid ends FAULTED. -/
def execFaultEnd (n : Nat) (s : State) : Host.Outcome State Fault Refusal :=
  onFaulted n s fun w x r =>
    (s.updCtx x.grid.ctx fun c => { c with log := c.log.erase r }).updBlock w.block fun b =>
      { b with ending := true, code := if b.code = 0 then r.cause.code else b.code }

/-- The unread records of a context's fault log are read, in sequence order (R370). -/
def State.readLog (s : State) (ctx : Nat) : State :=
  let c := s.ctx ctx
  if c.log.isEmpty then s else (s.setCtx ctx { c with log := [] }).report (.log ctx c.log)

/-- FAULT_LOG_LOST_CLEAR (R370): Curator reads the log's lost count, and clears it. -/
def execFaultLogLostClear (ctx : Nat) (s : State) : Host.Outcome State Fault Refusal :=
  let c := s.ctx ctx
  .next ((s.setCtx ctx { c with lost := 0 }).report (.lost ctx c.lost))

/-! ### Heartbeats, the freeze and the restart (R376, R377) -/

/-- The thread whose counter a thread reads: the next in the order, or the one after a silent one. -/
def State.watched (s : State) (i : Nat) : Option Nat :=
  ((List.range 3).map fun k => (i + 1 + k) % 4).find? fun j => !(s.threads.getD j {}).silent

/-- A silent cluster's queues go to the thread that read its counter. -/
def State.adopt (s : State) (by_ silent : Nat) : State :=
  { s with
    threads := (s.threads.modify silent fun t => { t with silent := true }).modify by_ fun t =>
      { t with lastRead := none, unchanged := 0 }
    queues := s.queues.map fun (e : Nat × Queue) => if e.2.thread = silent then (e.1, { e.2 with thread := by_ }) else e }

/-- HEARTBEAT (R376): one period of a thread. -/
def execHeartbeat (i : Nat) (s : State) : Host.Outcome State Fault Refusal :=
  let me := s.threads.getD i {}
  if decide (4 ≤ i) || me.silent || (s.frozen && s.taking.isNone) then .next s
  else
    let s := { s with threads := s.threads.modify i fun t => { t with beat := t.beat + 1 } }
    match s.watched i with
    | none => .next s
    | some j =>
      let v := (s.threads.getD j {}).beat
      let n := if me.lastRead = some v then me.unchanged + 1 else 0
      if n = 3 then .next (s.adopt i j)
      else .next { s with threads := s.threads.modify i fun t => { t with lastRead := some v, unchanged := n } }

/-- FREEZE_DISPATCH (R377). -/
def execFreezeDispatch (s : State) : Host.Outcome State Fault Refusal := .next { s with frozen := true, taking := none }

/-- The phase of a state code (Table 21.2). -/
def phaseOfCode (n : Nat) (p : QueuePhase) : QueuePhase :=
  match n with
  | 1 => .created
  | 2 => .bound
  | 3 => .opened
  | 4 => .draining
  | 5 => .closed
  | _ => p

/-- Every queue is reattached from its header; one whose header says so is destroyed (R343). -/
def State.reattach (s : State) : State :=
  let s := (s.queues.map fun (e : Nat × Queue) => e.1).foldl State.settleQueue s
  { s with queues := s.queues.map fun (e : Nat × Queue) =>
      (e.1, { e.2 with phase := phaseOfCode (s.qState e.2) e.2.phase, thread := e.1 % 4, stopped := false }) }

/-- The causes held for Curator are taken: it reads every context's log, in sequence order (R370, R377). -/
def State.takeHeld (s : State) : State :=
  (s.contexts.map fun (e : Nat × Context) => e.1).foldl State.readLog s

/-- The faulted waves, those of a context in the sequence of their records. -/
def State.heldWaves (s : State) : List Nat :=
  (sortBy (fun (e : Nat × Wave) => match e.2.fault with
    | some r => 65535 - ((s.ctx r.ctx).sequence - r.sequence).toNat
    | none => 0) (s.waves.filter fun e => e.2.phase == .faulted)).map fun e => e.1

/-- Dispatch is unfrozen once a restarted Curator has taken every cause that it has found, and no core is stalled on a page
fault (R377). -/
def State.thaw (s : State) : State :=
  match s.taking with
  | none => s
  | some l =>
    let held := l.any fun n => match s.waves.get n with
      | some w => (s.wctx w).any fun x => s.heldIn x.grid.ctx n
      | none => false
    if held || s.cores.any fun e => !e.2.stall.isEmpty then s else { s with taking := none, frozen := false }

/-- CURATOR_RESTART (R377): queues are reattached, and Curator takes the held causes; dispatch is unfrozen behind them. After
two failures in a row every context ends and the device starts anew. -/
def execCuratorRestart (ok : Bool) (s : State) : Host.Outcome State Fault Refusal :=
  if !s.frozen then .next (s.report .refused)
  else if ok then
    .next { s.reattach.takeHeld with threads := List.replicate 4 {}, taking := some s.heldWaves, restarts := 0 }.thaw
  else if s.restarts = 0 then .next { s with restarts := 1, taking := none }
  else
    let t := (s.contexts.map fun (e : Nat × Context) => e.1).foldl State.endContext s
    .next { t with restarts := 0, taking := none, startRec := { t.startRec with started := false } }

/-! ### Accesses of the supervisor (R213, R248, R400) -/

/-- The core stands at a replay stop, or on the way to one. -/
def State.replayingOn (s : State) (die core : Nat) : Bool :=
  match (s.core die core).replay with
  | some r => r.replay.isSome
  | none => false

/-- A replay of the context is in progress on some core. -/
def State.ctxReplaying (s : State) (ctx : Nat) : Bool :=
  s.cores.any fun e => match e.2.replay with
    | some r => r.replay.isSome && r.ctx == ctx
    | none => false

/-- The domain is the own one of a context in a replay. -/
def State.replayingDom (s : State) (dom : Nat) : Bool :=
  s.cores.any fun e => match e.2.replay with
    | some r => r.replay.isSome && s.ownDom r.ctx == dom
    | none => false

/-- The device address of a device-window address, where the bytes from it on exist. -/
def supLds (addr : BitVec 32) (n : Nat) : Option Nat :=
  if addr.toNat / 0x40000000 = 3 && decide (addr.toNat / 0x400000 % 64 ≤ 47) && decide (addr.toNat % 0x400000 + n ≤ 0x300000) then
    some (addr.toNat % 0x40000000)
  else none

/-- The local stores as they are read from outside: of a core that replays, those of the boundary that it has come to
(R400). -/
def State.storesOf (s : State) (die core : Nat) : State :=
  match (s.core die core).replay with
  | some r => match r.replay with
    | some p => { s with lds := p.view.lds, ldsTags := p.view.tags }
    | none => s
  | none => s

/-- SUPERVISOR_ACCESS (R213, R248, R400): under the domain that the supervisor names. -/
def execSupervisorAccess (a : SupAccess) (s : State) : Host.Outcome State Fault Refusal :=
  match a with
  | .readLds addr n dom =>
    match supLds addr n with
    | some d => .next (s.report (.bytes ((s.storesOf (dieOf d) (coreOf d)).ldsReads dom d n)))
    | none => .next (s.report .refused)
  | .writeLds addr bs dom =>
    match supLds addr bs.length with
    | some d =>
      if s.replayingOn (dieOf d) (coreOf d) || (s.coreContexts (dieOf d) (coreOf d)).any s.ctxReplaying then
        .next (s.report .replaying)
      else .next (s.ldsWrites dom d bs)
    | none => .next (s.report .refused)
  | .readContext ctx => .next (s.report (.bytes (s.ctx ctx).bytes))
  | .readHbm pa n dom => .next (s.report (.bytes (s.memReads dom pa n)))
  | .writeHbm pa bs dom => if s.replayingDom dom then .next (s.report .replaying) else .next (s.memWrites dom pa bs)

end Sys2Proof.Machine
end

