-- ==== Sys2Proof/Machine/Text.lean ====
section
/-! DEFINITION. Instruction text: where it lies, what a core holds of it, the instruction at a wave's PC, and text that is
changed while waves run (R117, R220). -/

namespace Sys2Proof.Machine

/-! ### Text that is being written -/

/-- A change to some bytes that is under way, as it bears on one of them: HBM's count of writes before the change's first and
before its latest write of it; none where it has not written it yet. -/
abbrev Written := Option (Nat × Nat)

/-- What a CPYO that has not finished in every lane has made of the byte at a physical address, where a lane is to write
it. -/
def PendCopy.changing (c : PendCopy) (a : Nat) : Option Written :=
  if c.kind = .store && c.lanes.any fun l => !l.done then
    let on := c.lanes.filter fun l => match l.pa with
      | some p => decide (localPa p.1 ≤ a) && decide (a < localPa p.1 + l.bytes)
      | none => false
    if on.isEmpty then none
    else some ((on.filterMap fun l => l.wrote.get a).foldl (fun (w : Written) n => match w with
      | some p => some (min p.1 n, max p.2 n)
      | none => some (n, n)) none)
  else none

/-- The region that a card writes. -/
def Card.target (c : Card) : CardRegion :=
  match c.kind with
  | 1 | 3 => c.region 1
  | 2 => c.region 2
  | _ => c.region 0

/-- A region in HBM holds the byte at a physical address: page by page. -/
def Card.covers (c : Card) (s : State) (r : CardRegion) (a : Nat) : Bool :=
  !r.window && (List.range (r.len / 65536 + 2)).any fun i =>
    let lo := max r.base.toNat ((r.base.toNat / 65536 + i) * 65536)
    let hi := min (r.base.toNat + r.len) ((r.base.toNat / 65536 + i + 1) * 65536)
    decide (lo < hi) && match c.spot s r (lo - r.base.toNat) with
      | .ok (.hbm pa _ _) => decide (localPa pa ≤ a) && decide (a < localPa pa + (hi - lo))
      | _ => false

/-- What a card that has started and not ended has made of the byte at a physical address, where it is to write it. -/
def Card.changing (c : Card) (s : State) (a : Nat) : Option Written :=
  if (c.phase == .running || c.phase == .faulted) && c.covers s c.target a then some (c.wrote.get a) else none

/-- A change of text that can be under way: a wave's copy, or a card (R117). -/
inductive Change where
  | copy (c : PendCopy)
  | card (c : Card)
  deriving DecidableEq, Repr

/-- The copies to HBM and the cards that may be changing text. -/
def State.changes (s : State) : List Change :=
  (s.waves.map fun e => (e.2.copies.filter fun c => c.kind == .store).map Change.copy).flatten ++
  (s.cards.filter fun e => e.2.phase == .running || e.2.phase == .faulted).map fun e => .card e.2

/-- What a change has made of a byte that it is to write. -/
def Change.at_ (h : Change) (s : State) (a : Nat) : Option Written :=
  match h with
  | .copy c => c.changing a
  | .card c => c.changing s a

/-- A collective's values are final only when it has delivered all of them (R392). -/
def Change.final (h : Change) : Bool :=
  match h with
  | .copy _ => true
  | .card c => c.kind != 3 || decide (0 < c.moved)

/-- The change has written a part of an instruction, and not the whole of what it is to write there. -/
def Change.torn (h : Change) (s : State) (as : List Nat) : Bool :=
  let on := as.filterMap (h.at_ s)
  (on.any fun w => w.isSome) && (!h.final || on.any fun w => w.isNone)

/-! ### What is fetched -/

/-- A byte of an instruction that some changes have torn: one that a change has written itself, and nothing since, as it was
before that; another as it is now. -/
def State.untorn (s : State) (dom a : Nat) (hs : List Change) : Byte :=
  match hs.findSome? fun h => match h.at_ s a with
    | some (some p) => if s.lastWrite a = some p.2 then some p.1 else none
    | _ => none with
  | some n => s.hbmAt dom a n
  | none => s.hbmRead dom a

/-- An instruction's bytes at physical addresses, as a fetch finds them in HBM: whole, from before a change that has torn it or
from after it (R117, R220). -/
def State.wordNow (s : State) (dom : Nat) (as : List Nat) : List Byte :=
  let hs := s.changes.filter fun h => h.torn s as
  as.map fun a => s.untorn dom a hs

/-- The text of a kernel as a fetch finds it in HBM, instruction by instruction (R117, R220). -/
def State.textNow (s : State) (k : Kernel) : List Byte :=
  match k.place with
  | none => k.text
  | some pa => ((List.range ((k.text.length + 11) / 12)).map fun j =>
    s.wordNow (s.ownDom k.ctx) ((List.range (min 12 (k.text.length - 12 * j))).map fun i => pa + 12 * j + i)).flatten

/-- The text that a core fetches of a kernel: what it holds, else the text as it is, which it then holds. -/
def State.textOf (s : State) (w : Wave) (x : WCtx) : List Byte :=
  ((s.core w.die w.core).text.get x.grid.kernel).getD (s.textNow x.kern)

def State.holdText (s : State) (w : Wave) (x : WCtx) : State :=
  if ((s.core w.die w.core).text.get x.grid.kernel).isSome then s
  else s.updCore w.die w.core fun k => { k with text := k.text.put x.grid.kernel (s.textNow x.kern) }

/-- The bytes of the instruction at the wave's PC. -/
def State.fetch (s : State) (w : Wave) (x : WCtx) : List Byte := ((s.textOf w x).drop w.pc.toNat).take 12

/-- A core takes some instructions of a text that it holds anew, each whole (R117). -/
def State.textRead (s : State) (die core kernel : Nat) (words : List Nat) : State :=
  match s.kernels.get kernel, (s.core die core).text.get kernel with
  | some k, some held =>
    let now := s.textNow k
    s.updCore die core fun c => { c with
      text := c.text.put kernel (held.mapIdx fun j b => if words.contains (j / 12) then now.getD j b else b) }
  | _, _ => s

end Sys2Proof.Machine
end

