-- ==== Sys2Proof/Machine/Debug.lean ====
section
/-! DEFINITION. Debug rights: grants, halts, steps, reads, writes, breakpoints; stall samples and folios
(R116, R166, R200, R236, R371, R378 to R381, R401 to R404). -/

namespace Sys2Proof.Machine

/-! ### Rights (R378, R380) -/

/-- The context is sealed (R360, R378). -/
def State.sealedCtx (s : State) (ctx : Nat) : Bool := (s.ctx ctx).desc.flags.getLsbD 2

/-- The agent is the context's owner (R360, R378). -/
def State.owns (s : State) (ctx agent : Nat) : Bool := (s.ctx ctx).desc.owner.toNat == agent

/-- DEBUG_GRANT (R378, R403, R404): the owner grants one right at a time; a new trace begins with it, and its key reaches
Curator wrapped for the owner's session. -/
def execDebugGrant (ask : RightAsk) (agent : Nat) (s : State) : Host.Outcome State Fault Refusal :=
  let ctx := ask.ctx
  if s.sealedCtx ctx then .next (s.report .sealed_)
  else if !(s.ctx ctx).state.live || ((s.ctx ctx).debug).isSome || !s.owns ctx ask.by_ then .next (s.report .refused)
  else
    .next (({ s with nextTrace := s.nextTrace + 1, nextKey := s.nextKey + 1 }.updCtx ctx fun c =>
      { c with debug := some { agent := agent, traceId := s.nextTrace, key := s.nextKey } }).report
        (.traceKey ctx (s.ctx ctx).desc.owner))

/-- DEBUG_ATTACH (R378). -/
def execDebugAttach (ctx agent : Nat) (s : State) : Host.Outcome State Fault Refusal :=
  if s.sealedCtx ctx then .next (s.report .sealed_)
  else match (s.ctx ctx).debug with
    | some r =>
      if r.agent = agent then .next (s.updCtx ctx fun c => { c with debug := some { r with attached := true } })
      else .next (s.report .refused)
    | none => .next (s.report .refused)

/-- DEBUG_REVOKE (R380): by the owner. -/
def execDebugRevoke (ask : RightAsk) (s : State) : Host.Outcome State Fault Refusal :=
  if ((s.ctx ask.ctx).debug).isNone || !s.owns ask.ctx ask.by_ then .next (s.report .refused)
  else .next (s.revoke ask.ctx)

/-- An operation of the debugger on a wave of a context to which it is attached. -/
def onDebugged (n : Nat) (s : State) (f : Wave → WCtx → State) : Host.Outcome State Fault Refusal :=
  onWave s n fun w x => if s.attached x.grid.ctx then f w x else s.report .refused

/-- The core replays (R399): its waves move only with the replay. -/
def State.replayingWave (s : State) (w : Wave) : Bool := s.replayingOn w.die w.core

/-- A debugger's access raises a clock-stopped island to reduced (R381). -/
def State.rouseIsland (s : State) (w : Wave) : State :=
  let i := islandOf w.die w.core
  if s.island i = .stopped && !w.saved then { s with islands := s.islands.put i .reduced } else s

/-! ### Halting (R379, R382) -/

/-- The wave has not ended. -/
def Wave.alive (w : Wave) : Bool :=
  match w.phase with
  | .starting | .active | .faulted => true
  | .ending | .ended => false

/-- DEBUG_HALT (R379): the wave stops at its boundary. -/
def execDebugHalt (n : Nat) (s : State) : Host.Outcome State Fault Refusal :=
  onDebugged n s fun w _ => if w.alive && !w.halted then s.setWave n { w with halted := true, haltReq := true } else s

/-- HALT_REPORTED (R200, R379): once no load is outstanding, with the counts as they are. -/
def execHaltReported (n : Nat) (s : State) : Host.Outcome State Fault Refusal :=
  onWave s n fun w _ =>
    if w.halted && w.haltReq && w.loads.isEmpty then (s.setWave n { w with haltReq := false }).report
        (.haltReported n ((List.range 8).map w.tagCount) (BitVec.ofNat 64 w.cnt))
    else s

/-- A wave that BRKPT has halted goes past it: it retires (R116). -/
def Wave.passBrkpt (w : Wave) : Wave := { (w.retire w).goto w.nextPc with atBrkpt := false, passBp := false }

/-- A wave that BRKPT has halted goes past it, and what follows is as `f` says; at the last word of a text there is nothing
behind it, and PC_RANGE is raised at it (R95). -/
def State.pastBrkpt (s : State) (n : Nat) (w : Wave) (x : WCtx) (f : Wave → Wave) : State :=
  if x.pcOk w.nextPc then s.setWave n (f w.passBrkpt)
  else s.deliver n (f { w with atBrkpt := false }) x .pcRange w.run 0 0

/-- The replay stands still, at its stop or where a step has led from it: the debugger may look (R400). -/
def Replay.stands (p : Replay) : Bool := p.reached && p.mode == .held

/-- A wave of the boundary that a core's replay has come to: the core, its replay, the wave. A wave that has ended or faulted
since is still there (R400). -/
def State.replayView (s : State) (n : Nat) : Option (Nat × ReplayCore × Replay × Wave) :=
  s.cores.findSome? fun e => match e.2.replay with
    | some r => match r.replay with
      | some p => (p.view.waves.get n).map fun w => (e.1, r, p, w)
      | none => none
    | none => none

/-- A debugger's step of a wave at a replay stop: the core re-executes its log until the wave has executed one instruction; none
where the core is not at a stop, or has come to the live point (R400). -/
def State.replayStep (s : State) (n : Nat) : Option State :=
  match s.replayView n with
  | none => none
  | some (key, r, p, w) =>
    if !p.stands || !s.attached r.ctx || p.ahead.isEmpty then none
    else
      let q := { p with mode := .step n w.accn w.phase }
      some { s with cores := s.cores.upd key fun k => { k with replay := some { r with replay := some q } } }

/-- DEBUG_STEP (R236, R379, R400): exactly one instruction; of a wave that waits, the one after its wait. -/
def execDebugStep (n : Nat) (s : State) : Host.Outcome State Fault Refusal :=
  if (s.replayView n).isSome then .next ((s.replayStep n).getD (s.report .refused))
  else
    onDebugged n s fun w x =>
      if !w.halted || w.haltReq || w.phase == .faulted || s.replayingWave w then s.report .refused
      else
        let s := s.rouseIsland w
        if w.atBrkpt then s.pastBrkpt n w x fun v => { v with haltReq := true }
        else s.setWave n { w with halted := false, stepping := true }

/-- A breakpoint of the attached debugger stands at the instruction that the wave would issue now; one that waits comes to its
next instruction first (R166). -/
def State.breakHere (s : State) (w : Wave) (x : WCtx) : Bool :=
  w.wait.isNone && match (s.ctx x.grid.ctx).debug with
  | some r => r.attached && r.breakpoints.contains (x.grid.kernel, w.pc)
  | none => false

/-- DEBUG_RESUME (R116, R166, R379): the wave goes on in the state it came from, past the breakpoint it stands at, where one
does. -/
def execDebugResume (n : Nat) (s : State) : Host.Outcome State Fault Refusal :=
  onDebugged n s fun w x =>
    if !w.halted || s.replayingWave w then s.report .refused
    else
      let go := fun (v : Wave) => { v with halted := false, haltReq := false, stepping := false }
      if w.atBrkpt then s.pastBrkpt n w x go else s.setWave n (go { w with passBp := s.breakHere w x })

/-! ### Reading the state of a wave (R166, R369, R378, R381) -/

/-- The lane PC of every live lane, from the bank of the wave's depth (R166). -/
def Wave.lanePcs (w : Wave) : List (Nat × Word) :=
  (lanesOf w.live).map fun l => (l, w.lpc (if w.hdep = 2 then 1 else 0) l)

/-- The debugger has access to the wave: it is reported halted, or saved (R379). -/
def State.debuggable (s : State) (w : Wave) (x : WCtx) : Bool :=
  s.attached x.grid.ctx && ((w.halted && !w.haltReq) || w.saved)

/-- A wave as a read shows it. The bytes of its spill stacks, which lie in the local store while it is not saved, are shown to the
debugger alone: to the hub they are open only under a debug right (R166, R170, R171, R369). -/
def State.shown (s : State) (c : Nat) (debugger : Bool) (w : Wave) : Wave :=
  if w.saved || !debugger then w else w.packed s (s.ownDom c)

/-- A wave's state is read, by the debugger or by the agent that has taken its cause; the access raises a clock-stopped
island (R381). On a core that replays only the debugger reads, at the stop, the boundary that the replay has come to
(R400). -/
def State.debugRead (s : State) (n : Nat) : State :=
  match s.replayView n with
  | some (_, r, p, v) =>
    if p.stands && s.attached r.ctx then
      s.report (.waveRead n ({ s with lds := p.view.lds, ldsTags := p.view.tags }.shown r.ctx true v) v.lanePcs)
    else s.report .refused
  | none =>
    match s.waves.get n with
    | none => s.report .refused
    | some w =>
      match s.wctx w with
      | none => s.report .refused
      | some x =>
        if (!s.debuggable w x && w.phase != .faulted) || s.replayingWave w then s.report .refused
        else (s.rouseIsland w).report (.waveRead n (s.shown x.grid.ctx (s.debuggable w x) w) w.lanePcs)

/-! ### Writing the state of a wave (R166, R379, R400) -/

/-- What a debugger's write to its registers makes of a wave; none where the wave itself could not make it at its depth (R166). A
wave that is halted in a wait stays in it when its PC is written; when the wait ends the wave goes on behind the PC that was
written, since no rule says (DESIGN CHOICE, log entry 13). -/
def Wave.debugWrite (w : Wave) (x : WCtx) (wr : DbgWrite) : Option Wave :=
  match wr with
  | .laneReg l r v => if l < w.width && r < w.regs then some (w.updLane l fun y => y.setReg r v) else none
  | .uniReg r v => if r < 64 then some (w.setUni r v) else none
  | .pred l p v =>
    if decide (l < w.width) && decide (1 ≤ p) && decide (p ≤ 7) then some (w.writePred p (1#64 <<< l) fun _ => v) else none
  | .lpc l v => if w.hdep ≠ 0 && w.live.getLsbD l then some (w.updLane l fun y => y.setLpc (w.hdep - 1).toNat v) else none
  | .pc v => some ({ w with atBrkpt := false, passBp := false }.goto v)
  | .special n v =>
    let put := match w.writeSpec x n v with
      | .ok u => some u
      | .error _ => none
    match specInfo n with
    | some ⟨_, _, .rw⟩ => put
    | some ⟨_, _, .rh⟩ => if w.hdep = 0 then none else put
    | _ => none
  | .spill _ _ _ => none

/-- A byte of the spill stacks of a saved wave: its image lists those that are not 0. -/
def Wave.spillPut (w : Wave) (l off : Nat) (b : Byte) : Wave :=
  { w with spillImage := if b = 0 then w.spillImage.del (w.spillPlace l off) else w.spillImage.put (w.spillPlace l off) b }

/-- A debugger's write to a wave or to its spill stacks, which lie in the local store while it is not saved (R166, R170,
R379). -/
def State.debugPut (s : State) (n : Nat) (w : Wave) (x : WCtx) (wr : DbgWrite) : Option State :=
  match wr with
  | .spill l off bs =>
    if decide (l < w.width) && decide (off + bs.length ≤ x.kern.desc.spill) then
      some (if w.saved then
        s.setWave n ((List.zip (List.range bs.length) bs).foldl (fun u p => u.spillPut l (off + p.1) p.2) w)
      else s.spillWrites (s.waveDom x) w l off bs)
    else none
  | _ => (w.debugWrite x wr).map fun v => s.setWave n v

/-- The write is to a spill stack. -/
def spillWrite (wr : DbgWrite) : Bool :=
  match wr with
  | .spill _ _ _ => true
  | _ => false

/-- DEBUG_STATE_WRITE (R166, R171, R369, R375, R379, R400): to a wave that is reported halted or saved, by the debugger, which
marks the context as edited; to the registers of a faulted one, while it is not saved, by the agent that took its cause. While
a core of the context replays no wave of the context is written. -/
def execDebugStateWrite (n : Nat) (wr : DbgWrite) (s : State) : Host.Outcome State Fault Refusal :=
  if (s.replayView n).isSome then .next (s.report .replaying)
  else onWave s n fun w x =>
    let debugger := s.debuggable w x
    if s.ctxReplaying x.grid.ctx then s.report .replaying
    else if !debugger && (w.phase != .faulted || w.saved || spillWrite wr) then s.report .refused
    else match (s.rouseIsland w).debugPut n w x wr with
      | none => s.report .refused
      | some t =>
        let t := if debugger then t.updCtx x.grid.ctx fun c =>
            { c with edited := true, desc := { c.desc with flags := c.desc.flags ||| 16 } } else t
        t.rewritten w

/-- BREAKPOINT_SET (R166, R378). -/
def execBreakpointSet (ctx kernel : Nat) (pc : BitVec 32) (s : State) : Host.Outcome State Fault Refusal :=
  match (s.ctx ctx).debug, s.kernels.get kernel with
  | some r, some k =>
    if r.attached && k.ctx == ctx && decide (pc.toNat % 12 = 0) && decide (pc.toNat < k.text.length) then
      .next (s.updCtx ctx fun c => { c with debug := some { r with breakpoints := (r.breakpoints.erase (kernel, pc)) ++ [(kernel, pc)] } })
    else .next (s.report .refused)
  | _, _ => .next (s.report .refused)

/-! ### Stall samples (R401) -/

/-- SAMPLE_PERIOD_SET (R401). -/
def execSamplePeriodSet (ctx period : Nat) (s : State) : Host.Outcome State Fault Refusal :=
  match (s.ctx ctx).debug with
  | some r =>
    if !s.sealedCtx ctx && decide (2 ^ 10 ≤ period) && decide (period ≤ 2 ^ 32) then
      .next (s.updCtx ctx fun c => { c with debug := some { r with period := some period } })
    else .next (s.report .refused)
  | none => .next (s.report .refused)

/-- The reason in Table 24.1 that the wave's state gives, where it gives one. -/
def State.stallReason (s : State) (w : Wave) : Option Nat :=
  if w.halted then some 7
  else if !(s.core w.die w.core).stall.isEmpty then some 5
  else match w.wait with
    | some (.bar _) | some (.sracq _ _ _) | some (.srwait _ _ _) => some 3
    | some (.arrwait _ _ _) | some (.crsleep _) => some 4
    | _ => none

/-- A stall sample's 32 bytes (Table 24.1). -/
def sampleBytes (w : Wave) (x : WCtx) (interval reason : Nat) (blamed : Word) : List Byte :=
  [0, 1] ++ leBytes 2 x.grid.num.toNat ++ leBytes 3 x.block.num ++ leBytes 1 w.die ++ leBytes 1 w.core ++ leBytes 1 reason ++
  leBytes 2 w.waveid ++ leBytes 4 w.pc.toNat ++ leBytes 4 blamed.toNat ++ leBytes 4 interval ++ leBytes 8 w.accn.toNat

/-- The wave of a context on a core after the one sampled last, in rotation. -/
def State.sampleNext (s : State) (die core ctx : Nat) : Option (Nat × Wave) :=
  let ws := s.waves.filter fun e => e.2.die == die && e.2.core == core && !e.2.saved && s.waveOf ctx e.2
  match ws.find? fun e => decide (((s.core die core).sampled.get ctx).getD 0 < e.1) with
  | some e => some e
  | none => ws.head?

/-- The instruction that the wave would issue waits for a register: the PC of the load that has yet to write it (R91). -/
def Wave.producer (w : Wave) (o : Op) (r : Raw) : Option Word :=
  let named := wordRegs o r
  (w.loads.find? fun p => p.writes.any fun x => match x with
    | .lane _ n _ => named.1.contains n
    | .uni n _ => named.2.contains n).map fun p => p.at_.pc

/-- The instruction waits for the wave's counters: WAITC or WAITT whose test does not hold. -/
def Wave.counterWait (w : Wave) (i : Instr) : Bool :=
  match i with
  | .waitc _ l st c t =>
    decide (l.toNat < w.loads.length) || decide (st.toNat < w.storeCount) || decide (c.toNat < w.copyCount) ||
    decide (t.toNat < w.tiles.length)
  | .waitt _ tag n => decide (n.toNat < w.tagCount tag.toNat)
  | _ => false

/-- What the wave's next instruction waits for: a register, with its producer, or a counter. -/
def State.issueWait (s : State) (w : Wave) (x : WCtx) : Option (Nat × Word) :=
  match decodeBytes (s.fetch w x) with
  | .ok (i, _) =>
    match i.toRaw with
    | some r =>
      match (Op.ofCode r.op).bind fun o => w.producer o r with
      | some pc => some (1, pc)
      | none => if w.counterWait i then some (2, 0xffffffff) else none
    | none => none
  | .error _ => none

/-- Why a wave did not issue, and the blamed PC: as its state says; else as given, among the reasons that no state says
(issued, another counter wait, the budget, and the handler's entry in handler mode). -/
def State.whyStalled (s : State) (w : Wave) (x : WCtx) (given : Nat) : Nat × Word :=
  match s.stallReason w with
  | some n => (n, 0xffffffff)
  | none =>
    (s.issueWait w x).getD
      (if given = 2 || given = 6 || (given = 8 && w.hdep ≠ 0) then given else 0, 0xffffffff)

/-- STALL_SAMPLE (R91, R401): whether the wave was held back in the sampled cycle, and why, is given where its state does not
say it. -/
def execStallSample (die core ctx : Nat) (held : Bool) (reason : Nat) (s : State) : Host.Outcome State Fault Refusal :=
  match (s.ctx ctx).debug with
  | none => .next s
  | some r =>
    if r.period.isNone then .next s
    else match s.sampleNext die core ctx with
      | none => .next s
      | some (n, w) =>
        match s.wctx w with
        | none => .next s
        | some x =>
          let why := s.whyStalled w x (if held then reason else 0)
          .next ((s.traceRecord ctx (sampleBytes w x (s.intervalFor die core ctx).toNat why.1 why.2)).updCore die core fun k =>
            { k with sampled := k.sampled.put ctx n })

/-! ### Folios (R403, R404) -/

/-- FOLIO_TIMEOUT (R403): 10 ms with at least one record. -/
def execFolioTimeout (ctx : Nat) (s : State) : Host.Outcome State Fault Refusal := .next (s.closeFolio ctx false)

/-- A folio's 64 KiB (Table 24.2). -/
def Folio.bytes (f : Folio) : List Byte :=
  let body := leBytes 4 0x464f4c31 ++ leBytes 1 f.ctx ++ leBytes 1 (if f.sealed_ then 1 else 0) ++ leBytes 2 f.records.length ++
    leBytes 8 f.sequence ++ leBytes 8 f.traceId ++ leBytes 8 f.overwritten ++ zeros 32 ++ f.records ++
    zeros (65456 - f.records.length)
  body ++ leBytes 16 (Config.folioTag f.key body).toNat

/-- FOLIO_WRITTEN (R403, R404): the oldest staged folio takes the next range of the namespace, which wraps at its end, or
stays unsent. -/
def execFolioWritten (ok : Bool) (s : State) : Host.Outcome State Fault Refusal :=
  match s.staging with
  | [] => .next s
  | f :: rest => if ok && s.archiveUp then .next { s with
      staging := rest
      archive := s.archive.put s.archiveNext f
      archiveNext := (s.archiveNext + 1) % max 1 Config.archiveRanges }
    else .next s

end Sys2Proof.Machine
end

