-- ==== Sys2Proof/Machine/Replay.lean ====
section
/-! DEFINITION. Replay: checkpoints and the journal area, requests and judgements of stops, what a debugger does at one (R397
to R402). While a core replays, its live point stays where it is, halted; the core as its log leads it on is the replay's view:
Rerun.lean says how a step of the log is kept and executed again. -/

namespace Sys2Proof.Machine

/-! ### Checkpoints and the journal area (R397, R398, R408) -/

/-- The records of the blocks on a core as they stand, in the layout of R371, with counters not drained. -/
def State.coreRecords (s : State) (die core ctx : Nat) : List Byte :=
  ((s.blocks.filter fun e => s.blockOn die core e.1 e.2).map fun e =>
    match s.entryKernel (.block e.1) with
    | some p => s.blockBytes e.1 e.2 p.1 p.2 (s.ctx ctx).edited
    | none => []).flatten

/-- Bytes written to the journal area of a core from a place on; the area wraps at its end. The areas of the context's cores
follow one another (log entry 31). -/
def State.areaWrites (s : State) (die core ctx at_ : Nat) (bs : List Byte) : State :=
  let size := (s.ctx ctx).area
  let base := (s.ctx ctx).areaBase.toNat + coreKey die core * size
  let room := size - at_ % size
  (s.poolWrites ctx (base + at_ % size) (bs.take room)).poolWrites ctx base ((bs.drop room).take size)

/-- What an interval has not yet in the journal area is written there: the records of its checkpoint, then entries, whose
bytes no rule gives (R397). -/
def State.writeInterval (s : State) (die core : Nat) (r : ReplayCore) : State :=
  match r.cur with
  | none => s
  | some i =>
    let records := if i.records.isEmpty then s.coreRecords die core r.ctx else i.records
    let i' := { i with records := records, written := i.entries }
    let t := if i.records.isEmpty then s.areaWrites die core r.ctx i.base records else s
    let at_ := i.base + records.length + i.written * Config.journalEntry
    let bytes := (List.range ((i.entries - i.written) * Config.journalEntry)).map fun k => Config.entryByte s.fresh (at_ + k)
    if i' = i then s
    else (t.areaWrites die core r.ctx at_ bytes).updCore die core fun k => { k with replay := some { r with cur := some i' } }

/-- The journal areas follow what a step has kept. -/
def State.journaled (s : State) : State :=
  s.cores.foldl (fun u e => match e.2.replay with
    | some r => u.writeInterval (e.1 / 48) (e.1 % 48) r
    | none => u) s

/-- The journal area of a core cannot take the next entry, and the interval that is open has some (R398). -/
def State.areaFull (s : State) (r : ReplayCore) : Bool :=
  let used := fun (i : Option Interval) => match i with
    | some v => v.used
    | none => 0
  r.cur.any (fun i => decide (0 < i.entries)) && decide ((s.ctx r.ctx).area < used r.cur + used r.prev + Config.journalEntry)

/-- CHECKPOINT (R397): a new interval; the one before it, if none has closed it, is kept. The core issues nothing while it is
due. -/
def execCheckpoint (die core : Nat) (s : State) : Host.Outcome State Fault Refusal :=
  match (s.core die core).replay with
  | none => .next s
  | some r =>
    .next (if r.due then
      (s.updCore die core fun k => { k with replay := some { r with due := false } }).newInterval die core true
    else s)

/-- JOURNAL_FULL_CHECKPOINT (R398): an early checkpoint of a core whose journal area is full, which issues nothing until
then; the previous interval is discarded. -/
def execJournalFullCheckpoint (die core : Nat) (s : State) : Host.Outcome State Fault Refusal :=
  match (s.core die core).replay with
  | none => .next s
  | some r =>
    if !s.areaFull r then .next s
    else .next ((s.updCore die core fun k => { k with replay := some { r with prev := none } }).newInterval die core true)

/-! ### Replay-stop records (R402) -/

/-- The numbers of a wave, of its grid and of its block. -/
def State.idsOf (s : State) (w : Wave) : Nat × Nat × Nat :=
  match s.wctx w with
  | some x => (w.waveid, x.grid.num.toNat, x.block.num)
  | none => (w.waveid, 0, 0)

/-- What an interval says of a wave, where there is one. -/
def Interval.wave (i : Option Interval) (n : Nat) : Option SeenWave := i.bind fun v => v.seen.get n

/-- The numbers that a stop's record gives: the live wave's, or those that the core's intervals have of it (R402). -/
def State.stopIds (s : State) (n : StopName) : Nat × Nat × Nat :=
  match s.waves.get n.wave with
  | some w => s.idsOf w
  | none =>
    match (s.core n.die n.core).replay with
    | none => (0, 0, 0)
    | some r => match Interval.wave r.cur n.wave, Interval.wave r.prev n.wave with
      | some v, _ | none, some v => v.ids
      | none, none => (0, 0, 0)

/-- A replay-stop record behind its prefix (Tables 24.1, 24.7). -/
def stopRecord (s : State) (n : StopName) (status : Nat) (pc : Word) : List Byte :=
  let ids := s.stopIds n
  [0, 3] ++ leBytes 2 32 ++ zeros 3 ++ leBytes 1 status ++ leBytes 1 n.die ++ leBytes 1 n.core ++ leBytes 2 ids.1 ++
  leBytes 4 ids.2.1 ++ leBytes 4 ids.2.2 ++ leBytes 4 pc.toNat ++ leBytes 4 n.interval ++ leBytes 8 n.accn.toNat

/-! ### Replaying (R399, R400) -/

/-- The interval of a number, with what leads from its end to the live point: the steps of the log and the entries of the journal
of the interval behind it. -/
def ReplayCore.interval? (r : ReplayCore) (number : Nat) : Option (Interval × List LogStep × List (Nat × Word)) :=
  match r.cur, r.prev with
  | some c, p =>
    if c.number.toNat = number then some (c, [], [])
    else match p with
      | some q => if q.number.toNat = number then some (q, c.log, c.journal) else none
      | none => none
  | none, _ => none

/-- A wave has stood at the accession count in the interval (R400). -/
def Interval.reached (i : Interval) (n : StopName) : Bool :=
  (i.seen.get n.wave).any fun v => decide (v.first ≤ n.accn) && decide (n.accn ≤ v.last)

/-- The named wave stands before the instruction with the named count. -/
def CoreImage.stands (m : CoreImage) (n : StopName) : Bool :=
  match m.waves.get n.wave with
  | some w => w.accn == n.accn
  | none => false

/-- Waves of a context that a halt of all would halt. -/
def State.halting (s : State) (ctx : Nat) : List Nat :=
  (s.waves.filter fun e => s.waveOf ctx e.2 && e.2.alive && !e.2.halted).map fun e => e.1

/-- Every wave of a context halts (R399). -/
def State.haltAll (s : State) (ctx : Nat) : State :=
  { s with
    waves := s.waves.map fun (e : Nat × Wave) =>
      if s.waveOf ctx e.2 && e.2.alive && !e.2.halted then (e.1, { e.2 with halted := true, haltReq := true }) else e }

/-- A stop is refused: its record is written, and the debugger told (R400, R402). -/
def State.refuseStop (s : State) (ctx : Nat) (stop : StopName) (old : Bool) : State :=
  (s.traceRecord ctx (stopRecord s stop (if old then 3 else 4) 0xffffffff)).report (.stop false old stop)

/-- The core at the start of an interval: the checkpoint restored, and the undo journal applied in reverse to the bytes that the
local store holds at the live point (R399). -/
def State.rewound (s : State) (die core : Nat) (i : Interval) (later : List (Nat × Word)) : CoreImage :=
  { i.start with lds := undoAll die core (s.coreImage die core).lds (i.journal ++ later) }

/-- A stop is judged: the interval that it names is the core's present or previous one, its wave has stood at the count in it,
and the island is in run; then every wave of the context halts and the core goes back to the interval's start, with the log
ahead of it (R381, R399, R400). A further stop set at a replay stop keeps what the first replay has halted. -/
def State.judgeStop (s : State) (ctx : Nat) (stop : StopName) : State :=
  match (s.core stop.die stop.core).replay with
  | none => s.refuseStop ctx stop true
  | some r =>
    match if r.ctx = ctx then r.interval? stop.interval else none with
    | none => s.refuseStop ctx stop true
    | some (i, steps, later) =>
      if !i.reached stop then s.refuseStop ctx stop false
      else if s.island (islandOf stop.die stop.core) != .run then s.report .refused
      else
        (s.haltAll ctx).updCore stop.die stop.core fun k =>
          { k with replay := some { r with replay := some {
              stop := stop
              view := s.rewound stop.die stop.core i later
              ahead := i.log ++ steps
              held := s.halting ctx ++ match r.replay with
                | some p => p.held
                | none => [] } } }

/-- A block of the context is being saved (R408). -/
def State.savingIn (s : State) (ctx : Nat) : Bool := s.blocks.any fun e => e.2.phase == .saving && s.blockCtx e.2 == some ctx

/-- REPLAY_TO_STOP (R399, R400, R402, R408): the request is recorded, and the stop judged, at once or when the saves of the
context that go on have come to their end. -/
def execReplayToStop (ctx : Nat) (stop : StopName) (s : State) : Host.Outcome State Fault Refusal :=
  if !s.attached ctx || !s.replays ctx then .next (s.report .refused)
  else
    let t := s.traceRecord ctx (stopRecord s stop 1 0xffffffff)
    .next (if s.savingIn ctx then { t with stopAsks := t.stopAsks ++ [(ctx, stop)] } else t.judgeStop ctx stop)

/-- Stops that waited for a save are judged once it is over (R408). One whose context is not attached any more is refused; one
whose context does not replay any more has its interval closed: TOO_OLD (R400, R402). -/
def State.judgeStops (s : State) : State :=
  let now := s.stopAsks.filter fun a => !s.savingIn a.1
  if now.isEmpty then s
  else
    now.foldl (fun t a =>
      if !t.attached a.1 then t.report .refused
      else if t.replays a.1 then t.judgeStop a.1 a.2
      else t.refuseStop a.1 a.2 true)
      { s with stopAsks := s.stopAsks.filter fun a => s.savingIn a.1 }

/-- REPLAY_STOP_REACHED (R399, R402): what has been executed again has led the named wave to the stop. -/
def execReplayStopReached (die core : Nat) (s : State) : Host.Outcome State Fault Refusal :=
  match (s.core die core).replay with
  | none => .next s
  | some r =>
    match r.replay with
    | none => .next s
    | some p =>
      if p.reached || !p.view.stands p.stop then .next s
      else
        let w := p.view.waves.get p.stop.wave
        let t := s.updCore die core fun k =>
          { k with replay := some { r with replay := some { p with mode := .held, reached := true } } }
        let t := t.traceRecord r.ctx (stopRecord s p.stop 2 ((w.map fun v => v.pc).getD 0xffffffff))
        .next (t.report (.stop true false p.stop))

/-- Replays of a context that go on at other cores: each core with the waves that it has halted. -/
def State.replaysElsewhere (s : State) (ctx die core : Nat) : List (Nat × List Nat) :=
  s.cores.filterMap fun e => match e.2.replay with
    | some r => match r.replay with
      | some p => if e.1 ≠ coreKey die core && r.ctx = ctx then some (e.1, p.held) else none
      | none => none
    | none => none

/-- REPLAY_CONTINUE (R400): what is left of the log is executed again up to the boundary at which the replay began, which is the
live point (R165), with no effect outside the core; then the waves that it halted run live. While a replay
of the context goes on at another core, those of this core alone do, whichever replay has halted them; the rest stay halted
for that one. -/
def execReplayContinue (die core : Nat) (s : State) : Host.Outcome State Fault Refusal :=
  match (s.core die core).replay with
  | none => .next s
  | some r =>
    match r.replay with
    | none => .next s
    | some p =>
      let here := fun (n : Nat) => match s.waves.get n with
        | some w => w.die == die && w.core == core && !w.saved
        | none => false
      let others := s.replaysElsewhere r.ctx die core
      let held := p.held ++ (others.map fun e => e.2).flatten
      let go := if others.isEmpty then held else held.filter here
      let keep := others.headD (0, [])
      let t := s.updCore die core fun k => { k with replay := some { r with replay := none } }
      .next { t with
        waves := t.waves.map fun (e : Nat × Wave) => if go.contains e.1 then (e.1, e.2.release) else e
        cores := if others.isEmpty then t.cores else t.cores.map fun (e : Nat × Core) =>
          (e.1, { e.2 with replay := e.2.replay.map fun q => { q with replay := q.replay.map fun v =>
            if q.ctx ≠ r.ctx then v
            else { v with held := (if e.1 = keep.1 then held else v.held).filter fun n => !go.contains n } } }) }

end Sys2Proof.Machine
end

