-- ==== Sys2Proof/Machine/Convert.lean ====
section
/-! DEFINITION. The conversion class 0x09 and the packed dot class 0x0a (R154 to R163). -/

namespace Sys2Proof.Machine

/-- The format of a format code; ue8m0 has none of these (R154). -/
def ffmt : FFmt → Option Fmt
  | .f32 => some fmtF32
  | .f64 => some fmtF64
  | .f16 => some fmtF16
  | .bf16 => some fmtBf16
  | .e4m3 => some fmtE4m3
  | .e5m2 => some fmtE5m2
  | .e2m1 => some fmtE2m1
  | .ue8m0 => none

/-- Bits of a format. -/
def ffmtBits (t : FFmt) : Nat :=
  match ffmt t with
  | some f => f.bits
  | none => 8

/-- The number of a code as a conversion reads it; a ue8m0 0xff is a NaN that sets no flag of its own (R77). -/
def ffmtRead (t : FFmt) (ftz : Bool) (v : Nat) : Num :=
  match ffmt t with
  | some f => readNum f ftz v
  | none => decodeScale v

/-- Conversion to ue8m0 (R78, Table 4.5): |x| rounded to a power of two; a tie goes up. -/
def toScale (mode : Rnd) (a : Num) : FRes :=
  match a with
  | .nan _ => ⟨255, flagNV⟩
  | .inf _ => ⟨255, flagNV⟩
  | .fin _ m e =>
    if m = 0 then ⟨0, flagUF ||| flagNX⟩
    else
      let l := bitLen m
      let exact := m = 2 ^ (l - 1)
      let up := match mode with
        | .rup => !exact
        | .rne | .rna | .sr => decide (3 * 2 ^ (l - 1) ≤ 2 * m)
        | .rtz | .rdn => false
      let k : Int := e + (l - 1 : Nat) + if up then 1 else 0
      if k < -127 then ⟨0, flagUF ||| flagNX⟩
      else if 127 < k then ⟨254, flagOF ||| flagNX⟩
      else ⟨(k + 127).toNat, flagIf (!exact) flagNX⟩

/-- Conversion into a format with a sign (R75 to R77, R81); `ovnan` is the overflow modifier. -/
def toFmt (f : Fmt) (mode : Rnd) (p : Nat) (ftz ovnan : Bool) (a : Num) : FRes :=
  match a with
  | .nan s => nanRes f (flagIf s flagNV)
  | .inf n =>
    match f.kind with
    | .ieee => infRes f n 0
    | .e4m3 => ⟨if ovnan then f.nan else signBit f n + f.maxCode, flagNV⟩
    | .e2m1 => ⟨signBit f n + f.maxCode, flagNV⟩
  | .fin n m e => if m = 0 then zeroRes f n 0 else roundMag f mode p ftz ovnan n m e false

/-- Conversion from one format code into another; ue8m0 0xff into ue8m0 sets no flag (Table 4.5). -/
def toFFmt (t st : FFmt) (mode : Rnd) (p : Nat) (ftz ovnan : Bool) (a : Num) : FRes :=
  match ffmt t with
  | some f => toFmt f mode p ftz ovnan a
  | none => if a.isNan && st == .ue8m0 then ⟨255, 0⟩ else toScale mode a

/-- A field of a register replaced (R155). -/
def putField (d : DWord) (pos n v : Nat) : DWord :=
  (d &&& ~~~(lowMask n <<< pos)) ||| (BitVec.ofNat 64 v <<< pos)
where
  /-- `n` low ones -/
  lowMask (n : Nat) : DWord := BitVec.ofNat 64 (2 ^ n - 1)

/-- A uniform register. -/
def isUni : Operand → Bool
  | .uni _ => true
  | _ => false

/-- FCVT (R155): one element to one element; a narrow one is merged into D, every other bit of which stays, bits
[63:32] of a uniform D with them. After FCVT.sr `%dither` advances (R82); its column with a uniform D is the lowest guarded
lane's number (DESIGN CHOICE, log entry 9). -/
def fcvtRes (h : Head) (d a : Operand) (dt st : FFmt) (rnd : Rnd) (ftz ovf : Bool) (se de : BitVec 3) (s : State) (w : Wave)
    (x : WCtx) : Res :=
  let n := ffmtBits dt
  let w' := if rnd == .sr && w.guard h != 0 then { w with dither := w.dither + 1 } else w
  let wide := n == 64 || (decide (n < 32) && isUni d)
  aluF s w' h d wide fun l =>
    let v := (readOp w x (if st == .f64 then .wide else .one) l a).toNat / 2 ^ (se.toNat * ffmtBits st) % 2 ^ ffmtBits st
    let r := toFFmt dt st rnd (ditherAt (if n < 32 then de.toNat else 0) l w.dither.toNat) ftz ovf (ffmtRead st ftz v)
    (if n < 32 then putField (readOp w x (if wide then .wide else .one) l d) (de.toNat * n) n r.code else BitVec.ofNat 64 r.code, r.flags)

/-- FCVT (R155). -/
def execFcvt (h : Head) (d a : Operand) (dt st : FFmt) (rnd : Rnd) (ftz ovf : Bool) (se de : BitVec 3) (s : State) :
    Host.Outcome State Fault Refusal :=
  issue (.fcvt h d a dt st rnd ftz ovf se de) s (fcvtRes h d a dt st rnd ftz ovf se de)

/-- A number as an integer of a type (R156, Table 4.5). -/
def toInteger (t : CType) (rnd : Rnd) (a : Num) : DWord × FlagSet :=
  let sg := ctypeSigned t
  let n := ctypeBits t
  match a with
  | .nan _ => (0, flagNV)
  | .inf neg => (ofCType t false (if neg then minInt sg n else maxInt sg n), flagNV)
  | .fin neg m e =>
    let r := toIntegral rnd neg m e
    let v : Int := if neg then -(r.1 : Int) else r.1
    if v < minInt sg n then (ofCType t false (minInt sg n), flagNV)
    else if maxInt sg n < v then (ofCType t false (maxInt sg n), flagNV)
    else (ofCType t false v, flagIf r.2 flagNX)

/-- F2I (R156): the result is extended as ICVT extends it, in a uniform D to 64 bits (R136; DEDUCED, log entry 9: R56 alone
names ICVT). -/
def execF2i (h : Head) (d a : Operand) (dt : CType) (st : FType) (rnd : Rnd) (s : State) : Host.Outcome State Fault Refusal :=
  issue (.f2i h d a dt st rnd) s fun s w x =>
    aluF s w h d (ctypeWide dt || isUni d) fun l =>
      toInteger dt rnd (decodeNum (fmtOf st) (fCode st (fRead w x st l a) 0))

/-- I2F (R157). -/
def execI2f (h : Head) (d a : Operand) (dt : FType) (st : CType) (rnd : Rnd) (s : State) : Host.Outcome State Fault Refusal :=
  issue (.i2f h d a dt st rnd) s fun s w x =>
    aluF s w h d (fWide dt) fun l =>
      let v := toCType st (readOp w x (if ctypeWide st then .wide else .one) l a)
      let r := roundFin (fmtOf dt) rnd false (decide (v < 0)) v.natAbs 0
      (BitVec.ofNat 64 r.code, r.flags)

/-- The format of PACK's elements (Table 7.12). -/
def packFmt : PackType → Fmt
  | .f16x2 => fmtF16
  | .bf16x2 => fmtBf16
  | .e4m3x2 => fmtE4m3
  | .e5m2x2 => fmtE5m2

/-- PACK (R158). -/
def packRes (h : Head) (d a b : Operand) (dt : PackType) (rnd : Rnd) (ftz hi : Bool) (s : State) (w : Wave) (x : WCtx) : Res :=
  let f := packFmt dt
  aluF s w h d false fun l =>
    let cvt := fun o => toFmt f rnd 0 ftz false (readNum fmtF32 ftz (fCode .f32 (fRead w x .f32 l o) 0))
    let v := (cvt a).code + (cvt b).code * 2 ^ f.bits
    (if f.bits = 16 then BitVec.ofNat 64 v else putField (readOp w x .one l d) (if hi then 16 else 0) 16 v,
      (cvt a).flags ||| (cvt b).flags)

/-- PACK (R158). -/
def execPack (h : Head) (d a b : Operand) (dt : PackType) (rnd : Rnd) (ftz hi : Bool) (s : State) :
    Host.Outcome State Fault Refusal :=
  issue (.pack h d a b dt rnd ftz hi) s (packRes h d a b dt rnd ftz hi)

/-- The format of UNPK's elements (Table 7.13). -/
def unpkFmt : UnpkType → FFmt
  | .f16x2 => .f16
  | .bf16x2 => .bf16
  | .e4m3 => .e4m3
  | .e5m2 => .e5m2
  | .e2m1 => .e2m1
  | .ue8m0 => .ue8m0

/-- UNPK (R159): two elements widened exactly. -/
def unpkRes (h : Head) (d a : Operand) (st : UnpkType) (g : BitVec 2) (s : State) (w : Wave) (x : WCtx) : Res :=
  let t := unpkFmt st
  let n := ffmtBits t
  aluF s w h d true fun l =>
    let v := (readWord w x l a).toNat
    let cvt := fun i => toFmt fmtF32 .rne 0 false false (ffmtRead t false (v / 2 ^ (i * n) % 2 ^ n))
    let lo := cvt (2 * g.toNat)
    let hi := cvt (2 * g.toNat + 1)
    (BitVec.ofNat 64 (lo.code + hi.code * 2 ^ 32), lo.flags ||| hi.flags)

/-- UNPK (R159). -/
def execUnpk (h : Head) (d a : Operand) (st : UnpkType) (g : BitVec 2) (s : State) : Host.Outcome State Fault Refusal :=
  issue (.unpk h d a st g) s (unpkRes h d a st g)

/-! ### Packed dot products (R83, R161 to R163) -/

/-- Element i of `n` bits of a word, as an integer. -/
def intElem (signed : Bool) (n : Nat) (v : Word) (i : Nat) : Int :=
  let e := v.toNat / 2 ^ (n * i) % 2 ^ n
  if signed && decide (2 ^ (n - 1) ≤ e) then (e : Int) - 2 ^ n else e

/-- The sum of the products of the elements. -/
def dotInt (sa sb : Bool) (n : Nat) (a b : Word) : Int :=
  ((List.range (32 / n)).map fun i => intElem sa n a i * intElem sb n b i).foldl (· + ·) 0

/-- An integer dot product (R162): wraps, sets no flag. -/
def dotRes (h : Head) (d a b : Operand) (f : Word → Word → Int) (s : State) (w : Wave) (x : WCtx) : Res :=
  alu s w h d false fun l =>
    (BitVec.ofInt 32 ((readWord w x l d).toInt + f (readWord w x l a) (readWord w x l b))).setWidth 64

/-- DOT4I8 (R162). -/
def execDot4i8 (h : Head) (d a b : Operand) (sa sb : Bool) (s : State) : Host.Outcome State Fault Refusal :=
  issue (.dot4i8 h d a b sa sb) s (dotRes h d a b (dotInt sa sb 8))

/-- DOT8I4 (R162). -/
def execDot8i4 (h : Head) (d a b : Operand) (sa sb : Bool) (s : State) : Host.Outcome State Fault Refusal :=
  issue (.dot8i4 h d a b sa sb) s (dotRes h d a b (dotInt sa sb 4))

/-- Ones of a word. -/
def popCount (v : Word) : Nat := ((List.range 32).filter fun i => v.getLsbD i).length

/-- DOTB32 (R162). -/
def execDotb32 (h : Head) (d a b : Operand) (conj : Bool) (s : State) : Host.Outcome State Fault Refusal :=
  issue (.dotb32 h d a b conj) s (dotRes h d a b fun p q =>
    if conj then (popCount (p &&& q) : Int) else 32 - 2 * (popCount (p ^^^ q) : Int))

/-- An exact sum of numbers: none for ∞ − ∞ or an invalid product among the terms. A zero sum has the sign that all
its terms share, else −0 under rdn and +0 under the other modes (R73). -/
def sumExact (mode : Rnd) : List (Option Num) → Option Num
  | [] => some (.fin false 0 0)
  | [t] => t
  | t :: ts =>
    match t, sumExact mode ts with
    | some (.nan s), _ => some (.nan s)
    | _, some (.nan s) => some (.nan s)
    | none, _ => none
    | _, none => none
    | some (.inf n), some (.inf k) => if n == k then some (.inf n) else none
    | some (.inf n), some (.fin _ _ _) => some (.inf n)
    | some (.fin _ _ _), some (.inf n) => some (.inf n)
    | some (.fin n1 m1 e1), some (.fin n2 m2 e2) =>
      let q := min e1 e2
      let v := scaled n1 m1 e1 q + scaled n2 m2 e2 q
      if v = 0 then some (.fin (if n1 == n2 then n1 else mode == .rdn) 0 0)
      else some (.fin (decide (v < 0)) v.natAbs q)

/-- Terms of a float dot product: every NaN or invalid term gives the canonical NaN and NV (R163). -/
def dotFloat (rnd : Rnd) (terms : List (Option Num)) (scale : Num → Option Num) (acc : Num) : FRes :=
  match sumExact rnd terms with
  | none => nanRes fmtF32 flagNV
  | some t =>
    match scale t with
    | none => nanRes fmtF32 flagNV
    | some t =>
      let r := addNum fmtF32 rnd false acc t
      ⟨r.code, flagIf (t.isNan || acc.isNan) flagNV ||| r.flags⟩

/-- DOT2BF (R163). -/
def execDot2bf (h : Head) (d a b : Operand) (rnd : Rnd) (s : State) : Host.Outcome State Fault Refusal :=
  issue (.dot2bf h d a b rnd) s fun s w x =>
    aluF s w h d false fun l =>
      let el := fun o i => decodeNum fmtBf16 ((readWord w x l o).toNat / 65536 ^ i % 65536)
      let r := dotFloat rnd ((List.range 2).map fun i => mulExact (el a i) (el b i)) some
        (decodeNum fmtF32 (readWord w x l d).toNat)
      (BitVec.ofNat 64 r.code, r.flags)

/-- The scales of DOT4F8.sc: the two ue8m0 codes of w(D + 1) (R163). -/
def scaleTerm (t : Num) (c : Nat) : Option Num :=
  match mulExact t (decodeScale (c % 256)) with
  | none => none
  | some t => mulExact t (decodeScale (c / 256 % 256))

/-- The lane register after D. -/
def nextReg : Operand → Operand
  | .lane n => .lane (n + 1)
  | o => o

/-- DOT4F8 (R163). -/
def execDot4f8 (h : Head) (d a b : Operand) (ea eb sc : Bool) (rnd : Rnd) (s : State) : Host.Outcome State Fault Refusal :=
  issue (.dot4f8 h d a b ea eb sc rnd) s fun s w x =>
    aluF s w h d false fun l =>
      let el := fun (e5 : Bool) o i =>
        decodeNum (if e5 then fmtE5m2 else fmtE4m3) ((readWord w x l o).toNat / 256 ^ i % 256)
      let r := dotFloat rnd ((List.range 4).map fun i => mulExact (el ea a i) (el eb b i))
        (fun t => if sc then scaleTerm t (readWord w x l (nextReg d)).toNat else some t)
        (decodeNum fmtF32 (readWord w x l d).toNat)
      (BitVec.ofNat 64 r.code, r.flags)

end Sys2Proof.Machine
end

