-- ==== Sys2Proof/Machine/Tiles.lean ====
section
/-! DEFINITION. The tile class 0x18: issue checks, the sequencer's effects in issue order, sequence-indexed drains
(R83 to R86, R316 to R335). -/

namespace Sys2Proof

open Machine

/-! ### Formats and layouts (R322, R323, Tables 18.2 and 18.4) -/

/-- The two input formats of a product. -/
def TileFmt.formats : TileFmt → Fmt × Fmt
  | .e4m3 => (fmtE4m3, fmtE4m3)
  | .e5m2 => (fmtE5m2, fmtE5m2)
  | .e4m3e5m2 => (fmtE4m3, fmtE5m2)
  | .e5m2e4m3 => (fmtE5m2, fmtE4m3)
  | .e2m1 => (fmtE2m1, fmtE2m1)
  | .bf16 => (fmtBf16, fmtBf16)
  | .f16 => (fmtF16, fmtF16)
  | .f64 => (fmtF64, fmtF64)

/-- Width of the slot that a product reads. -/
def TileFmt.slot : TileFmt → SlotWidth
  | .e4m3 | .e5m2 | .e4m3e5m2 | .e5m2e4m3 => .w8
  | .e2m1 => .w4
  | .bf16 | .f16 => .w16
  | .f64 => .w64

/-- K of a slot width. -/
def SlotWidth.depth : SlotWidth → Nat
  | .w4 | .w8 => 32
  | .w16 => 16
  | .w64 => 4
  | .w1 => 256

def SlotWidth.bits : SlotWidth → Nat
  | .w4 => 4
  | .w8 => 8
  | .w16 => 16
  | .w64 => 64
  | .w1 => 1

/-- Bytes of the values of a slot, and of its positions. -/
def SlotWidth.valueBytes (wd : SlotWidth) (s24 : Bool) : Nat := 128 * wd.depth * wd.bits / 8 / if s24 then 2 else 1
def SlotWidth.bytes (wd : SlotWidth) (s24 : Bool) : Nat := wd.valueBytes s24 + if s24 then 128 * wd.depth / 8 else 0

end Sys2Proof

namespace Sys2Proof.Machine

/-- Bits `n` to `n + len - 1` of a number. -/
def bitField (v n len : Nat) : Nat := v >>> n % 2 ^ len

/-! ### Accumulators and slots -/

/-- `n` values from key `lo` upward; a key without an entry gives the default. -/
def Tbl.dense {α : Type} (dflt : α) : Tbl α → Nat → Nat → List α
  | _, _, 0 => []
  | [], _, n + 1 => List.replicate (n + 1) dflt
  | (k, v) :: t, lo, n + 1 => if k = lo then v :: Tbl.dense dflt t (lo + 1) n else dflt :: Tbl.dense dflt ((k, v) :: t) (lo + 1) n

/-- Keys `lo` to `lo + n - 1` set to a list's values; a default value has no entry. -/
def Tbl.setRange {α : Type} [DecidableEq α] (dflt : α) (t : Tbl α) (lo : Nat) (vs : List α) : Tbl α :=
  (t.filter fun e => decide (e.1 < lo)) ++
  ((vs.mapIdx fun i v => (lo + i, v)).filter fun e => decide (e.2 ≠ dflt)) ++
  t.filter fun e => decide (lo + vs.length ≤ e.1)

/-- The 16,384 cells of a tile, row by row. -/
def Matrix.tile (m : Matrix) (n : Nat) : List Word :=
  Tbl.dense 0 (m.acc.filter fun e => decide (n * 16384 ≤ e.1)) (n * 16384) 16384

def Matrix.setTile (m : Matrix) (n : Nat) (cells : List Word) : Matrix :=
  { m with acc := Tbl.setRange 0 m.acc (n * 16384) cells }

/-- The values of a tile pair: f64 of each element (R318). -/
def Matrix.pair (m : Matrix) (n : Nat) : List DWord := List.zipWith (fun (lo hi : Word) => (hi ++ lo : DWord)) (m.tile n) (m.tile (n + 1))

def Matrix.setPair (m : Matrix) (n : Nat) (vs : List DWord) : Matrix :=
  (m.setTile n (vs.map fun v => v.setWidth 32)).setTile (n + 1) (vs.map fun v => v.extractLsb' 32 32)

/-- A slot's 4 KiB as a number, byte 0 lowest. -/
def Matrix.slotBits (m : Matrix) (v : Nat) : Nat :=
  leNat (Tbl.dense 0 (m.vit.filter fun e => decide (v * 4096 ≤ e.1)) (v * 4096) 4096)

/-- A slot filled; the bytes after those given are 0 (R326). -/
def Matrix.fill (m : Matrix) (v : Nat) (bs : List Byte) : Matrix :=
  { m with vit := Tbl.setRange 0 m.vit (v * 4096) (bs ++ List.replicate (4096 - bs.length) 0) }

/-! ### Products (R84, R327 to R329) -/

/-- A row of an A tile as numbers. -/
def rowNums (f : Fmt) (k : Nat) (row : Nat) : List Num := (List.range k).map fun i => decodeNum f (bitField row (i * f.bits) f.bits)

/-- Column j of a slot: for each k, the values that stand there; a pruned k has an exact zero (R84, R323). -/
def columnNums (f : Fmt) (wd : SlotWidth) (sparse : Bool) (slot j : Nat) : List (List Num) :=
  let val := fun v => decodeNum f (bitField slot ((128 * v + j) * f.bits) f.bits)
  if sparse then
    let pos := fun v => 4 * (v / 2) + bitField slot (8 * wd.valueBytes true + 2 * (128 * v + j)) 2
    (List.range wd.depth).map fun k =>
      match ((List.range (wd.depth / 2)).filter fun v => pos v == k).map val with
      | [] => [.fin false 0 0]
      | vs => vs
  else (List.range wd.depth).map fun k => [val k]

/-- The exact partial's terms. -/
def productTerms (row : List Num) (col : List (List Num)) : List (Option Num) :=
  (List.zipWith (fun a bs => bs.map fun b => mulExact a b) row col).flatten

/-- A partial, added where `acc` holds a cell, rounded once (R84): the invalid cases and signalling NaNs set NV.
Where infinities of opposite signs stand beside a quiet NaN the NaN wins and sets nothing: no rule says which (DESIGN CHOICE,
log entry 22). -/
def partialRes (f : Fmt) (terms : List (Option Num)) (acc : Option Num) : FRes :=
  let nv := flagIf (terms.any fun t => match t with
    | none => true
    | some n => n.isSnan) flagNV
  match sumExact .rne terms with
  | none => nanRes f flagNV
  | some p =>
    let r := match acc with
      | some a => addNum f .rne false a p
      | none => roundNum f .rne false p
    ⟨r.code, nv ||| r.flags⟩

/-- A function of every element's row and column. -/
def byElement {α β : Type} (rows : List α) (f : α → Nat → β) : List β :=
  (rows.map fun r => (List.range 128).map fun j => f r j).flatten

/-- Rows of a tile of b bytes each, as numbers. -/
def tileRows (bs : List Byte) (b : Nat) : List Nat := (List.range 128).map fun i => leNat ((bs.drop (i * b)).take b)

/-- The flags of all elements. -/
def allFlags (rs : List FRes) : FlagSet := rs.foldl (fun a r => a ||| r.flags) 0

/-- TMMA and TMMAS (R84, R327). -/
def mmaTile (m : Matrix) (bs : List Byte) (n slot : Nat) (fmt : TileFmt) (acc sparse : Bool) : Matrix × FlagSet :=
  let fs := fmt.formats
  let wd := fmt.slot
  let sb := m.slotBits slot
  let cols := (List.range 128).map fun j => columnNums fs.2 wd sparse sb j
  let rows := (tileRows bs (wd.depth * fs.1.bits / 8)).map fun r => rowNums fs.1 wd.depth r
  let terms := (rows.map fun r => cols.map fun c => productTerms r c).flatten
  if fmt == .f64 then
    let rs := List.zipWith (fun ts (c : DWord) => partialRes fmtF64 ts (if acc then some (decodeNum fmtF64 c.toNat) else none)) terms
      (m.pair n)
    (m.setPair n (rs.map fun r => BitVec.ofNat 64 r.code), allFlags rs)
  else
    let rs := List.zipWith (fun ts (c : Word) => partialRes fmtF32 ts (if acc then some (decodeNum fmtF32 c.toNat) else none)) terms
      (m.tile n)
    (m.setTile n (rs.map fun r => BitVec.ofNat 32 r.code), allFlags rs)

/-- Integers added to the cells of a tile, or put there. -/
def addInts (m : Matrix) (n : Nat) (acc : Bool) (vs : List Int) : Matrix :=
  m.setTile n (List.zipWith (fun v (c : Word) => (if acc then c else 0) + BitVec.ofInt 32 v) vs (m.tile n))

/-- Ones among the low 256 bits of a number. -/
def ones256 (v : Nat) : Nat := ((List.range 256).filter fun i => v.testBit i).length

/-- TBIN (R328). -/
def binTile (m : Matrix) (bs : List Byte) (n slot : Nat) (conj acc : Bool) : Matrix :=
  let sb := m.slotBits slot
  let cols := (List.range 128).map fun j => ((List.range 256).map fun k => bitField sb (128 * k + j) 1 * 2 ^ k).sum
  addInts m n acc (byElement (tileRows bs 32) fun r j =>
    let c := cols.getD j 0
    if conj then (ones256 (r &&& c) : Int) else 256 - 2 * (ones256 (r ^^^ c) : Int))

/-- TLUT (R329). -/
def lutTile (m : Matrix) (bs : List Byte) (n slot : Nat) (z4 acc : Bool) : Matrix :=
  let sb := m.slotBits slot
  let weight := fun (j k : Nat) =>
    let v := bitField sb (4 * (128 * k + j)) 4
    if z4 then (v : Int) else (BitVec.ofNat 4 v).toInt
  let cols := (List.range 128).map fun j => (List.range 32).map fun k => weight j k
  addInts m n acc (byElement ((tileRows bs 32).map fun r => (List.range 32).map fun k => (BitVec.ofNat 8 (bitField r (8 * k) 8)).toInt)
    fun r j => (List.zipWith (fun (a b : Int) => a * b) r (cols.getD j [])).sum)

/-- TSCACC on one element (R85): a scale of 0xff gives the canonical NaN and NV. -/
def scaleElem (sa sb : Nat) (p c : Word) : FRes :=
  if sa = 255 || sb = 255 then nanRes fmtF32 flagNV
  else
    match mulExact (decodeScale sa) (decodeScale sb) with
    | none => nanRes fmtF32 flagNV
    | some s => match mulExact s (decodeNum fmtF32 p.toNat) with
      | none => nanRes fmtF32 flagNV
      | some t => addNum fmtF32 .rne false (decodeNum fmtF32 c.toNat) t

/-- TSCACC (R85, R330). -/
def scaleTile (m : Matrix) (bs : List Byte) (n p : Nat) : Matrix × FlagSet :=
  let sc := (List.zip (List.range 128) (bs.take 128)).map fun r =>
    (List.range 128).map fun j => (r.2.toNat, (bs.getD (128 + j) 0).toNat)
  let rs := List.zipWith (fun (q : Nat × Nat) (pc : Word × Word) => scaleElem q.1 q.2 pc.1 pc.2) sc.flatten
    (List.zip (m.tile p) (m.tile n))
  (m.setTile n (rs.map fun r => BitVec.ofNat 32 r.code), allFlags rs)

/-! ### Conversion (R331, R332) -/

/-- The number in a cell, as TCVT reads it. -/
def cvtSource (st : TcvtSrc) (v : DWord) : Num :=
  match st with
  | .f32 => decodeNum fmtF32 (v.toNat % 2 ^ 32)
  | .f64 => decodeNum fmtF64 v.toNat
  | .s32 =>
    let i := (v.setWidth 32 : Word).toInt
    .fin (decide (i < 0)) i.natAbs 0

/-- TCVT (R331). -/
def cvtTile (m : Matrix) (n : Nat) (dt : FFmt) (st : TcvtSrc) (rnd : Rnd) (ovf : Bool) : Matrix × FlagSet :=
  let src := if st == .f64 then m.pair n else (m.tile n).map fun c => c.setWidth 64
  let rs := src.mapIdx fun i v =>
    toFFmt dt .f32 rnd (ditherAt (i / 128) (i % 128) m.phase.toNat) false ovf (cvtSource st v)
  let m1 := m.setTile n (rs.map fun r => BitVec.ofNat 32 r.code)
  let m2 := if st == .f64 then m1.setTile (n + 1) (List.replicate 16384 0) else m1
  ({ m2 with phase := if rnd == .sr then m.phase + 1 else m.phase }, allFlags rs)

/-! ### Draining (R333, R334) -/

/-- Bits of an element. -/
def drainBits : DrainWidth → Nat
  | .w32 => 32
  | .w16 => 16
  | .w8 => 8
  | .w4 => 4
  | .w64 => 64

/-- Bytes of a drain's extent. -/
def drainBytes (wd : DrainWidth) : Nat := 2048 * drainBits wd

/-- The extent of a plain store. -/
def drainImage (m : Matrix) (n : Nat) (wd : DrainWidth) : List Byte :=
  let cs := m.tile n
  match wd with
  | .w64 => ((m.pair n).map fun v => leBytes 8 v.toNat).flatten
  | .w4 => (List.range 8192).map fun i => BitVec.ofNat 8 ((cs.getD (2 * i) 0).toNat % 16 + 16 * ((cs.getD (2 * i + 1) 0).toNat % 16))
  | _ => (cs.map fun c => leBytes (drainBits wd / 8) c.toNat).flatten

/-- An FP32 addition at a port reducer: rne, subnormals kept, canonical NaN, no flags (R86, R333). -/
def reduceAdd (v c : Nat) : Nat := (addNum fmtF32 .rne false (decodeNum fmtF32 v) (decodeNum fmtF32 c)).code

/-- A value added at a device address. -/
def State.ldsReduce (s : State) (dom a : Nat) (c : Word) : State := s.ldsWrites dom a (leBytes 4 (reduceAdd (leNat (s.ldsReads dom a 4)) c.toNat))

/-- A value added at a physical address. -/
def State.hbmReduce (s : State) (dom pa : Nat) (c : Word) : State := s.memWrites dom pa (leBytes 4 (reduceAdd (leNat (s.memReads dom pa 4)) c.toNat))

/-- Every value of a contribution applied (R86). -/
def State.applyContribution (s : State) (c : Contribution) : State :=
  if c.hbm.isEmpty then (List.zip c.lds c.values).foldl (fun s p => s.ldsReduce c.dom p.1 p.2) s
  else (List.zip c.hbm c.values).foldl (fun s p => s.hbmReduce p.1.2 p.1.1 p.2) s

/-- The place that names a contribution's sequence: the bytes themselves, also where a leaf with the device's own number leads to
them (R334, R383). -/
def Contribution.base (c : Contribution) (s : State) : Bool × Nat :=
  match c.hbm with
  | p :: _ => (true, if s.isPeer p.1 then p.1 else localPa p.1)
  | [] => (false, c.lds.headD 0)

/-- The held contributions that have become next, applied in turn. -/
def State.applyHeld (s : State) (q : Seq) : Nat → State × Seq
  | 0 => (s, q)
  | fuel + 1 =>
    match q.held.find? fun c => c.index == q.next with
    | none => (s, q)
    | some c =>
      (s.applyContribution c).applyHeld { q with next := q.next + 1, held := q.held.filter fun d => d.index ≠ c.index } fuel

/-- SEQ_ERROR (R334): the contribution is discarded, and the context's fault record says so. -/
def State.seqError (s : State) (c : Contribution) : State :=
  s.notice { c.rec_ with cause := .seqError, arg := BitVec.ofNat 32 c.index }

/-- Contributions held on the device. -/
def State.heldTiles (s : State) : Nat := (s.seqs.map fun q => q.held.length).sum

/-- The arrival of a contribution (R334): the new state, or none where it waits for holding capacity. -/
def State.arrive (s : State) (c : Contribution) : Option State :=
  let b := c.base s
  let here := fun (q : Seq) => q.hbm == b.1 && q.base == b.2
  let q := (s.seqs.find? here).getD { hbm := b.1, base := b.2, len := c.len, ctx := c.rec_.ctx }
  let put := fun (s : State) (q : Seq) =>
    let rest := s.seqs.filter fun r => !here r
    { s with seqs := if q.len ≤ q.next then rest else rest ++ [q] }
  if c.len ≠ q.len then some (s.seqError c)
  else if c.index = q.next then
    let r := (s.applyContribution c).applyHeld { q with next := q.next + 1 } (q.held.length + 1)
    some (put r.1 r.2)
  else if decide (q.next < c.index) && !(q.held.any fun d => d.index == c.index) then
    if 65536 ≤ s.heldTiles then none else some (put s { q with held := q.held ++ [c] })
  else some (put (s.seqError c) q)

/-- Place of byte i of runs. -/
def runAt : List (Nat × Nat × Nat) → Nat → Nat × Nat
  | [], _ => (0, 0)
  | (pa, dom, n) :: rs, i => if i < n then (pa + i, dom) else runAt rs (i - n)

/-- Bytes of a plain drain written, each a write of its own (R218): offset in the destination, and value. -/
def State.drainWrites (s : State) (w : Wave) (x : WCtx) (addr : Word) (hbm : Option (List (Nat × Nat × Nat)))
    (ps : List (Nat × Byte)) : State :=
  ps.foldl (fun s p => match hbm with
    | some rs => s.memWrites (runAt rs p.1).2 (runAt rs p.1).1 [p.2]
    | none => s.ldsWrite (s.waveDom x) ((structBytes w x (addr + BitVec.ofNat 32 p.1) 1).headD 0) p.2) s

/-- A list's values with their places. -/
def placed {α : Type} (vs : List α) : List (Nat × α) := List.zip (List.range vs.length) vs

/-- Window address and length of the operand that a tile instruction reads from local store. -/
def TileOp.operand : TileOp → Option (Word × Nat)
  | .load a _ wd s24 => some (a, wd.bytes s24)
  | .mma _ a _ fmt _ _ => some (a, 128 * (fmt.slot.depth * fmt.formats.1.bits / 8))
  | .bin _ a _ _ _ | .lut _ a _ _ _ => some (a, 4096)
  | .scale _ a _ => some (a, 256)
  | _ => none

/-- Bytes of an operand: those read before, and the others as they are now (R217). -/
def State.operandBytes (s : State) (w : Wave) (x : WCtx) (a : Word) (n : Nat) : List Byte :=
  (s.structRead x (structBytes w x a n)).mapIdx fun i b => (w.tileReads.get i).getD b

/-! ### The sequencer (R319) -/

/-- The contribution of a drain in `.add` or `.seq` mode. -/
def drainContribution (s : State) (w : Wave) (x : WCtx) (m : Matrix) (n : Nat) (addr : Word)
    (hbm : Option (List (Nat × Nat × Nat))) (seq : DWord) (i : Issued) : Contribution where
  len := (seq.extractLsb' 32 32).toNat
  index := (seq.extractLsb' 0 32).toNat
  values := m.tile n
  lds := if hbm.isSome then [] else
    (List.range 16384).map fun i => (structBytes w x (addr + BitVec.ofNat 32 (4 * i)) 1).headD 0
  hbm := match hbm with
    | some rs => (List.range 16384).map fun i => runAt rs (4 * i)
    | none => []
  dom := s.waveDom x
  rec_ := s.lateRecord w x i .seqError 0 0 0

/-- The effects of a tile instruction: memory, the sequencer's state, the flags; none while a sequence-indexed drain has
not arrived. -/
def tileEffect (s : State) (w : Wave) (x : WCtx) (m : Matrix) (op : TileOp) : Option (State × Matrix × FlagSet) :=
  let bytes := fun a n => s.operandBytes w x a n
  match op with
  | .zero n => some (s, m.setTile n (List.replicate 16384 0), 0)
  | .load a slot wd s24 => some (s, m.fill slot (bytes a (wd.bytes s24)), 0)
  | .mma n a slot fmt acc sparse =>
    let r := mmaTile m (bytes a (128 * (fmt.slot.depth * fmt.formats.1.bits / 8))) n slot fmt acc sparse
    some (s, r.1, r.2)
  | .bin n a slot conj acc => some (s, binTile m (bytes a 4096) n slot conj acc, 0)
  | .lut n a slot z4 acc => some (s, lutTile m (bytes a 4096) n slot z4 acc, 0)
  | .scale n a p =>
    let r := scaleTile m (bytes a 256) n p
    some (s, r.1, r.2)
  | .drain n a wd .store hbm _ _ =>
    some (s.drainWrites w x a hbm ((placed (drainImage m n wd)).filter fun p => !w.tileWrote.contains p.1), m, 0)
  | .drain n a _ .add hbm q i => some (s.applyContribution (drainContribution s w x m n a hbm q i), m, 0)
  | .drain _ _ _ .seq _ _ _ => none
  | .arrived => some (s, m, 0)
  | .cvt n dt st rnd ovf =>
    let r := cvtTile m n dt st rnd ovf
    some (s, r.1, r.2)
  | .setph v => some (s, { m with phase := v }, 0)

/-- The sequencer of a wave. -/
def WCtx.matrix (x : WCtx) (w : Wave) : Matrix := x.block.matrix.getD w.partner {}

def State.updMatrix (s : State) (w : Wave) (f : Matrix → Matrix) : State :=
  s.updBlock w.block fun b => { b with matrix := b.matrix.modify w.partner f }

/-- Some bytes of a tile instruction's operand are read now, before its count falls: the model's own turn (R217). -/
def State.tileReadSome (s : State) (n i : Nat) (offs : List Nat) : State :=
  match s.waves.get n with
  | none => s
  | some w =>
    match s.wctx w, (w.tiles[i]?).bind TileOp.operand with
    | some x, some p =>
      let bs := s.structRead x (structBytes w x p.1 p.2)
      s.updWave n fun v => { v with tileReads := offs.foldl (fun t o =>
        if decide (o < p.2) && (t.get (i * 2 ^ 20 + o)).isNone then t.put (i * 2 ^ 20 + o) (bs.getD o 0) else t) v.tileReads }
    | _, _ => s

/-- Some bytes of the oldest tile instruction's plain drain are written before the rest: the model's own turn (R218). -/
def State.tileWriteSome (s : State) (n : Nat) (offs : List Nat) : State :=
  match s.waves.get n with
  | none => s
  | some w =>
    match s.wctx w, w.tiles with
    | some x, .drain t a wd .store hbm _ _ :: _ =>
      let ps := (placed (drainImage (x.matrix w) t wd)).filter fun p => offs.contains p.1 && !w.tileWrote.contains p.1
      (s.drainWrites w x a hbm ps).updWave n fun v => { v with tileWrote := v.tileWrote ++ ps.map fun p => p.1 }
    | _, _ => s

/-- The sequencer as an uncorrectable error in an accumulator or a slot leaves it, and the operand bytes of the oldest
instruction with an error in one of them (R249, R320). -/
def Matrix.damage (m : Matrix) (k : Nat) : Option MemError → Matrix
  | none => m
  | some e =>
    let b := Config.damagedByte k e.byte
    if e.array = 2 then
      let sh := 8 * (e.byte % 4)
      let v := ((m.acc.get (e.byte / 4)).getD 0 &&& ~~~(0xff#32 <<< sh)) ||| (b.setWidth 32 <<< sh)
      { m with acc := Tbl.setRange 0 m.acc (e.byte / 4) [v] }
    else if e.array = 3 then { m with vit := Tbl.setRange 0 m.vit e.byte [b] }
    else m

def Wave.operandDamage (w : Wave) (k : Nat) : Option MemError → Wave
  | none => w
  | some e => if e.array = 1 then { w with tileReads := w.tileReads.put e.byte (Config.damagedByte k e.byte) } else w

/-- The wave's oldest tile instruction leaves the queue. -/
def Wave.tileFall (w : Wave) : Wave :=
  { w with
    tiles := w.tiles.drop 1
    tileReads := (w.tileReads.filter fun e => decide (2 ^ 20 ≤ e.1)).map fun (e : Nat × Byte) => (e.1 - 2 ^ 20, e.2)
    tileWrote := []
    tileLost := [] }

/-- The peer's address that the oldest tile instruction, a drain, waits for: no path leads there (R383, R385). -/
def Wave.drainWaits (w : Wave) (s : State) : Option Nat :=
  match w.tiles with
  | .drain _ _ _ _ (some rs) _ _ :: _ => (rs.find? fun r => s.noPath w.tileLost r.1).map fun r => r.1
  | _ => none

/-- No path has led in time to the peer that a drain waits for: the drain goes on without it, and the event is reported
(R383). -/
def State.drainPeerTimeout (s : State) (n : Nat) : State :=
  match s.waves.get n with
  | none => s
  | some w =>
    match s.wctx w, w.drainWaits s, w.tiles with
    | some x, some pa, .drain _ _ _ _ _ _ i :: _ =>
      (s.updWave n fun v => { v with tileLost := v.tileLost ++ [peerNo pa] }).notice
        ((s.lateRecord w x i .uncorrectable 0 0 0).peerLost pa)
    | _, _, _ => s

/-- The accumulator that the oldest tile instruction reads, a sequence-indexed drain, is damaged before it contributes: the
model's own turn. The bits that it returns are contributed, and the error is reported (R249, R320). -/
def State.seqDamage (s : State) (n : Nat) (e : MemError) : State :=
  match s.waves.get n with
  | none => s
  | some w =>
    match s.wctx w, w.tiles with
    | some x, .drain _ _ _ .seq _ _ i :: _ =>
      if e.array = 2 then (s.updMatrix w fun m => m.damage s.errors (some e)).waveError w x i (some e) 0 0 else s
    | _, _ => s

/-- TILE_COUNT_FALL (R319, R320): the oldest tile instruction's effects come about, and its count falls. -/
def execTileCountFall (f : TileFall) (s : State) : Host.Outcome State Fault Refusal :=
  let n := f.wave
  let err := f.err
  onWave s n fun w x =>
    match w.tiles with
    | [] => s
    | op :: _ =>
      if (w.drainWaits s).isSome then s
      else match tileEffect s (w.operandDamage s.errors err) x ((x.matrix w).damage s.errors err) op with
      | none => s
      | some r =>
        ((r.1.updMatrix w fun m => { r.2.1 with desc := m.desc }).updWave n fun v =>
          { v.tileFall with fflags := v.fflags ||| r.2.2 }).waveError w x w.issuing err 0 0

/-- SEQ_CONTRIBUTION (R334): the oldest tile instruction, a sequence-indexed drain, arrives. One that is discarded, with
SEQ_ERROR, counts from then on as one that is applied: a rule names only the applied and the held (DESIGN CHOICE, log entry
22). -/
def execSeqContribution (n : Nat) (s : State) : Host.Outcome State Fault Refusal :=
  onWave s n fun w x =>
    match w.tiles with
    | .drain t a _ .seq hbm q i :: rest =>
      if (w.drainWaits s).isSome then s
      else match s.arrive (drainContribution s w x (x.matrix w) t a hbm q i) with
      | some s' => s'.updWave n fun v => { v with tiles := .arrived :: rest }
      | none => s
    | _ => s

/-! ### Issue (R316, R319, R322, R324, R325) -/

/-- A tile instruction: once for the wave, not in handler mode (R316). Where it has passed its window checks and is of the
kind that exposes, STEER_MODE leaves its block exposed (R308). -/
def tileOnce (s : State) (w : Wave) (h : Head) (f : Mask → Res) (exp : Bool := false) : Res :=
  once s w h fun g => if w.hdep ≠ 0 then (onceCause g .steerMode 0).exposing s w exp else f g

/-- The issue of a tile instruction exposes its block (R308). -/
def TileOp.exposes : TileOp → Bool
  | .drain _ _ _ mode hbm _ _ => mode != .store || hbm.isSome
  | _ => false

/-- A tile instruction enters the sequencer's queue, with room for it; issue releases the wave's earlier stores (R308,
R319, R320). -/
def tileQueue (op : TileOp) (f : Matrix → Matrix) (s : State) (w : Wave) (x : WCtx) : Res :=
  if 63 ≤ w.tiles.length then .stall s
  else
    .done ((((s.expose w op.exposes).flushStores s.cur (s.waveDom x)).updWave s.cur fun v =>
      { v with tiles := v.tiles ++ [op] }).updMatrix w f)

/-- The window checks of a tile operand (R322): block, die or device window. -/
def tileAt (w : Wave) (x : WCtx) (g : Mask) (a : Word) (n align : Nat) (f : Res) : Res :=
  match checkWindow w x { spill := false } a n align with
  | .error c => onceCause g c (a.setWidth 64)
  | .ok _ => f

/-- The slot that an operand names (R324): an immediate, or bits [31:0] of a uniform register. -/
def slotNo (w : Wave) (x : WCtx) (b : Operand) : Nat := (readUni w x b).toNat % 2 ^ 32

/-- A slot operand whose descriptor must match (R325). -/
def withSlot (w : Wave) (x : WCtx) (g : Mask) (v : Nat) (wd : SlotWidth) (s24 : Bool) (f : Res) : Res :=
  if decide (v < 192) && (x.matrix w).desc.get v == some ⟨wd, s24⟩ then f else onceCause g .tileState 0

/-- TZERO. -/
def execTzero (h : Head) (n : BitVec 3) (s : State) : Host.Outcome State Fault Refusal :=
  issue (.tzero h n) s fun s w x => tileOnce s w h fun _ => tileQueue (.zero n.toNat) id s w x

/-- TLDW (R326). The source window is judged before the number of the slot: an order is given for TMMA alone (DESIGN CHOICE, log
entry 22). -/
def execTldw (h : Head) (a b : Operand) (wd : SlotWidth) (s24 : Bool) (s : State) : Host.Outcome State Fault Refusal :=
  issue (.tldw h a b wd s24) s fun s w x => tileOnce s w h fun g =>
    let addr := structAddr w x a
    let v := slotNo w x b
    tileAt w x g addr (wd.bytes s24) 256 (if v < 192 then
      tileQueue (.load addr v wd s24) (fun m => { m with desc := m.desc.put v ⟨wd, s24⟩ }) s w x
    else onceCause g .tileState 0)

/-- TMMA and TMMAS (R327). -/
def mmaRes (h : Head) (n : BitVec 3) (a b : Operand) (fmt : TileFmt) (acc sparse : Bool) (s : State) (w : Wave) (x : WCtx) : Res :=
  tileOnce s w h fun g =>
    let addr := structAddr w x a
    let v := slotNo w x b
    tileAt w x g addr (128 * (fmt.slot.depth * fmt.formats.1.bits / 8)) 256
      (withSlot w x g v fmt.slot sparse (tileQueue (.mma n.toNat addr v fmt acc sparse) id s w x))

/-- TMMA (R327). -/
def execTmma (h : Head) (n : BitVec 3) (a b : Operand) (fmt : TileFmt) (acc : Bool) (s : State) : Host.Outcome State Fault Refusal :=
  issue (.tmma h n a b fmt acc) s (mmaRes h n a b fmt acc false)

/-- TMMAS (R327). -/
def execTmmas (h : Head) (n : BitVec 3) (a b : Operand) (fmt : TileFmt) (acc : Bool) (s : State) : Host.Outcome State Fault Refusal :=
  issue (.tmmas h n a b fmt acc) s (mmaRes h n a b fmt acc true)

/-- TBIN (R328). -/
def execTbin (h : Head) (n : BitVec 3) (a b : Operand) (conj acc : Bool) (s : State) : Host.Outcome State Fault Refusal :=
  issue (.tbin h n a b conj acc) s fun s w x => tileOnce s w h fun g =>
    let addr := structAddr w x a
    let v := slotNo w x b
    tileAt w x g addr 4096 256 (withSlot w x g v .w1 false (tileQueue (.bin n.toNat addr v conj acc) id s w x))

/-- TLUT (R329). -/
def execTlut (h : Head) (n : BitVec 3) (a b : Operand) (z4 acc : Bool) (s : State) : Host.Outcome State Fault Refusal :=
  issue (.tlut h n a b z4 acc) s fun s w x => tileOnce s w h fun g =>
    let addr := structAddr w x a
    let v := slotNo w x b
    tileAt w x g addr 4096 256 (withSlot w x g v .w4 false (tileQueue (.lut n.toNat addr v z4 acc) id s w x))

/-- TSCACC (R330). -/
def execTscacc (h : Head) (n : BitVec 3) (a : Operand) (p : BitVec 18) (s : State) : Host.Outcome State Fault Refusal :=
  issue (.tscacc h n a p) s fun s w x => tileOnce s w h fun g =>
    let addr := structAddr w x a
    tileAt w x g addr 256 16 (tileQueue (.scale n.toNat addr p.toNat) id s w x)

/-- The pieces of an extent of virtual addresses that no 64 KiB boundary cuts: address and bytes. -/
def pagePieces (va : DWord) (n : Nat) : List (DWord × Nat) :=
  let lo := va.toNat
  (List.range (n / 65536 + 2)).filterMap fun i =>
    let a := max lo ((lo / 65536 + i) * 65536)
    let b := min (lo + n) ((lo / 65536 + i + 1) * 65536)
    if a < b then some (BitVec.ofNat 64 a, b - a) else none

/-- The sequence descriptor is within its limits (R334). -/
def seqOk (q : DWord) : Bool := decide ((q.extractLsb' 0 32).toNat < (q.extractLsb' 32 32).toNat)

/-- TDRAIN with its destination known. -/
def drainAt (n : BitVec 3) (addr : Word) (wd : DrainWidth) (mode : DrainMode) (hbm : Option (List (Nat × Nat × Nat))) (q : DWord)
    (s : State) (w : Wave) (x : WCtx) (g : Mask) : Res :=
  if mode == .seq && !seqOk q then onceCause g .tileState 0
  else tileQueue (.drain n.toNat addr wd mode hbm q w.issuing) id s w x

/-- The window checks of a drain to a local store pass; a drain to HBM has none (R308, R322). -/
def drainWindows (w : Wave) (x : WCtx) (d : Operand) (wd : DrainWidth) (hbm : Bool) : Bool :=
  hbm || (checkWindow w x { spill := false } ((readUni w x d).setWidth 32) (drainBytes wd) 256).isOk

/-- TDRAIN (R333, R334, R308). -/
def execTdrain (h : Head) (d : Operand) (n : BitVec 3) (b : Option Operand) (wd : DrainWidth) (mode : DrainMode) (hbm : Bool)
    (s : State) : Host.Outcome State Fault Refusal :=
  issue (.tdrain h d n b wd mode hbm) s fun s w x => tileOnce s w h (fun g =>
    let exp := fun (r : Res) => r.exposing s w (mode != .store || hbm)
    let v := readUni w x d
    let q := match b with
      | some o => readUni w x o
      | none => 0
    let bytes := drainBytes wd
    if hbm then exp (
      if v.toNat % 256 ≠ 0 then onceCause g .misaligned v
      else
        let ps := pagePieces v bytes
        match s.translateAll w x.grid.ctx (ps.map fun p => (0, p.1)) (if mode == .store then .write else .readWrite) with
        | .error r => r
        | .ok ts => drainAt n 0 wd mode (some (List.zipWith (fun (p : DWord × Nat) (t : Nat × Nat × Nat) => (t.2.1, t.2.2, p.2)) ps ts)) q s w x g)
    else tileAt w x g (v.setWidth 32) bytes 256 (exp (drainAt n (v.setWidth 32) wd mode none q s w x g)))
    ((mode != .store || hbm) && drainWindows w x d wd hbm)

/-- TCVT (R331). -/
def execTcvt (h : Head) (n : BitVec 3) (dt : FFmt) (st : TcvtSrc) (rnd : Rnd) (ovf : Bool) (s : State) :
    Host.Outcome State Fault Refusal :=
  issue (.tcvt h n dt st rnd ovf) s fun s w x => tileOnce s w h fun _ => tileQueue (.cvt n.toNat dt st rnd ovf) id s w x

/-- TSETPH (R332). -/
def execTsetph (h : Head) (a : Operand) (s : State) : Host.Outcome State Fault Refusal :=
  issue (.tsetph h a) s fun s w x => tileOnce s w h fun _ => tileQueue (.setph ((readUni w x a).setWidth 6)) id s w x

end Sys2Proof.Machine
end

