-- ==== Sys2Proof/Machine/Time.lean ====
section
/-! DEFINITION. What passing cycles change: elapsed times, drains, slices, countdowns (R174, R285, R310, R312, R363). -/

namespace Sys2Proof.Machine

/-- Cycles of a block (R310, R312). -/
def Block.pass (b : Block) (die n : Nat) : Block :=
  if b.placed && b.die = die then
    { b with elapsed := b.elapsed + n, drained := if b.phase = .draining then b.drained + n else b.drained }
  else b

/-- Contexts that hold a core of a die. -/
def State.holders (s : State) (die : Nat) : List Nat :=
  (s.blocks.filterMap fun e =>
    if e.2.placed && e.2.die = die then (s.grids.get e.2.grid).map fun g => g.ctx else none).eraseDups

/-- Cores of a die that stall for a page fault of a context, the one that Curator works on (R174). -/
def State.stalledFor (s : State) (die ctx : Nat) : Nat :=
  ((List.range 48).filter fun c => ((s.core die c).stall.head?.map fun p => p.ctx) == some ctx).length

/-- The slice counts of a die after some cycles: one for each cycle in which the context holds a core, and the stall
cycles charged to it (R363). -/
def State.passSlices (s : State) (die n : Nat) : Tbl Nat :=
  (s.holders die).foldl (fun (t : Tbl Nat) c => t.put c ((t.get c).getD 0 + n + n * s.stalledFor die c)) (s.die die).slices

/-- The countdown of a batch that holds a record (R285). -/
def Gatherer.pass (g : Gatherer) (n : Nat) : Gatherer :=
  if g.filling.isEmpty then g else { g with countdown := g.countdown - n }

/-- Cycles pass on a die. -/
def State.passCycles (s : State) (die n : Nat) : State :=
  { s with
    blocks := s.blocks.map fun (e : Nat × Block) => (e.1, e.2.pass die n)
    dies := s.dies.put die { s.die die with
      slices := s.passSlices die n
      gatherers := (s.die die).gatherers.map fun g => g.pass n } }

end Sys2Proof.Machine
end

