-- ==== Sys2Proof/Machine/Turn.lean ====
section
/-! DEFINITION. What a step does: the agenda's next turn, or the first wave that can act; fetching and decoding an
instruction's bytes; breakpoints and single steps (R90, R91, R117, R166, R174, R379, R407). -/

namespace Sys2Proof.Machine

/-! ### Which wave acts -/

/-- The block lets its waves issue (Table 17.1). -/
def Block.issues (b : Block) : Bool :=
  (match b.phase with
    | .admitted | .running | .draining | .resumed | .faulted => true
    | _ => false) && !b.ending

/-- Some block of a grid with grid barriers is saved or on its way: its blocks resume together (R229). -/
def State.parted (s : State) (x : WCtx) : Bool :=
  !x.grid.barriers.isEmpty && s.blocks.any fun e =>
    e.2.grid == x.block.grid && (e.2.phase == .saved || e.2.phase == .saving)

/-- A checkpoint is due on the core, or its journal area is full: one is taken at this boundary (R397, R398). -/
def State.checkpointDue (s : State) (die core : Nat) : Bool :=
  match (s.core die core).replay with
  | some r => r.due || s.areaFull r
  | none => false

/-- The wave may issue (Table 5.4, R174, R397, R407): its block does, its core has no page fault pending and no checkpoint
due, its island has a clock. -/
def State.canIssue (s : State) (w : Wave) (x : WCtx) : Bool :=
  w.atBoundary && x.block.issues && !s.parted x && (s.core w.die w.core).stall.isEmpty &&
  !s.checkpointDue w.die w.core &&
  match s.island (islandOf w.die w.core) with
  | .run | .reduced => true
  | .stopped | .off => false

/-- A wave has a turn of its own: it may issue, or it is ending with its counters at 0. -/
def State.ready (s : State) (w : Wave) : Bool :=
  match s.wctx w with
  | none => false
  | some x => s.canIssue w x || (w.phase == .ending && w.drained && !w.saved)

/-- The first wave that has a turn of its own. -/
def State.readyWave (s : State) : Option Nat := (s.waves.find? fun e => s.ready e.2).map fun e => e.1

/-! ### Breakpoints -/

/-- A breakpoint of an attached debugger stands at the wave's PC (R166, R378). A single step passes it, also where something is
due first: QUANTUM_END, so that the step enters the handler; SERIAL_STEERING or the serial start of a handler overrun, so that
the wave stands at another lane's PC. The instruction there issues even past a breakpoint, since R236 has a step issue exactly
one, though it also has that breakpoint halt behind the entry (DESIGN CHOICE, log entry 13). -/
def State.atBreakpoint (s : State) (w : Wave) (x : WCtx) : Bool :=
  match (s.ctx x.grid.ctx).debug with
  | some r => r.attached && !w.passBp && !w.stepping && r.breakpoints.contains (x.grid.kernel, w.pc)
  | none => false

/-! ### Turns -/

/-- What a turn comes to: an instruction or event to execute, a state already reached, or a step of a core's log to execute
again. -/
inductive Act where
  | run (i : Instr) (s : State)
  | set (s : State)
  | again (die core : Nat) (s : State)
  deriving DecidableEq, Repr

/-- An event: not an instruction that only a wave issues. -/
def Instr.isEvent (i : Instr) : Bool :=
  match i with
  | .hintSpaceWord _ => false
  | _ => i.toRaw.isNone

/-- An event that comes about because the supervisor asks for it over the hub's control interface (R359). -/
def Instr.isControl (i : Instr) : Bool :=
  match i with
  | .loadCodeObject .. | .kernelUnload .. | .gridCancel .. | .gathererUnbind .. | .pageFaultResolution ..
  | .translationInvalidation .. | .cardResume .. | .cardCancel .. | .pifoReinsert .. | .rankProgramInstall ..
  | .queueCreate .. | .queueBind .. | .queueOpen .. | .queueDrain .. | .queueForceClose .. | .queueDestroy ..
  | .contextCreate .. | .makeResident .. | .contextEvict .. | .contextEnd .. | .contextDescriptorWrite ..
  | .faultRetry .. | .faultContinue .. | .faultRedirect .. | .faultEnd .. | .faultLogLostClear ..
  | .freezeDispatch | .curatorRestart .. | .debugGrant .. | .debugAttach .. | .debugHalt .. | .debugStep .. | .debugResume ..
  | .debugStateWrite .. | .breakpointSet .. | .debugRevoke .. | .portQuarantine .. | .portRelease .. | .portDisable ..
  | .exportRangeInstall .. | .collectiveGroupInstall .. | .startRecordClear | .islandStateSet .. | .powerLimitSet ..
  | .lifetimeUpdate .. | .replayToStop .. | .replayContinue .. | .samplePeriodSet ..
  | .supervisorAccess (.readContext _) | .collectionRegionCreate .. => true
  | _ => false

/-- An event that the Custodian alone brings about: what R359 gives to M mode, and the freeze and the restart of R377. -/
def Instr.isCustodian (i : Instr) : Bool :=
  match i with
  | .lifetimeUpdate .. | .islandStateSet .. | .freezeDispatch | .curatorRestart .. => true
  | _ => false

/-- Code in a mode may ask for the event (R359, R377, R405). -/
def PrivMode.may (mode : PrivMode) (i : Instr) : Bool := mode == .m || (mode == .s && !Instr.isCustodian i)

/-- A request that is no event of the table (R359). -/
def State.asked (s : State) (a : Ask) : State :=
  match a with
  | .readWave n => s.debugRead n
  | .readLog c => s.readLog c
  | .assignQueue q c => s.assignQueue q c
  | .readLifetime => s.report (.lifetime s.lifetime)

/-- The cause of a word that decodes to no instruction: the first check that it fails at this wave (R67). -/
def State.decodeCause (s : State) (w : Wave) (x : WCtx) (c : Cause) : Cause :=
  if (s.fetch w x).length < 12 then c
  else (decodeFault (x.decode w) (Raw.ofWord (wordOfBytes (s.fetch w x)))).getD c

/-- A wave's turn: a boundary event that is due, a PC outside the text (R95), a breakpoint, or the instruction at its PC. A
word that decodes to no instruction raises its cause (R67). -/
def State.waveTurn (s : State) (n : Nat) : Act :=
  match s.waves.get n with
  | none => .set s
  | some w =>
    match s.wctx w with
    | none => .set s
    | some x =>
      match if s.ready w then w.due n else none with
      | some e => .run e { s with cur := n }
      | none =>
        if !s.canIssue w x then .set s
        else if !x.pcOk w.pc then .set (s.deliver n w x .pcRange w.run 0 0)
        else if s.atBreakpoint w x then .set (s.setWave n { w with halted := true, haltReq := true })
        else
          let t := { s with cur := n }.holdText w x
          match decodeBytes (s.fetch w x) with
          | .ok r => .run r.1 t
          | .error c => .set ((t.begun n w).deliver n w.begun x (s.decodeCause w x c) w.run 0 0)

/-- What a turn comes to in a state. -/
def State.doTurn (s : State) (t : Turn) : Act :=
  match t with
  | .issue n => s.waveTurn n
  | .event e => if Instr.isEvent e then .run e s else .set s
  | .cycles die n => .set (s.passCycles die n)
  | .landSome w op lane offs => .set ((s.landSome w op lane offs).fetchSome w op offs)
  | .tileRead w i offs => .set (s.tileReadSome w i offs)
  | .countError c dom n array w => .set (s.countError c dom n array w)
  | .cardPeerTimeout n => .set (s.cardPeerTimeout n)
  | .control mode e =>
    if !Instr.isControl e then .set s
    else if !mode.may e then .set (s.report .refused)
    else .run e s
  | .ask mode a => .set (if mode = .u then s.report .refused else s.asked a)
  | .readLifetime => .set (s.report (.lifetime s.lifetime))
  | .lookRead w op offs => .set (s.lookRead w op offs)
  | .lookLand w op err offs => .set (s.lookLand w op err offs)
  | .cardRecord c how offs => .set (s.cardRecord c how offs)
  | .collectiveRead c offs => .set (s.collectiveRead c offs)
  | .collectiveLand c r elems => .set (s.collectiveLand c r elems)
  | .cardWalkError c i level => .set (s.cardWalkError c i level)
  | .cardIndexError c e => .set (s.cardIndexError c e)
  | .atomError e => .set { s with readError := some e }
  | .seqError w e => .set (s.seqDamage w e)
  | .linkTagFailure p => .set (s.linkTagFailure p)
  | .linkSecond p => .set (s.linkSecond p)
  | .spdmRequest p code bs => .set (s.spdmRequest p code bs)
  | .textRead die core k words => .set (s.textRead die core k words)
  | .drainPeerTimeout n => .set (s.drainPeerTimeout n)
  | .tileWrite w offs => .set (s.tileWriteSome w offs)
  | .replay die core => .again die core s

/-- The turn that comes next: the agenda's, else that of the first wave that has one of its own. -/
def State.nextTurn (s : State) : Option Turn :=
  match s.agenda with
  | [] => s.readyWave.map .issue
  | t :: _ => some t

/-- What the next turn comes to. -/
def State.turn (s : State) : Act :=
  match s.nextTurn with
  | none => .set s
  | some t => { s with agenda := s.agenda.tail }.doTurn t

/-- After a wave's instruction: a breakpoint passed is behind it, and a single step ends (R236, R379). -/
def Wave.stepped (w w' : Wave) : Wave :=
  if w'.accn = w.accn && w'.pc = w.pc && w'.hdep = w.hdep && w'.wait = w.wait then w'
  else if w.stepping && (w'.accn ≠ w.accn || w'.wait.isSome) then
    { w' with passBp := false, stepping := false, halted := true, haltReq := true }
  else { w' with passBp := false }

/-- The wave that issued, after its instruction. -/
def State.stepOver (s t : State) (i : Instr) : State :=
  if Instr.isEvent i then t
  else
    match s.waves.get s.cur, t.waves.get s.cur with
    | some w, some w' => t.setWave s.cur (w.stepped w')
    | _, _ => t

end Sys2Proof.Machine
end

