-- ==== Sys2Proof/Machine/Place.lean ====
section
/-! DEFINITION. A loaded kernel whose first word is given, with one wave that issues next: what stands for the loading
and launching of a program (log entry 7). -/

namespace Sys2Proof.Machine

/-- The class of a word: bits [95:90]. -/
def classOf (w : Nat) : Nat := w / 2 ^ 90 % 64

/-- The role whose wave may issue a word: the matrix role for tiles, a ring's producer or consumer for rings, the
general role for everything else (Table 3.8). -/
def roleFor (w : Nat) : Role :=
  if classOf w = 0x18 then .matrix
  else if classOf w = 0x14 then (if w / 2 ^ 84 % 64 = 2 || w / 2 ^ 84 % 64 = 3 then .vector else .copy)
  else .general

/-- The kernel: level 2, every register, barrier and ring, text of the word and NOPs. -/
def placedKernel (w : Nat) : Kernel where
  ctx := 1
  obj := 1
  desc := {
    regs := 256
    spill := 4096
    shared := 4096
    barriers := 16
    gridBarriers := 4
    copyWaves := if roleFor w = .general then 0 else 1
    vectorWaves := if roleFor w = .general then 0 else 1
    matrix := roleFor w == .matrix
    rings := if roleFor w = .general then [] else List.replicate 8 (some { depth := 2, producer := .copy, consumer := .vector }) }
  text := bytesOfWord (BitVec.ofNat 96 w) ++ List.replicate 1200 0

def placedBlock : Block where
  grid := 1
  phase := .running
  cores := [0]
  alloc := [[0]]
  spill := [(List.range 8).map fun i => i + 1]
  barriers := List.replicate 16 { expected := 1 }
  rings := [List.replicate 8 { slots := List.replicate 2 {} }]
  matrix := [{}]

def placedGrid : Grid where
  ctx := 1
  num := 1
  serial := 1
  kernel := 1
  blocks := 1
  threads := 8
  phase := .running
  next := 1
  barriers := List.replicate 4 { expected := 1 }

def placedWave (w : Nat) : Wave where
  block := 1
  role := roleFor w
  width := if roleFor w = .matrix then 1 else 8
  regs := 256
  lanes := List.replicate (if roleFor w = .matrix then 1 else 8) { regs := List.replicate 256 0 }
  k := List.replicate 64 0
  granules := (List.range 8).map fun i => i + 1
  run := if roleFor w = .matrix then 1 else 0xff
  live := if roleFor w = .matrix then 1 else 0xff
  phase := .active

/-- The state with that kernel resident and its wave the only one: nothing else is on the agenda, and its core runs
and holds no text. -/
def State.placeWord (s : State) (w : Nat) : State :=
  { s with
    contexts := s.contexts.put 1 { state := .resident, desc := { ownDomain := 1 } }
    domains := s.domains.put 1 { live := true, epoch := (s.domain 1).epoch }
    kernels := s.kernels.put 1 (placedKernel w)
    grids := s.grids.put 1 placedGrid
    blocks := s.blocks.put 1 placedBlock
    waves := [(1, placedWave w)]
    cores := s.cores.put 0 {}
    islands := s.islands.del 0
    startRec := { s.startRec with started := true }
    agenda := []
    cur := 1
    fresh := max s.fresh 2 }

end Sys2Proof.Machine
end

