-- ==== Sys2Proof/Machine/Logic.lean ====
section
/-! DEFINITION. The logic class 0x03: bitwise operations, shifts and bit fields (R128 to R130). -/

namespace Sys2Proof.Machine

/-- The width of a logic operation (R128). -/
def logicBits (m : IMod) : Nat := if wideType m.ty then 64 else 32

/-- A value brought to the width of the operation. -/
def toWidth (m : IMod) (v : DWord) : DWord := if wideType m.ty then v else (v.setWidth 32).setWidth 64

/-- A logic operation on two sources of the operation's width. -/
def logicRes (h : Head) (d a b : Operand) (m : IMod) (f : DWord → DWord → DWord) (s : State) (w : Wave) (x : WCtx) : Res :=
  alu s w h d (wideType m.ty) fun l =>
    toWidth m (f (readOp w x (shapeOf m.ty) l a) (readOp w x (shapeOf m.ty) l b))

/-- A logic operation whose B is a 32-bit count or field, with the old destination (R123, R129). -/
def countRes (h : Head) (d a b : Operand) (m : IMod) (f : DWord → Nat → DWord → DWord) (s : State) (w : Wave) (x : WCtx) : Res :=
  alu s w h d (wideType m.ty) fun l =>
    toWidth m (f (readOp w x (shapeOf m.ty) l a) (readWord w x l b).toNat (readOp w x (shapeOf m.ty) l d))

/-- A logic operation on A alone; the result is 32 bits wide where `narrow` says so (R123). -/
def logicRes1 (h : Head) (d a : Operand) (m : IMod) (narrow : Bool) (f : DWord → DWord) (s : State) (w : Wave) (x : WCtx) : Res :=
  alu s w h d (wideType m.ty && !narrow) fun l => f (readOp w x (shapeOf m.ty) l a)

/-- Shifts of a value of `n` bits; counts are not reduced (R129). -/
def shiftLeft (n : Nat) (a : DWord) (c : Nat) : DWord := if n ≤ c then 0 else a <<< c
def shiftRight (n : Nat) (a : DWord) (c : Nat) : DWord := if n ≤ c then 0 else a >>> c
def shiftArith (n : Nat) (a : DWord) (c : Nat) : DWord :=
  if n = 64 then a.sshiftRight (min c 63) else (((a.setWidth 32).sshiftRight (min c 31)) : BitVec 32).setWidth 64
def rotateLeft (n : Nat) (a : DWord) (c : Nat) : DWord :=
  if n = 64 then a.rotateLeft (c % 64) else ((a.setWidth 32).rotateLeft (c % 32)).setWidth 64

/-- Ones among the low `n` bits. -/
def ones (n : Nat) (a : DWord) : Nat := ((List.range n).filter fun i => a.getLsbD i).length

/-- Zeros above the highest one of the low `n` bits. -/
def leadingZeros (n : Nat) (a : DWord) : Nat :=
  match (List.range n).find? fun i => a.getLsbD (n - 1 - i) with
  | some i => i
  | none => n

/-- The low `n` bits reversed. -/
def reverseBits (n : Nat) (a : DWord) : DWord :=
  (List.range n).foldl (fun r i => if a.getLsbD (n - 1 - i) then r ||| (1#64 <<< i) else r) 0

/-- `m` low ones. -/
def lowOnes (m : Nat) : DWord := BitVec.ofNat 64 (2 ^ m - 1)

/-- Position and length of a field, clamped to the width (R130). -/
def fieldOf (n b : Nat) : Nat × Nat :=
  let p := b % 256
  (p, if n ≤ p then 0 else min (b / 256 % 256) (n - p))

/-- The field extracted (R130). -/
def extractField (n : Nat) (signed : Bool) (a : DWord) (b : Nat) : DWord :=
  let pm := fieldOf n b
  let f := (a >>> pm.1) &&& lowOnes pm.2
  if pm.2 = 0 then 0
  else if signed && f.getLsbD (pm.2 - 1) then f ||| ~~~(lowOnes pm.2) else f

/-- The field inserted (R130). -/
def insertField (n : Nat) (a : DWord) (b : Nat) (d : DWord) : DWord :=
  let pm := fieldOf n b
  (d &&& ~~~(lowOnes pm.2 <<< pm.1)) ||| ((a &&& lowOnes pm.2) <<< pm.1)

/-- The truth table applied bit by bit (R129). -/
def truthBits (t : BitVec 8) (a b d : Word) : Word :=
  (List.range 32).foldl (fun r i =>
    if t.getLsbD ((if a.getLsbD i then 1 else 0) + (if b.getLsbD i then 2 else 0) + (if d.getLsbD i then 4 else 0))
    then r ||| (1#32 <<< i) else r) 0

/-- AND (R129). -/
def execAnd (h : Head) (d a b : Operand) (m : IMod) (s : State) : Host.Outcome State Fault Refusal :=
  issue (.and h d a b m) s (logicRes h d a b m fun p q => p &&& q)

/-- OR (R129). -/
def execOr (h : Head) (d a b : Operand) (m : IMod) (s : State) : Host.Outcome State Fault Refusal :=
  issue (.or h d a b m) s (logicRes h d a b m fun p q => p ||| q)

/-- XOR (R129). -/
def execXor (h : Head) (d a b : Operand) (m : IMod) (s : State) : Host.Outcome State Fault Refusal :=
  issue (.xor h d a b m) s (logicRes h d a b m fun p q => p ^^^ q)

/-- ANDN (R129). -/
def execAndn (h : Head) (d a b : Operand) (m : IMod) (s : State) : Host.Outcome State Fault Refusal :=
  issue (.andn h d a b m) s (logicRes h d a b m fun p q => p &&& ~~~q)

/-- NOT (R129). -/
def execNot (h : Head) (d a : Operand) (m : IMod) (s : State) : Host.Outcome State Fault Refusal :=
  issue (.not h d a m) s (logicRes1 h d a m false fun p => toWidth m (~~~p))

/-- SHL (R129). -/
def execShl (h : Head) (d a b : Operand) (m : IMod) (s : State) : Host.Outcome State Fault Refusal :=
  issue (.shl h d a b m) s (countRes h d a b m fun p c _ => shiftLeft (logicBits m) p c)

/-- SHR (R129). -/
def execShr (h : Head) (d a b : Operand) (m : IMod) (s : State) : Host.Outcome State Fault Refusal :=
  issue (.shr h d a b m) s (countRes h d a b m fun p c _ => shiftRight (logicBits m) p c)

/-- SAR (R129). -/
def execSar (h : Head) (d a b : Operand) (m : IMod) (s : State) : Host.Outcome State Fault Refusal :=
  issue (.sar h d a b m) s (countRes h d a b m fun p c _ => shiftArith (logicBits m) p c)

/-- ROTL (R129). -/
def execRotl (h : Head) (d a b : Operand) (m : IMod) (s : State) : Host.Outcome State Fault Refusal :=
  issue (.rotl h d a b m) s (countRes h d a b m fun p c _ => rotateLeft (logicBits m) p c)

/-- POPC (R129). -/
def execPopc (h : Head) (d a : Operand) (m : IMod) (s : State) : Host.Outcome State Fault Refusal :=
  issue (.popc h d a m) s (logicRes1 h d a m true fun p => BitVec.ofNat 64 (ones (logicBits m) p))

/-- CLZ (R129). -/
def execClz (h : Head) (d a : Operand) (m : IMod) (s : State) : Host.Outcome State Fault Refusal :=
  issue (.clz h d a m) s (logicRes1 h d a m true fun p => BitVec.ofNat 64 (leadingZeros (logicBits m) p))

/-- BREV (R129). -/
def execBrev (h : Head) (d a : Operand) (m : IMod) (s : State) : Host.Outcome State Fault Refusal :=
  issue (.brev h d a m) s (logicRes1 h d a m false fun p => reverseBits (logicBits m) p)

/-- BFE (R130). -/
def execBfe (h : Head) (d a b : Operand) (m : IMod) (s : State) : Host.Outcome State Fault Refusal :=
  issue (.bfe h d a b m) s (countRes h d a b m fun p f _ => extractField (logicBits m) (signedType m.ty) p f)

/-- BFI (R130). -/
def execBfi (h : Head) (d a b : Operand) (m : IMod) (s : State) : Host.Outcome State Fault Refusal :=
  issue (.bfi h d a b m) s (countRes h d a b m fun p f q => insertField (logicBits m) p f q)

/-- LOGT (R129). -/
def execLogt (h : Head) (d a b : Operand) (t : BitVec 8) (s : State) : Host.Outcome State Fault Refusal :=
  issue (.logt h d a b t) s fun s w x =>
    alu s w h d false fun l =>
      (truthBits t (readWord w x l a) (readWord w x l b) (readWord w x l d)).setWidth 64

end Sys2Proof.Machine
end

