-- ==== Sys2Proof/Machine/Service.lean ====
section
/-! DEFINITION. The lifetime record, start, power loss, islands and the power limit (R22, R24, R381, R405 to R408). -/

namespace Sys2Proof.Machine

/-! ### The lifetime record (R405) -/

/-- A counter that saturates. -/
def satAdd (w : Nat) (v : BitVec w) (n : Nat) : BitVec w := BitVec.ofNat w (min (2 ^ w - 1) (v.toNat + n))

/-- An entry counts on (Table 24.3). -/
def Lifetime.add (r : Lifetime) (e : LifeEntry) (n : Nat) : Lifetime :=
  match e with
  | .corrected a => { r with corrected := r.corrected.modify a fun v => satAdd 64 v n }
  | .uncorrectable a => { r with uncorrectable := r.uncorrectable.modify a fun v => satAdd 32 v n }
  | .thermal b => { r with thermal := r.thermal.modify b fun v => satAdd 32 v n }
  | .residency i st => { r with residency := r.residency.modify i fun vs => vs.modify st fun v => satAdd 64 v n }
  | .retrains p => { r with retrains := r.retrains.modify p fun v => satAdd 32 v n }
  | .safeguard => { r with safeguard := satAdd 64 r.safeguard n }
  | .pinned => { r with pinned := satAdd 64 r.pinned n }
  | .startFail k => { r with startFail := r.startFail.modify (k - 1) fun v => satAdd 32 v n }
  | .starts => { r with starts := satAdd 32 r.starts n }

/-- An entry whose copy failed its check counts on from 0; the bins of the thermal entry are one entry, and so are the four
times of an island (Table 24.3). -/
def Lifetime.zero (r : Lifetime) (e : LifeEntry) : Lifetime :=
  match e with
  | .corrected a => { r with corrected := r.corrected.modify a fun _ => 0 }
  | .uncorrectable a => { r with uncorrectable := r.uncorrectable.modify a fun _ => 0 }
  | .thermal _ => { r with thermal := List.replicate 16 0 }
  | .residency i _ => { r with residency := r.residency.modify i fun _ => [0, 0, 0, 0] }
  | .retrains p => { r with retrains := r.retrains.modify p fun _ => 0 }
  | .safeguard => { r with safeguard := 0 }
  | .pinned => { r with pinned := 0 }
  | .startFail k => { r with startFail := r.startFail.modify (k - 1) fun _ => 0 }
  | .starts => { r with starts := 0 }

def State.count (s : State) (e : LifeEntry) (n : Nat) : State := { s with lifetime := s.lifetime.add e n }

/-- LIFETIME_UPDATE (R405). -/
def execLifetimeUpdate (e : LifeEntry) (n : Nat) (s : State) : Host.Outcome State Fault Refusal := .next (s.count e n)

/-! ### Power loss (R405, R408) -/

/-- Everything but what NVRAM and the archive hold is lost; what reports were made and what is still to come outside
the device is not the device's. Domain keys are new. -/
def State.cold (s : State) : State :=
  { State.reset with
    lifetime := s.lifetime
    startRec := { s.startRec with started := false }
    archive := s.archive
    archiveNext := s.archiveNext
    reports := s.reports
    agenda := s.agenda
    fresh := s.fresh
    nextTrace := s.nextTrace
    nextKey := s.nextKey
    errors := s.errors
    domains := (s.domains.map fun (e : Nat × Domain) => (e.1, ({ live := e.1 == 0, epoch := e.2.epoch + 1 } : Domain))) }

/-- POWER_LOSS (R405, R408): an update under way leaves its entry at the old or the new value. -/
def execPowerLoss (during : Option (LifeEntry × Nat)) (landed : Bool) (s : State) : Host.Outcome State Fault Refusal :=
  let t := match during with
    | some (e, n) => if landed then s.count e n else s
    | none => s
  .next t.cold

/-! ### Start (R406, Table 24.4) -/

/-- Steps that are required. -/
def stepRequired (k : Nat) : Bool := k == 1 || k == 3 || k == 4 || k == 5 || k == 6 || k == 7 || k == 10

/-- Steps that have an alternate method. -/
def stepAlternate (k : Nat) : Bool := k != 1 && k != 10

/-- What a step comes to: its byte of the start record; whether it failed at the previous start decides its method. -/
def stepByte (k before : Nat) (o : StartStep) : Nat :=
  if (before == 2 || before == 4) && stepAlternate k then (if o.altOk then 3 else if stepRequired k then 2 else 4)
  else if o.mainOk then 1
  else if stepRequired k then 2
  else 4

/-- The steps from `k` on, each after the step before it, up to one that stops the start. -/
def runSteps (before : List Nat) : Nat → List StartStep → List Nat
  | _, [] => []
  | k, o :: os =>
    let b := stepByte k (before.getD (k - 1) 0) o
    if b = 2 then [b] else b :: runSteps before (k + 1) os

/-- Steps that failed, counted in the lifetime record. -/
def failedSteps (bs : List Nat) : List Nat := ((List.range bs.length).filter fun i => bs.getD i 0 == 2 || bs.getD i 0 == 4).map fun i => i + 1

/-- Steps that passed by their alternate. -/
def alternateSteps (bs : List Nat) : List Nat := ((List.range bs.length).filter fun i => bs.getD i 0 == 3).map fun i => i + 1

/-- Island states after a start: run, and reduced where an alternate's setting says so (R406). -/
def startIslands (alts : List Nat) : Tbl IslandState :=
  (if heldLow alts then (List.range 24).map fun i => (i, IslandState.reduced) else []) ++
  if alts.contains 3 then [(28, .reduced), (29, .reduced)] else []

/-- DEVICE_START (R2, R383, R405, R406): the steps run in order; the device's own number is set. Entries of the lifetime
record that fail step 2's check are marked, and count on from 0, whatever the step comes to. -/
def execDeviceStart (steps : List StartStep) (invalid : List LifeEntry) (powerLimit deviceNo : Nat) (s : State) :
    Host.Outcome State Fault Refusal :=
  let r := s.startRec
  if r.started || steps.length ≠ 10 || decide (2800 < powerLimit) || decide (1024 ≤ deviceNo) then .next (s.report .refused)
  else if 2 ≤ r.inARow then .next (s.report (.startStopped (r.stoppedAt.getD 0)))
  else
    let ran := runSteps r.steps 1 steps
    let bs := ran ++ List.replicate (10 - ran.length) 0
    let marks := if bs.getD 1 0 = 0 then [] else invalid
    let c := { s.cold with lifetime := marks.foldl Lifetime.zero s.lifetime }
    let c := (failedSteps ran).foldl (fun c k => c.count (.startFail k) 1) (c.count .starts 1)
    if ran.getLast? = some 2 then
      .next ({ c with startRec := { r with
        steps := bs
        invalid := marks
        stoppedAt := some ran.length
        inARow := if r.stoppedAt = some ran.length then r.inARow + 1 else 1
        alternates := []
        started := false } }.report (.startStopped ran.length))
    else
      .next { c with
        startRec := {
          steps := bs
          invalid := marks
          stoppedAt := none
          inARow := 0
          alternates := alternateSteps ran
          started := true }
        islands := startIslands (alternateSteps ran)
        powerLimit := powerLimit
        deviceNo := deviceNo }

/-- START_RECORD_CLEAR (R406). -/
def execStartRecordClear (s : State) : Host.Outcome State Fault Refusal :=
  .next { s with startRec := { started := s.startRec.started, alternates := s.startRec.alternates } }

/-! ### Islands and power (R22, R24, R381, R407, R408) -/

/-- An alternate of the start holds the island at reduced, or lower, until the next start: step 3 the hub's, steps 5, 6 and 7
the core islands (R406). -/
def State.held (s : State) (i : Nat) : Bool :=
  if i < 24 then heldLow s.startRec.alternates
  else decide (28 ≤ i) && decide (i < 30) && s.startRec.alternates.contains 3

/-- States that an island of its kind has (Table 24.5): retention and self-refresh count as clock-stopped. A hub island
stays in run, but for the alternate of start step 3 (R406). -/
def islandHas (i : Nat) (st : IslandState) : Bool :=
  if i < 24 then true
  else if i < 28 then st != .reduced
  else if i < 30 then st == .run || st == .reduced
  else decide (i < 32) && (st == .run || st == .stopped)

end Sys2Proof.Machine

namespace Sys2Proof

/-- Rank of an island state, higher for more. -/
def IslandState.rank (st : IslandState) : Nat :=
  match st with
  | .run => 3
  | .reduced => 2
  | .stopped => 1
  | .off => 0

end Sys2Proof

namespace Sys2Proof.Machine

/-- A block has its allocation, or a wave of its own, on a core island (R288, R381, R407). -/
def State.onIsland (s : State) (i key : Nat) (b : Block) : Bool :=
  b.placed && (s.coresOf key b).any fun c => islandOf b.die c == i

/-- A block of a replaying context lies on the island. -/
def State.replayIsland (s : State) (i key : Nat) (b : Block) : Bool :=
  s.onIsland i key b && match s.blockCtx b with
    | some c => s.replays c
    | none => false

/-- A halted wave stands on the island. -/
def State.haltedOn (s : State) (i : Nat) : Bool :=
  s.waves.any fun e => e.2.halted && !e.2.saved && islandOf e.2.die e.2.core == i

/-- A replay in progress on an island's cores ends. -/
def State.stopReplays (s : State) (i : Nat) : State :=
  { s with
    cores := s.cores.map fun (e : Nat × Core) =>
      if islandOf (e.1 / 48) (e.1 % 48) = i then (e.1, { e.2 with replay := e.2.replay.map fun r => { r with replay := none } }) else e }

/-- A core island enters a state; off loses what its cores held. -/
def State.setCoreIsland (s : State) (i : Nat) (st : IslandState) : State :=
  let t := { s with islands := s.islands.put i st }
  if st ≠ .off then t
  else
    { t with
      cores := t.cores.map fun (e : Nat × Core) =>
        if islandOf (e.1 / 48) (e.1 % 48) = i then (e.1, { e.2 with tlb := [], text := [] }) else e }

/-- Base-die SRAM off: the granules of its die are untagged, and nothing in them is kept (R247). -/
def State.sramOff (s : State) (die : Nat) : State :=
  { s with
    lds := s.lds.filter fun e => dieOf e.1 ≠ die
    ldsTags := s.ldsTags.filter fun e => dieOf (e.1 * 4096) ≠ die }

/-- ISLAND_STATE_SET (R381, R407, R408): an island below run first has the blocks of replaying contexts saved; one to be
off has all its blocks saved, and a halted wave holds it out of off. While the base-die SRAM of a die is off every core island
of the die is. -/
def execIslandStateSet (i : Nat) (st : IslandState) (s : State) : Host.Outcome State Fault Refusal :=
  if !islandHas i st || (st == .run && s.held i) || (st == .reduced && decide (24 ≤ i) && !s.held i) then .next (s.report .refused)
  else if i < 24 then
    if st ≠ .off && s.island (24 + i / 6) = .off then .next (s.report .refused)
    else if st ≠ .run && s.blocks.any (fun e => s.replayIsland i e.1 e.2) then
      .next ((s.saveBlocks (s.replayIsland i)).stopReplays i)
    else if st = .off && s.haltedOn i then .next (s.report .refused)
    else if st = .off && s.blocks.any (fun e => s.onIsland i e.1 e.2) then .next (s.saveBlocks (s.onIsland i))
    else .next (s.setCoreIsland i st)
  else if decide (i < 28) && st == .off then
    if (List.range 6).all fun k => s.island ((i - 24) * 6 + k) == .off then
      .next ({ s with islands := s.islands.put i st }.sramOff (i - 24))
    else .next (s.report .refused)
  else .next { s with islands := s.islands.put i st }

/-- Blocks of a waiting cooperative grid would go onto a core island (R305, R407). -/
def State.coopOn (s : State) (i : Nat) : Bool :=
  match (s.coopWaiting.bind fun n => s.grids.get n).bind fun g => (s.kernels.get g.kernel).map fun k => (g, k) with
  | some (g, k) => match s.coopPlan k.desc g with
    | some ps => ps.any fun p => p.2.any fun c => islandOf p.1 c == i
    | none => false
  | none => false

/-- ISLAND_WAKE (R407): a waiting block raises a reduced or clock-stopped core island, one in the queue of its die or one of a
cooperative grid that waits; an access raises SRAM or an HBM PHY. -/
def execIslandWake (i : Nat) (st : IslandState) (s : State) : Host.Outcome State Fault Refusal :=
  let now := s.island i
  if !islandHas i st || decide (st.rank ≤ now.rank) || now == .off || (st == .run && s.held i) then .next s
  else if i < 24 then
    if (s.die (i / 6)).queue.isEmpty && !s.coopOn i then .next s
    else .next (s.setCoreIsland i st)
  else .next { s with islands := s.islands.put i st }

/-- POWER_LIMIT_SET (R2, R24): at most 2,800 W. -/
def execPowerLimitSet (watts : Nat) (s : State) : Host.Outcome State Fault Refusal :=
  if watts ≤ 2800 then .next { s with powerLimit := watts } else .next (s.report .refused)

end Sys2Proof.Machine
end

