-- ==== Sys2Proof/Machine/Walks.lean ====
section
/-! DEFINITION. The walker of a die, page faults and their resolution, and translation invalidations
(R174, R239 to R245). -/

namespace Sys2Proof.Machine

/-! ### Walks (R242) -/

/-- An entry enters a translation cache of 2,048; a full one gives up the entry at an index. -/
def Core.fill (k : Core) (e : TlbEntry) (evict : Nat) : Core :=
  if k.tlb.contains e then k
  else if k.tlb.length < 2048 then { k with tlb := k.tlb ++ [e] }
  else { k with tlb := k.tlb.eraseIdx (evict % k.tlb.length) ++ [e] }

/-- The wave still waits at issue on the core from which it asked. -/
def State.asks (s : State) (die : Nat) (q : WalkReq) : Bool :=
  match s.waves.get q.wave with
  | some w => w.die == die && w.core == q.core && !w.saved && (w.phase == .starting || w.phase == .active)
  | none => false

/-- What a request's lanes meet when they are translated anew: lane, cause and reason, address; in a page whose walk has
just failed, that walk's reason. -/
def State.retranslate (s : State) (c : Nat) (q : WalkReq) (failed : Option (Nat × Nat)) :
    List (Nat × (Cause × Nat) × DWord) :=
  q.vas.filterMap fun p =>
    match failed, s.translateNow c p.2 q.need with
    | some (page, reason), r =>
      if p.2.toNat / 65536 = page then some (p.1, (.pageFault, reason), p.2)
      else match r with
        | .bad e why => some (p.1, (e, why), p.2)
        | _ => none
    | none, .bad e why => some (p.1, (e, why), p.2)
    | none, _ => none

/-- The fault that a failed walk brings to a request: one for the instruction, of its lowest faulting lane, and none
where a lane meets PERMISSION, which the instruction raises first, or where the wave has one already (R245, R367). -/
def State.requestFault (s : State) (die c page reason : Nat) (q : WalkReq) : State :=
  let bad := s.retranslate c q (some (page, reason))
  if (bad.any fun b => b.2.1.1 == .permission) || (s.core die q.core).stall.any fun p => p.req.wave == q.wave then s
  else
    match bad with
    | [] => s
    | b :: _ => s.pageFault die ⟨c, q, b.2.1.2, b.2.2⟩

/-- An error that the walker of a die has met in an entry is reported (R249). -/
def State.walkError (s : State) (die c : Nat) (va : DWord) (memErr : Option Nat) : State :=
  if s.walkMeets c va memErr then s.uncorrectable { cause := .uncorrectable, ctx := c, die := die, flags := 2 } 4 else s

/-- TRANSLATION_WALK_DONE (R241, R242, R249): the cores that asked receive the entry, or take the fault. An error may stand in
one byte of the entries on the path: the walk ends at its entry at the latest. Of the walks waiting, the first 64 are under
way. -/
def execTranslationWalkDone (die idx evict : Nat) (memErr : Option Nat) (s : State) : Host.Outcome State Fault Refusal :=
  match if idx < 64 then (s.die die).walks[idx]? else none with
  | none => .next s
  | some k =>
    let s := s.updDie die fun d => { d with walks := d.walks.eraseIdx idx }
    let va := BitVec.ofNat 64 (k.page * 65536)
    let r := s.walkBy k.ctx va memErr
    let s := s.walkError die k.ctx va memErr
    match r with
    | .ok e => .next (k.reqs.foldl (fun s q => s.updCore die q.core fun c => c.fill e evict) s)
    | .error reason => .next ((k.reqs.filter (s.asks die)).foldl (fun s q => s.requestFault die k.ctx k.page reason q) s)

/-! ### Page faults (R174, R245) -/

/-- The instruction at the wave's PC, whose window checks are behind it as it waits for its page, is one that exposes its
block (R308). -/
def State.exposesHere (s : State) (w : Wave) (x : WCtx) : Bool :=
  match decodeBytes (s.fetch w x) with
  | .ok (.cpyo _ _ _ _ _ _ arr, _) => (arrwCause w x arr).isNone
  | .ok (.tdrain .., _) | .ok (.crootcas .., _) | .ok (.ccopyout .., _) => true
  | _ => false

/-- A fault that Curator reports as unresolvable is delivered at the instruction (R174, R367); one that is found to be
resolved already costs a fresh walk and nothing more. -/
def State.unresolved (s : State) (p : PageStall) : State :=
  match s.waves.get p.req.wave with
  | none => s
  | some w =>
    match s.wctx w with
    | none => s
    | some x =>
      let bad := s.retranslate p.ctx p.req (if p.reason = 5 then some (p.va.toNat / 65536, 5) else none)
      match worstCause (bad.map fun b => (b.1, b.2.1.1, b.2.2)) with
      | none => s
      | some c =>
        let reason := ((bad.find? fun b => b.2.1.1 == c.1).map fun b => b.2.1.2).getD 0
        (s.expose w (s.exposesHere w x)).deliver p.req.wave w x c.1 c.2.1 c.2.2 (BitVec.ofNat 32 reason)

/-- PAGE_FAULT_RESOLUTION (R174): Curator resolves a core's oldest fault, or reports that it cannot; while
dispatch is frozen the core stays stalled, until a restarted Curator takes what it finds (R377). -/
def execPageFaultResolution (die core : Nat) (resolved : Bool) (s : State) : Host.Outcome State Fault Refusal :=
  match (s.core die core).stall with
  | [] => .next s
  | p :: rest =>
    if s.frozen && s.taking.isNone then .next s
    else
    let s := s.updCore die core fun k => { k with stall := rest }
    .next (if resolved then s else if s.asks die p.req then s.unresolved p else s)

/-! ### Invalidations (R243, R244) -/

/-- The entry maps an address of a range of a context; no range is the whole space. -/
def TlbEntry.hit (e : TlbEntry) (c : Nat) (range : Option (BitVec 64 × BitVec 64)) : Bool :=
  e.ctx == c && match range with
  | none => true
  | some r => decide (e.va ≤ r.2.toNat) && decide (r.1.toNat < e.va + e.size)

/-- TRANSLATION_INVALIDATION (R243): the range is given by its first and last address. -/
def execTranslationInvalidation (ctx : Nat) (range : Option (BitVec 64 × BitVec 64)) (s : State) :
    Host.Outcome State Fault Refusal :=
  .next { s with invalidations := s.invalidations ++ [⟨ctx, range⟩] }

/-- A copy that translated in the range has not had its tag count fall. -/
def State.copiesUnder (s : State) (v : Invalidation) : Bool :=
  s.waves.any fun e =>
    (match s.wctx e.2 with
      | some x => x.grid.ctx == v.ctx
      | none => false) &&
    e.2.copies.any fun c => (c.kind == .load || c.kind == .store) && c.lanes.any fun l =>
      l.pa.isSome && match v.range with
      | none => true
      | some r => decide (l.va.toNat ≤ r.2.toNat) && decide (r.1.toNat < l.va.toNat + l.bytes)

/-- INVALIDATION_COMPLETE (R243): no translation cache holds an entry of the range. -/
def execInvalidationComplete (idx : Nat) (s : State) : Host.Outcome State Fault Refusal :=
  match s.invalidations[idx]? with
  | none => .next s
  | some v =>
    if s.copiesUnder v then .next s
    else
      .next ({ s with
        invalidations := s.invalidations.eraseIdx idx
        cores := s.cores.map fun (e : Nat × Core) => (e.1, { e.2 with tlb := e.2.tlb.filter fun t => !t.hit v.ctx v.range }) }.report
          .invalidationDone)

end Sys2Proof.Machine
end

