-- ==== Sys2Proof/Machine/Dispatch.lean ====
section
/-! DEFINITION. The dispatch of every instruction and event to its meaning. -/

namespace Sys2Proof.Machine

/-- Execution of one instruction or event. -/
def exec (i : Instr) (s : State) : Host.Outcome State Fault Refusal :=
  match i with
  | .nop h => Sys2Proof.Machine.execNop h s
  | .br h count => Sys2Proof.Machine.execBr h count s
  | .brx h a => Sys2Proof.Machine.execBrx h a s
  | .call h d b => Sys2Proof.Machine.execCall h d b s
  | .ret h a => Sys2Proof.Machine.execRet h a s
  | .exit h => Sys2Proof.Machine.execExit h s
  | .yield_ h => Sys2Proof.Machine.execYield h s
  | .trap h code => Sys2Proof.Machine.execTrap h code s
  | .sysc h code => Sys2Proof.Machine.execSysc h code s
  | .brkpt h code => Sys2Proof.Machine.execBrkpt h code s
  | .icinv h => Sys2Proof.Machine.execIcinv h s
  | .jenrol h d => Sys2Proof.Machine.execJenrol h d s
  | .jwait h d => Sys2Proof.Machine.execJwait h d s
  | .jstrike h d => Sys2Proof.Machine.execJstrike h d s
  | .hret h a => Sys2Proof.Machine.execHret h a s
  | .pcmin h d a => Sys2Proof.Machine.execPcmin h d a s
  | .pcmaj h d a => Sys2Proof.Machine.execPcmaj h d a s
  | .pceq h d a b => Sys2Proof.Machine.execPceq h d a b s
  | .iadd h d a b m => Sys2Proof.Machine.execIadd h d a b m s
  | .isub h d a b m => Sys2Proof.Machine.execIsub h d a b m s
  | .imul h d a b m => Sys2Proof.Machine.execImul h d a b m s
  | .imulh h d a b m => Sys2Proof.Machine.execImulh h d a b m s
  | .imad h d a b m => Sys2Proof.Machine.execImad h d a b m s
  | .imin h d a b m => Sys2Proof.Machine.execImin h d a b m s
  | .imax h d a b m => Sys2Proof.Machine.execImax h d a b m s
  | .iabs h d a m => Sys2Proof.Machine.execIabs h d a m s
  | .ineg h d a m => Sys2Proof.Machine.execIneg h d a m s
  | .and h d a b m => Sys2Proof.Machine.execAnd h d a b m s
  | .or h d a b m => Sys2Proof.Machine.execOr h d a b m s
  | .xor h d a b m => Sys2Proof.Machine.execXor h d a b m s
  | .andn h d a b m => Sys2Proof.Machine.execAndn h d a b m s
  | .not h d a m => Sys2Proof.Machine.execNot h d a m s
  | .shl h d a b m => Sys2Proof.Machine.execShl h d a b m s
  | .shr h d a b m => Sys2Proof.Machine.execShr h d a b m s
  | .sar h d a b m => Sys2Proof.Machine.execSar h d a b m s
  | .rotl h d a b m => Sys2Proof.Machine.execRotl h d a b m s
  | .popc h d a m => Sys2Proof.Machine.execPopc h d a m s
  | .clz h d a m => Sys2Proof.Machine.execClz h d a m s
  | .brev h d a m => Sys2Proof.Machine.execBrev h d a m s
  | .bfe h d a b m => Sys2Proof.Machine.execBfe h d a b m s
  | .bfi h d a b m => Sys2Proof.Machine.execBfi h d a b m s
  | .logt h d a b t => Sys2Proof.Machine.execLogt h d a b t s
  | .mov h d a ty => Sys2Proof.Machine.execMov h d a ty s
  | .movi h d v => Sys2Proof.Machine.execMovi h d v s
  | .sel h d a b neg p => Sys2Proof.Machine.execSel h d a b neg p s
  | .icvt h d a dt st sat => Sys2Proof.Machine.execIcvt h d a dt st sat s
  | .isetp h d a b ty cmp comb => Sys2Proof.Machine.execIsetp h d a b ty cmp comb s
  | .fsetp h d a b ty cmp comb => Sys2Proof.Machine.execFsetp h d a b ty cmp comb s
  | .plogt h d a b t => Sys2Proof.Machine.execPlogt h d a b t s
  | .vote h d a mode => Sys2Proof.Machine.execVote h d a mode s
  | .shfl h d a b seg mode => Sys2Proof.Machine.execShfl h d a b seg mode s
  | .fadd h d a b m => Sys2Proof.Machine.execFadd h d a b m s
  | .fsub h d a b m => Sys2Proof.Machine.execFsub h d a b m s
  | .fmul h d a b m => Sys2Proof.Machine.execFmul h d a b m s
  | .ffma h d a b m => Sys2Proof.Machine.execFfma h d a b m s
  | .fmin h d a b m => Sys2Proof.Machine.execFmin h d a b m s
  | .fmax h d a b m => Sys2Proof.Machine.execFmax h d a b m s
  | .fdiv h d a b m => Sys2Proof.Machine.execFdiv h d a b m s
  | .fsqrt h d a m => Sys2Proof.Machine.execFsqrt h d a m s
  | .frcp h d a m => Sys2Proof.Machine.execFrcp h d a m s
  | .frsq h d a m => Sys2Proof.Machine.execFrsq h d a m s
  | .fexp2 h d a m => Sys2Proof.Machine.execFexp2 h d a m s
  | .flog2 h d a m => Sys2Proof.Machine.execFlog2 h d a m s
  | .fsin h d a m => Sys2Proof.Machine.execFsin h d a m s
  | .fcos h d a m => Sys2Proof.Machine.execFcos h d a m s
  | .fclass h d a m => Sys2Proof.Machine.execFclass h d a m s
  | .frnd h d a m => Sys2Proof.Machine.execFrnd h d a m s
  | .fabs h d a m => Sys2Proof.Machine.execFabs h d a m s
  | .fneg h d a m => Sys2Proof.Machine.execFneg h d a m s
  | .fcvt h d a dt st rnd ftz ovf se de => Sys2Proof.Machine.execFcvt h d a dt st rnd ftz ovf se de s
  | .f2i h d a dt st rnd => Sys2Proof.Machine.execF2i h d a dt st rnd s
  | .i2f h d a dt st rnd => Sys2Proof.Machine.execI2f h d a dt st rnd s
  | .pack h d a b dt rnd ftz hi => Sys2Proof.Machine.execPack h d a b dt rnd ftz hi s
  | .unpk h d a st g => Sys2Proof.Machine.execUnpk h d a st g s
  | .dot4i8 h d a b sa sb => Sys2Proof.Machine.execDot4i8 h d a b sa sb s
  | .dot8i4 h d a b sa sb => Sys2Proof.Machine.execDot8i4 h d a b sa sb s
  | .dot4f8 h d a b ea eb sc rnd => Sys2Proof.Machine.execDot4f8 h d a b ea eb sc rnd s
  | .dot2bf h d a b rnd => Sys2Proof.Machine.execDot2bf h d a b rnd s
  | .dotb32 h d a b conj => Sys2Proof.Machine.execDotb32 h d a b conj s
  | .ld h d a b ty => Sys2Proof.Machine.execLd h d a b ty s
  | .st h d a b ty => Sys2Proof.Machine.execSt h d a b ty s
  | .atom h d a b op ord w64 => Sys2Proof.Machine.execAtom h d a b op ord w64 s
  | .fence h a b kind => Sys2Proof.Machine.execFence h a b kind s
  | .cpy h d a b size tag arr => Sys2Proof.Machine.execCpy h d a b size tag arr s
  | .cpyo h d a b size tag arr => Sys2Proof.Machine.execCpyo h d a b size tag arr s
  | .bulk h a b tag => Sys2Proof.Machine.execBulk h a b tag s
  | .arrinit h a b => Sys2Proof.Machine.execArrinit h a b s
  | .arrwait h d a b => Sys2Proof.Machine.execArrwait h d a b s
  | .arrtest h d a b => Sys2Proof.Machine.execArrtest h d a b s
  | .crpoll h d a => Sys2Proof.Machine.execCrpoll h d a s
  | .crsleep h a => Sys2Proof.Machine.execCrsleep h a s
  | .waitc h l s_ c t => Sys2Proof.Machine.execWaitc h l s_ c t s
  | .waitt h tag n => Sys2Proof.Machine.execWaitt h tag n s
  | .bararr h b => Sys2Proof.Machine.execBararr h b s
  | .barwait h b => Sys2Proof.Machine.execBarwait h b s
  | .barsync h b => Sys2Proof.Machine.execBarsync h b s
  | .barq h d b => Sys2Proof.Machine.execBarq h d b s
  | .sracq h d ring => Sys2Proof.Machine.execSracq h d ring s
  | .srpost h a ring => Sys2Proof.Machine.execSrpost h a ring s
  | .srwait h d ring => Sys2Proof.Machine.execSrwait h d ring s
  | .srfree h a ring => Sys2Proof.Machine.execSrfree h a ring s
  | .srbind h d a b ring => Sys2Proof.Machine.execSrbind h d a b ring s
  | .tzero h n => Sys2Proof.Machine.execTzero h n s
  | .tldw h a b wd s24 => Sys2Proof.Machine.execTldw h a b wd s24 s
  | .tmma h n a b fmt acc => Sys2Proof.Machine.execTmma h n a b fmt acc s
  | .tmmas h n a b fmt acc => Sys2Proof.Machine.execTmmas h n a b fmt acc s
  | .tbin h n a b conj acc => Sys2Proof.Machine.execTbin h n a b conj acc s
  | .tlut h n a b z4 acc => Sys2Proof.Machine.execTlut h n a b z4 acc s
  | .tscacc h n a p => Sys2Proof.Machine.execTscacc h n a p s
  | .tdrain h d n b wd mode hbm => Sys2Proof.Machine.execTdrain h d n b wd mode hbm s
  | .tcvt h n dt st rnd ovf => Sys2Proof.Machine.execTcvt h n dt st rnd ovf s
  | .tsetph h a => Sys2Proof.Machine.execTsetph h a s
  | .dlaunch h d a => Sys2Proof.Machine.execDlaunch h d a s
  | .dlwait h d a => Sys2Proof.Machine.execDlwait h d a s
  | .nodeput h d a b => Sys2Proof.Machine.execNodeput h d a b s
  | .qclaim h d a b => Sys2Proof.Machine.execQclaim h d a b s
  | .qnotify h d a b => Sys2Proof.Machine.execQnotify h d a b s
  | .claim h a b => Sys2Proof.Machine.execClaim h a b s
  | .claimend h b => Sys2Proof.Machine.execClaimend h b s
  | .itemend h => Sys2Proof.Machine.execItemend h s
  | .clook h d a dom tag node => Sys2Proof.Machine.execClook h d a dom tag node s
  | .cfetch h d a b dom tag => Sys2Proof.Machine.execCfetch h d a b dom tag s
  | .cref h d a dom => Sys2Proof.Machine.execCref h d a dom s
  | .cunref h d a dom => Sys2Proof.Machine.execCunref h d a dom s
  | .crootcas h d a b => Sys2Proof.Machine.execCrootcas h d a b s
  | .ccopyout h a b tag => Sys2Proof.Machine.execCcopyout h a b tag s
  | .hintSpaceWord bits => Sys2Proof.Machine.execHintSpaceWord bits s
  | .writeRunm w v => Sys2Proof.Machine.execWriteRunm w v s
  | .writeParkm w v => Sys2Proof.Machine.execWriteParkm w v s
  | .writeLpc w lanes vals => Sys2Proof.Machine.execWriteLpc w lanes vals s
  | .writeHrun2 w v => Sys2Proof.Machine.execWriteHrun2 w v s
  | .writeSglim w v => Sys2Proof.Machine.execWriteSglim w v s
  | .writeSgq w v => Sys2Proof.Machine.execWriteSgq w v s
  | .writeDither w v => Sys2Proof.Machine.execWriteDither w v s
  | .writeFflags w v => Sys2Proof.Machine.execWriteFflags w v s
  | .readFflags w d => Sys2Proof.Machine.execReadFflags w d s
  | .writeHvec w v => Sys2Proof.Machine.execWriteHvec w v s
  | .writeSpecialRegister w n v => Sys2Proof.Machine.execWriteSpecialRegister w n v s
  | .serialSteering w => Sys2Proof.Machine.execSerialSteering w s
  | .quantumEnd w => Sys2Proof.Machine.execQuantumEnd w s
  | .handlerOverrun w => Sys2Proof.Machine.execHandlerOverrun w s
  | .waveEnd w => Sys2Proof.Machine.execWaveEnd w s
  | .loadComplete w err => Sys2Proof.Machine.execLoadComplete w err s
  | .storePerformed w => Sys2Proof.Machine.execStorePerformed w s
  | .translationWalkDone die idx evict memErr => Sys2Proof.Machine.execTranslationWalkDone die idx evict memErr s
  | .pageFaultResolution die core resolved => Sys2Proof.Machine.execPageFaultResolution die core resolved s
  | .translationInvalidation ctx range => Sys2Proof.Machine.execTranslationInvalidation ctx range s
  | .invalidationComplete idx => Sys2Proof.Machine.execInvalidationComplete idx s
  | .copyLaneDone w op lane peer err => Sys2Proof.Machine.execCopyLaneDone w op lane peer err s
  | .copyTagFall w tag => Sys2Proof.Machine.execCopyTagFall w tag s
  | .arrwaitWake w => Sys2Proof.Machine.execArrwaitWake w s
  | .crsleepWake w => Sys2Proof.Machine.execCrsleepWake w s
  | .cardRead die core => Sys2Proof.Machine.execCardRead die core s
  | .cardStart card others => Sys2Proof.Machine.execCardStart card others s
  | .cardDone card err => Sys2Proof.Machine.execCardDone card err s
  | .cardPartialFault card => Sys2Proof.Machine.execCardPartialFault card s
  | .cardResume card => Sys2Proof.Machine.execCardResume card s
  | .cardCancel card => Sys2Proof.Machine.execCardCancel card s
  | .barrierWake w => Sys2Proof.Machine.execBarrierWake w s
  | .ringWake w => Sys2Proof.Machine.execRingWake w s
  | .ringBoundPost block partner ring slot => Sys2Proof.Machine.execRingBoundPost block partner ring slot s
  | .tileCountFall f => Sys2Proof.Machine.execTileCountFall f s
  | .seqContribution w => Sys2Proof.Machine.execSeqContribution w s
  | .clookFinish w op err => Sys2Proof.Machine.execClookFinish w op err s
  | .cfetchFinish w op err => Sys2Proof.Machine.execCfetchFinish w op err s
  | .cascade dom => Sys2Proof.Machine.execCascade dom s
  | .loadCodeObject ctx o => Sys2Proof.Machine.execLoadCodeObject ctx o s
  | .kernelUnload ctx obj => Sys2Proof.Machine.execKernelUnload ctx obj s
  | .kernelUnloaded ctx obj => Sys2Proof.Machine.execKernelUnloaded ctx obj s
  | .gridRetire grid => Sys2Proof.Machine.execGridRetire grid s
  | .gridCancel grid => Sys2Proof.Machine.execGridCancel grid s
  | .dlwaitWake w => Sys2Proof.Machine.execDlwaitWake w s
  | .batchCountdown die gatherer => Sys2Proof.Machine.execBatchCountdown die gatherer s
  | .gathererUnbind die gatherer => Sys2Proof.Machine.execGathererUnbind die gatherer s
  | .claimWaveForm die core p => Sys2Proof.Machine.execClaimWaveForm die core p s
  | .itemRetire w => Sys2Proof.Machine.execItemRetire w s
  | .bodyWaveForm die core p => Sys2Proof.Machine.execBodyWaveForm die core p s
  | .reservingLaunchStart die home p => Sys2Proof.Machine.execReservingLaunchStart die home p s
  | .dieSlotReport die => Sys2Proof.Machine.execDieSlotReport die s
  | .pifoServe => Sys2Proof.Machine.execPifoServe s
  | .globalDispatchBatch => Sys2Proof.Machine.execGlobalDispatchBatch s
  | .coopGridPlace grid g recs => Sys2Proof.Machine.execCoopGridPlace grid g recs s
  | .blockAdmit die g rec => Sys2Proof.Machine.execBlockAdmit die g rec s
  | .preemptRequest die block => Sys2Proof.Machine.execPreemptRequest die block s
  | .drainBudgetExpire block => Sys2Proof.Machine.execDrainBudgetExpire block s
  | .blockSave block => Sys2Proof.Machine.execBlockSave block s
  | .blockResume die block cores g => Sys2Proof.Machine.execBlockResume die block cores g s
  | .blockFlush block => Sys2Proof.Machine.execBlockFlush block s
  | .blockRetire block => Sys2Proof.Machine.execBlockRetire block s
  | .sliceExpire die ctx => Sys2Proof.Machine.execSliceExpire die ctx s
  | .queueClaimRemote q expected n => Sys2Proof.Machine.execQueueClaimRemote q expected n s
  | .remoteNotify port session bytes => Sys2Proof.Machine.execRemoteNotify port session bytes s
  | .slotReread q => Sys2Proof.Machine.execSlotReread q s
  | .packetTake q => Sys2Proof.Machine.execPacketTake q s
  | .launch q => Sys2Proof.Machine.execLaunch q s
  | .node q die => Sys2Proof.Machine.execNode q die s
  | .copy q => Sys2Proof.Machine.execCopy q s
  | .signal q => Sys2Proof.Machine.execSignal q s
  | .wait q => Sys2Proof.Machine.execWait q s
  | .waitSatisfied q => Sys2Proof.Machine.execWaitSatisfied q s
  | .writeSignal q => Sys2Proof.Machine.execWriteSignal q s
  | .barrier q => Sys2Proof.Machine.execBarrier q s
  | .pifoReinsert q rank => Sys2Proof.Machine.execPifoReinsert q rank s
  | .rankProgramInstall idx steps => Sys2Proof.Machine.execRankProgramInstall idx steps s
  | .queueCreate q ctx hdr entries base => Sys2Proof.Machine.execQueueCreate q ctx hdr entries base s
  | .queueBind q ctx program base session => Sys2Proof.Machine.execQueueBind q ctx program base session s
  | .queueOpen q => Sys2Proof.Machine.execQueueOpen q s
  | .queueDrain q => Sys2Proof.Machine.execQueueDrain q s
  | .queueClosed q => Sys2Proof.Machine.execQueueClosed q s
  | .queueForceClose q => Sys2Proof.Machine.execQueueForceClose q s
  | .queueDestroy q => Sys2Proof.Machine.execQueueDestroy q s
  | .contextCreate ctx desc => Sys2Proof.Machine.execContextCreate ctx desc s
  | .makeResident ctx => Sys2Proof.Machine.execMakeResident ctx s
  | .contextEvict ctx => Sys2Proof.Machine.execContextEvict ctx s
  | .contextEnd ctx => Sys2Proof.Machine.execContextEnd ctx s
  | .faultRetry w => Sys2Proof.Machine.execFaultRetry w s
  | .faultContinue w => Sys2Proof.Machine.execFaultContinue w s
  | .faultRedirect w pc => Sys2Proof.Machine.execFaultRedirect w pc s
  | .faultEnd w => Sys2Proof.Machine.execFaultEnd w s
  | .faultLogLostClear ctx => Sys2Proof.Machine.execFaultLogLostClear ctx s
  | .heartbeat cluster => Sys2Proof.Machine.execHeartbeat cluster s
  | .freezeDispatch => Sys2Proof.Machine.execFreezeDispatch s
  | .curatorRestart ok => Sys2Proof.Machine.execCuratorRestart ok s
  | .debugGrant ask agent => Sys2Proof.Machine.execDebugGrant ask agent s
  | .debugAttach ctx agent => Sys2Proof.Machine.execDebugAttach ctx agent s
  | .debugHalt w => Sys2Proof.Machine.execDebugHalt w s
  | .haltReported w => Sys2Proof.Machine.execHaltReported w s
  | .debugStep w => Sys2Proof.Machine.execDebugStep w s
  | .debugResume w => Sys2Proof.Machine.execDebugResume w s
  | .debugStateWrite w wr => Sys2Proof.Machine.execDebugStateWrite w wr s
  | .breakpointSet ctx kernel pc => Sys2Proof.Machine.execBreakpointSet ctx kernel pc s
  | .debugRevoke ask => Sys2Proof.Machine.execDebugRevoke ask s
  | .linkPartnerDetect port => Sys2Proof.Machine.execLinkPartnerDetect port s
  | .linkTrained port lanes => Sys2Proof.Machine.execLinkTrained port lanes s
  | .linkTrainingTimeout port => Sys2Proof.Machine.execLinkTrainingTimeout port s
  | .spdmSessionEstablished port session => Sys2Proof.Machine.execSpdmSessionEstablished port session s
  | .authenticationFailure port => Sys2Proof.Machine.execAuthenticationFailure port s
  | .tagFailureLimit port => Sys2Proof.Machine.execTagFailureLimit port s
  | .laneLoss port lanes => Sys2Proof.Machine.execLaneLoss port lanes s
  | .lossOfSignal port => Sys2Proof.Machine.execLossOfSignal port s
  | .retrain port => Sys2Proof.Machine.execRetrain port s
  | .retrainComplete port lanes within => Sys2Proof.Machine.execRetrainComplete port lanes within s
  | .portQuarantine port => Sys2Proof.Machine.execPortQuarantine port s
  | .portRelease port => Sys2Proof.Machine.execPortRelease port s
  | .portDisable port => Sys2Proof.Machine.execPortDisable port s
  | .keyUpdate port => Sys2Proof.Machine.execKeyUpdate port s
  | .endSession port => Sys2Proof.Machine.execEndSession port s
  | .peerPathTimeout w op lane => Sys2Proof.Machine.execPeerPathTimeout w op lane s
  | .inboundRequest port peer pa req => Sys2Proof.Machine.execInboundRequest port peer pa req s
  | .exportRangeInstall idx range => Sys2Proof.Machine.execExportRangeInstall idx range s
  | .collectiveGroupInstall group ctx members => Sys2Proof.Machine.execCollectiveGroupInstall group ctx members s
  | .collectiveDone card c => Sys2Proof.Machine.execCollectiveDone card c s
  | .deviceStart steps invalid powerLimit deviceNo => Sys2Proof.Machine.execDeviceStart steps invalid powerLimit deviceNo s
  | .startRecordClear => Sys2Proof.Machine.execStartRecordClear s
  | .islandStateSet island st => Sys2Proof.Machine.execIslandStateSet island st s
  | .islandWake island st => Sys2Proof.Machine.execIslandWake island st s
  | .powerLimitSet watts => Sys2Proof.Machine.execPowerLimitSet watts s
  | .lifetimeUpdate e n => Sys2Proof.Machine.execLifetimeUpdate e n s
  | .checkpoint die core => Sys2Proof.Machine.execCheckpoint die core s
  | .journalFullCheckpoint die core => Sys2Proof.Machine.execJournalFullCheckpoint die core s
  | .replayToStop ctx stop => Sys2Proof.Machine.execReplayToStop ctx stop s
  | .replayStopReached die core => Sys2Proof.Machine.execReplayStopReached die core s
  | .replayContinue die core => Sys2Proof.Machine.execReplayContinue die core s
  | .samplePeriodSet ctx period => Sys2Proof.Machine.execSamplePeriodSet ctx period s
  | .stallSample die core ctx held reason => Sys2Proof.Machine.execStallSample die core ctx held reason s
  | .folioTimeout ctx => Sys2Proof.Machine.execFolioTimeout ctx s
  | .folioWritten ok => Sys2Proof.Machine.execFolioWritten ok s
  | .cardCredit card n => Sys2Proof.Machine.execCardCredit card n s
  | .supervisorAccess a => Sys2Proof.Machine.execSupervisorAccess a s
  | .contextDescriptorWrite ctx wr => Sys2Proof.Machine.execContextDescriptorWrite ctx wr s
  | .collectionRegionCreate dom capacity rootBase rootLen => Sys2Proof.Machine.execCollectionRegionCreate dom capacity rootBase rootLen s
  | .supervisorNotify q idx => Sys2Proof.Machine.execSupervisorNotify q idx s
  | .spdmMessage port code m => Sys2Proof.Machine.execSpdmMessage port code m s
  | .powerLoss during landed => Sys2Proof.Machine.execPowerLoss during landed s

end Sys2Proof.Machine
end

