-- ==== Sys2Proof/Machine/Rerun.lean ====
section
/-! DEFINITION. What a replaying core keeps of each step, and how it executes a step of its log again (R397, R399): the turn in
a state that holds nothing but the core, and then the values that came from outside. -/

namespace Sys2Proof.Machine

/-! ### A core by itself (R399) -/

/-- The counters by which free values are read. -/
def State.counters (s : State) : Counters where
  fresh := s.fresh
  errors := s.errors
  hbmClock := s.hbmClock
  readError := s.readError

/-- A device that holds nothing but one core, in run: what its waves do outside the core is lost with it (R399). -/
def CoreImage.alone (m : CoreImage) (die core : Nat) (c : Counters) : State :=
  { State.reset with
    waves := m.waves
    blocks := m.blocks
    grids := m.grids
    kernels := m.kernels
    contexts := m.ctxs
    domains := m.domains
    cores := [(coreKey die core, { tlb := m.tlb, stall := m.stall, unread := m.unread, text := m.text })]
    lds := m.lds
    ldsTags := m.tags
    fresh := c.fresh
    errors := c.errors
    hbmClock := c.hbmClock
    readError := c.readError }

/-- One turn executed, with nothing recorded of it. -/
def State.rerun (s : State) (t : Turn) : State :=
  match s.doTurn t with
  | .set u => u.stampPasses
  | .again _ _ u => u
  | .run i u =>
    match exec i u with
    | .next v => (u.stepOver v i).stampPasses
    | _ => u

/-! ### Inputs from outside (R397) -/

/-- What makes one table of another: the entries that differ, and the keys that have gone. -/
def Tbl.patchTo {α : Type} [DecidableEq α] (a b : Tbl α) : List (Nat × Option α) :=
  ((b.filter fun e => decide (Tbl.get a e.1 ≠ some e.2)).map fun e => (e.1, some e.2)) ++
  (a.filter fun e => (Tbl.get b e.1).isNone).map fun e => (e.1, none)

/-- The table once a patch is applied. -/
def Tbl.patched {α : Type} (a : Tbl α) (p : List (Nat × Option α)) : Tbl α :=
  p.foldl (fun t e => match e.2 with
    | some v => t.put e.1 v
    | none => t.del e.1) a

/-- What makes one store of another: the bytes that differ. -/
def bytesTo (a b : Memory) : List (Nat × Byte) :=
  (((a ++ b).map fun (e : Nat × Byte) => e.1).eraseDups.filter fun x =>
    (Memory.find a x).getD 0 != (Memory.find b x).getD 0).map fun x => (x, (Memory.find b x).getD 0)

/-- A list that differs. -/
def listTo {α : Type} [DecidableEq α] (a b : List α) : Option (List α) := if a = b then none else some b

/-- The values from outside that make one image of a core of another. -/
def CoreImage.inputsTo (a b : CoreImage) : Inputs where
  waves := Tbl.patchTo a.waves b.waves
  blocks := Tbl.patchTo a.blocks b.blocks
  lds := bytesTo a.lds b.lds
  tags := Tbl.patchTo a.tags b.tags
  tlb := listTo a.tlb b.tlb
  stall := listTo a.stall b.stall
  unread := listTo a.unread b.unread
  text := Tbl.patchTo a.text b.text
  grids := Tbl.patchTo a.grids b.grids
  kernels := Tbl.patchTo a.kernels b.kernels
  ctxs := Tbl.patchTo a.ctxs b.ctxs
  domains := Tbl.patchTo a.domains b.domains

/-- The image once values from outside have reached it. -/
def CoreImage.given (m : CoreImage) (i : Inputs) : CoreImage where
  waves := Tbl.patched m.waves i.waves
  blocks := Tbl.patched m.blocks i.blocks
  lds := i.lds.foldl (fun m (e : Nat × Byte) => Memory.set (some 0) m e.1 e.2) m.lds
  tags := Tbl.patched m.tags i.tags
  tlb := i.tlb.getD m.tlb
  stall := i.stall.getD m.stall
  unread := i.unread.getD m.unread
  text := Tbl.patched m.text i.text
  grids := Tbl.patched m.grids i.grids
  kernels := Tbl.patched m.kernels i.kernels
  ctxs := Tbl.patched m.ctxs i.ctxs
  domains := Tbl.patched m.domains i.domains

/-- What a turn makes of a core by itself. -/
def CoreImage.rerun (m : CoreImage) (die core : Nat) (c : Counters) (t : Turn) : CoreImage :=
  ((m.alone die core c).rerun t).coreImage die core

/-- A step of the log executed again: the turn, and the logged inputs (R399). -/
def CoreImage.after (m : CoreImage) (die core : Nat) (e : LogStep) : CoreImage :=
  (m.rerun die core e.counters e.turn).given e.inputs

/-- A step as the log has it, from the images before and after it: what the core does not work out by itself has come from
outside (R397). -/
def LogStep.of (a b : CoreImage) (die core : Nat) (c : Counters) (t : Turn) : LogStep where
  turn := t
  counters := c
  inputs := (a.rerun die core c t).inputsTo b

/-! ### What a replaying core keeps of a step (R397) -/

/-- Instructions that retired on a core in a step. -/
def retiredBy (a b : CoreImage) : Nat :=
  (a.waves.map fun e => match b.waves.get e.1 with
    | some w => w.accn.toNat - e.2.accn.toNat
    | none => 0).sum

/-- The waves of an interval with the counts at which they stand now. -/
def State.seenNow (s : State) (seen : Tbl SeenWave) (ws : Tbl Wave) : Tbl SeenWave :=
  ws.foldl (fun t e => t.put e.1 (match t.get e.1 with
    | some v => { v with last := e.2.accn }
    | none => { ids := s.idsOf e.2, first := e.2.accn, last := e.2.accn })) seen

/-- An interval that has opened in a step begins at the boundary behind it. -/
def Interval.begun (i : Interval) (t : State) (die core : Nat) : Interval :=
  { i with
    start := t.checkpoint die core
    journal := []
    log := []
    seen := t.seenNow [] (t.coreImage die core).waves }

/-- An interval behind one more step, from `s` to `t`: the writes enter the undo journal, a step that has changed the core the
log. -/
def Interval.record (i : Interval) (s t : State) (die core : Nat) (turn : Turn) : Interval :=
  let a := s.coreImage die core
  let b := t.coreImage die core
  { i with
    journal := i.journal ++ journalOf die core a.lds b.lds t.ldsWrote
    log := if a = b then i.log else i.log ++ [LogStep.of a b die core s.counters turn]
    seen := t.seenNow i.seen b.waves }

/-- A replaying core behind a step that opened no interval on it. -/
def ReplayCore.after (r : ReplayCore) (s t : State) (die core : Nat) (turn : Turn) : ReplayCore :=
  let n := r.retired + retiredBy (s.coreImage die core) (t.coreImage die core)
  { r with
    retired := n
    due := r.due || r.retired / 2 ^ 20 != n / 2 ^ 20
    cur := r.cur.map fun i => i.record s t die core turn }

/-- A replaying core behind a step from `s` to `t`: on one that holds no block of its replaying context any more the interval is
closed; one that the step has opened begins; else the step is kept. -/
def ReplayCore.kept (r : ReplayCore) (s t : State) (die core : Nat) (turn : Turn) : ReplayCore :=
  if !(t.coreContexts die core).contains r.ctx then { r.closed with idle := true }
  else
    match (s.core die core).replay with
    | some q =>
      if q.ctx = r.ctx && q.interval = r.interval then r.after s t die core turn
      else { r with cur := r.cur.map fun i => i.begun t die core }
    | none => { r with cur := r.cur.map fun i => i.begun t die core }

/-- The replaying cores behind a step. -/
def State.kept (s t : State) (turn : Turn) : State :=
  { t with
    cores := t.cores.map fun (e : Nat × Core) =>
      (e.1, { e.2 with replay := e.2.replay.map fun r => r.kept s t (e.1 / 48) (e.1 % 48) turn }) }

/-- The state behind a step from `s` to `t`: retirement passes that have become ready marked, what replaying cores keep of the step
and their journal areas, stops judged that a save has held, and dispatch unfrozen where Curator has taken what it found. -/
def State.recorded (s t : State) : State :=
  let t := t.stampPasses
  let u := match s.nextTurn with
    | some turn => s.kept t turn
    | none => t
  ({ u with ldsWrote := [] }.journaled.judgeStops).thaw

/-- The state behind a step in which an instruction or event was executed, in a state `t` with the outcome `u`: recorded, and the
model's counter advances, so that what a peer's memory reads as is free at every step (log entry 3). -/
def State.settled (s t u : State) (i : Instr) : State := (s.recorded (t.stepOver u i)).newKey.2

/-! ### Executing the log again (R399, R400) -/

/-- The replay has more to execute before it stands still. -/
def Replay.runs (p : Replay) : Bool :=
  match p.mode with
  | .toStop => !p.view.stands p.stop
  | .held => false
  | .step n accn phase => match p.view.waves.get n with
    | some w => w.accn == accn && w.phase == phase
    | none => false

/-- A replay that has more to execute, behind one more step of its log, or at the end of it; a step of the debugger's ends where
the wave has executed an instruction. -/
def Replay.onward (p : Replay) (die core : Nat) : Replay :=
  match if p.runs then some p.ahead else none with
  | none => p
  | some [] => if p.mode == .toStop then p else { p with mode := .held }
  | some (e :: rest) =>
    let q := { p with view := p.view.after die core e, ahead := rest }
    if p.mode != .toStop && !q.runs then { q with mode := .held } else q

/-- The replay of a core, if one is in progress, goes on. -/
def ReplayCore.onward (r : ReplayCore) (die core : Nat) : ReplayCore := { r with replay := r.replay.map fun p => p.onward die core }

/-- A core that replays executes one step of its log again, until it stands at its stop or a step of the debugger's is done. -/
def State.replayOn (s : State) (die core : Nat) : State :=
  s.updCore die core fun k => { k with replay := k.replay.map fun r => r.onward die core }

end Sys2Proof.Machine
end

