-- ==== Sys2Proof/Machine/Step.lean ====
section
/-! DEFINITION. The step of the machine, and the state with a given instruction where the next step fetches. -/

namespace Sys2Proof.Machine

/-- One step: one turn of the device, and what it leaves behind recorded. -/
def step (s : State) : Host.Outcome State Fault Refusal :=
  match s.turn with
  | .set t => .next (s.recorded t)
  | .again die core t => .next (s.recorded (t.replayOn die core))
  | .run i t =>
    match exec i t with
    | .next u => .next (s.settled t u i)
    | .fault f => .fault f
    | .refused r => .refused r

/-- The state with an instruction's word at the PC of the wave that the next step issues (log entry 7). -/
def State.withFetchWord (s : State) (_nbits w : Nat) : State := s.placeWord w

end Sys2Proof.Machine
end

