-- ==== Sys2Proof/Safety.lean ====
section
/-! DEFINITION. What counts as a safe run: every step of it answers a next state. -/

namespace Sys2Proof.Machine

/-- The state after `n` steps, where each of them answers a next state. -/
def run : Nat → State → Option State
  | 0, s => some s
  | n + 1, s =>
    match step s with
    | .next t => run n t
    | .fault _ => none
    | .refused _ => none

/-- A run of `n` steps is safe: none of them faults or is refused. -/
def SafeRun (n : Nat) (s : State) : Prop := (run n s).isSome = true

/-- The memories are in canonical form (log entries 2 and 3). -/
def State.memOk (s : State) : Bool := Memory.wf (some 0) s.lds && Memory.wf none s.hbm

end Sys2Proof.Machine
end

