-- ==== Sys2Proof/WellFormed.lean ====
section
/-! DEFINITION. Well-formed instructions: those whose word passes the decode checks that depend on the word alone,
and whose optional operands are not spelled as the field value that means "unused". -/

namespace Sys2Proof

/-- An optional operand is absent, or is not lane register 0, whose field value is "unused" (R53). -/
def optOk (o : Option Operand) : Bool := o != some (.lane 0)

/-- The optional operands of an instruction are spelled in one way. -/
def Instr.optsOk (i : Instr) : Bool :=
  match i with
  | .ld _ _ _ b _ | .st _ _ _ b _ => optOk b
  | .atom _ _ _ b _ _ _ => optOk b
  | .fence _ _ b _ => optOk b
  | .bulk _ _ b _ => optOk b
  | .tdrain _ _ _ b _ _ _ => optOk b
  | .nodeput _ d _ _ | .qnotify _ d _ _ => optOk d
  | .qclaim _ _ _ b => optOk b
  | .claim _ _ b => optOk b
  | .cfetch _ _ _ b _ _ => optOk b
  | _ => true

/-- The float type of F2I and I2F is one that their two-bit field names: not a packed one (R156, R157). -/
def Instr.floatOk (i : Instr) : Bool :=
  match i with
  | .f2i _ _ _ _ ty _ => ty != .f16x2 && ty != .bf16x2
  | .i2f _ _ _ ty _ _ => ty != .f16x2 && ty != .bf16x2
  | _ => true

/-- An instruction of a wave is well-formed: its word passes the decode checks (R67) and lies outside the hint space
(R50). An event is an operation of the device and has no word. -/
def Instr.wf (i : Instr) : Bool :=
  match i.toRaw with
  | some r => (decodeFault {} r).isNone && !r.inHintSpace && i.optsOk && i.floatOk
  | none => true

end Sys2Proof
end

