-- ==== Sys2Proof/Certificates/Slice0/Obligations.lean ====
section
/-! DEFINITION. The statements for the provers: first the terms in which they are said, then one definition each. -/

namespace Sys2Proof.Claims

open Sys2Proof.Machine

/-! ### Terms -/

/-- The current wave of `s` is `v`, and nothing but the meaning of `i` decides what happens next: its word passes the
decode checks at that wave (R67), and the scoreboard does not hold it back (R91). `x` is the wave's block, grid and
kernel. -/
structure Ready (i : Instr) (s : State) (v : Wave) (x : WCtx) : Prop where
  wave : s.waves.get s.cur = some v
  ctx : (s.begun s.cur v).wctx v.begun = some x
  word : ∃ r o, i.toRaw = some r ∧ Op.ofCode r.op = some o ∧ decodeFault (x.decode v.begun) r = none ∧
    v.begun.interlocked o r = false

/-- A condition on the state as the instruction finds it, its wave, and what the wave belongs to. -/
abbrev Cond := State → Wave → WCtx → Prop

def always : Cond := fun _ _ _ => True

/-- The guard holds in some lane of RUN, so that an instruction that acts once acts (R49). -/
def someLane (h : Head) : Cond := fun _ w _ => w.guard h ≠ 0

/-- The instruction answers a next state: `u` of the state, wave and context at issue. It says itself where the wave goes on
(branches, returns, exits), or holds the wave, or raises its cause. -/
def Ends (i : Instr) (pre : Cond) (u : State → Wave → WCtx → State) : Prop :=
  ∀ s v x, Ready i s v x → pre (s.begun s.cur v) v.begun x → exec i s = .next (u (s.begun s.cur v) v.begun x)

/-- Where an instruction leads that goes on to the word behind it: to `next`; from the last word of its text it raises
PC_RANGE with every lane of RUN, and of its effects `u` none stands but that its block is exposed (R95, R308; model's reading:
log entry 13). -/
def onward (u next : State → Wave → WCtx → State) (t : State) (w : Wave) (x : WCtx) : State :=
  if w.nextPc.toNat < x.textLen then next t w x else (t.exposedAs (u t w x) w).deliver t.cur w x .pcRange w.run 0 0

/-- The instruction answers a next state: `u` of the state, wave and context at issue, in which the wave then retires it
and goes on to the next instruction (R95, R103); in the last word of its text it raises PC_RANGE. -/
def Runs (i : Instr) (pre : Cond) (u : State → Wave → WCtx → State) : Prop :=
  Ends i pre (onward u fun t w x => (u t w x).updWave t.cur fun q => (w.retire q).goto w.nextPc)

/-- Only the wave's own record changes. -/
def Sets (i : Instr) (pre : Cond) (f : State → Wave → WCtx → Wave) : Prop := Runs i pre fun t w x => t.setWave t.cur (f t w x)

/-- D receives a value in each guarded lane of RUN, or once where it is uniform (R48, R49, R56, R124). -/
def Puts (i : Instr) (h : Head) (d : Operand) (wide : Bool) (f : Wave → WCtx → Nat → DWord) : Prop :=
  Sets i always fun _ w x => w.writeD d wide (w.guard h) (f w x)

/-- The lanes that compute: the guarded ones, or the lowest of them for a uniform D. -/
def computing (w : Wave) (h : Head) (d : Operand) : List Nat :=
  match d with
  | .uni _ => (lowestLane (w.guard h)).toList
  | _ => lanesOf (w.guard h)

/-- D receives values, and the exception flags of every lane that computes enter `%fflags` (R79). -/
def PutsF (i : Instr) (h : Head) (d : Operand) (wide : Bool) (f : Wave → WCtx → Nat → DWord × BitVec 5) : Prop :=
  Sets i always fun _ w x =>
    { w.writeD d wide (w.guard h) (fun l => (f w x l).1) with
      fflags := (computing w h d).foldl (fun a l => a ||| (f w x l).2) (w.writeD d wide (w.guard h) fun l => (f w x l).1).fflags }

/-- A predicate is written in each guarded lane. -/
def PutsQ (i : Instr) (h : Head) (d : Operand) (f : Wave → WCtx → Nat → Bool) : Prop :=
  Sets i always fun _ w x => w.writePred (predNo d) (w.guard h) (f w x)

/-- An integer instruction of Table 6.2 with two sources, and with one. -/
def Int2 (i : Instr) (h : Head) (d a b : Operand) (m : IMod) (f : Int → Int → Int → Int) : Prop :=
  Puts i h d (wideType m.ty) fun w x l =>
    intOp m f (readOp w x (shapeOf m.ty) l a) (readOp w x (shapeOf m.ty) l b) (readOp w x (shapeOf m.ty) l d)

def Int1 (i : Instr) (h : Head) (d a : Operand) (m : IMod) (f : Int → Int) : Prop :=
  Puts i h d (wideType m.ty) fun w x l =>
    intOp m (fun p _ _ => f p) (readOp w x (shapeOf m.ty) l a) (readOp w x (shapeOf m.ty) l a) (readOp w x (shapeOf m.ty) l a)

/-- A logic instruction on two sources, on a source and a 32-bit count or field, and on one source. -/
def Logic2 (i : Instr) (h : Head) (d a b : Operand) (m : IMod) (f : DWord → DWord → DWord) : Prop :=
  Puts i h d (wideType m.ty) fun w x l => toWidth m (f (readOp w x (shapeOf m.ty) l a) (readOp w x (shapeOf m.ty) l b))

def Shift (i : Instr) (h : Head) (d a b : Operand) (m : IMod) (f : DWord → Nat → DWord → DWord) : Prop :=
  Puts i h d (wideType m.ty) fun w x l =>
    toWidth m (f (readOp w x (shapeOf m.ty) l a) (readWord w x l b).toNat (readOp w x (shapeOf m.ty) l d))

def Logic1 (i : Instr) (h : Head) (d a : Operand) (m : IMod) (wide : Bool) (f : DWord → DWord) : Prop :=
  Puts i h d wide fun w x l => f (readOp w x (shapeOf m.ty) l a)

/-- A float instruction on A, B and the old D, element by element (R72, R143). -/
def Float3 (i : Instr) (h : Head) (d a b : Operand) (m : FMod) (f : Machine.Num → Machine.Num → Machine.Num → FRes) : Prop :=
  PutsF i h d (fWide m.ty) fun w x l =>
    fJoin ((fElems m.ty).map fun pos =>
      (pos, f (readNum (fmtOf m.ty) m.ftz (fCode m.ty (fRead w x m.ty l a) pos))
        (readNum (fmtOf m.ty) m.ftz (fCode m.ty (fRead w x m.ty l b) pos))
        (readNum (fmtOf m.ty) m.ftz (fCode m.ty (fRead w x m.ty l d) pos))))

def Float1 (i : Instr) (h : Head) (d a : Operand) (m : FMod) (f : Machine.Num → FRes) : Prop :=
  PutsF i h d (fWide m.ty) fun w x l =>
    fJoin ((fElems m.ty).map fun pos => (pos, f (readNum (fmtOf m.ty) m.ftz (fCode m.ty (fRead w x m.ty l a) pos))))

/-- A float instruction on the codes of A and B. -/
def Codes (i : Instr) (h : Head) (d a b : Operand) (m : FMod) (f : Nat → Nat → FRes) : Prop :=
  PutsF i h d (fWide m.ty) fun w x l =>
    fJoin ((fElems m.ty).map fun pos =>
      (pos, f (fCode m.ty (fRead w x m.ty l a) pos) (fCode m.ty (fRead w x m.ty l b) pos)))

/-- An instruction that acts once for the wave: `u` where its guard holds in some lane of RUN and `pre` holds; where the
guard holds in no lane it only retires (R49). -/
def Acts (i : Instr) (h : Head) (pre : Cond) (u : State → Wave → WCtx → State) : Prop :=
  Runs i (fun t w x => w.guard h ≠ 0 ∧ pre t w x) u ∧ Runs i (fun _ w _ => w.guard h = 0) fun t _ _ => t

/-- The same, where the wave does not retire the instruction here: it waits, or its cause is raised. -/
def Stops (i : Instr) (h : Head) (pre : Cond) (u : State → Wave → WCtx → State) : Prop :=
  Ends i (fun t w x => w.guard h ≠ 0 ∧ pre t w x) u

/-- The same, where it puts the wave into a wait, behind which it will go on: in the last word of its text it raises PC_RANGE. -/
def Waits (i : Instr) (h : Head) (pre : Cond) (u : State → Wave → WCtx → State) : Prop := Stops i h pre (onward u u)

/-- A cause raised for the guarded lanes. -/
def Raises (i : Instr) (h : Head) (pre : Cond) (c : Cause) (arg : Word) : Prop :=
  Stops i h pre fun t w x => t.deliver t.cur w x c (w.guard h) 0 arg

/-- The wave's record changed in a state. -/
def onCur (f : Wave → Wave) (t : State) : State := t.updWave t.cur f

/-- A uniform register of the wave written. -/
def putUni (d : Operand) (v : DWord) : State → State := onCur fun q => q.setUni (uniNo d) v

/-- Where a branch leads (R95, R101, R105, R113): RUN's lanes agree on a PC and go there; they disagree, at depth 0 or 1,
and the steering event is entered; at depth 2 STEER_NEST is raised; in serial steering the chosen lane's group goes on; and
a lane with a bad target raises PC_RANGE. `link` is what the instruction writes before. -/
def Branches (i : Instr) (link : Wave → Wave) (next : Wave → WCtx → Nat → Word) : Prop :=
  let legal := fun (w : Wave) (x : WCtx) => ∀ l, w.run.getLsbD l = true → x.pcOk (next w x l) = true
  let parts := fun (w : Wave) (x : WCtx) => ∃ l k, w.run.getLsbD l = true ∧ w.run.getLsbD k = true ∧ next w x l ≠ next w x k
  (∀ p, Ends i (fun _ w x => w.run ≠ 0 ∧ x.pcOk p = true ∧ ∀ l, w.run.getLsbD l = true → next w x l = p)
    fun t w _ => t.setWave t.cur ((w.retire (link w)).goto p)) ∧
  (∀ q, Ends i (fun _ w x => legal w x ∧ parts w x ∧ w.hdep ≠ 2 ∧ (w.hdep = 0 → w.serial = false) ∧
      (w.retire (link w)).enterEvent x (if w.hdep = 0 then .split else .nested) w.pc (next w x) = some q)
    fun t _ _ => t.setWave t.cur q) ∧
  Ends i (fun _ w x => legal w x ∧ parts w x ∧ w.hdep = 2) (fun t w x => t.deliver t.cur w x .steerNest w.run 0 0) ∧
  Ends i (fun _ w x => legal w x ∧ parts w x ∧ w.hdep = 0 ∧ w.serial = true) (fun t w x =>
    t.setWave t.cur { ((w.retire (link w)).setLpcs 0 w.run (next w x)) with
      run := maskOf fun l => w.run.getLsbD l && next w x l == next w x w.chosen
      pc := next w x w.chosen }) ∧
  Ends i (fun _ w x => ¬ legal w x) fun t w x =>
    t.deliver t.cur w x .pcRange (maskOf fun l => w.run.getLsbD l && !x.pcOk (next w x l)) 0 0

/-- The state and wave after an instruction's effects. -/
abbrev Effect := State → Wave → WCtx → State × Wave

/-- The next state of an effect, where `v` is what becomes of the wave. -/
def Effect.to (f : Effect) (v : State → Wave → WCtx → Wave) (t : State) (w : Wave) (x : WCtx) : State :=
  (f t w x).1.setWave (f t w x).1.cur (v t w x)

/-- An instruction whose effects leave lanes in RUN goes on with them (R95). -/
def GoesOn (i : Instr) (pre : Cond) (f : Effect) : Prop :=
  Ends i (fun t w x => pre t w x ∧ (f t w x).2.run ≠ 0 ∧ x.pcOk w.nextPc = true)
    (f.to fun t w x => (w.retire (f t w x).2).goto w.nextPc)

/-- Where no instruction stands at the next PC, those lanes raise PC_RANGE, and the effects do not come about (R95). -/
def RunsOut (i : Instr) (pre : Cond) (f : Effect) : Prop :=
  Ends i (fun t w x => pre t w x ∧ (f t w x).2.run ≠ 0 ∧ x.pcOk w.nextPc = false)
    fun t w x => t.deliver t.cur w x .pcRange (f t w x).2.run 0 0

/-- Where an instruction leads at depth 0 that leaves live lanes and none in RUN (R101, R105, R108): serial steering
chooses at the next boundary; else the EMPTY event, or REJOIN_STALL where no live lane is runnable. -/
def Empties (i : Instr) (pre : Cond) (f : Effect) : Prop :=
  let left : Cond := fun t w x => pre t w x ∧ (f t w x).2.run = 0 ∧ (f t w x).2.live ≠ 0 ∧ w.hdep = 0
  Ends i (fun t w x => left t w x ∧ w.serial = true) (f.to fun t w x => { w.retire (f t w x).2 with pc := w.nextPc }) ∧
  (∀ q, Ends i (fun t w x => left t w x ∧ w.serial = false ∧ (f t w x).2.runnable ≠ 0 ∧
      (w.retire (f t w x).2).enterEvent x .empty w.pc (fun _ => w.nextPc) = some q)
    (f.to fun _ _ _ => q)) ∧
  Ends i (fun t w x => left t w x ∧ w.serial = false ∧ (f t w x).2.runnable = 0)
    fun t w x => t.deliver t.cur w x .rejoinStall (f t w x).2.live 0 0

/-- An instruction whose effects leave no live lane ends its wave (R108, R114). -/
def LeavesNone (i : Instr) (pre : Cond) (f : Effect) : Prop :=
  Ends i (fun t w x => pre t w x ∧ (f t w x).2.run = 0 ∧ (f t w x).2.live = 0)
    (f.to fun t w x => { w.retire (f t w x).2 with pc := w.nextPc, phase := .ending })

/-- A tile instruction enters its sequencer's queue (R316, R319): not in handler mode, with fewer than 63 before it; with 63
it waits. -/
def Queues (i : Instr) (h : Head) (pre : Cond) (op : State → Wave → WCtx → TileOp) (f : Wave → WCtx → Matrix → Matrix)
    (expose : WCtx → Bool) : Prop :=
  Acts i h (fun t w x => w.hdep = 0 ∧ pre t w x ∧ w.tiles.length < 63) (fun t w x =>
    (onCur (fun q => { q with tiles := q.tiles ++ [op t w x] })
      ((t.expose w (expose x)).flushStores t.cur (t.waveDom x))).updMatrix w (f w x)) ∧
  Stops i h (fun t w x => w.hdep = 0 ∧ pre t w x ∧ 63 ≤ w.tiles.length) fun t _ _ => t

/-- A cause raised for the guarded lanes with an address, the block exposed first where `b` says so (R308). -/
def RaisesAt (i : Instr) (h : Head) (pre : Cond) (c : Cause) (addr : Wave → WCtx → DWord)
    (b : Wave → WCtx → Bool := fun _ _ => false) : Prop :=
  Stops i h pre fun t w x => (t.expose w (b w x)).deliver t.cur w x c (w.guard h) (addr w x) 0

/-- The causes of the window checks of a structure that an instruction names (R168). -/
def Outside (i : Instr) (h : Head) (pre : Cond) (n align : Nat) (addr : Wave → WCtx → Word) : Prop :=
  ∀ c, RaisesAt i h (fun t w x => pre t w x ∧ checkStruct w x (addr w x) n align = .error c) c fun w x => (addr w x).setWidth 64

/-- A structure of `n` bytes at an address passes the window checks (R168). -/
def structOk (n align : Nat) (a : Wave → WCtx → Word) : Cond := fun _ w x => checkStruct w x (a w x) n align = .ok ()

/-- Wave `n` is `w`, and `x` is its block, grid and kernel. -/
structure At (s : State) (n : Nat) (w : Wave) (x : WCtx) : Prop where
  wave : s.waves.get n = some w
  ctx : s.wctx w = some x

end Sys2Proof.Claims

open Sys2Proof Sys2Proof.Machine Sys2Proof.Claims

/-! ### Arithmetic, logic, moves -/

/-- R127, Table 6.2: every integer instruction completes with the exact result in D, fitted to the type. -/
def Obligations.IntegerResults : Prop := ∀ (h : Head) (d a b : Operand) (m : IMod),
  Int2 (.iadd h d a b m) h d a b m (fun p q _ => p + q) ∧
  Int2 (.isub h d a b m) h d a b m (fun p q _ => p - q) ∧
  Int2 (.imul h d a b m) h d a b m (fun p q _ => p * q) ∧
  Int2 (.imulh h d a b m) h d a b m (fun p q _ => (p * q).fdiv (2 ^ elemBits m.ty : Nat)) ∧
  Int2 (.imad h d a b m) h d a b m (fun p q r => p * q + r) ∧
  Int2 (.imin h d a b m) h d a b m (fun p q _ => min p q) ∧
  Int2 (.imax h d a b m) h d a b m (fun p q _ => max p q) ∧
  Int1 (.iabs h d a m) h d a m (fun p => (p.natAbs : Int)) ∧
  Int1 (.ineg h d a m) h d a m (fun p => -p)

/-- R129, R130: every logic instruction completes with its result in D, at the width of its type. -/
def Obligations.LogicResults : Prop := ∀ (h : Head) (d a b : Operand) (m : IMod) (t : BitVec 8),
  let n := if wideType m.ty then 64 else 32
  Logic2 (.and h d a b m) h d a b m (fun p q => p &&& q) ∧
  Logic2 (.or h d a b m) h d a b m (fun p q => p ||| q) ∧
  Logic2 (.xor h d a b m) h d a b m (fun p q => p ^^^ q) ∧
  Logic2 (.andn h d a b m) h d a b m (fun p q => p &&& ~~~q) ∧
  Logic1 (.not h d a m) h d a m (wideType m.ty) (fun p => toWidth m (~~~p)) ∧
  Shift (.shl h d a b m) h d a b m (fun p c _ => shiftLeft n p c) ∧
  Shift (.shr h d a b m) h d a b m (fun p c _ => shiftRight n p c) ∧
  Shift (.sar h d a b m) h d a b m (fun p c _ => shiftArith n p c) ∧
  Shift (.rotl h d a b m) h d a b m (fun p c _ => rotateLeft n p c) ∧
  Logic1 (.popc h d a m) h d a m false (fun p => BitVec.ofNat 64 (ones n p)) ∧
  Logic1 (.clz h d a m) h d a m false (fun p => BitVec.ofNat 64 (leadingZeros n p)) ∧
  Logic1 (.brev h d a m) h d a m (wideType m.ty) (fun p => reverseBits n p) ∧
  Shift (.bfe h d a b m) h d a b m (fun p f _ => extractField n (signedType m.ty) p f) ∧
  Shift (.bfi h d a b m) h d a b m (fun p f q => insertField n p f q) ∧
  Puts (.logt h d a b t) h d false fun w x l =>
    (truthBits t (readWord w x l a) (readWord w x l b) (readWord w x l d)).setWidth 64

/-- R79, R132 to R142, R320: moves, selects, width changes, integer comparisons, votes and shuffles complete with their
results; a MOV from `%fflags` waits while a tile instruction of the wave is outstanding. A MOV to a special register is
`SpecialRegisterMoves`. -/
def Obligations.MoveAndPredicateResults : Prop := ∀ (h : Head) (d a b : Operand) (ty : IType) (v : BitVec 32) (neg : Bool)
    (p : BitVec 3) (dt st : CType) (sat : Bool) (c : ICmp) (k : Comb) (t : BitVec 8) (seg : Seg) (mode : ShflMode),
  ((∀ n, d ≠ .spec n) → Runs (.mov h d a ty) (fun _ w _ => a ≠ .spec 0x30 ∨ w.tiles = []) fun s w x =>
    s.setWave s.cur (w.writeD d (wideType ty) (w.guard h) fun l => readOp w x (shapeOf ty) l a)) ∧
  (∀ n : BitVec 8, 1 ≤ n.toNat → n.toNat ≤ 7 →
    Runs (.mov h (.spec n) a ty) (fun _ w _ => a ≠ .spec 0x30 ∨ w.tiles = []) fun s w x =>
      s.setWave s.cur (w.writePred n.toNat (w.guard h) fun l => readWord w x l a != 0)) ∧
  Ends (.mov h d (.spec 0x30) ty) (fun _ w _ => w.tiles ≠ []) (fun s _ _ => s) ∧
  Puts (.movi h d v) h d false (fun _ _ _ => v.setWidth 64) ∧
  Puts (.sel h d a b neg p) h d false (fun w x l =>
    (if w.predOf l p.toNat != neg then readWord w x l a else readWord w x l b).setWidth 64) ∧
  Puts (.icvt h d a dt st sat) h d (ctypeBits dt == 64 || isUni d) (fun w x l =>
    ofCType dt sat (toCType st (readOp w x (if ctypeBits st == 64 then .wide else .one) l a))) ∧
  PutsQ (.isetp h d a b ty c k) h d (fun w x l =>
    combine k (w.predOf l (predNo d))
      (icmpHolds c (elem0 ty (readOp w x (shapeOf ty) l a)) (elem0 ty (readOp w x (shapeOf ty) l b)))) ∧
  PutsQ (.plogt h d a b t) h d (fun w _ l =>
    t.getLsbD ((w.predOf l (predNo a)).toNat + 2 * (w.predOf l (predNo b)).toNat + 4 * (w.predOf l (predNo d)).toNat)) ∧
  (let votes := fun (w : Wave) => maskOf fun l => (w.guard h).getLsbD l && w.predOf l (predNo a)
   PutsQ (.vote h d a .any) h d (fun w _ _ => votes w != 0) ∧
   PutsQ (.vote h d a .all) h d (fun w _ _ => votes w == w.guard h) ∧
   PutsQ (.vote h d a .eq) h d (fun w _ _ => votes w == 0 || votes w == w.guard h) ∧
   Puts (.vote h d a .ballot) h d true fun w _ _ => votes w) ∧
  Puts (.shfl h d a b seg mode) h d false (fun w x l =>
    (readWord w x ((shflSource mode (segSize seg w.width) l (readWord w x l b).toNat).getD l) a).setWidth 64)

/-! ### Float, conversion, dot products -/

/-- R143 to R153: every float instruction completes, with its result in D and its flags in `%fflags`. Model's readings:
log entry 9. -/
def Obligations.FloatResults : Prop := ∀ (h : Head) (d a b : Operand) (m : FMod) (c : FCmp) (k : Comb),
  let f := fmtOf m.ty
  Float3 (.fadd h d a b m) h d a b m (fun p q _ => addNum f m.rnd m.ftz p q) ∧
  Float3 (.fsub h d a b m) h d a b m (fun p q _ => addNum f m.rnd m.ftz p q.negate) ∧
  Float3 (.fmul h d a b m) h d a b m (fun p q _ => mulNum f m.rnd m.ftz p q) ∧
  Float3 (.ffma h d a b m) h d a b m (fun p q r => fmaNum f m.rnd m.ftz p q r) ∧
  Codes (.fmin h d a b m) h d a b m (fun p q => minMax f m.ftz false p q) ∧
  Codes (.fmax h d a b m) h d a b m (fun p q => minMax f m.ftz true p q) ∧
  Float3 (.fdiv h d a b m) h d a b m (fun p q _ => divNum f m.rnd m.ftz p q) ∧
  Float1 (.fsqrt h d a m) h d a m (fun p => sqrtNum f m.rnd m.ftz p) ∧
  Float1 (.frcp h d a m) h d a m (fun p => rcpNum f m.ftz p) ∧
  Float1 (.frsq h d a m) h d a m (fun p => rsqrtNum f m.ftz p) ∧
  Float1 (.fexp2 h d a m) h d a m (fun p => exp2Num f m.ftz p) ∧
  Float1 (.flog2 h d a m) h d a m (fun p => log2Num f m.ftz p) ∧
  Float1 (.fsin h d a m) h d a m (fun p => sinNum f m.ftz p) ∧
  Float1 (.fcos h d a m) h d a m (fun p => cosNum f m.ftz p) ∧
  Puts (.fclass h d a m) h d false (fun w x l =>
    (fJoin ((fElems m.ty).map fun pos => (pos, ⟨2 ^ classBit f (fCode m.ty (fRead w x m.ty l a) pos), 0⟩))).1) ∧
  Float1 (.frnd h d a m) h d a m (fun p => rndNum f m.rnd m.ftz p) ∧
  Codes (.fabs h d a m) h d a a m (fun p _ => ⟨p % 2 ^ (f.bits - 1), 0⟩) ∧
  Codes (.fneg h d a m) h d a a m (fun p _ => ⟨(p + 2 ^ (f.bits - 1)) % 2 ^ f.bits, 0⟩) ∧
  Sets (.fsetp h d a b m.ty c k) always (fun _ w x =>
    let r := fun l => fcmpHolds f c (fCode m.ty (fRead w x m.ty l a) 0) (fCode m.ty (fRead w x m.ty l b) 0)
    let w' := w.writePred (predNo d) (w.guard h) fun l => combine k (w.predOf l (predNo d)) (r l).1
    { w' with fflags := (lanesOf (w.guard h)).foldl (fun g l => g ||| (r l).2) w'.fflags })

/-- R155 to R163: conversions and packed dot products complete with their results and flags; FCVT.sr advances `%dither`
where some lane computes (R82). Model's readings: log entry 9. -/
def Obligations.ConversionAndDotResults : Prop := ∀ (h : Head) (d a b : Operand) (dt st : FFmt) (rnd : Rnd) (ftz ovf : Bool)
    (se de : BitVec 3) (it : CType) (ft : FType) (pt : PackType) (hi : Bool) (ut : UnpkType) (g : BitVec 2) (sa sb sc : Bool),
  Sets (.fcvt h d a dt st rnd ftz ovf se de) always (fun _ w x =>
    let n := ffmtBits dt
    let wide := n == 64 || (decide (n < 32) && isUni d)
    let r := fun l => toFFmt dt st rnd (ditherAt (if n < 32 then de.toNat else 0) l w.dither.toNat) ftz ovf
      (ffmtRead st ftz ((readOp w x (if st == .f64 then .wide else .one) l a).toNat / 2 ^ (se.toNat * ffmtBits st) % 2 ^ ffmtBits st))
    let v := if rnd == .sr && w.guard h != 0 then { w with dither := w.dither + 1 } else w
    let u := v.writeD d wide (w.guard h) fun l =>
      if n < 32 then putField (readOp w x (if wide then .wide else .one) l d) (de.toNat * n) n (r l).code
      else BitVec.ofNat 64 (r l).code
    { u with fflags := (computing w h d).foldl (fun q l => q ||| (r l).flags) u.fflags }) ∧
  PutsF (.f2i h d a it ft rnd) h d (ctypeBits it == 64 || isUni d) (fun w x l =>
    toInteger it rnd (decodeNum (fmtOf ft) (fCode ft (fRead w x ft l a) 0))) ∧
  PutsF (.i2f h d a ft it rnd) h d (fWide ft) (fun w x l =>
    let v := toCType it (readOp w x (if ctypeBits it == 64 then .wide else .one) l a)
    let r := roundFin (fmtOf ft) rnd false (decide (v < 0)) v.natAbs 0
    (BitVec.ofNat 64 r.code, r.flags)) ∧
  PutsF (.pack h d a b pt rnd ftz hi) h d false (fun w x l =>
    let f := packFmt pt
    let r := fun o => toFmt f rnd 0 ftz false (readNum fmtF32 ftz (fCode .f32 (fRead w x .f32 l o) 0))
    let v := (r a).code + (r b).code * 2 ^ f.bits
    (if f.bits = 16 then BitVec.ofNat 64 v else putField (readOp w x .one l d) (if hi then 16 else 0) 16 v,
      (r a).flags ||| (r b).flags)) ∧
  PutsF (.unpk h d a ut g) h d true (fun w x l =>
    let n := ffmtBits (unpkFmt ut)
    let r := fun i => toFmt fmtF32 .rne 0 false false (ffmtRead (unpkFmt ut) false ((readWord w x l a).toNat / 2 ^ (i * n) % 2 ^ n))
    (BitVec.ofNat 64 ((r (2 * g.toNat)).code + (r (2 * g.toNat + 1)).code * 2 ^ 32),
      (r (2 * g.toNat)).flags ||| (r (2 * g.toNat + 1)).flags)) ∧
  (let dot := fun (i : Instr) (f : Word → Word → Int) =>
    Puts i h d false fun w x l =>
      (BitVec.ofInt 32 ((readWord w x l d).toInt + f (readWord w x l a) (readWord w x l b))).setWidth 64
   dot (.dot4i8 h d a b sa sb) (dotInt sa sb 8) ∧ dot (.dot8i4 h d a b sa sb) (dotInt sa sb 4) ∧
   dot (.dotb32 h d a b false) (fun p q => 32 - 2 * (popCount (p ^^^ q) : Int)) ∧
   dot (.dotb32 h d a b true) fun p q => (popCount (p &&& q) : Int)) ∧
  (let fdot := fun (i : Instr) (n : Nat) (fa fb : Fmt) (scale : Wave → WCtx → Nat → Machine.Num → Option Machine.Num) =>
    PutsF i h d false fun w x l =>
      let el := fun (f : Fmt) o e => decodeNum f ((readWord w x l o).toNat / (2 ^ f.bits) ^ e % 2 ^ f.bits)
      let r := dotFloat rnd ((List.range n).map fun e => mulExact (el fa a e) (el fb b e)) (scale w x l)
        (decodeNum fmtF32 (readWord w x l d).toNat)
      (BitVec.ofNat 64 r.code, r.flags)
   fdot (.dot2bf h d a b rnd) 2 fmtBf16 fmtBf16 (fun _ _ _ t => some t) ∧
   fdot (.dot4f8 h d a b sa sb sc rnd) 4 (if sa then fmtE5m2 else fmtE4m3) (if sb then fmtE5m2 else fmtE4m3)
     fun w x l t => if sc then scaleTerm t (readWord w x l (nextReg d)).toNat else some t)

/-! ### Special registers, control, steering -/

/-- R79, R99, R104, R132, R320: a MOV to a special register completes with the effect of that register's write, by the value
of the lowest guarded lane, and `%lpc` lane by lane; where the guard holds in no lane it only retires; from `%fflags` it waits
while a tile instruction of the wave is outstanding; a write of `%runm` that leaves no lane raises STEER_EMPTY. Model's
readings, among them bits [63:32] that a 32-bit MOV leaves in a 64-bit register: log entry 9. -/
def Obligations.SpecialRegisterMoves : Prop := ∀ (h : Head) (a : Operand) (ty : IType),
  let val := fun (w : Wave) (x : WCtx) (l : Nat) => readOp w x (if wideType ty then .wide else .one) l a
  let v := fun (w : Wave) (x : WCtx) => val w x ((lowestLane (w.guard h)).getD 0)
  let word := fun (w : Wave) (x : WCtx) => ((v w x).setWidth 32 : Word)
  let pre := fun (n : BitVec 8) (p : Wave → WCtx → Prop) (f : Wave → WCtx → Wave) =>
    Runs (.mov h (.spec n) a ty) (fun _ w x => w.guard h ≠ 0 ∧ (a ≠ .spec 0x30 ∨ w.tiles = []) ∧ p w x) fun t w x =>
      t.setWave t.cur (f w x)
  let any := fun (_ : Wave) (_ : WCtx) => True
  Runs (.mov h (.spec 0x20) a ty) (fun _ w _ => a ≠ .spec 0x30 ∨ w.tiles = []) (fun t w x =>
    t.setWave t.cur (w.setLpcs w.lpcBank (w.guard h) fun l => (val w x l).setWidth 32)) ∧
  (∀ n : BitVec 8, 8 ≤ n.toNat → n ≠ 0x20 →
    Runs (.mov h (.spec n) a ty) (fun _ w _ => w.guard h = 0 ∧ (a ≠ .spec 0x30 ∨ w.tiles = [])) fun t _ _ => t) ∧
  (∀ n, Ends (.mov h (.spec n) (.spec 0x30) ty) (fun _ w _ => w.tiles ≠ []) fun t _ _ => t) ∧
  pre 0x21 (fun w x => w.run &&& x.maskIn (v w x) ≠ 0) (fun w x => { w with run := w.run &&& x.maskIn (v w x) }) ∧
  pre 0x23 any (fun w x => { w with park := x.maskIn (v w x) &&& w.live }) ∧
  pre 0x27 any (fun w x => { w with hvec := word w x }) ∧
  pre 0x28 any (fun w x => { w with hpc1 := word w x }) ∧
  pre 0x29 any (fun w x => { w with hpc2 := word w x }) ∧
  pre 0x2a any (fun w x => { w with hrun1 := x.maskIn (v w x) }) ∧
  pre 0x2b any (fun w x => { w with hrun2 := x.maskIn (v w x) }) ∧
  pre 0x2c any (fun w x => { w with sglim := clampWord 16 0xfffffffe (word w x) }) ∧
  pre 0x2d any (fun w x => { w with sgq := clampWord 16 65536 (word w x) }) ∧
  pre 0x30 any (fun w x => { w with fflags := (word w x).setWidth 5 }) ∧
  pre 0x31 any (fun w x => { w with dither := (word w x).setWidth 6 }) ∧
  pre 0x32 any (fun w x => { w with arrw := word w x }) ∧
  Ends (.mov h (.spec 0x21) a ty)
    (fun _ w x => w.guard h ≠ 0 ∧ (a ≠ .spec 0x30 ∨ w.tiles = []) ∧ w.run &&& x.maskIn (v w x) = 0)
    fun t w x => t.deliver t.cur w x .steerEmpty (w.guard h) 0 0

/-- R50, R112, R115, R117: NOP and YIELD only retire, ICINV drops the context's texts on the core, and a word of the hint
space retires without any check. Model's readings: log entry 13. -/
def Obligations.IdleInstructionsRetire : Prop := ∀ (h : Head) (bits : BitVec 92),
  Runs (.nop h) always (fun t _ _ => t) ∧
  Runs (.yield_ h) always (fun t _ _ => t) ∧
  Acts (.icinv h) h always (fun t w x => t.dropText w.die w.core x.grid.ctx) ∧
  ∀ s v, s.waves.get s.cur = some v →
    exec (.hintSpaceWord bits) s = .next ((s.begun s.cur v).updWave s.cur fun q => (v.retire q).goto v.nextPc)

/-- R116: TRAP, SYSC and BRKPT raise their causes with their codes; with a debugger attached BRKPT halts its wave before
it retires; where the guard holds in no lane each only retires. Model's readings: log entry 13. -/
def Obligations.TrapsRaiseTheirCauses : Prop := ∀ (h : Head) (c : BitVec 18),
  Raises (.trap h c) h always .trap (c.setWidth 32) ∧
  Raises (.sysc h c) h always .syscall (c.setWidth 32) ∧
  Raises (.brkpt h c) h (fun t _ x => t.attached x.grid.ctx = false) .brk (c.setWidth 32) ∧
  Stops (.brkpt h c) h (fun t _ x => t.attached x.grid.ctx = true)
    (fun t _ _ => onCur (fun q => { q with halted := true, haltReq := true, atBrkpt := true }) t) ∧
  Runs (.trap h c) (fun _ w _ => w.guard h = 0) (fun t _ _ => t) ∧
  Runs (.sysc h c) (fun _ w _ => w.guard h = 0) (fun t _ _ => t) ∧
  Runs (.brkpt h c) (fun _ w _ => w.guard h = 0) fun t _ _ => t

/-- R95, R101, R105, R113: where BR, BRX, CALL and RET lead; CALL writes its return offset in the guarded lanes. Model's
readings, among them the lanes of STEER_NEST: log entry 12. -/
def Obligations.BranchResults : Prop := ∀ (h : Head) (d a : Operand) (c : BitVec 18),
  let taken := fun (f : Wave → WCtx → Nat → Word) (w : Wave) (x : WCtx) (l : Nat) =>
    if (w.guard h).getLsbD l then f w x l else w.nextPc
  let link := fun (w : Wave) => w.writeD d false (w.guard h) fun _ => w.nextPc.setWidth 64
  let count := taken fun w _ _ => w.pc + 12 + 12 * c.signExtend 32
  let reg := taken fun w x l => readWord w x l a
  Branches (.br h c) (fun w => w) count ∧
  Branches (.brx h a) (fun w => w) reg ∧
  Branches (.ret h a) (fun w => w) reg ∧
  Branches (.call h d (.imm c)) link count ∧
  ((∀ k, a ≠ .imm k) → Branches (.call h d a) link reg)

/-- R102, R108, R114, R119: EXIT and the rejoin instructions complete, with their effect on the masks and on the rejoin
register, and lead where R101 says; an EXIT that leaves lanes in RUN, and a rejoin instruction, raise PC_RANGE from the last
word of the text. Model's readings: log entries 12 and 13. -/
def Obligations.ExitAndRejoinResults : Prop := ∀ (h : Head) (d : Operand),
  let r := rejoinNo d
  let steer : Cond := fun _ w x => w.guard h ≠ 0 ∧ w.hdep = 0 ∧ x.pcOk w.nextPc = true
  let exits : Effect := fun t w _ => t.exitItems (w.leave (w.guard h)) (w.guard h)
  let waits : Effect := fun t w x =>
    let a := w.guard h &&& x.maskIn (w.uni r)
    let v := w.setLpcs 0 a fun _ => w.nextPc
    (t, { v with park := w.park ||| a, run := w.run &&& ~~~a }.setRejoin r (x.maskIn (w.uni r)) (x.maskIn (w.uni (r + 1)) ||| a)
      w.nextPc)
  GoesOn (.exit h) always exits ∧ RunsOut (.exit h) always exits ∧ Empties (.exit h) always exits ∧
  LeavesNone (.exit h) always exits ∧
  Ends (.exit h) (fun t w x => (exits t w x).2.run = 0 ∧ (exits t w x).2.live ≠ 0 ∧ w.hdep ≠ 0)
    (fun t w x => t.deliver t.cur w x .steerEmpty (w.guard h) 0 0) ∧
  GoesOn (.jenrol h d) steer (fun t w x => (t, w.setUni r (x.maskIn (w.uni r) ||| w.guard h))) ∧
  GoesOn (.jwait h d) steer waits ∧ Empties (.jwait h d) steer waits ∧
  GoesOn (.jstrike h d) steer (fun t w x =>
    (t, w.setRejoin r (x.maskIn (w.uni r) &&& ~~~w.guard h) (x.maskIn (w.uni (r + 1)) &&& ~~~w.guard h) w.nextPc)) ∧
  (∀ i ∈ [Instr.jenrol h d, .jwait h d, .jstrike h d],
    Raises i h (fun _ w _ => w.hdep ≠ 0) .steerMode 0 ∧ (Runs i (fun _ w _ => w.guard h = 0) fun t _ _ => t) ∧
    Stops i h (fun _ w x => w.hdep = 0 ∧ x.pcOk w.nextPc = false) fun t w x => t.deliver t.cur w x .pcRange w.run 0 0)

/-- R120, R121: HRET returns to the group of its lowest candidate, and the handler assists give their masks and PCs; at
depth 0 each raises STEER_MODE, and HRET without a candidate STEER_EMPTY. Model's readings: log entry 11. -/
def Obligations.HandlerInstructionResults : Prop := ∀ (h : Head) (d a b : Operand),
  let cand := fun (w : Wave) (x : WCtx) => x.maskIn (readUni w x a) &&& w.candidates
  let inside : Cond := fun _ w _ => w.hdep ≠ 0
  (∀ q, Stops (.hret h a) h (fun _ w x => w.hdep ≠ 0 ∧ w.handlerReturn x (cand w x) = some q)
    fun t w _ => t.setWave t.cur (w.retire q)) ∧
  Raises (.hret h a) h (fun _ w x => w.hdep ≠ 0 ∧ cand w x = 0) .steerEmpty 0 ∧
  Acts (.pcmin h d a) h inside (fun t w x => t.setWave t.cur (w.setGroup d (w.lowestGroup w.lpcBank (cand w x)))) ∧
  Acts (.pcmaj h d a) h inside (fun t w x => t.setWave t.cur (w.setGroup d (w.largestGroup w.lpcBank (cand w x)))) ∧
  Acts (.pceq h d a b) h inside (fun t w x => t.setWave t.cur (w.setUni (rejoinNo d) (maskOf fun l =>
    (cand w x).getLsbD l && w.lpc w.lpcBank l == (readUni w x b).setWidth 32))) ∧
  (∀ i ∈ [Instr.hret h a, .pcmin h d a, .pcmaj h d a, .pceq h d a b], Raises i h (fun _ w _ => w.hdep = 0) .steerMode 0)

/-! ### Memory, copies, waits -/

/-- R167, R168, R173, R176, R177, R178, R297: loads, stores and atomics whose lanes all pass their checks complete; those
with a lane that does not raise the cause of the worst lane, and do nothing; one whose counter is full waits, and so does
an ATOM that releases while an access of its lanes is pending; one with no guarded lane only retires. Fences go on once
nothing older is outstanding in their scope, and hold the wave till then.
Model's readings: log entries 10 and 12. -/
def Obligations.MemoryResults : Prop := ∀ (h : Head) (d a : Operand) (b : Option Operand) (ty : MemType) (op : AtomOp)
    (ord : AtomOrd) (w64 : Bool) (k : FenceKind) (ps : List (Nat × Loc)) (c : Cause × Mask × DWord),
  let g := fun (w : Wave) => w.guard h
  let n := if w64 then 8 else 4
  let shows := fun (w : Wave) (x : WCtx) => ps.any fun p => exposes w x (laneAddr w x a b p.1) p.2
  let quiet := fun (w : Wave) (x : WCtx) => fenceScope w x (g w) a b = 0 ∨
    (k ≠ .rel → w.loads = []) ∧ (k ≠ .acq → w.pendsWithin (fenceScope w x (g w) a b) = false)
  let released := fun (w : Wave) (x : WCtx) => releaseWaits w x ord (laneAddr w x a b) (g w) = false
  let ldPlaces := fun (w : Wave) (x : WCtx) => checkLanes w x (g w) { spill := true } (laneAddr w x a b) (memBytes ty) (memBytes ty)
  let uniPlaces := fun (w : Wave) (x : WCtx) =>
    checkLanes w x (1#64 <<< (lowestLane (g w)).getD 0) { spill := false } (laneAddr w x a b) (memBytes ty) (memBytes ty)
  let atomPlaces := fun (w : Wave) (x : WCtx) => checkLanes w x (g w) {} (laneAddr w x a b) n n
  let raised := fun (m : Wave → Mask) (t : State) (w : Wave) (x : WCtx) => t.deliver t.cur w x c.1 (m w) c.2.2 0
  let missed := fun (t : State) (w : Wave) (x : WCtx) => raised (fun _ => c.2.1) (t.expose w (shows w x)) w x
  ((∀ r, d ≠ .uni r) →
    Runs (.ld h d a b ty) (fun _ w x => g w ≠ 0 ∧ w.loads.length < 63 ∧ ldPlaces w x = .ok ps) (fun t w x => ldAt d ty t w x (g w) ps) ∧
    Ends (.ld h d a b ty) (fun _ w x => g w ≠ 0 ∧ 63 ≤ w.loads.length ∧ ldPlaces w x = .ok ps) (fun t _ _ => t) ∧
    Ends (.ld h d a b ty) (fun _ w x => ldPlaces w x = .error c) (raised fun _ => c.2.1)) ∧
  (∀ r, Runs (.ld h (.uni r) a b ty) (fun _ w x => g w ≠ 0 ∧ w.loads.length < 63 ∧ uniPlaces w x = .ok ps)
      (fun t w x => ldAt (.uni r) ty t w x (g w) ps) ∧
    Ends (.ld h (.uni r) a b ty) (fun _ w x => g w ≠ 0 ∧ 63 ≤ w.loads.length ∧ uniPlaces w x = .ok ps) (fun t _ _ => t) ∧
    Ends (.ld h (.uni r) a b ty) (fun _ w x => g w ≠ 0 ∧ uniPlaces w x = .error c) (raised g)) ∧
  Runs (.st h d a b ty) (fun _ w x => g w ≠ 0 ∧ w.storeCount < 63 ∧ ldPlaces w x = .ok ps ∧
      claimCause w x ps (laneAddr w x a b) (memBytes ty) = none)
    (fun t w x => stAt d ty (t.expose w (shows w x)) w x ps) ∧
  Ends (.st h d a b ty) (fun _ w x => g w ≠ 0 ∧ 63 ≤ w.storeCount ∧ ldPlaces w x = .ok ps ∧
      claimCause w x ps (laneAddr w x a b) (memBytes ty) = none) (fun t _ _ => t) ∧
  Ends (.st h d a b ty) (fun _ w x => ldPlaces w x = .error c) (raised fun _ => c.2.1) ∧
  Ends (.st h d a b ty) (fun _ w x => ldPlaces w x = .ok ps ∧ claimCause w x ps (laneAddr w x a b) (memBytes ty) = some c)
    missed ∧
  Runs (.atom h d a b op ord w64) (fun _ w x => g w ≠ 0 ∧ w.loads.length < 63 ∧ released w x ∧ atomPlaces w x = .ok ps ∧
      claimCause w x ps (laneAddr w x a b) n = none)
    (fun t w x => atomAt d op ord w64 (t.expose w (shows w x)) w x ps) ∧
  Ends (.atom h d a b op ord w64) (fun _ w x => g w ≠ 0 ∧ (63 ≤ w.loads.length ∨ ¬ released w x) ∧ atomPlaces w x = .ok ps ∧
      claimCause w x ps (laneAddr w x a b) n = none) (fun t _ _ => t) ∧
  Ends (.atom h d a b op ord w64) (fun _ w x => atomPlaces w x = .error c) (raised fun _ => c.2.1) ∧
  Ends (.atom h d a b op ord w64) (fun _ w x => atomPlaces w x = .ok ps ∧ claimCause w x ps (laneAddr w x a b) n = some c)
    missed ∧
  (∀ i ∈ [Instr.ld h d a b ty, .st h d a b ty, .atom h d a b op ord w64], Runs i (fun _ w _ => g w = 0) fun t _ _ => t) ∧
  Acts (.fence h a b k) h (fun _ w x => quiet w x) (fun t _ _ => t) ∧
  Stops (.fence h a b k) h (fun _ w x => ¬ quiet w x) fun t _ _ => t

/-- R167, R180, R181, R186: CPY and CPYO whose lanes pass their checks and translate enter the core's queue and their tag;
with a lane that fails a check they raise the cause of the worst, in an exposed block where a CPYO has passed its windows;
with the queue full they wait. BULK hands its card to the engine. Model's readings: log entries 10 and 12. -/
def Obligations.CopyIssueResults : Prop := ∀ (h : Head) (d a b : Operand) (c : Option Operand) (size : CpySize) (tag : BitVec 3)
    (arr : Bool) (ts : List (Nat × Nat × Nat)) (e : Cause × Mask × DWord),
  let n := copyBytes size
  let ps := fun (w : Wave) (x : WCtx) => copyPlaces w x d n (w.guard h)
  let sound := fun (w : Wave) (x : WCtx) => w.guard h ≠ 0 ∧
    ∀ l, (w.guard h).getLsbD l = true → copyLaneCause w x d a b n l = none
  let there := fun (kind : CopyKind) (t : State) (w : Wave) (x : WCtx) =>
    t.translateAll w x.grid.ctx (copyVas w x a b n (w.guard h)) kind.need = .ok ts
  let claimed := fun (w : Wave) (x : WCtx) => claimCause w x (ps w x) (fun l => readWord w x l d) n
  let card := fun (w : Wave) (x : WCtx) => structAddr w x a + readOpt w x 0 c
  let bad := fun (w : Wave) (x : WCtx) => worstCause ((lanesOf (w.guard h)).filterMap (copyLaneCause w x d a b n)) = some e
  let raised := fun (t : State) (w : Wave) (x : WCtx) => t.deliver t.cur w x e.1 e.2.1 e.2.2 0
  let word := fun (w : Wave) (x : WCtx) => arrwCause w x arr = none
  let wordBad := fun (t : State) (w : Wave) (x : WCtx) (k : Cause) => t.deliver t.cur w x k (w.guard h) (w.arrw.setWidth 64) 0
  Runs (.cpy h d a b size tag arr)
    (fun t w x => sound w x ∧ there .load t w x ∧ claimed w x = none ∧ word w x ∧ t.copyFull w .load = false)
    (fun t w x => copyAt .load a b size tag arr t w x (ps w x) ts) ∧
  Ends (.cpy h d a b size tag arr)
    (fun t w x => sound w x ∧ there .load t w x ∧ claimed w x = none ∧ word w x ∧ t.copyFull w .load = true) (fun t _ _ => t) ∧
  Ends (.cpy h d a b size tag arr)
    (fun t w x => w.guard h ≠ 0 ∧ (bad w x ∨ sound w x ∧ there .load t w x ∧ claimed w x = some e)) raised ∧
  (∀ k, Ends (.cpy h d a b size tag arr)
    (fun t w x => sound w x ∧ there .load t w x ∧ claimed w x = none ∧ arrwCause w x arr = some k) fun t w x => wordBad t w x k) ∧
  Runs (.cpyo h d a b size tag arr) (fun t w x => sound w x ∧ there .store t w x ∧ word w x ∧ t.copyFull w .store = false)
    (fun t w x => copyAt .store a b size tag arr t w x (ps w x) ts) ∧
  Ends (.cpyo h d a b size tag arr) (fun t w x => sound w x ∧ there .store t w x ∧ word w x ∧ t.copyFull w .store = true)
    (fun t _ _ => t) ∧
  Ends (.cpyo h d a b size tag arr) (fun _ w x => w.guard h ≠ 0 ∧ bad w x)
    (fun t w x => raised (t.expose w (windowsPass w x d n (w.guard h) arr)) w x) ∧
  (∀ k, Ends (.cpyo h d a b size tag arr) (fun t w x => sound w x ∧ there .store t w x ∧ arrwCause w x arr = some k)
    fun t w x => wordBad t w x k) ∧
  (∀ i ∈ [Instr.cpy h d a b size tag arr, .cpyo h d a b size tag arr], Runs i (fun _ w _ => w.guard h = 0) fun t _ _ => t) ∧
  Acts (.bulk h a c tag) h (fun t w x => checkStruct w x (card w x) 128 128 = .ok () ∧ t.cardsFull w = false)
    (fun t w x => handCard tag.toNat (card w x) none ((t.flushStores t.cur (t.waveDom x)).expose w true) w x) ∧
  (∀ x', Stops (.bulk h a c tag) h (fun _ w x => checkStruct w x (card w x) 128 128 = .error x')
    fun t w x => t.deliver t.cur w x x' (w.guard h) ((card w x).setWidth 64) 0) ∧
  Stops (.bulk h a c tag) h (fun t w x => checkStruct w x (card w x) 128 128 = .ok () ∧ t.cardsFull w = true) fun t _ _ => t

/-- R184, R185, R202: WAITC and WAITT go on once their counters are low enough, the wave having observed which operations have
left their tags, and hold the wave till then. -/
def Obligations.CounterWaits : Prop := ∀ (h : Head) (l st c t : BitVec 6) (tag : BitVec 3) (n : BitVec 6),
  let low := fun (w : Wave) => w.loads.length ≤ l.toNat ∧ w.storeCount ≤ st.toNat ∧ w.copyCount ≤ c.toNat ∧
    w.tiles.length ≤ t.toNat
  let few := fun (w : Wave) => (w.copies.filter fun k => k.tag == tag.toNat).length ≤ n.toNat
  let seen := fun (tags : List Nat) (k : BitVec 6) => onCur fun q => tags.foldl (fun q n => q.observe n k.toNat) q
  Acts (.waitc h l st c t) h (fun _ w _ => low w) (fun s _ _ => seen (List.range 8) c s) ∧
  Stops (.waitc h l st c t) h (fun _ w _ => ¬ low w) (fun s _ _ => s) ∧
  Acts (.waitt h tag n) h (fun _ w _ => few w) (fun s _ _ => seen [tag.toNat] n s) ∧
  Stops (.waitt h tag n) h (fun _ w _ => ¬ few w) fun s _ _ => s

/-- R167, R173, R192, R194, R197, R198: arrival words are initialised, tested and waited on; completion rings are polled and
waited on; each raises the cause of its window checks; ARRINIT waits while the store counter is full. Model's readings: log
entries 10 and 20. -/
def Obligations.ArrivalAndRingPolling : Prop := ∀ (h : Head) (d a b : Operand),
  let addr := fun (w : Wave) (x : WCtx) => structAddr w x a
  let word := structOk 16 16 addr
  let ring := structOk 32 32 addr
  let place := fun (w : Wave) (x : WCtx) => (structBytes w x (addr w x) 1).headD 0
  let flushed := fun (t : State) (x : WCtx) => t.flushStores t.cur (t.waveDom x)
  let at_ := fun (t : State) (w : Wave) (x : WCtx) => (flushed t x).arrivalAt ((flushed t x).waveDom x) (place w x)
  let gen := fun (w : Wave) (x : WCtx) => (readUni w x b).toNat % 2 ^ 24
  let target := fun (w : Wave) (x : WCtx) => ((readUni w x b).setWidth 32 : Word)
  let init := fun (w : Wave) (x : WCtx) =>
    [(place w x, leBytes 4 (if target w x = 0 then 1 else (target w x).toNat) ++ leBytes 4 0), (place w x + 11, [0])]
  let head := fun (t : State) (w : Wave) (x : WCtx) => RingHead.ofBytes ((flushed t x).structRead x (structBytes w x (addr w x) 32))
  let put := fun (bs : List Byte) (q : Wave) =>
    (List.range 4).foldl (fun (q : Wave) i => q.setUni (uniNo d + i) (BitVec.ofNat 64 (leField bs (8 * i) 8))) q
  Acts (.arrinit h a b) h (fun t w x => word t w x ∧ w.storeCount < 63 ∧ w.ownCore (.lds (place w x)) = true) (fun t w x =>
    onCur (fun q => { q with stores := q.stores ++ [{ writes := [] }] })
      ((init w x).foldl (fun s p => s.ldsWrites (s.waveDom x) p.1 p.2) (flushed t x))) ∧
  Acts (.arrinit h a b) h (fun t w x => word t w x ∧ w.storeCount < 63 ∧ w.ownCore (.lds (place w x)) = false) (fun t w x =>
    onCur (fun q => { q with stores := q.stores ++ [{ writes := init w x }] }) t) ∧
  Acts (.arrtest h d a b) h word (fun t w x =>
    let v := at_ t w x
    onCur (fun q => q.writeD d true (w.guard h) fun _ =>
      BitVec.ofNat 64 ((if v.gen ≠ gen w x ∨ v.fault then 2 ^ 32 else 0) + v.flags * 2 ^ 24 + v.gen)) (flushed t x)) ∧
  Acts (.arrwait h d a b) h (fun t w x => word t w x ∧ ((at_ t w x).gen ≠ gen w x ∨ (at_ t w x).fault)) (fun t w x =>
    putUni d (BitVec.ofNat 64 ((at_ t w x).flags * 2 ^ 24 + (at_ t w x).gen)) (flushed t x)) ∧
  Waits (.arrwait h d a b) h (fun t w x => word t w x ∧ (at_ t w x).gen = gen w x ∧ (at_ t w x).fault = false) (fun t w x =>
    onCur (fun q => { q with wait := some (.arrwait (addr w x) (BitVec.ofNat 32 (gen w x)) (uniNo d)) }) (flushed t x)) ∧
  Acts (.crpoll h d a) h (fun t w x => ring t w x ∧ (head t w x).head = (head t w x).tail) (fun t _ x =>
    onCur (put []) (flushed t x)) ∧
  Acts (.crpoll h d a) h (fun t w x => ring t w x ∧ (head t w x).head ≠ (head t w x).tail) (fun t w x =>
    let bs := (flushed t x).ringRecord w x (addr w x) (head t w x)
    onCur (put bs) ((flushed t x).ldsWrites ((flushed t x).waveDom x) ((structBytes w x (addr w x) 32).getD 8 0)
      (leBytes 4 ((head t w x).head + 1)))) ∧
  Acts (.crsleep h a) h (fun t w x => ring t w x ∧ (head t w x).tail ≠ (head t w x).head) (fun t _ x => flushed t x) ∧
  Waits (.crsleep h a) h (fun t w x => ring t w x ∧ (head t w x).tail = (head t w x).head) (fun t w x =>
    onCur (fun q => { q with wait := some (.crsleep (addr w x)) }) (flushed t x)) ∧
  Stops (.arrinit h a b) h (fun t w x => word t w x ∧ 63 ≤ w.storeCount) (fun t _ _ => t) ∧
  (∀ i ∈ [Instr.arrinit h a b, .arrtest h d a b, .arrwait h d a b], Outside i h always 16 16 addr) ∧
  ∀ i ∈ [Instr.crpoll h d a, .crsleep h a], Outside i h always 32 32 addr

/-! ### Barriers and stage rings -/

/-- R222 to R227: an arrival enters the wave's pend and the barrier's count, once the earlier accesses of its lanes are
performed, a wait ends once the phase of the pend has completed, BARQ reads the barrier; in handler mode each raises STEER_MODE, and a second arrival in a phase or a wait
without an arrival BARRIER_STATE. Model's readings: log entries 10, 12 and 15. -/
def Obligations.BarrierResults : Prop := ∀ (h : Head) (b : BitVec 18) (d : Operand),
  let n := b.toNat
  let bar := fun (x : WCtx) => x.barrier n
  let there := fun (x : WCtx) => n < 20 ∧ if n < 16 then n < x.block.barriers.length else n - 16 < x.grid.barriers.length
  let free : Cond := fun _ w x => w.hdep = 0 ∧ w.pending n (bar x) = false ∧ w.behind (w.guard h) = false ∧ there x
  let arrived := fun (t : State) (w : Wave) (x : WCtx) =>
    (onCur (fun q => q.setPend n (bar x).phase) t).updBarrier w x n Barrier.arrive
  let sleeps := onCur fun q => { q with wait := some (.bar n) }
  Acts (.bararr h b) h free arrived ∧
  Acts (.barsync h b) h (fun t w x => free t w x ∧ (bar x).arrive.phase ≠ (bar x).phase)
    (fun t w x => onCur (fun q => q.clearPend n) (arrived t w x)) ∧
  Waits (.barsync h b) h (fun t w x => free t w x ∧ (bar x).arrive.phase = (bar x).phase)
    (fun t w x => sleeps (arrived t w x)) ∧
  Acts (.barwait h b) h
    (fun _ w x => w.hdep = 0 ∧ w.pend.getLsbD n = true ∧ w.pphase.getLsbD n ≠ (bar x).phase)
    (fun t _ _ => onCur (fun q => q.clearPend n) t) ∧
  Waits (.barwait h b) h
    (fun _ w x => w.hdep = 0 ∧ w.pend.getLsbD n = true ∧ w.pphase.getLsbD n = (bar x).phase)
    (fun t _ _ => sleeps t) ∧
  Acts (.barq h d b) h (fun _ w _ => w.hdep = 0) (fun t w x => putUni d (barqValue w n (bar x)) t) ∧
  (∀ i ∈ [Instr.bararr h b, .barsync h b],
    Stops i h (fun _ w x => w.hdep = 0 ∧ w.pending n (bar x) = false ∧ w.behind (w.guard h) = true) (fun t _ _ => t) ∧
    Raises i h (fun _ w x => w.hdep = 0 ∧ w.pending n (bar x) = true) .barrierState 0) ∧
  Raises (.barwait h b) h (fun _ w _ => w.hdep = 0 ∧ w.pend.getLsbD n = false) .barrierState 0 ∧
  (∀ i ∈ [Instr.bararr h b, .barsync h b, .barwait h b, .barq h d b], Raises i h (fun _ w _ => w.hdep ≠ 0) .steerMode 0)

/-- R230 to R233: acquires and takes get their position at issue and complete where the slot allows and no earlier
position waits, else the wave waits; posts, frees and bindings change their slot where it is in the state they need,
else RING_STATE is raised, and for a binding the cause of its window checks before it; in handler mode each raises STEER_MODE
before any other cause. Model's readings: log entries 10, 12 (STEER_MODE first) and 15. -/
def Obligations.StageRingResults : Prop := ∀ (h : Head) (d a b : Operand) (r : BitVec 3),
  let q := fun (w : Wave) (x : WCtx) => x.ring w r.toNat
  let slot := fun (w : Wave) (x : WCtx) (o : Operand) => (readUni w x o).toNat % 8
  let sl := fun (w : Wave) (x : WCtx) (o : Operand) => (q w x).slot (slot w x o)
  let thread : Cond := fun _ w _ => w.hdep = 0
  let inRing := fun (o : Operand) (w : Wave) (x : WCtx) => slot w x o < (q w x).slots.length
  let turnA := fun (t : State) (w : Wave) => t.updRing w r.toNat fun g => { g with ap := (g.ap + 1) % (2 * g.slots.length) }
  let turnW := fun (t : State) (w : Wave) => t.updRing w r.toNat fun g => { g with wp := (g.wp + 1) % (2 * g.slots.length) }
  let flushed := fun (t : State) (x : WCtx) => t.flushStores t.cur (t.waveDom x)
  let word := fun (w : Wave) (x : WCtx) => structAddr w x a
  let firstA : Cond := fun t w x => ∀ k ∈ (q w x).acquirers, ∀ v, t.waves.get k = some v → ∀ p u, v.wait ≠ some (.sracq r.toNat p u)
  let firstT : Cond := fun t w x => ∀ k ∈ (q w x).takers, ∀ v, t.waves.get k = some v → ∀ p u, v.wait ≠ some (.srwait r.toNat p u)
  Acts (.sracq h d r) h (fun t w x => thread t w x ∧ (q w x).acquirable (q w x).ap = true ∧ firstA t w x) (fun t w x =>
    putUni d (acquireValue (q w x) (q w x).ap) ((turnA t w).updRing w r.toNat fun g => g.acquire (q w x).ap)) ∧
  Waits (.sracq h d r) h (fun t w x => thread t w x ∧ ((q w x).acquirable (q w x).ap = false ∨ ¬ firstA t w x)) (fun t w x =>
    onCur (fun v => { v with wait := some (.sracq r.toNat (q w x).ap (uniNo d)) }) ((turnA t w).updRing w r.toNat fun g =>
      { g with acquirers := g.acquirers.filter (· ≠ t.cur) ++ [t.cur] })) ∧
  Acts (.srwait h d r) h (fun t w x => thread t w x ∧ (q w x).waitable (q w x).wp = true ∧ firstT t w x) (fun t w x =>
    putUni d (takeValue (q w x) (q w x).wp) ((turnW t w).updRing w r.toNat fun g => g.take (q w x).wp)) ∧
  Waits (.srwait h d r) h (fun t w x => thread t w x ∧ ((q w x).waitable (q w x).wp = false ∨ ¬ firstT t w x)) (fun t w x =>
    onCur (fun v => { v with wait := some (.srwait r.toNat (q w x).wp (uniNo d)) }) ((turnW t w).updRing w r.toNat fun g =>
      { g with takers := g.takers.filter (· ≠ t.cur) ++ [t.cur] })) ∧
  Acts (.srpost h a r) h
    (fun t w x => thread t w x ∧ inRing a w x ∧ (sl w x a).state = .acquired ∧ (sl w x a).bound = none)
    (fun t w x => (flushed t x).updRing w r.toNat fun g => g.updSlot (slot w x a) fun z => z.post false) ∧
  Acts (.srfree h a r) h (fun t w x => thread t w x ∧ inRing a w x ∧ (sl w x a).state = .taken)
    (fun t w x => (flushed t x).updRing w r.toNat fun g => g.updSlot (slot w x a) fun z => { z with state := .empty }) ∧
  Acts (.srbind h d a b r) h
    (fun t w x => thread t w x ∧ structOk 16 16 word t w x ∧ inRing d w x ∧ (sl w x d).state = .acquired ∧ (sl w x d).bound = none)
    (fun t w x => (flushed t x).updRing w r.toNat fun g => g.updSlot (slot w x d) fun z =>
      postBound ((flushed t x).boundWord x.block x.kern.desc ((flushed t x).waveDom x) (word w x))
        { z with bound := some (word w x, (readUni w x b).setWidth 24) }) ∧
  Raises (.srpost h a r) h
    (fun t w x => thread t w x ∧ (inRing a w x → (sl w x a).state = .acquired → (sl w x a).bound ≠ none)) .ringState 0 ∧
  Raises (.srfree h a r) h (fun t w x => thread t w x ∧ (inRing a w x → (sl w x a).state ≠ .taken)) .ringState 0 ∧
  Raises (.srbind h d a b r) h (fun t w x => thread t w x ∧ structOk 16 16 word t w x ∧
    (inRing d w x → (sl w x d).state = .acquired → (sl w x d).bound ≠ none)) .ringState 0 ∧
  Outside (.srbind h d a b r) h thread 16 16 word ∧
  (∀ i ∈ [Instr.sracq h d r, .srwait h d r, .srpost h a r, .srfree h a r, .srbind h d a b r],
    Raises i h (fun _ w _ => w.hdep ≠ 0) .steerMode 0)

/-! ### Tiles, launches, claims, collections -/

/-- R308, R316, R319, R322, R325 to R334: every tile instruction whose operands pass their checks enters the sequencer's
queue with its operands, TLDW giving its slot the new descriptor at once, or waits where 63 stand there; an operand that
fails raises the cause of its window checks, a slot or a sequence that does not fit TILE_STATE; in handler mode each raises
STEER_MODE before any of these. Model's readings: log entries 10, 12 (STEER_MODE first) and 22. -/
def Obligations.TileIssueResults : Prop := ∀ (h : Head) (n : BitVec 3) (d a b : Operand) (o : Option Operand) (p : BitVec 18)
    (wd : SlotWidth) (dw : DrainWidth) (s24 acc conj z4 ovf : Bool) (fmt : TileFmt) (mode : DrainMode) (dt : FFmt) (st : TcvtSrc)
    (rnd : Rnd) (ts : List (Nat × Nat × Nat)),
  let addr := fun (w : Wave) (x : WCtx) => structAddr w x a
  let slot := fun (w : Wave) (x : WCtx) => (readUni w x b).toNat % 2 ^ 32
  let fits := fun (bytes align : Nat) (a : Wave → WCtx → Word) (w : Wave) (x : WCtx) =>
    ∃ l, checkWindow w x { spill := false } (a w x) bytes align = .ok l
  let holds := fun (k : SlotWidth) (s : Bool) (w : Wave) (x : WCtx) =>
    slot w x < 192 ∧ (x.matrix w).desc.get (slot w x) = some ⟨k, s⟩
  let rows := 128 * (fmt.slot.depth * fmt.formats.1.bits / 8)
  let same := fun (_ : Wave) (_ : WCtx) (m : Matrix) => m
  let dst := fun (w : Wave) (x : WCtx) => readUni w x d
  let seq := fun (w : Wave) (x : WCtx) => match o with
    | some q => readUni w x q
    | none => 0
  let seqFits := fun (w : Wave) (x : WCtx) => mode = .seq → seqOk (seq w x) = true
  let pieces := fun (w : Wave) (x : WCtx) => pagePieces (dst w x) (drainBytes dw)
  let no := fun (_ : WCtx) => false
  let thread : Cond := fun _ w _ => w.hdep = 0
  let outside := fun (i : Instr) (bytes align : Nat) (a : Wave → WCtx → Word) => ∀ c, RaisesAt i h
    (fun t w x => thread t w x ∧ checkWindow w x { spill := false } (a w x) bytes align = .error c) c fun w x => (a w x).setWidth 64
  let unfit := fun (i : Instr) (bytes : Nat) (k : SlotWidth) (s : Bool) =>
    Raises i h (fun t w x => thread t w x ∧ fits bytes 256 addr w x ∧ ¬ holds k s w x) .tileState 0
  let drainTo := fun (w : Wave) (x : WCtx) => (dst w x).setWidth 32
  Queues (.tzero h n) h always (fun _ _ _ => .zero n.toNat) same no ∧
  Queues (.tldw h a b wd s24) h (fun _ w x => fits (wd.bytes s24) 256 addr w x ∧ slot w x < 192)
    (fun _ w x => .load (addr w x) (slot w x) wd s24) (fun w x m => { m with desc := m.desc.put (slot w x) ⟨wd, s24⟩ }) no ∧
  Queues (.tmma h n a b fmt acc) h (fun _ w x => fits rows 256 addr w x ∧ holds fmt.slot false w x)
    (fun _ w x => .mma n.toNat (addr w x) (slot w x) fmt acc false) same no ∧
  Queues (.tmmas h n a b fmt acc) h (fun _ w x => fits rows 256 addr w x ∧ holds fmt.slot true w x)
    (fun _ w x => .mma n.toNat (addr w x) (slot w x) fmt acc true) same no ∧
  Queues (.tbin h n a b conj acc) h (fun _ w x => fits 4096 256 addr w x ∧ holds .w1 false w x)
    (fun _ w x => .bin n.toNat (addr w x) (slot w x) conj acc) same no ∧
  Queues (.tlut h n a b z4 acc) h (fun _ w x => fits 4096 256 addr w x ∧ holds .w4 false w x)
    (fun _ w x => .lut n.toNat (addr w x) (slot w x) z4 acc) same no ∧
  Queues (.tscacc h n a p) h (fun _ w x => fits 256 16 addr w x) (fun _ w x => .scale n.toNat (addr w x) p.toNat) same no ∧
  Queues (.tdrain h d n o dw mode false) h
    (fun _ w x => fits (drainBytes dw) 256 (fun w x => (dst w x).setWidth 32) w x ∧ seqFits w x)
    (fun _ w x => .drain n.toNat ((dst w x).setWidth 32) dw mode none (seq w x) w.issuing) same (fun _ => mode != .store) ∧
  Queues (.tdrain h d n o dw mode true) h
    (fun t w x => (dst w x).toNat % 256 = 0 ∧ seqFits w x ∧
      t.translateAll w x.grid.ctx ((pieces w x).map fun q => (0, q.1)) (if mode == .store then .write else .readWrite) = .ok ts)
    (fun _ w x => .drain n.toNat 0 dw mode
      (some (List.zipWith (fun (q : DWord × Nat) (t : Nat × Nat × Nat) => (t.2.1, t.2.2, q.2)) (pieces w x) ts)) (seq w x) w.issuing)
    same (fun _ => true) ∧
  Queues (.tcvt h n dt st rnd ovf) h always (fun _ _ _ => .cvt n.toNat dt st rnd ovf) same no ∧
  Queues (.tsetph h a) h always (fun _ w x => .setph ((readUni w x a).setWidth 6)) same no ∧
  outside (.tldw h a b wd s24) (wd.bytes s24) 256 addr ∧ outside (.tmma h n a b fmt acc) rows 256 addr ∧
  outside (.tmmas h n a b fmt acc) rows 256 addr ∧ outside (.tbin h n a b conj acc) 4096 256 addr ∧
  outside (.tlut h n a b z4 acc) 4096 256 addr ∧ outside (.tscacc h n a p) 256 16 addr ∧
  outside (.tdrain h d n o dw mode false) (drainBytes dw) 256 drainTo ∧
  RaisesAt (.tdrain h d n o dw mode true) h (fun t w x => thread t w x ∧ (dst w x).toNat % 256 ≠ 0) .misaligned dst
    (fun _ _ => true) ∧
  Raises (.tldw h a b wd s24) h (fun t w x => thread t w x ∧ fits (wd.bytes s24) 256 addr w x ∧ 192 ≤ slot w x) .tileState 0 ∧
  unfit (.tmma h n a b fmt acc) rows fmt.slot false ∧ unfit (.tmmas h n a b fmt acc) rows fmt.slot true ∧
  unfit (.tbin h n a b conj acc) 4096 .w1 false ∧ unfit (.tlut h n a b z4 acc) 4096 .w4 false ∧
  RaisesAt (.tdrain h d n o dw mode false) h (fun t w x => thread t w x ∧ fits (drainBytes dw) 256 drainTo w x ∧
    mode = .seq ∧ seqOk (seq w x) = false) .tileState (fun _ _ => 0) (fun _ _ => true) ∧
  RaisesAt (.tdrain h d n o dw mode true) h (fun t w x => thread t w x ∧ (dst w x).toNat % 256 = 0 ∧
    t.translateAll w x.grid.ctx ((pieces w x).map fun q => (0, q.1)) .readWrite = .ok ts ∧
    mode = .seq ∧ seqOk (seq w x) = false) .tileState (fun _ _ => 0) (fun _ _ => true) ∧
  (∀ i ∈ [Instr.tzero h n, .tldw h a b wd s24, .tmma h n a b fmt acc, .tmmas h n a b fmt acc, .tbin h n a b conj acc,
      .tlut h n a b z4 acc, .tscacc h n a p, .tcvt h n dt st rnd ovf, .tsetph h a],
    Raises i h (fun _ w _ => w.hdep ≠ 0) .steerMode 0) ∧
  ∀ hbm, RaisesAt (.tdrain h d n o dw mode hbm) h (fun _ w _ => w.hdep ≠ 0) .steerMode (fun _ _ => 0) fun w x =>
    (mode != .store || hbm) && (hbm || (checkWindow w x { spill := false } (drainTo w x) (drainBytes dw) 256).isOk)

/-- R279 to R287, R308, R344 to R346, R349, R351, R352: DLAUNCH, DLWAIT, NODEPUT, QCLAIM and QNOTIFY complete with their
results in D and in the guard predicate; a DLAUNCH, a NODEPUT and the QNOTIFY of a bound queue wait while their lanes have
accesses outstanding; a packet that is not well-formed and a handle of no node kernel raise LAUNCH_PACKET, a header that is
not aligned MISALIGNED, a structure the cause of its window checks; in handler mode each raises STEER_MODE before any of
these. Model's readings: log entries 10, 12 (STEER_MODE first), 18 and 26. -/
def Obligations.LaunchAndQueueResults : Prop := ∀ (h : Head) (d a b : Operand) (o e : Option Operand) (k : Kernel)
    (tr : Nat × Nat × Nat) (ts : List (Nat × Nat × Nat)),
  let flushed := fun (t : State) (x : WCtx) => t.flushStores t.cur (t.waveDom x)
  let addr := fun (w : Wave) (x : WCtx) => structAddr w x a
  let thread : Cond := fun _ w _ => w.hdep = 0
  let packet := fun (t : State) (w : Wave) (x : WCtx) => (flushed t x).structRead x (structBytes w x (addr w x) 64)
  let good : Cond := fun t w x => w.hdep = 0 ∧ structOk 64 64 addr t w x ∧ (flushed t x).packetOk x.grid.ctx (packet t w x) = true ∧
    w.loads = []
  let shown := fun (t : State) (w : Wave) (x : WCtx) => (flushed t x).expose w true
  let full := fun (t : State) (w : Wave) (x : WCtx) => x.grid.depth = 8 ∨ 1024 ≤ ((shown t w x).die w.die).pool.length
  let child := fun (t : State) (w : Wave) (x : WCtx) =>
    (shown t w x).newGrid { (LaunchPacket.ofBytes (packet t w x)).grid x.grid.ctx x.grid.rank with
      parent := some x.block.grid, depth := x.grid.depth + 1, die := some w.die }
  let answer := fun (v : DWord) (t : State) => onCur (fun q => (q.setUni (uniNo d) v).reportPred h (v != 0)) t
  let node := fun (w : Wave) (x : WCtx) => (structAddr w x b).toNat
  let put := fun (t : State) (w : Wave) (x : WCtx) =>
    (shown t w x).nodePut w.die x.grid.ctx (node w x) k.desc x.grid.rank
      ((flushed t x).structRead x (structBytes w x (addr w x) k.desc.nodeOf.2.1))
  let count := fun (w : Wave) (x : WCtx) => match o with
    | some q => (readUni w x q).toNat
    | none => 1
  let va := fun (w : Wave) (x : WCtx) => readUni w x a
  let header := fun (t : State) => t.memReads tr.2.2 (tr.2.1 + 16) 24
  let result := fun (t : State) (w : Wave) (x : WCtx) =>
    if count w x = 0 ∨ 64 < count w x then (2, 0, none) else claimOutcome (header t) (count w x)
  let qn := fun (w : Wave) (x : WCtx) => (addr w x).toNat % 4096
  let rung := fun (t : State) (w : Wave) (x : WCtx) => (t.settleQueue (qn w x)).expose w true
  let told := fun (status : Nat) (u : State) (w : Wave) (x : WCtx) => onCur (fun v => (match e with
    | some r => v.setUni (uniNo r) (BitVec.ofNat 64 (status * 2 ^ 32 + (u.doorbellOf (qn w x) w.accn.toNat).toNat))
    | none => v).reportPred h (status == 1)) u
  Acts (.dlaunch h d a) h (fun t w x => good t w x ∧ full t w x) (fun t w x => answer 0 (shown t w x)) ∧
  Acts (.dlaunch h d a) h (fun t w x => good t w x ∧ ¬ full t w x) (fun t w x =>
    let n := (shown t w x).freeNumber x.grid.ctx (shown t w x).grids.length (shown t w x).nextGrid (shown t w x).nextSerial
    answer (n.2 ++ n.1) ((child t w x).2.updDie w.die fun q => { q with pool := q.pool ++ [(child t w x).1] })) ∧
  Stops (.dlaunch h d a) h
    (fun t w x => w.hdep = 0 ∧ structOk 64 64 addr t w x ∧ (flushed t x).packetOk x.grid.ctx (packet t w x) = false)
    (fun t w x => (t.expose w true).deliver t.cur w x .launchPacket (w.guard h) 0 0) ∧
  Stops (.dlaunch h d a) h (fun t w x => w.hdep = 0 ∧ structOk 64 64 addr t w x ∧
    (flushed t x).packetOk x.grid.ctx (packet t w x) = true ∧ w.loads ≠ []) (fun t _ x => flushed t x) ∧
  Outside (.dlaunch h d a) h thread 64 64 addr ∧
  (∀ r, Acts (.dlwait h d a) h (fun t w x => w.hdep = 0 ∧ t.waitStatus x (va w x) = some r) fun t _ _ => putUni d r t) ∧
  Waits (.dlwait h d a) h (fun t w x => w.hdep = 0 ∧ t.waitStatus x (va w x) = none)
    (fun t w x => onCur (fun q => { q with wait := some (.dlwait (va w x) (uniNo d)) }) t) ∧
  Acts (.nodeput h e a b) h
    (fun t w x => w.hdep = 0 ∧ t.nodeKernel x.grid.ctx (node w x) = some k ∧ structOk k.desc.nodeOf.2.1 16 addr t w x ∧
      w.loads = [])
    (fun t w x => (put t w x).2.updWave t.cur fun q => (match e with
      | some r => q.setUni (uniNo r) (if (put t w x).1 then 1 else 0)
      | none => q).reportPred h (put t w x).1) ∧
  Stops (.nodeput h e a b) h
    (fun t w x => w.hdep = 0 ∧ t.nodeKernel x.grid.ctx (node w x) = some k ∧ structOk k.desc.nodeOf.2.1 16 addr t w x ∧
      w.loads ≠ []) (fun t _ x => flushed t x) ∧
  RaisesAt (.nodeput h e a b) h (fun t w x => w.hdep = 0 ∧ t.nodeKernel x.grid.ctx (node w x) = none ∧ structOk 1 16 addr t w x)
    .launchPacket (fun _ _ => 0) (fun _ _ => true) ∧
  (∀ size, Outside (.nodeput h e a b) h (fun t w x => w.hdep = 0 ∧ t.nodeBytes x.grid.ctx (node w x) = size) size 16 addr) ∧
  RaisesAt (.qclaim h d a o) h (fun _ w x => w.hdep = 0 ∧ (va w x).toNat % 64 ≠ 0) .misaligned va ∧
  Acts (.qclaim h d a o) h
    (fun t w x => w.hdep = 0 ∧ (va w x).toNat % 64 = 0 ∧
      t.translateAll w x.grid.ctx ((lanesOf (w.guard h)).map fun l => (l, va w x)) .readWrite = .ok (tr :: ts))
    (fun t w x =>
      (match (result t w x).2.2 with
        | some v => t.memWrites tr.2.2 (tr.2.1 + 32) (leBytes 3 v)
        | none => t).updWave t.cur fun q =>
          (q.setUni (uniNo d) (BitVec.ofNat 64 ((result t w x).1 * 2 ^ 32 + (result t w x).2.1))).reportPred h
            ((result t w x).1 == 1)) ∧
  (∀ q, Acts (.qnotify h e a b) h
    (fun t w x => w.hdep = 0 ∧ w.loads = [] ∧ (addr w x).toNat < 4096 ∧ (rung t w x).queues.get (qn w x) = some q ∧
      q.boundTo x.grid.ctx = true)
    fun t w x =>
      let p := ((rung t w x).flushStores t.cur (t.waveDom x)).notifyQueue (qn w x) q ((readUni w x b).toNat % 2 ^ 24)
      told p.1 p.2 w x) ∧
  (∀ q, Stops (.qnotify h e a b) h
    (fun t w x => w.hdep = 0 ∧ w.loads ≠ [] ∧ (addr w x).toNat < 4096 ∧ (rung t w x).queues.get (qn w x) = some q ∧
      q.boundTo x.grid.ctx = true) fun t _ x => flushed t x) ∧
  Acts (.qnotify h e a b) h
    (fun t w x => w.hdep = 0 ∧ ∀ q, (rung t w x).queues.get (qn w x) = some q → q.boundTo x.grid.ctx = false)
    (fun t w x => told 4 ((rung t w x).dropNotify (qn w x)) w x) ∧
  (∀ q, Acts (.qnotify h e a b) h
    (fun t w x => w.hdep = 0 ∧ 4096 ≤ (addr w x).toNat ∧ (rung t w x).queues.get (qn w x) = some q ∧ q.boundTo x.grid.ctx = true)
    fun t w x => told 4 ((rung t w x).rouse (qn w x)) w x) ∧
  (∀ i ∈ [Instr.dlwait h d a, .qclaim h d a o], Raises i h (fun _ w _ => w.hdep ≠ 0) .steerMode 0) ∧
  RaisesAt (.dlaunch h d a) h (fun _ w _ => w.hdep ≠ 0) .steerMode (fun _ _ => 0)
    (fun w x => (checkStruct w x (addr w x) 64 64).isOk) ∧
  (∀ size, RaisesAt (.nodeput h e a b) h (fun t w x => w.hdep ≠ 0 ∧ t.nodeBytes x.grid.ctx (node w x) = size) .steerMode
    (fun _ _ => 0) fun w x => (checkStruct w x (addr w x) size 16).isOk) ∧
  RaisesAt (.qnotify h e a b) h (fun _ w _ => w.hdep ≠ 0) .steerMode (fun _ _ => 0) fun _ _ => true

/-- R279, R290, R291, R295, R296, R299: claims enter their items, CLAIMEND hands the items of its lanes to the former, after
the retirements that are due, and its lanes leave, ITEMEND lets its lanes' items go; in handler mode each raises STEER_MODE,
outside a wave of the kind CLAIM_PHASE; a CLAIM with a lane that fails raises the cause of the worst lane (CLAIM_PHASE
without an item, CLAIM_SCOPE outside the block and die windows, WINDOW_BOUNDS, CLAIM_OVERFLOW), a CLAIMEND with a bad entry
PC_RANGE. Model's readings: log entries 12 (the lanes of REJOIN_STALL) and 18. -/
def Obligations.ReservingResults : Prop := ∀ (h : Head) (a : Operand) (b : Option Operand) (f : Former),
  let g := fun (w : Wave) => w.guard h
  let claims := fun (w : Wave) (x : WCtx) (l : Nat) => claimLane w x x.claims (laneAddr w x a b l) l
  let entry := fun (w : Wave) (x : WCtx) (l : Nat) => match a with
    | .imm c => w.pc + 12 + 12 * c.signExtend 32
    | _ => readWord w x l a
  let items := fun (w : Wave) (x : WCtx) => (lanesOf (g w)).filterMap fun l => (w.lane l).item.map fun it =>
    { it with entry := entry w x l, words := (List.range 4).map fun i => (w.lane l).reg i }
  let without := fun (w : Wave) => { w.leave (g w) with
    lanes := w.lanes.mapIdx fun l y => if (g w).getLsbD l then { y with item := none } else y }
  let due := fun (t : State) (w : Wave) => (t.retireFirst w).formBodies w.die
  let ends : Cond := fun t w x => g w ≠ 0 ∧ w.hdep = 0 ∧ w.kind = .claim ∧ (due t w).former w = some f ∧
    ∀ l, (g w).getLsbD l = true → x.pcOk (entry w x l) = true
  let submits : Effect := fun t w x => ((due t w).setFormer w.die ((items w x).foldl Former.submit f), without w)
  Acts (.claim h a b) h
    (fun _ w x => w.hdep = 0 ∧ w.kind = .claim ∧ ∀ l, (g w).getLsbD l = true → (claims w x l).isOk = true)
    (fun t w x => t.setWave t.cur ((lanesOf (g w)).foldl (fun v l => match claims w x l with
      | .ok it => v.updLane l fun y => { y with item := some it }
      | .error _ => v) w)) ∧
  (∀ c, Ends (.claim h a b) (fun _ w x => g w ≠ 0 ∧ w.hdep = 0 ∧ w.kind = .claim ∧
      worstCause ((lanesOf (g w)).filterMap fun l => match claims w x l with
        | .error k => some (l, k, (laneAddr w x a b l).setWidth 64)
        | .ok _ => none) = some c) fun t w x => t.deliver t.cur w x c.1 c.2.1 c.2.2 0) ∧
  (∀ (w : Wave) (x : WCtx) (most : Nat) (adr : Word) (l : Nat), ((w.lane l).item = none → claimLane w x most adr l = .error .claimPhase) ∧
    ∀ it, (w.lane l).item = some it →
      ((adr.toNat < 0x40000000 ∨ 0xc0000000 ≤ adr.toNat) → claimLane w x most adr l = .error .claimScope) ∧
      (0x40000000 ≤ adr.toNat → adr.toNat < 0xc0000000 →
        (windowLoc w.die x.block x.kern.desc adr 1 = none → claimLane w x most adr l = .error .windowBounds) ∧
        ∀ p, windowLoc w.die x.block x.kern.desc adr 1 = some p →
          let granule := (claimForm w x p).getD 0 / 8
          (granule ∈ it.granules → claimLane w x most adr l = .ok it) ∧
          (granule ∉ it.granules → most ≤ it.claims.length → claimLane w x most adr l = .error .claimOverflow) ∧
          (granule ∉ it.granules → it.claims.length < most → claimLane w x most adr l =
            .ok { it with granules := it.granules ++ [granule], claims := it.claims ++ [claimBits granule] }))) ∧
  Ends (.claimend h a) (fun _ w x => g w ≠ 0 ∧ w.hdep = 0 ∧ w.kind = .claim ∧ ∃ l, (g w).getLsbD l = true ∧ x.pcOk (entry w x l) = false)
    (fun t w x => t.deliver t.cur w x .pcRange (maskOf fun l => (g w).getLsbD l && !x.pcOk (entry w x l)) 0 0) ∧
  (∀ i ∈ [Instr.claim h a b, .claimend h a, .itemend h], Raises i h (fun _ w _ => w.hdep ≠ 0) .steerMode 0) ∧
  GoesOn (.claimend h a) ends submits ∧ RunsOut (.claimend h a) ends submits ∧ Empties (.claimend h a) ends submits ∧ LeavesNone (.claimend h a) ends submits ∧
  Acts (.itemend h) h (fun _ w _ => w.hdep = 0 ∧ w.kind = .body) (fun t w _ =>
    (t.exitItems w (g w)).1.setWave (t.exitItems w (g w)).1.cur (t.exitItems w (g w)).2) ∧
  Raises (.claim h a b) h (fun _ w _ => w.hdep = 0 ∧ w.kind ≠ .claim) .claimPhase 0 ∧
  Raises (.claimend h a) h (fun _ w _ => w.hdep = 0 ∧ w.kind ≠ .claim) .claimPhase 0 ∧
  Raises (.itemend h) h (fun _ w _ => w.hdep = 0 ∧ w.kind ≠ .body) .claimPhase 0 ∧
  Runs (.claimend h a) (fun _ w _ => g w = 0) fun t _ _ => t

/-- R253, R255 to R263: the collection instructions complete: lookups and fetches enter their tag, counts rise and fall, a
root is compared and swapped, a copy-out hands its card over; without a region each raises NO_REGION, a name that the region
does not hold NAME_ABSENT, a bad shape of a root ROOT_SHAPE. Model's readings: log entries 10 (the wave's stores are
performed at issue) and 19. -/
def Obligations.CollectionResults : Prop := ∀ (h : Head) (d a b : Operand) (o : Option Operand) (dom tag : BitVec 3) (node : Bool)
    (n : Nat) (tr : Nat × Nat × Nat) (ts : List (Nat × Nat × Nat)),
  let flushed := fun (t : State) (x : WCtx) => t.flushStores t.cur (t.waveDom x)
  let region : Cond := fun t _ x => t.domSlot x.grid.ctx dom.toNat = some n
  let room := fun (w : Wave) => w.copies.length < 63
  let pend := fun (c : PendCopy) (t : State) (w : Wave) (x : WCtx) =>
    (flushed t x).newKey.2.updWave t.cur fun q =>
      { q with copies := q.copies ++
        [{ c with op := (flushed t x).newKey.1, at_ := w.issuing, epoch := (t.domain c.dom).epoch }] }
  let shown := fun (t : State) (w : Wave) => t.expose w true
  let name := fun (w : Wave) => w.uni (uniNo a + 1) ++ w.uni (uniNo a)
  let walk := fun (need : Need) (va : Wave → WCtx → DWord) (t : State) (w : Wave) (x : WCtx) =>
    (va w x).toNat % 32 = 0 ∧ t.translateAll w x.grid.ctx ((lanesOf (w.guard h)).map fun l => (l, va w x)) need = .ok (tr :: ts)
  let shape := fun (w : Wave) (x : WCtx) => readUni w x b
  let k := uniNo d
  let new := fun (w : Wave) => (w.uni (k + 3) ++ w.uni (k + 2) : BitVec 128)
  let swap := fun (t : State) (w : Wave) (x : WCtx) (r : Word × State) =>
    let s1 := (r.2.flushStores t.cur (t.waveDom x)).expose w true
    let old := slotName (s1.memReads tr.2.2 tr.2.1 32)
    let hit := old = (w.uni (k + 1) ++ w.uni k)
    onCur (fun q => ((q.setUni k (old.setWidth 64)).setUni (k + 1) (old.extractLsb' 64 64)).reportPred h (decide hit))
      (if hit then (s1.memWrites tr.2.2 tr.2.1
        (rootSlot (new w) ((shape w x).toNat % 2 ^ 56) ((shape w x).toNat / 2 ^ 56))).unref tr.2.2 old
      else s1.unref tr.2.2 (new w))
  Acts (.clook h d a dom tag node) h
    (fun t w x => structOk 512 16 (fun w x => structAddr w x a) t w x ∧ structOk 32 32 (fun w x => structAddr w x d) t w x ∧
      region t w x ∧ room w)
    (fun t w x => pend { op := 0, tag := tag.toNat, kind := .look, dom := n, node := node, line := structAddr w x a
                         rec_ := some (structAddr w x d) } (shown t w) w x) ∧
  Acts (.cfetch h d a o dom tag) h
    (fun t w x => structOk 512 16 (fun w x => structAddr w x d) t w x ∧
      (∀ r, o = some r → structOk 32 32 (fun w x => structAddr w x r) t w x) ∧ region t w x ∧ room w)
    (fun t w x => pend { op := 0, tag := tag.toNat, kind := .fetch, dom := n, name := name w, line := structAddr w x d
                         rec_ := o.map (structAddr w x) } t w x) ∧
  (∀ r, Acts (.cref h d a dom) h (fun t w x => region t w x ∧ t.incr n (name w) = some r)
    fun t w _ => (shown r.2 w).updWave t.cur fun q => q.setUni (uniNo d) (refValue r.1 false)) ∧
  (∀ r, Acts (.cunref h d a dom) h (fun t w x => region t w x ∧ t.decr n (name w) = some r)
    fun t w _ => (shown r.2.2 w).updWave t.cur fun q => q.setUni (uniNo d) (refValue r.1 r.2.1)) ∧
  (∀ r, Acts (.crootcas h d a b) h
    (fun t w x => walk .root (fun w x => readUni w x a) t w x ∧ t.regions.get tr.2.2 ≠ none ∧
      shapeOk ((shape w x).toNat / 2 ^ 56) ((shape w x).toNat % 2 ^ 56) = true ∧ t.incr tr.2.2 (new w) = some r)
    fun t w x => swap t w x r) ∧
  (∀ r, Acts (.ccopyout h a b tag) h
    (fun t w x => structOk 128 128 (fun w x => structAddr w x a) t w x ∧ walk .slot (fun w x => readUni w x b) t w x ∧
      t.regions.get tr.2.2 ≠ none ∧ t.cardsFull w = false ∧
      t.incr tr.2.2 (slotName (t.memReads tr.2.2 tr.2.1 32)) = some r)
    fun t w x => handCard tag.toNat (structAddr w x a) (some (tr.2.2, t.memReads tr.2.2 tr.2.1 32))
      ((r.2.flushStores t.cur (t.waveDom x)).expose w true) w x) ∧
  (let none_ : Cond := fun t _ x => t.domSlot x.grid.ctx dom.toNat = none
   let fails := fun (i : Instr) (pre : Cond) (c : Cause) (b : Bool) => RaisesAt i h pre c (fun _ _ => 0) fun _ _ => b
   (∀ i ∈ [Instr.cref h d a dom, .cunref h d a dom], fails i none_ .noRegion true) ∧
   fails (.cref h d a dom) (fun t w x => region t w x ∧ t.incr n (name w) = none) .nameAbsent true ∧
   fails (.cunref h d a dom) (fun t w x => region t w x ∧ t.decr n (name w) = none) .nameAbsent true ∧
   fails (.clook h d a dom tag node) (fun t w x => structOk 512 16 (fun w x => structAddr w x a) t w x ∧
     structOk 32 32 (fun w x => structAddr w x d) t w x ∧ none_ t w x) .noRegion true ∧
   fails (.cfetch h d a o dom tag) (fun t w x => structOk 512 16 (fun w x => structAddr w x d) t w x ∧
     (∀ r, o = some r → structOk 32 32 (fun w x => structAddr w x r) t w x) ∧ none_ t w x) .noRegion false ∧
   (let at_ : Cond := fun t w x => walk .root (fun w x => readUni w x a) t w x
    let good := fun (w : Wave) (x : WCtx) => shapeOk ((shape w x).toNat / 2 ^ 56) ((shape w x).toNat % 2 ^ 56)
    fails (.crootcas h d a b) (fun t w x => at_ t w x ∧ t.regions.get tr.2.2 = none) .noRegion true ∧
    fails (.crootcas h d a b) (fun t w x => at_ t w x ∧ t.regions.get tr.2.2 ≠ none ∧ good w x = false) .rootShape true ∧
    fails (.crootcas h d a b) (fun t w x => at_ t w x ∧ t.regions.get tr.2.2 ≠ none ∧ good w x = true ∧
      t.incr tr.2.2 (new w) = none) .nameAbsent true) ∧
   let at_ : Cond := fun t w x => structOk 128 128 (fun w x => structAddr w x a) t w x ∧ walk .slot (fun w x => readUni w x b) t w x
   fails (.ccopyout h a b tag) (fun t w x => at_ t w x ∧ t.regions.get tr.2.2 = none) .noRegion true ∧
   fails (.ccopyout h a b tag) (fun t w x => at_ t w x ∧ t.regions.get tr.2.2 ≠ none ∧ t.cardsFull w = false ∧
     t.incr tr.2.2 (slotName (t.memReads tr.2.2 tr.2.1 32)) = none) .nameAbsent true)

/-! ### Events at a wave -/

/-- R53, R79, R82, R99, R104, R109, R132: each write of a special register from the event table completes with its effect,
a read of `%fflags` once no tile instruction of the wave is outstanding, a write that only handler mode may make raises
ILLEGAL_OPERAND at depth 0, and an emptied `%runm` STEER_EMPTY. Model's readings: log entry 17. -/
def Obligations.SpecialRegisterWriteEvents : Prop := ∀ (s : State) (n : Nat) (w : Wave) (x : WCtx), At s n w x →
  ∀ (m : BitVec 64) (v : BitVec 32) (vals : List (BitVec 32)) (d : Operand) (no : BitVec 8),
  (w.hdep ≠ 0 → w.run &&& x.maskIn m ≠ 0 →
    exec (.writeRunm n m) s = .next (s.setWave n { w with run := w.run &&& x.maskIn m })) ∧
  (w.hdep ≠ 0 → w.run &&& x.maskIn m = 0 → exec (.writeRunm n m) s = .next (s.deliver n w x .steerEmpty w.run 0 0)) ∧
  (w.hdep ≠ 0 → exec (.writeParkm n m) s = .next (s.setWave n { w with park := x.maskIn m &&& w.live })) ∧
  (w.hdep ≠ 0 →
    exec (.writeLpc n m vals) s = .next (s.setWave n (w.setLpcs w.lpcBank (m &&& w.run) fun l => vals.getD l 0))) ∧
  (w.hdep ≠ 0 → exec (.writeHrun2 n m) s = .next (s.setWave n { w with hrun2 := x.maskIn m })) ∧
  (w.hdep = 0 → ∀ i ∈ [Instr.writeRunm n m, .writeParkm n m, .writeLpc n m vals, .writeHrun2 n m],
    exec i s = .next (s.deliver n w x .illegalOperand w.run 0 0)) ∧
  exec (.writeSglim n v) s = .next (s.setWave n { w with sglim := clampWord 16 0xfffffffe v }) ∧
  exec (.writeSgq n v) s = .next (s.setWave n { w with sgq := clampWord 16 65536 v }) ∧
  exec (.writeDither n v) s = .next (s.setWave n { w with dither := v.setWidth 6 }) ∧
  exec (.writeFflags n v) s = .next (s.setWave n { w with fflags := v.setWidth 5 }) ∧
  (w.tiles = [] →
    exec (.readFflags n d) s = .next (s.setWave n (w.writeD d false w.run fun _ => w.fflags.setWidth 64))) ∧
  (w.tiles ≠ [] → exec (.readFflags n d) s = .next s) ∧
  exec (.writeHvec n v) s = .next (s.setWave n { w with hvec := v }) ∧
  (∀ w', (no = 0x27 ∨ no = 0x2c ∨ no = 0x2d ∨ no = 0x30 ∨ no = 0x31 ∨ no = 0x32 ∨ w.hdep ≠ 0 ∧ (no = 0x21 ∨ no = 0x23 ∨ no = 0x28 ∨
      no = 0x29 ∨ no = 0x2a ∨ no = 0x2b)) → w.writeSpec x no m = .ok w' →
    exec (.writeSpecialRegister n no m) s = .next (s.setWave n w')) ∧
  (no = 0x22 ∨ w.hdep = 0 ∧ (no = 0x21 ∨ no = 0x23 ∨ no = 0x28 ∨ no = 0x29 ∨ no = 0x2a ∨ no = 0x2b) →
    exec (.writeSpecialRegister n no m) s = .next (s.deliver n w x .illegalOperand w.run 0 0))

/-- R105, R106, R108, R110, R295: serial steering engages for a starved wave and after a handler overrun, a quantum ends
in a safeguard event, an ended wave leaves its slot and its barriers, the items that one instruction has ended retire
once the accesses that stand before it are performed. Model's readings: log entries 12 and 18. -/
def Obligations.WaveBoundaryEvents : Prop := ∀ (s : State) (n : Nat) (w q : Wave) (x : WCtx) (f : Former), At s n w x →
  let goes := w.atBoundary = true
  (goes → w.starved = true → w.startSerial x = some q → exec (.serialSteering n) s = .next (s.setWave n q).countSafeguard) ∧
  (goes → w.overrun = true → { w with hdep := 0, hcause := 0, passBp := false }.startSerial x = some q →
    exec (.handlerOverrun n) s = .next (s.setWave n q).countSafeguard) ∧
  (goes → w.quantumOver = true → w.runnable ≠ 0 → w.enterEvent x .safeguard w.pc (fun _ => w.pc) = some q →
    exec (.quantumEnd n) s = .next (s.setWave n q)) ∧
  (goes → w.quantumOver = true → w.runnable = 0 → w.live = 0 →
    exec (.quantumEnd n) s = .next (s.setWave n { w with phase := .ending })) ∧
  (goes → w.quantumOver = true → w.runnable = 0 → w.live ≠ 0 →
    exec (.quantumEnd n) s = .next (s.deliver n w x .rejoinStall w.live 0 0)) ∧
  (w.phase = .ending → w.drained = true → w.retiring = [] →
    exec (.waveEnd n) s = .next { s.leaveBarriers w x with waves := (s.leaveBarriers w x).waves.del n }) ∧
  (∀ p, w.saved = false → w.readyPass = some p → (s.formBodies w.die).former w = some f →
    exec (.itemRetire n) s = .next (((s.formBodies w.die).setFormer w.die (f.retireItems p.items)).updWave n fun v =>
      { v with retiring := v.retiring.filter fun k => k.num ≠ p.num })) ∧
  (w.saved = true ∨ w.readyPass = none → exec (.itemRetire n) s = .next s) ∧
  (w.starved = false → exec (.serialSteering n) s = .next s) ∧
  (w.overrun = false → exec (.handlerOverrun n) s = .next s) ∧
  (w.quantumOver = false → exec (.quantumEnd n) s = .next s)

/-- R194, R198, R223, R232, R233, R282: a waiting wave comes out of its wait exactly when what it waits for holds, with
its result, and retires its instruction, ring positions in their order; one whose PC a debugger has moved to the last word of
its text raises PC_RANGE instead (R95); a bound slot is posted where its arrival word has moved on. Model's readings: log entries
13 and 15. -/
def Obligations.WakeEvents : Prop := ∀ (s : State) (n : Nat) (w : Wave) (x : WCtx), At s n w x →
  w.wakeable = true →
  let w' := { w with wait := none }
  let done := fun (t : State) (y : WCtx) (v : Wave) => Host.Outcome.next (if w.nextPc.toNat < x.textLen
    then (t.setWave n v).updWave n fun q => (w'.retire q).goto w.nextPc
    else ((t.setWave n w').exposedAs (t.setWave n v) w').deliver n w' y .pcRange w.run 0 0)
  (∀ b, w.wait = some (.bar b) →
    (w.pphase.getLsbD b ≠ (x.barrier b).phase →
      exec (.barrierWake n) s = done s x (w'.clearPend b)) ∧
    (w.pphase.getLsbD b = (x.barrier b).phase → exec (.barrierWake n) s = .next s)) ∧
  (∀ r p d, w.wait = some (.sracq r p d) →
    let turn := (x.ring w r).acquirable p = true ∧ s.firstWaiting (x.ring w r).acquirers (Wait.acquiring r) = some n
    let t := s.updRing w r fun g => g.acquire p
    (turn → ∃ y, t.wctx w = some y ∧ exec (.ringWake n) s = done t y (w'.setUni d (acquireValue (x.ring w r) p))) ∧
    (¬ turn → exec (.ringWake n) s = .next s)) ∧
  (∀ r p d, w.wait = some (.srwait r p d) →
    let turn := (x.ring w r).waitable p = true ∧ s.firstWaiting (x.ring w r).takers (Wait.taking r) = some n
    let t := s.updRing w r fun g => g.take p
    (turn → ∃ y, t.wctx w = some y ∧ exec (.ringWake n) s = done t y (w'.setUni d (takeValue (x.ring w r) p))) ∧
    (¬ turn → exec (.ringWake n) s = .next s)) ∧
  (∀ a g d, w.wait = some (.arrwait a g d) →
    let v := s.arrivalAt (s.waveDom x) ((structBytes w x a 1).headD 0)
    (v.gen ≠ g.toNat ∨ v.fault = true → exec (.arrwaitWake n) s =
      done s x (w'.setUni d (BitVec.ofNat 64 (v.flags * 2 ^ 24 + v.gen)))) ∧
    (v.gen = g.toNat → v.fault = false → exec (.arrwaitWake n) s = .next s)) ∧
  (∀ a, w.wait = some (.crsleep a) →
    let r := RingHead.ofBytes (s.structRead x (structBytes w x a 32))
    (r.tail ≠ r.head → exec (.crsleepWake n) s = done s x w') ∧
    (r.tail = r.head → exec (.crsleepWake n) s = .next s)) ∧
  (∀ v d, w.wait = some (.dlwait v d) →
    (∀ r, s.waitStatus x v = some r → exec (.dlwaitWake n) s = done s x (w'.setUni d r)) ∧
    (s.waitStatus x v = none → exec (.dlwaitWake n) s = .next s)) ∧
  (∀ partner ring slot a g, (((x.block.rings.getD partner []).getD ring {}).slot slot).bound = some (a, g) →
    x.block.placed = true → exec (.ringBoundPost w.block partner ring slot) s =
      .next (s.updBlock w.block fun b => b.updRing partner ring fun q => q.updSlot slot
        (postBound (s.boundWord x.block x.kern.desc (s.ownDom x.grid.ctx) a))))

/-- R172, R173, R180, R181, R249, R319, R334, R383: loads write their registers, an ATOM that has
met an error reporting it, stores reach memory with the atomics that waited for them, copy lanes land and credit their arrival word, or wait where no path leads to their peer, tags fall in
order, tile instructions take effect in order, sequence-indexed drains arrive. Model's readings: log entries 10, 22 and 35
(which ports lead to a peer). -/
def Obligations.CompletionEvents : Prop := ∀ (s : State) (n : Nat) (w : Wave) (x : WCtx), At s n w x →
  (∀ p ps, w.loads = p :: ps → p.owed = false →
    let t := s.setWave n { p.writes.foldl Wave.writeReg w with loads := ps }
    (p.read ≠ none ∨ p.err = none → exec (.loadComplete n none) s = .next t) ∧
    ∀ e, p.read = none → p.err = some e →
      exec (.loadComplete n none) s = .next (t.uncorrectable (t.lateRecord w x p.at_ .uncorrectable 0 0 0) e.array)) ∧
  (∀ p ps, w.stores = p :: ps → exec (.storePerformed n) s =
    .next (((s.perform n (s.waveDom x) p).updWave n fun v => { v with stores := ps }).performAtoms n (s.waveDom x) ps)) ∧
  (∀ op lane c l pa dom, w.copyLane op lane = some (c, l) → c.kind = .load → l.pa = some (pa, dom) → s.isPeer pa = false →
    exec (.copyLaneDone n op lane [] none) s = .next (s.landLane n x c l (s.copySource c l (pa, dom)))) ∧
  (∀ op lane c l pa dom bs, w.copyLane op lane = some (c, l) → c.kind = .load → l.pa = some (pa, dom) → s.isPeer pa = true →
    l.unreached s = false → bs.length = l.bytes → exec (.copyLaneDone n op lane bs none) s = .next (s.landLane n x c l bs)) ∧
  (∀ op lane c l, w.copyLane op lane = some (c, l) → c.kind = .store → l.unreached s = false →
    exec (.copyLaneDone n op lane [] none) s = .next (s.landLane n x c l l.data)) ∧
  (∀ op lane c l bs err, w.copyLane op lane = some (c, l) → l.unreached s = true →
    exec (.copyLaneDone n op lane bs err) s = .next s) ∧
  (∀ tag, exec (.copyTagFall n tag) s = .next (s.updWave n fun v => v.tagFall tag.toNat)) ∧
  (∀ op lane c l p, w.copyLane op lane = some (c, l) → l.pa = some p → l.unreached s = true →
    exec (.peerPathTimeout n op lane) s =
      .next ((s.landLane n x c (if c.kind = .store then { l with pa := none } else l) (List.replicate l.bytes 0)).notice
        { s.lateRecord w x c.at_ .uncorrectable (1#64 <<< l.lane) l.va 0 with
          arg := BitVec.ofNat 32 (0x10000 + peerNo p.1) })) ∧
  (∀ op ops r, w.tiles = op :: ops → w.drainWaits s = none → tileEffect s w x (x.matrix w) op = some r →
    exec (.tileCountFall { wave := n }) s = .next ((r.1.updMatrix w fun m => { r.2.1 with desc := m.desc }).updWave n fun v =>
      { v.tileFall with fflags := v.fflags ||| r.2.2 })) ∧
  (∀ t a wd hbm q i ops s', w.tiles = .drain t a wd .seq hbm q i :: ops → w.drainWaits s = none →
    s.arrive (drainContribution s w x (x.matrix w) t a hbm q i) = some s' →
    exec (.seqContribution n) s = .next (s'.updWave n fun v => { v with tiles := .arrived :: ops }))

/-- R206, R250, R252, R253, R258, R259, R265: lookups and fetches finish with the rest of their line and record, a lookup with
what it has found already, else from the bytes that it has read and the others as they are; after a discard of the domain a
lookup finds no region; a cascade decrements its next name, a region starts with zeros in its root area. Model's readings: log entry 19. -/
def Obligations.CollectionEvents : Prop := ∀ (s : State),
  (∀ n op w x c, At s n w x → w.collection op .look = some c →
    let bs := (s.structRead x (structBytes w x c.line 512)).mapIdx fun i b => (c.early.get i).getD b
    let ends := fun (t : State) (record : List Byte) => Host.Outcome.next ((match c.rec_ with
      | some a => t.structPut w x a record c.restRecord
      | none => t).updWave n fun v => v.complete c)
    (∀ r, c.result = some r → exec (.clookFinish n op none) s = ends s r) ∧
    (c.result = none → s.regionAt c.dom c.epoch ≠ none →
      let r := s.lookLine c.dom c.node bs none
      exec (.clookFinish n op none) s = ends r.2 r.1) ∧
    (c.result = none → s.regionAt c.dom c.epoch = none → exec (.clookFinish n op none) s = ends s (resultRecord 0 3 0))) ∧
  (∀ n op w x c, At s n w x → w.collection op .fetch = some c →
    (∀ p, s.fetchLine c = some p → exec (.cfetchFinish n op none) s =
      let t := s.structPut w x c.line p.1 c.unlanded
      .next ((match c.rec_ with
        | some a => t.structPut w x a (resultRecord c.name (if c.name = 0 then 7 else 1) p.2) c.restRecord
        | none => t).updWave n fun v => v.complete c)) ∧
    (s.fetchLine c = none → exec (.cfetchFinish n op none) s = .next ((match c.rec_ with
        | some a => s.structPut w x a (resultRecord 0 3 0) c.restRecord
        | none => s).updWave n fun v => v.complete c)) ∧
    (c.found = none → (s.regionAt c.dom c.epoch = none → s.fetchLine c = none) ∧
      ∀ r, c.result = none → s.regionAt c.dom c.epoch = some r →
        (c.name = 0 → s.fetchLine c = some (List.replicate 512 0, 0xffffffff)) ∧
        (c.name ≠ 0 → s.fetchLine c = (r.find c.name).map fun l => (l.bytes, l.count)))) ∧
  (∀ dom n cs, s.cascades = (dom, n) :: cs → exec (.cascade dom) s = .next ({ s with cascades := cs }.unref dom n)) ∧
  (∀ dom capacity base len, s.regions.get dom = none → (s.domain dom).live = true → capacity ≤ 2 ^ 32 → base % 32 = 0 →
    len % 32 = 0 → exec (.collectionRegionCreate dom capacity base len) s =
      .next ((s.hbmWrites dom base (List.replicate len 0)).setRegion dom
        { capacity := capacity, rootBase := base, rootLen := len }))

/-- R174, R239 to R243, R245: a walk gives its entry to every core that asked, or its fault to every instruction that
still waits; an error in an entry ends the walk at that entry at the latest; Curator's answer resumes the core or delivers the fault; an
invalidation is done once no copy uses the range, and then no core holds an entry of it. Model's readings: log entries 14
and 21 (the number of the array that holds an entry). -/
def Obligations.TranslationEvents : Prop := ∀ (s : State) (die idx : Nat) (k : Walk),
  let rest := s.updDie die fun d => { d with walks := d.walks.eraseIdx idx }
  let va := BitVec.ofNat 64 (k.page * 65536)
  (∀ evict e, idx < 64 → (s.die die).walks[idx]? = some k → rest.walk k.ctx va = .ok e →
    exec (.translationWalkDone die idx evict none) s =
      .next (k.reqs.foldl (fun t q => t.updCore die q.core fun c => c.fill e evict) rest)) ∧
  (∀ evict r, idx < 64 → (s.die die).walks[idx]? = some k → rest.walk k.ctx va = .error r →
    exec (.translationWalkDone die idx evict none) s =
      .next ((k.reqs.filter (rest.asks die)).foldl (fun t q => t.requestFault die k.ctx k.page r q) rest)) ∧
  (let hurt := rest.uncorrectable { cause := .uncorrectable, ctx := k.ctx, die := die, flags := 2 } 4
   ∀ evict byte, idx < 64 → (s.die die).walks[idx]? = some k → rest.walkMeets k.ctx va (some byte) = true →
    ∃ r, rest.walkBy k.ctx va (some byte) = .error r ∧ exec (.translationWalkDone die idx evict (some byte)) s =
      .next ((k.reqs.filter (hurt.asks die)).foldl (fun t q => t.requestFault die k.ctx k.page r q) hurt)) ∧
  (∀ core p ps, (s.core die core).stall = p :: ps → s.frozen = false ∨ s.taking ≠ none →
    let t := s.updCore die core fun c => { c with stall := ps }
    exec (.pageFaultResolution die core true) s = .next t ∧
    exec (.pageFaultResolution die core false) s = .next (if t.asks die p.req then t.unresolved p else t)) ∧
  (∀ c r, exec (.translationInvalidation c r) s = .next { s with invalidations := s.invalidations ++ [⟨c, r⟩] }) ∧
  (∀ v, s.invalidations[idx]? = some v → s.copiesUnder v = false → exec (.invalidationComplete idx) s =
    .next ({ s with
      invalidations := s.invalidations.eraseIdx idx
      cores := s.cores.map fun (e : Nat × Core) => (e.1, { e.2 with tlb := e.2.tlb.filter fun t => !t.hit v.ctx v.range }) }.report
        .invalidationDone)) ∧
  (∀ v, s.invalidations[idx]? = some v → s.copiesUnder v = true → exec (.invalidationComplete idx) s = .next s)

/-! ### Events of the engines, of dispatch, and of queues -/

/-- R173, R186 to R191, R196, R206, R265, R357, R389 to R393, Table 23.5: how the engine reads a card, starts it or refuses it,
pairs a collective one, lands and credits its pieces, ends it, stops at a fault, and how Curator resumes or cancels it; the
collective engine's result; a card whose record has begun to be written comes to what that says; one that is gone stands before
no other. Model's readings: log entry 21. -/
def Obligations.CardEvents : Prop := ∀ (s : State) (key : Nat) (c : Card), s.cards.get key = some c →
  (∀ rest n v, (s.core c.die c.core).unread = key :: rest → c.wave = some n → s.waves.get n = some v →
    exec (.cardRead c.die c.core) s = .next (((s.newKey.2.setCard key { c with
        bytes := c.place.map fun d => s.ldsRead (c.dom s) d, phase := .read, order := s.fresh }).updCore c.die c.core fun q =>
          { q with unread := q.unread.erase key }).updWave n fun v => (v.updCopy key fun q => { q with done := true }).tagFall
            (((v.copies.find? fun q => q.op == key).map fun q => q.tag).getD 0))) ∧
  (c.verdict = none →
    (∀ others, c.phase = .read → s.cardWaits key c = false →
      (c.orphan s = true → exec (.cardStart key others) s = .next (s.endCard key c 3 0)) ∧
      (c.orphan s = false → c.ok s = true → c.kind ≠ 3 → exec (.cardStart key others) s = .next (s.setCard key (c.begun s))) ∧
      (c.orphan s = false → c.ok s = false → exec (.cardStart key others) s = .next (s.endCard key c 4 0)) ∧
      (∀ g, c.orphan s = false → c.ok s = true → c.kind = 3 → c.group s = some g →
        let all_ := others.length + 1 = g.members.length
        let t := if others = [] then s.paired c else (s.paired c).compared c
        (g.compared = false → ¬ all_ → exec (.cardStart key others) s = .next s) ∧
        (all_ → c.mismatch s g others = true → exec (.cardStart key others) s = .next (t.endCard key c 4 0)) ∧
        (all_ → c.mismatch s g others = false → exec (.cardStart key others) s = .next (t.setCard key (c.begun s))) ∧
        (g.compared = true → ¬ all_ → exec (.cardStart key others) s = .next (t.setCard key (c.begun s))))) ∧
    (∀ n, c.phase = .running → c.kind ≠ 3 → n ≤ 4096 → exec (.cardCredit key n) s =
      .next ((c.credit (c.land s n).1 ((c.land s n).2.moved - c.moved)).setCard key (c.land s n).2)) ∧
    (∀ d, c.phase = .running → c.kind ≠ 3 →
      let t := s.cardPieces key ((c.total - c.moved + 4095) / 4096)
      t.cards.get key = some d →
      (d.total ≤ d.moved → exec (.cardDone key none) s = .next (t.endCard key d 1 0)) ∧
      (∀ code, d.moved < d.total → d.byteAt t d.moved = .bounds code →
        exec (.cardDone key none) s = .next (t.endCard key d 5 code)) ∧
      (d.moved < d.total → d.byteAt t d.moved = .gone → exec (.cardDone key none) s = .next (t.endCard key d 3 0))) ∧
    (∀ e r va, c.phase = .running → (if c.kind = 3 then c.regionFault s = some (e, r, va)
        else c.moved < c.total ∧ c.byteAt s c.moved = .fault e r va) →
      exec (.cardPartialFault key) s = .next (((c.record s 2 e.code.toNat).setCard key
        { c with phase := .faulted, verdict := none }).report (.cardFault key va r))) ∧
    (c.phase = .faulted → exec (.cardResume key) s = .next (s.setCard key { c with phase := .running })) ∧
    (c.phase = .running ∨ c.phase = .faulted → exec (.cardCancel key) s = .next (s.endCard key c 3 0)) ∧
    (c.phase = .read → (c.kind = 3 → c.ok s = false) → exec (.cardCancel key) s = .next (s.endCard key c 3 0)) ∧
    (c.phase = .read → c.kind = 3 → c.ok s = true → exec (.cardCancel key) s = .next ((s.paired c).endCard key c 3 0)) ∧
    (∀ g data, c.phase = .running → c.kind = 3 → c.group s = some g → data.length = g.members.length →
      let rank := (g.members.idxOf? s.deviceNo).getD 0
      (∀ own, c.regionFault s = none → c.regionWaits s = none → c.ownBytes s = .ok own → own ≠ [] →
        let ends := fun (srcs : List (List Byte)) =>
          let d := { c with moved := (c.reduce rank srcs).length, srcs := some srcs }
          exec (.collectiveDone key { data := data }) s = .next ((d.deliver s (c.reduce rank srcs)).endCard key d 1 0)
        (c.srcs = none → (∀ bs ∈ data.set rank own, bs.length = (c.region 0).len) → ends (data.set rank own)) ∧
        ∀ srcs, c.srcs = some srcs → ends srcs) ∧
      (∀ k bs, c.srcs = none → data[k]? = some bs → k ≠ rank → bs ≠ [] → bs.length ≠ (c.region 0).len →
        exec (.collectiveDone key { data := data }) s = .next (s.endCard key c 4 0)))) ∧
  (∀ v, c.verdict = some v → ∀ others n err r,
    (∀ i ∈ [Instr.cardStart key others, .cardDone key err, .cardPartialFault key, .cardCancel key, .collectiveDone key r],
      (v.status ≠ 2 → exec i s = .next (s.closeCard key c v.status v.code)) ∧
      (v.status = 2 → exec i s = .next (((c.record s 2 v.code).setCard key { c with phase := .faulted, verdict := none }).report
        (.cardFault key v.va v.reason)))) ∧
    exec (.cardCredit key n) s = .next s ∧ exec (.cardResume key) s = .next s) ∧
  (∀ status code, (s.core c.die c.core).unread.Nodup → c.phase = .unread →
    (s.endCard key c status code).cards.get key = none ∧ key ∉ ((s.endCard key c status code).core c.die c.core).unread) ∧
  ∀ group ctx members, group < 64 → 2 ≤ members.length → members.length ≤ 1024 → members.Nodup → (∀ m ∈ members, m < 1024) →
    exec (.collectiveGroupInstall group ctx members) s =
      .next { s with groups := s.groups.put group { ctx := ctx, members := members } }

/-- R41, R266 to R268, R285, R310, R356: an object whose notes pass is loaded, else refused with the cause and the kernel of
the first note that fails; its kernels unload and their handles are freed; grids retire and are cancelled; batches close;
gatherers unbind. Model's readings: log entries 18, 23 and 27. -/
def Obligations.LoaderAndGridEvents : Prop := ∀ (s : State) (ctx obj gk die i : Nat) (elf : Elf) (ks : List KernelImage),
  let strip := ks.any fun im => match im.note with
    | some n => (descOf n.desc).stripFlag
    | none => false
  (∀ k im c, ks[k]? = some im → noteCause elf im = some c → (∀ j im', j < k → ks[j]? = some im' → noteCause elf im' = none) →
    exec (.loadCodeObject ctx ⟨elf, ks⟩) s = .next (s.report (.loadRefused ctx c k im.name))) ∧
  (∀ r, (∀ im ∈ ks, noteCause elf im = none) → (s.ctx ctx).state.live = true → isCodeObject elf ks = true →
    s.enterKernels ctx none strip ks = some r → exec (.loadCodeObject ctx ⟨elf, ks⟩) s =
      .next (r.2.report (.loaded ctx r.1 (if strip then (ks.map fun im => stripCount im.text).sum else 0)))) ∧
  (let mine := fun (k : Kernel) => k.ctx == ctx && k.obj == obj
   exec (.kernelUnload ctx obj) s =
    .next ({ s with kernels := s.kernels.map fun (e : Nat × Kernel) =>
        if (mine e.2) then (e.1, { e.2 with unloading := true }) else e }.unbindAll fun g => match s.kernels.get g.kernel with
      | some k => mine k
      | none => false)) ∧
  (let hs := (s.kernels.filter fun e => e.2.ctx == ctx && e.2.obj == obj && e.2.unloading).map fun e => e.1
   (∀ e ∈ s.grids, e.2.kernel ∈ hs → e.2.ended = true) → exec (.kernelUnloaded ctx obj) s =
    .next { s with
      kernels := s.kernels.filter fun e => !hs.contains e.1
      dies := s.dies.map fun (e : Nat × Die) => (e.1, { e.2 with
        history := e.2.history.filter fun q => !hs.contains q.1
        gatherers := e.2.gatherers.filter fun g => !hs.contains g.kernel })
      cores := s.cores.map fun (e : Nat × Core) => (e.1, { e.2 with text := e.2.text.filter fun q => !hs.contains q.1 }) }) ∧
  (∀ g, s.grids.get gk = some g → g.phase = .retiring →
    (∀ n ∈ s.descendants gk, ∀ c, s.grids.get n = some c → c.ended = true) →
    exec (.gridRetire gk) s = .next (s.setGrid gk { g with phase := .retired, record := none })) ∧
  exec (.gridCancel gk) s = .next ((s.descendants gk).foldl State.cancelOne (s.cancelOne gk)) ∧
  (∀ g, (s.die die).gatherers[i]? = some g → g.countdown = 0 → g.filling ≠ [] → g.closed = [] → g.unbound = false →
    exec (.batchCountdown die i) s = .next (s.closeBatch die i g)) ∧
  exec (.gathererUnbind die i) s = .next (s.unbind die i)

/-- R23, R267, R268, R288, R289, R294, R304 to R307, R347, R353, R354, R364: the head of the PIFO is served, or refused where
its kernel has begun to unload, dies report and take batches, blocks are placed on the cores that the placement rule
chooses, with granules and a record that are free, reserving launches start and form their waves, an entry is re-ranked, a
rank program installed. Model's readings: log entries 1, 18, 23 and 26 (a LAUNCH is judged again when it is served; a
re-ranked entry takes its grid with it). -/
def Obligations.DispatchEvents : Prop := ∀ (s : State) (die qn : Nat),
  (∀ e g t, s.pifoHead = some e → e.kind = 1 → s.acceptLaunch e = (some g, t) → exec .pifoServe s = .next (t.serveGrid g)) ∧
  (∀ e q, s.pifoHead = some e → e.kind = 1 → e.grid = none → s.queues.get e.queue = some q → s.packetOk q.ctx e.packet = false →
    exec .pifoServe s = .next ((s.dropEntry e.queue).refusePacket q (.launchPacket, 0, 0))) ∧
  (∀ e, s.pifoHead = some e → e.queue = qn → e.kind = 1 → exec (.launch qn) s = .next (s.acceptLaunch e).2) ∧
  (exec (.dieSlotReport die) s =
    .next ((s.intake die).updDie die fun d => { d with report := 256 - d.queue.length })) ∧
  (∀ e gk g d, s.pifoHead = some e → e.grid = some gk → s.grids.get gk = some g → g.phase = .dispatching → g.coop = false →
    s.heldByCoop g = false → (s.turnOrder.find? fun d => decide (0 < (s.die d).report)) = some d →
    let n := min 64 (min (s.die d).report (g.blocks - g.next))
    let t := { (((s.pushBlocks d gk g.next n).updDie d fun q => { q with report := min q.report ((s.die d).report - n) }).updGrid gk
      fun g => { g with next := g.next + n }) with rotation := (d + 1) % 4 }
    exec .globalDispatchBatch s = .next (if g.blocks ≤ g.next + n then t.leavePifo gk else t)) ∧
  (∀ gk g k ps grs recs t, s.coopWaiting = some gk → s.frozen = false → s.grids.get gk = some g → s.kernels.get g.kernel = some k →
    s.admitting g.ctx = true → s.coopPlan k.desc g = some ps →
    let n := k.desc.gridBarriers
    let shape := blockShape k.desc g.threads g.span
    let sizes := ps.map fun p => recordSize k.desc shape p.2.length
    let g' := { g with
      phase := .running
      next := g.blocks
      barriers := freshBarriers n (g.blocks * shape.length)
      record := if n = 0 then none else some (recs.getD g.blocks 0, 32) }
    recordsFit (s.poolBytes g.ctx) (s.poolRecords g.ctx) (if n = 0 then sizes else sizes ++ [4096]) = true →
    (n ≠ 0 → s.recordOk g.ctx (recs.getD g.blocks 1) 4096 = true) →
    (s.setGrid gk g').placeAll gk g' k shape 0 ps grs recs = some t →
    exec (.coopGridPlace gk grs recs) s = .next (t.leavePifo gk)) ∧
  (let t := s.intake die
   ∀ key b g k cores gr rec, t.candidate die = some (.block key) → t.blocks.get key = some b →
    t.entryKernel (.block key) = some (g, k) → b.phase = .pending →
    let shape := gridShape k.desc g b
    let span := if g.node then 1 else g.span
    let size := recordSize k.desc shape span
    t.placement (some (.block key)) g.ctx (levelOf g.rank) die span k.desc shape = some cores → t.poolRoom g.ctx size = true →
    t.shareGranulesOk die cores k.desc shape gr = true → t.recordOk g.ctx rec size = true →
    exec (.blockAdmit die gr rec) s =
      .next (((t.leaveQueue die (.block key)).placeBlock key b k g die cores gr (some (rec, size))).batchPlaced die key)) ∧
  (let t := s.intake die
   ∀ home gr rec gk g g' k, t.candidate die = some (.reserving gk) → t.grids.get gk = some g →
    t.entryKernel (.reserving gk) = some (g', k) → home < 48 →
    t.fitsOn (some (.reserving gk)) g.ctx (levelOf g.rank) die home { granules := k.desc.alloc / 4096 } = true →
    t.granulesOk die home (k.desc.alloc / 4096) 0 gr = true → t.poolRoom g.ctx (launchRecordSize k.desc 0) = true →
    t.recordOk g.ctx rec (launchRecordSize k.desc 0) = true →
    let b : Block := { grid := gk, num := 0, die := die, phase := .admitted, cores := [home], alloc := [gr.alloc], spill := [[]]
                       record := some (rec, launchRecordSize k.desc 0) }
    exec (.reservingLaunchStart die home ⟨gr, rec⟩) s =
      .next ((((((t.newKey.2.leaveQueue die (.reserving gk)).setBlock t.fresh b).updDie die fun d =>
        { d with former := some { grid := gk, block := t.fresh, home := home } }).updGrid gk fun g =>
          { g with phase := .running })).replayAdmit die home g.ctx)) ∧
  (let u := s.formBodies die
   ∀ f b g k core spill rec v, u.launchOf die = some (f, b, g, k) → u.claimDue f k.desc = true →
    u.waveFits die core g k.desc spill = true → u.growRecord f.block b g k.desc rec = some v →
    ∃ w t, exec (.claimWaveForm die core ⟨spill, rec⟩) s = .next t ∧ t = ((v.addWave w).setFormer die { f with
        next := f.next + min k.desc.width ((k.desc.reserve.getD (0, 0, false)).1 - f.next), formed := f.formed + 1 }).replayAdmit
          die core g.ctx ∧ w.kind = .claim ∧ w.core = core ∧ w.granules = spill ∧ w.item = BitVec.ofNat 32 f.next) ∧
  (let u := s.formBodies die
   ∀ f b g k core spill rec v first more later, u.launchOf die = some (f, b, g, k) → f.ready = (first :: more) :: later →
    u.waveFits die core g k.desc spill = true → u.growRecord f.block b g k.desc rec = some v →
    ∃ w t, exec (.bodyWaveForm die core ⟨spill, rec⟩) s = .next t ∧
      t = ((v.addWave w).setFormer die { f with ready := later, formed := f.formed + 1 }).replayAdmit die core g.ctx ∧
      w.kind = .body ∧ w.core = core ∧ w.granules = spill ∧ w.pc = first.entry) ∧
  (∀ e rank, (s.pifo.find? fun e => e.queue == qn) = some e → e.grid = none → exec (.pifoReinsert qn rank) s =
    .next { s with pifo := (s.pifo.filter fun (f : PifoEntry) => f.queue ≠ qn) ++ [{ e with rank := rank }] }) ∧
  (∀ e rank g, (s.pifo.find? fun e => e.queue == qn) = some e → e.grid = some g → exec (.pifoReinsert qn rank) s =
    .next ({ s with pifo := (s.pifo.filter fun (f : PifoEntry) => f.queue ≠ qn) ++ [{ e with rank := rank }] }.updGrid g fun k =>
      { k with rank := rank })) ∧
  ∀ idx steps, idx < 64 → steps ≠ [] → steps.length ≤ 8 → steps.all rankStepOk = true →
    exec (.rankProgramInstall idx steps) s = .next { s with rankPrograms := s.rankPrograms.put idx steps }

/-- R344, R347 to R351, R355, R385: claims and notifies from outside the waves, and the taking of a packet, at a queue whose
header does not say that it is destroyed: refused ones are counted and noticed, a failure of the tag or the nonce is
counted at its link, the others enter the PIFO with their rank. Model's readings: log entries 8, 17 and 26. -/
def Obligations.QueueTrafficEvents : Prop := ∀ (s : State) (qn : Nat) (q : Queue), s.queues.get qn = some q → s.qGone q = false →
  let claim := fun (n : Nat) => claimOutcome (leBytes 24 (s.hdr q 16 24)) n
  (∀ (e : BitVec 64) n v, s.hdr q 32 8 = e.toNat → 1 ≤ n → n ≤ 64 → (claim n).2.2 = some v →
    exec (.queueClaimRemote qn e n) s = .next ((s.report (.bytes (leBytes 8 (s.hdr q 32 8)))).setHdr q 32 3 v)) ∧
  (∀ (e : BitVec 64) n, (s.hdr q 32 8 ≠ e.toNat ∨ n = 0 ∨ 64 < n ∨ (claim n).2.2 = none) →
    exec (.queueClaimRemote qn e n) s = .next (s.report (.bytes (leBytes 8 (s.hdr q 32 8))))) ∧
  (∀ port session bytes, (s.link port).carries session = true → bytes.length = 64 → leField bytes 4 4 = qn →
    let genuine := leField bytes 56 8 = (Config.notifyTag q.key (bytes.take 56)).toNat ∧
      ∀ v, q.nonce = some v → v.toNat < leField bytes 48 8
    let clear := leField bytes 0 4 = 0 ∧ leField bytes 11 1 = 0 ∧ leField bytes 12 36 = 0
    let mine := q.phase ≠ .created ∧ q.session = some session
    let r := s.notifyQueue qn q (leField bytes 8 3)
    (genuine → clear → mine → r.1 = 1 → exec (.remoteNotify port session bytes) s =
      .next { r.2 with queues := r.2.queues.upd qn fun q => { q with nonce := some (BitVec.ofNat 64 (leField bytes 48 8)) } }) ∧
    (genuine → clear → mine → r.1 ≠ 1 → exec (.remoteNotify port session bytes) s = .next r.2) ∧
    (genuine → clear → ¬ mine → exec (.remoteNotify port session bytes) s = .next ((s.qCount q 44 1).rouse qn)) ∧
    (genuine → ¬ clear → exec (.remoteNotify port session bytes) s = .next (s.qCount q 44 1)) ∧
    (¬ genuine → exec (.remoteNotify port session bytes) s = .next ((s.qCount q 44 1).notifyFailed port))) ∧
  (∀ i : BitVec 24, q.phase ≠ .created → exec (.supervisorNotify qn i) s = .next (s.notifyQueue qn q i.toNat).2) ∧
  exec (.slotReread qn) s = .next { s with queues := s.queues.upd qn fun q => { q with stopped := false } } ∧
  (∀ pa dom sh, s.served q = true → s.qLive q = true → q.stopped = false → (∀ e ∈ s.pifo, e.queue ≠ qn) →
    s.qRead q ≠ s.qDoorbell q → s.translateNow q.ctx (s.slotVa q (s.qRead q)) .readWrite = .ok pa dom sh →
    let bs := s.memReads dom pa 64
    let t := (s.setHdr q 36 3 ((s.qRead q + 1) % 2 ^ 24)).memWrites dom pa [0]
    (leField bs 0 1 = 0 → exec (.packetTake qn) s = .next (s.setQueue qn { q with stopped := true })) ∧
    (∀ c, leField bs 0 1 ≠ 0 → s.packetCause q.ctx bs = some c → exec (.packetTake qn) s = .next (t.refusePacket q c)) ∧
    (leField bs 0 1 ≠ 0 → s.packetCause q.ctx bs = none → exec (.packetTake qn) s =
      .next { t with pifo := t.pifo ++
        [{ rank := rankOf bs q.base ((s.rankPrograms.get q.program).getD []), queue := qn, packet := bs }] }))

/-- R347, R348, R354: what each packet in the PIFO does when it is served; a NODE packet is not served before one of a lower
rank. Model's readings: log entries 18, 23 (an entry that waits does not hold up the others) and 26. -/
def Obligations.PacketEvents : Prop := ∀ (s : State) (qn : Nat) (q : Queue) (e : PifoEntry), s.queues.get qn = some q →
  s.frozen = false → (s.pifo.find? fun f => f.queue == qn && f.kind == e.kind) = some e → s.packetCause q.ctx e.packet = none →
  let head := s.pifoHead.map (fun h => h.queue) = some qn
  (∀ die k, e.kind = 2 → die < 4 → s.leads e = true → s.nodeOfPacket q.ctx e.packet = some k →
    let r := s.nodePut die q.ctx (leField e.packet 12 4) k e.rank (s.virtReads q.ctx (packetAddr e.packet 16) k.nodeOf.2.1)
    (r.1 = true → exec (.node qn die) s = .next (r.2.dropEntry qn)) ∧ (r.1 = false → exec (.node qn die) s = .next s)) ∧
  (∀ die, e.kind = 2 → s.leads e = false → exec (.node qn die) s = .next s) ∧
  (e.kind = 3 → head → (s.core (leField e.packet 4 1) 0).unread.length < 16 →
    let die := leField e.packet 4 1
    let c : Card := { die := die, core := 0, ctx := q.ctx, va := packetAddr e.packet 8, queue := some qn }
    exec (.copy qn) s = .next ((({ s.newKey.2 with cards := s.cards.put s.fresh c }.updCore die 0 fun r =>
      { r with unread := r.unread ++ [s.fresh] }).setQueue qn { q with cards := q.cards ++ [s.fresh] }).dropEntry qn)) ∧
  (e.kind = 4 → head → exec (.signal qn) s =
    .next ((s.signal q.ctx (packetAddr e.packet 8) (leField e.packet 16 8) (leField e.packet 4 1 == 1)).dropEntry qn)) ∧
  (∀ pa dom sh, e.kind = 6 → head → s.translateNow q.ctx (packetAddr e.packet 8) .write = .ok pa dom sh →
    exec (.writeSignal qn) s = .next (((s.memWrites dom pa (leBytes 8 (leField e.packet 16 8))).signal q.ctx
      (packetAddr e.packet 24) (leField e.packet 32 8) false).dropEntry qn)) ∧
  (e.kind = 5 → s.waitHolds q.ctx e.packet = true →
    exec (.wait qn) s = .next (s.dropEntry qn) ∧ exec (.waitSatisfied qn) s = .next (s.dropEntry qn)) ∧
  (e.kind = 5 → s.waitHolds q.ctx e.packet = false →
    exec (.wait qn) s = .next s ∧ exec (.waitSatisfied qn) s = .next s) ∧
  (e.kind = 7 → (∀ g ∈ q.grids, ∀ k, s.grids.get g = some k → k.ended = true) → (∀ c ∈ q.cards, s.cards.get c = none) →
    exec (.barrier qn) s = .next ((s.setQueue qn { q with grids := [], cards := [] }).dropEntry qn))

/-- R342, R343, R350: a queue is created with its header, on a page of device or domain sharing, bound with its key, opened,
drained, closed, force-closed with its unannounced slots counted, and destroyed; out of its state each is refused, but
QUEUE_CLOSED, which then does nothing; one whose header says that it is destroyed is no queue any more. Model's readings: log
entries 17 and 26. -/
def Obligations.QueueStateEvents : Prop := ∀ (s : State) (qn ctx program entries : Nat) (base : BitVec 20) (hdr slots : BitVec 64)
    (session : Option Nat) (q : Queue),
  (s.queues.get qn = none → qn < 4096 → (s.ctx ctx).state.live = true → entriesOk entries = true →
    hdr.toNat % 64 = 0 → slots.toNat % 64 = 0 → ∀ pa dom sh, s.translateNow ctx hdr .readWrite = .ok pa dom sh →
    (sh ≠ 0 → exec (.queueCreate qn ctx hdr entries slots) s =
      .next ((s.memWrites dom pa (leBytes 16 0 ++ leBytes 4 qn ++ leBytes 4 entries ++ leBytes 8 slots.toNat ++ leBytes 7 0 ++
        leBytes 1 1 ++ leBytes 24 0)).setQueue qn { ctx := ctx, header := hdr, thread := qn % 4 })) ∧
    (sh = 0 → exec (.queueCreate qn ctx hdr entries slots) s = .next (s.report .refused))) ∧
  (s.queues.get qn = some q → s.qGone q = false →
    (q.phase = .created → q.ctx = ctx → s.rankPrograms.get program ≠ none →
      exec (.queueBind qn ctx program base session) s = .next ((s.setHdr q 39 1 2).setQueue qn { q with
        phase := .bound, program := program, base := base, session := session, nonce := none, key := keyNo session qn })) ∧
    (q.phase ≠ .created ∨ q.ctx ≠ ctx ∨ s.rankPrograms.get program = none →
      exec (.queueBind qn ctx program base session) s = .next (s.report .refused)) ∧
    (q.phase = .bound ∨ q.phase = .closed →
      exec (.queueOpen qn) s = .next ((s.setHdr q 39 1 3).setQueue qn { q with phase := .opened })) ∧
    (q.phase ≠ .bound → q.phase ≠ .closed → exec (.queueOpen qn) s = .next (s.report .refused)) ∧
    (q.phase = .opened → exec (.queueDrain qn) s = .next ((s.setHdr q 39 1 4).setQueue qn { q with phase := .draining })) ∧
    (q.phase ≠ .opened → exec (.queueDrain qn) s = .next (s.report .refused)) ∧
    (q.phase = .draining → s.qRead q = s.qWrite q →
      exec (.queueClosed qn) s = .next ((s.setHdr q 39 1 5).setQueue qn { q with phase := .closed })) ∧
    (q.phase ≠ .draining ∨ s.qRead q ≠ s.qWrite q → exec (.queueClosed qn) s = .next s) ∧
    (q.phase ≠ .draining → exec (.queueForceClose qn) s = .next (s.report .refused)) ∧
    (let t := s.qCount q 44 (idxSub (s.qWrite q) (s.qDoorbell q))
     q.phase = .draining → t.qGone q = false →
      exec (.queueForceClose qn) s = .next ((t.setHdr q 39 1 5).setQueue qn { q with phase := .closed })) ∧
    (q.phase = .created ∨ q.phase = .closed → exec (.queueDestroy qn) s = .next ((s.setHdr q 39 1 0).dropQueue qn)) ∧
    (q.phase ≠ .created → q.phase ≠ .closed → exec (.queueDestroy qn) s = .next (s.report .refused))) ∧
  (s.queues.get qn = some q → s.qGone q = true →
    ∀ i ∈ [Instr.queueOpen qn, .queueDrain qn, .queueDestroy qn, .queueBind qn ctx program base session, .queueForceClose qn],
      exec i s = .next ((s.dropQueue qn).report .refused))

/-! ### Pre-emption, contexts, faults, the supervisor -/

/-- R229, R283, R309 to R315, R337, R363, R368, R369, R371, R375: victims are selected, drains end, blocks are saved, resumed
from their records, flushed and retired, and slices expire, the cycles past expiry counting on; a block that retires now does
so first. Model's readings: log entries 16, 18 (which saved block may come back) and 25. -/
def Obligations.PreemptionEvents : Prop := ∀ (s : State) (die key : Nat) (b : Block) (g : Grid) (k : Kernel),
  s.blocks.get key = some b → s.grids.get b.grid = some g → s.kernels.get g.kernel = some k →
  (b.phase = .draining → (s.ctx g.ctx).desc.drainBudget.toNat ≤ b.drained → s.retires key b = false →
    exec (.drainBudgetExpire key) s = .next (s.setBlock key { b with phase := .saving })) ∧
  (b.phase = .saving → b.ending = false → s.retires key b = false → s.drainedBlock key = true → s.unstalled key b = true →
    s.bindingsPosted b k.desc (s.ownDom g.ctx) = true → ∃ t b', exec (.blockSave key) s = .next t ∧
      t.blocks.get key = some b' ∧ b'.phase = .saved ∧ b'.alloc = [] ∧ b'.spill = [] ∧
      b'.image = (List.range b.cores.length).map (fun p => s.allocImage (s.ownDom g.ctx) b p) ∧
      (∀ n w, s.waves.get n = some w → w.block = key →
        t.waves.get n = some { w.packed s (s.ownDom g.ctx) with saved := true, granules := [] }) ∧
      (∀ n w, s.waves.get n = some w → w.block ≠ key → t.waves.get n = some w) ∧
      QEntry.block key ∈ (t.die b.die).queue ∧ t.lds = s.lds) ∧
  (let u := s.reread key
   ∀ cores gr c h d, b.die = die → g.barriers = [] → u.blocks.get key = some c → u.entryKernel (.block key) = some (h, d) →
    c.phase = .saved → c.die = die → c.ending = false → u.resumeHead die key = true →
    (d.desc.reserve = none → u.resumeCores die key c h d cores = true →
      u.shareGranulesOk die cores d.desc (u.shapeNow key c h d) gr = true →
      ∃ t b', exec (.blockResume die key cores gr) s = .next t ∧ t.blocks.get key = some b' ∧ b'.phase = .resumed ∧
        b'.cores = cores ∧ b'.alloc = gr.map (fun x => x.alloc) ∧ QEntry.block key ∉ (t.die die).queue ∧
        ∀ n w, u.waves.get n = some w → (∀ e ∈ u.waves, e.1 = n → e.2.block ≠ key) → t.waves.get n = some w) ∧
    (∀ t, d.desc.reserve ≠ none → u.resumeLaunch die key c h d cores gr = some t →
      exec (.blockResume die key cores gr) s = .next t)) ∧
  (∀ cores gr t, b.die = die → g.barriers ≠ [] → (∀ e ∈ s.blocks, e.2.grid = b.grid → e.2.phase ≠ .saving) →
    s.resumeAll (s.savedOf b.grid) cores gr = some t → exec (.blockResume die key cores gr) s = .next t) ∧
  (b.phase = .flushing → b.ending = false → s.retires key b = false → s.drainedBlock key = true → s.unstalled key b = true →
    ∃ t, exec (.blockFlush key) s = .next t ∧
      t.blocks.get key = some { grid := b.grid, num := b.num, die := b.die, records := b.records } ∧
      (t.die b.die).queue = QEntry.block key :: (s.die b.die).queue ∧ ∀ e ∈ t.waves, e.2.block ≠ key) ∧
  (s.retirable key b k.desc = true → g.phase ≠ .cancelled → ∃ t b', exec (.blockRetire key) s = .next t ∧
    t.blocks.get key = some b' ∧ b'.phase = .retired ∧ b'.record = none ∧ b'.alloc = [] ∧ (∀ e ∈ t.waves, e.2.block ≠ key) ∧
    (t.die b.die).history = ((s.die b.die).record g.kernel b.elapsed).history) ∧
  (let t := s.intake die
   (∀ q gk vs, t.entryOf die key = some q → t.entryGrid q = some gk → t.queueHead die = some q → t.stands die q = true →
    (∀ r ∈ (t.die die).reserved, r.1 ≠ q) → t.entryFits die q = false → t.victimSet die q gk = some vs →
    exec (.preemptRequest die key) s = .next ((vs.1.foldl State.selectBlock t).reserve die q vs.2)) ∧
   (t.entryOf die key = none → t.coopWaiting = some key →
    exec (.preemptRequest die key) s = .next ((t.coopParents die key).foldl State.selectBlock t))) ∧
  (∀ c, 0 < (s.ctx c).desc.slice.toNat → (s.ctx c).desc.slice.toNat ≤ ((s.die die).slices.get c).getD 0 →
    let t := (s.intake die).updDie die fun d => { d with
      slices := d.slices.put c (((s.die die).slices.get c).getD 0 - (s.ctx c).desc.slice.toNat) }
    (t.waitingOther die c = none → exec (.sliceExpire die c) s = .next t) ∧
    ∀ q h d shape span cores, t.waitingOther die c = some q → t.entryNeed q = some (h, d, shape, span) →
      let at_ := fun set => (placements span).find? fun cores => ((t.without (t.leavingOn die)).without set).fitsAt (some q) die h d shape cores
      let vs := sliceVictims (fun set => (at_ set).isSome) [] (t.sliceBlocks die c)
      vs ≠ [] → at_ vs = some cores →
      exec (.sliceExpire die c) s = .next ((vs.foldl State.selectBlock t).reserve die q cores)) ∧
  ∀ c, ((s.die die).slices.get c).getD 0 < (s.ctx c).desc.slice.toNat → exec (.sliceExpire die c) s = .next s

/-- R246, R247, R360 to R362, R382: contexts are created with new domain keys, become resident up to 64, standby once
nothing of them is on compute, and end; descriptor fields are written as Table 22.1 allows, REPLAY set and cleared, shared
domains attached with keys and detached, the keys of one that no context has any more discarded; what is not allowed is
refused: a context from 256 on, or not free, or on a device that has not started, or with a bad descriptor; a residency that
Table 22.2 does not allow. Model's readings: log entries 5, 17 and 28. -/
def Obligations.ContextEvents : Prop := ∀ (s : State) (ctx : Nat) (d : CtxDesc) (wr : DescWrite),
  let refused := Host.Outcome.next (s.report .refused)
  (ctx < 256 → (s.ctx ctx).state = .free → s.startRec.started = true → s.descOk d = true →
    exec (.contextCreate ctx d) s =
      .next (d.attached.foldl State.keyed ((s.enkey d.ownDomain.toNat).setCtx ctx
        { state := .created, desc := { d with flags := d.flags &&& 0x0f } }))) ∧
  (256 ≤ ctx ∨ (s.ctx ctx).state ≠ .free ∨ s.startRec.started = false ∨ s.descOk d = false →
    exec (.contextCreate ctx d) s = refused) ∧
  ((s.ctx ctx).state ≠ .created → (s.ctx ctx).state ≠ .standby → exec (.makeResident ctx) s = refused) ∧
  ((s.ctx ctx).state ≠ .resident → exec (.contextEvict ctx) s = refused) ∧
  ((s.ctx ctx).state = .free → exec (.contextEnd ctx) s = refused) ∧
  ((s.ctx ctx).state.live = false → exec (.contextDescriptorWrite ctx wr) s = refused) ∧
  ((s.ctx ctx).state = .created ∨ (s.ctx ctx).state = .standby →
    (s.residents < 64 → exec (.makeResident ctx) s = .next (s.updCtx ctx fun c => { c with state := .resident })) ∧
    (64 ≤ s.residents → exec (.makeResident ctx) s = refused)) ∧
  ((s.ctx ctx).state = .resident →
    (s.onCompute ctx = true → exec (.contextEvict ctx) s =
      .next ((s.saveBlocks fun _ b => s.blockCtx b == some ctx).updCtx ctx fun c => { c with evicting := true })) ∧
    (s.onCompute ctx = false → exec (.contextEvict ctx) s =
      .next (s.updCtx ctx fun c => { c with state := .standby, evicting := false }))) ∧
  ((s.ctx ctx).state = .ending → s.onCompute ctx = true → exec (.contextEnd ctx) s = .next s) ∧
  ((s.ctx ctx).state = .ending → s.onCompute ctx = false → exec (.contextEnd ctx) s = .next (s.finishEnd ctx)) ∧
  ((s.ctx ctx).state.live = true → ((s.beginEnd ctx).ctx ctx).state = .ending → exec (.contextEnd ctx) s =
    .next (if (s.beginEnd ctx).onCompute ctx then s.beginEnd ctx else (s.beginEnd ctx).finishEnd ctx)) ∧
  ((s.ctx ctx).state.live = true →
    let desc := (s.ctx ctx).desc
    let with_ := fun (d : CtxDesc) => s.setCtx ctx { s.ctx ctx with desc := d }
    (∀ v, v ≠ 0 → exec (.contextDescriptorWrite ctx (.slice v)) s = .next (with_ { desc with slice := v })) ∧
    (∀ v, exec (.contextDescriptorWrite ctx (.drainBudget v)) s = .next (with_ { desc with drainBudget := v })) ∧
    (∀ v, exec (.contextDescriptorWrite ctx (.trapHandler v)) s = .next (with_ { desc with trapHandler := v })) ∧
    (∀ a b, exec (.contextDescriptorWrite ctx (.delegation a b)) s = .next (with_
      { desc with flags := (desc.flags &&& 0xfc) ||| (if a then 1 else 0) ||| (if b then 2 else 0) })) ∧
    (∀ v, v.toNat % 4096 = 0 →
      exec (.contextDescriptorWrite ctx (.tableRoot v)) s = .next (with_ { desc with tableRoot := v })) ∧
    (∀ base size, base.toNat % 65536 = 0 → s.poolRecords ctx = [] →
      exec (.contextDescriptorWrite ctx (.savePool base size)) s = .next (with_ { desc with savePool := base, poolSize := size })) ∧
    (∀ base area, (s.ctx ctx).debug ≠ none → s.onCompute ctx = false →
      exec (.contextDescriptorWrite ctx (.replay true base area)) s = .next (s.setCtx ctx { s.ctx ctx with
        desc := { desc with flags := desc.flags ||| 8 }, area := area, areaBase := base })) ∧
    (∀ base area, exec (.contextDescriptorWrite ctx (.replay false base area)) s =
      .next { with_ { desc with flags := desc.flags &&& 0xf7 } with
        cores := s.cores.map fun (e : Nat × Core) => (e.1, match e.2.replay with
          | some r => if r.ctx = ctx then { e.2 with replay := none } else e.2
          | none => e.2) }) ∧
    (∀ slot dom, 1 ≤ slot → slot ≤ 4 → desc.shared.getD (slot - 1) 0 = 0xffff → s.sharable dom = true →
      exec (.contextDescriptorWrite ctx (.attach slot dom)) s =
        .next ((if (s.domain dom).live then s else s.enkey dom).setCtx ctx
          { s.ctx ctx with desc := { desc with shared := desc.shared.set (slot - 1) (BitVec.ofNat 16 dom) } })) ∧
    (∀ slot, let dom := (desc.shared.getD (slot - 1) 0xffff).toNat
      let t := { with_ { desc with shared := desc.shared.set (slot - 1) 0xffff } with
        cores := s.cores.map fun (e : Nat × Core) => (e.1, { e.2 with tlb := e.2.tlb.filter fun q => !(q.ctx == ctx && q.dom == dom) }) }
      let kept := (∃ e ∈ s.contexts, e.1 ≠ ctx ∧ e.2.state ≠ .free ∧ dom ∈ e.2.desc.attached) ∨ dom ∈ (t.ctx ctx).desc.attached
      1 ≤ slot → slot ≤ 4 → dom ≠ 0xffff →
      (kept → exec (.contextDescriptorWrite ctx (.detach slot)) s = .next t) ∧
      (¬ kept → exec (.contextDescriptorWrite ctx (.detach slot)) s = .next (t.discard dom)))) ∧
  ((s.ctx ctx).state.live = true → s.writeDesc ctx wr = none → exec (.contextDescriptorWrite ctx wr) s = refused)

/-- R95, R116, R166, R369, R370, R377: the agent that took a cause retries, not past a breakpoint, continues, redirects or ends, a bad next PC raising
PC_RANGE; a saved block stays saved, and its record follows; a cause that is held while dispatch is frozen is not taken.
Curator reads and clears a context's lost count. Model's readings: log entries 13, 17 and 29. -/
def Obligations.FaultChoiceEvents : Prop := ∀ (s : State) (n ctx : Nat) (w : Wave) (x : WCtx) (r : FaultRec) (pc : BitVec 32),
  (At s n w x → w.fault = some r → w.phase = .faulted → s.mayTake x.grid.ctx n = true → x.block.ending = false →
    let unlogged := s.updCtx x.grid.ctx fun c => { c with log := c.log.erase r }
    let bad := unlogged.deliver n w x .pcRange w.run 0 0
    let refused := Host.Outcome.next (if w.saved
      then (bad.updBlock w.block fun b => { b with phase := x.block.phase }).rewritten w else bad)
    exec (.faultRetry n) s = .next (s.resumeFault n { w with passBp := false } x.grid.ctx r) ∧
    (x.pcOk w.nextPc = true → r.cause.trapClass = true → exec (.faultContinue n) s =
      .next (s.resumeFault n { (w.retire w).goto w.nextPc with passBp := false } x.grid.ctx r)) ∧
    (x.pcOk w.nextPc = true → r.cause.trapClass = false → exec (.faultContinue n) s =
      .next (s.resumeFault n { w.goto w.nextPc with passBp := false } x.grid.ctx r)) ∧
    (x.pcOk w.nextPc = false → exec (.faultContinue n) s = refused) ∧
    (x.pcOk pc = true →
      exec (.faultRedirect n pc) s = .next (s.resumeFault n ({ w with passBp := false }.goto pc) x.grid.ctx r)) ∧
    (x.pcOk pc = false → exec (.faultRedirect n pc) s = refused) ∧
    exec (.faultEnd n) s = .next (unlogged.updBlock w.block fun b =>
      { b with ending := true, code := if b.code = 0 then r.cause.code else b.code })) ∧
  (At s n w x → s.mayTake x.grid.ctx n = false →
    ∀ i ∈ [Instr.faultRetry n, .faultContinue n, .faultRedirect n pc, .faultEnd n], exec i s = .next s) ∧
  exec (.faultLogLostClear ctx) s = .next ((s.setCtx ctx { s.ctx ctx with lost := 0 }).report (.lost ctx (s.ctx ctx).lost))

/-- R213, R248, R376, R377, R400: heartbeats count up and a cluster silent for three periods is adopted; the freeze; the
restart reattaches queues and takes the causes held, those of a context in sequence order, dispatch being unfrozen behind
them, or ends every context at its second failure; accesses of the supervisor, which at a replay read the stores of its
boundary, and write nothing of a context that replays. Model's readings: log entries 17, 29 and 31. -/
def Obligations.SupervisorEvents : Prop := ∀ (s : State),
  (∀ i j v, i < 4 → (s.threads.getD i {}).silent = false → s.frozen = false ∨ s.taking ≠ none →
    let t := { s with threads := s.threads.modify i fun p => { p with beat := p.beat + 1 } }
    let me := s.threads.getD i {}
    let n := if me.lastRead = some v then me.unchanged + 1 else 0
    t.watched i = some j → (t.threads.getD j {}).beat = v →
    (n = 3 → exec (.heartbeat i) s = .next (t.adopt i j)) ∧
    (n ≠ 3 → exec (.heartbeat i) s =
      .next { t with threads := t.threads.modify i fun p => { p with lastRead := some v, unchanged := n } })) ∧
  exec .freezeDispatch s = .next { s with frozen := true, taking := none } ∧
  (s.frozen = true →
    exec (.curatorRestart true) s = .next
      { s.reattach.takeHeld with threads := List.replicate 4 {}, taking := some s.heldWaves, restarts := 0 }.thaw ∧
    (s.restarts = 0 → exec (.curatorRestart false) s = .next { s with restarts := 1, taking := none }) ∧
    (s.restarts ≠ 0 →
      let t := (s.contexts.map fun (e : Nat × Context) => e.1).foldl State.endContext s
      exec (.curatorRestart false) s =
        .next { t with restarts := 0, taking := none, startRec := { t.startRec with started := false } })) ∧
  (∀ l, s.taking = some l →
    ((∀ n ∈ l, ∀ w x, At s n w x → s.heldIn x.grid.ctx n = false) → (∀ e ∈ s.cores, e.2.stall = []) →
      s.thaw = { s with taking := none, frozen := false }) ∧
    (∀ n w x, n ∈ l → At s n w x → s.heldIn x.grid.ctx n = true → s.thaw = s) ∧
    ∀ e ∈ s.cores, e.2.stall ≠ [] → s.thaw = s) ∧
  (∀ addr n dom d, supLds addr n = some d →
    exec (.supervisorAccess (.readLds addr n dom)) s =
      .next (s.report (.bytes ((s.storesOf (dieOf d) (coreOf d)).ldsReads dom d n)))) ∧
  (∀ addr bs dom d, supLds addr bs.length = some d →
    let replays := s.replayingOn (dieOf d) (coreOf d) = true ∨ ∃ c ∈ s.coreContexts (dieOf d) (coreOf d), s.ctxReplaying c = true
    (¬ replays → exec (.supervisorAccess (.writeLds addr bs dom)) s = .next (s.ldsWrites dom d bs)) ∧
    (replays → exec (.supervisorAccess (.writeLds addr bs dom)) s = .next (s.report .replaying))) ∧
  (∀ ctx, exec (.supervisorAccess (.readContext ctx)) s = .next (s.report (.bytes (s.ctx ctx).bytes))) ∧
  (∀ pa n dom, exec (.supervisorAccess (.readHbm pa n dom)) s = .next (s.report (.bytes (s.memReads dom pa n)))) ∧
  (∀ pa bs dom, s.replayingDom dom = false →
    exec (.supervisorAccess (.writeHbm pa bs dom)) s = .next (s.memWrites dom pa bs)) ∧
  (∀ pa bs dom, s.replayingDom dom = true →
    exec (.supervisorAccess (.writeHbm pa bs dom)) s = .next (s.report .replaying)) ∧
  (∀ addr n dom bs, supLds addr n = none → supLds addr bs.length = none →
    exec (.supervisorAccess (.readLds addr n dom)) s = .next (s.report .refused) ∧
    exec (.supervisorAccess (.writeLds addr bs dom)) s = .next (s.report .refused))

/-- R166, R171, R236, R360, R369, R378 to R380, R400, R401, R403, R404: rights are granted, taken up and revoked; a debugged wave
halts, steps, goes on past the breakpoint at which it stands and is written to, but while a core of its context replays, its
spill stacks under a right only; breakpoints, samples and folios; a sealed context admits no debugger. Model's
readings: log entries 13, 17, 29 (a write by the agent that took the cause marks nothing), 30 and 31 (steps within a
replay). -/
def Obligations.DebugEvents : Prop := ∀ (s : State) (ctx agent n : Nat) (w : Wave) (x : WCtx) (r : DebugRight),
  (s.sealedCtx ctx = true → (∀ owner, exec (.debugGrant ⟨ctx, owner⟩ agent) s = .next (s.report .sealed_)) ∧
    exec (.debugAttach ctx agent) s = .next (s.report .sealed_)) ∧
  (s.sealedCtx ctx = false → (s.ctx ctx).state.live = true → (s.ctx ctx).debug = none → ∀ owner,
    (s.owns ctx owner = true → exec (.debugGrant ⟨ctx, owner⟩ agent) s =
      .next (({ s with nextTrace := s.nextTrace + 1, nextKey := s.nextKey + 1 }.updCtx ctx fun c =>
        { c with debug := some { agent := agent, traceId := s.nextTrace, key := s.nextKey } }).report
          (.traceKey ctx (s.ctx ctx).desc.owner))) ∧
    (s.owns ctx owner = false → exec (.debugGrant ⟨ctx, owner⟩ agent) s = .next (s.report .refused))) ∧
  ((s.ctx ctx).debug = some r →
    (s.sealedCtx ctx = false → r.agent = agent → exec (.debugAttach ctx agent) s =
      .next (s.updCtx ctx fun c => { c with debug := some { r with attached := true } })) ∧
    (∀ owner, (s.owns ctx owner = true → exec (.debugRevoke ⟨ctx, owner⟩) s = .next (s.revoke ctx)) ∧
      (s.owns ctx owner = false → exec (.debugRevoke ⟨ctx, owner⟩) s = .next (s.report .refused))) ∧
    (∀ kn k pc, s.kernels.get kn = some k → r.attached = true → k.ctx = ctx → pc.toNat % 12 = 0 → pc.toNat < k.text.length →
      exec (.breakpointSet ctx kn pc) s = .next (s.updCtx ctx fun c => { c with debug := some { r with
        breakpoints := (r.breakpoints.erase (kn, pc)) ++ [(kn, pc)] } })) ∧
    (∀ p, s.sealedCtx ctx = false → 2 ^ 10 ≤ p → p ≤ 2 ^ 32 → exec (.samplePeriodSet ctx p) s =
      .next (s.updCtx ctx fun c => { c with debug := some { r with period := some p } })) ∧
    (∀ die core held reason, r.period.isSome = true → s.sampleNext die core ctx = some (n, w) → s.wctx w = some x →
      (s.core die core).replay = none →
      let why := s.whyStalled w x (if held then reason else 0)
      exec (.stallSample die core ctx held reason) s =
        .next ((s.traceRecord ctx (sampleBytes w x 0 why.1 why.2)).updCore die core fun k =>
          { k with sampled := k.sampled.put ctx n }))) ∧
  (At s n w x →
    (w.halted = true → w.haltReq = true → w.loads = [] →
      exec (.haltReported n) s = .next ((s.setWave n { w with haltReq := false }).report
        (.haltReported n ((List.range 8).map w.tagCount) (BitVec.ofNat 64 w.cnt)))) ∧
    (s.attached x.grid.ctx = true → w.alive = true → w.halted = false →
      exec (.debugHalt n) s = .next (s.setWave n { w with halted := true, haltReq := true }))) ∧
  (At s n w x → s.replayView n = none →
    (s.attached x.grid.ctx = false → ∀ i ∈ [Instr.debugHalt n, .debugStep n, .debugResume n], exec i s = .next (s.report .refused)) ∧
    (s.attached x.grid.ctx = true →
      (w.halted = true → s.replayingWave w = false →
        (w.haltReq = false → w.phase ≠ .faulted → w.atBrkpt = false →
          exec (.debugStep n) s = .next ((s.rouseIsland w).setWave n { w with halted := false, stepping := true })) ∧
        (w.haltReq = false → w.phase ≠ .faulted → w.atBrkpt = true → x.pcOk w.nextPc = true →
          exec (.debugStep n) s = .next ((s.rouseIsland w).setWave n { w.passBrkpt with haltReq := true })) ∧
        (w.haltReq = false → w.phase ≠ .faulted → w.atBrkpt = true → x.pcOk w.nextPc = false →
          exec (.debugStep n) s = .next ((s.rouseIsland w).deliver n { w with atBrkpt := false, haltReq := true } x .pcRange
            w.run 0 0)) ∧
        (w.atBrkpt = false → exec (.debugResume n) s = .next (s.setWave n
          { w with passBp := s.breakHere w x, halted := false, haltReq := false, stepping := false })) ∧
        (w.atBrkpt = true → x.pcOk w.nextPc = true → exec (.debugResume n) s =
          .next (s.setWave n { w.passBrkpt with halted := false, haltReq := false, stepping := false }))) ∧
      (w.halted = false ∨ s.replayingWave w = true →
        ∀ i ∈ [Instr.debugStep n, .debugResume n], exec i s = .next (s.report .refused))) ∧
    (s.breakHere w x = true ↔ w.wait = none ∧
      ∃ q, (s.ctx x.grid.ctx).debug = some q ∧ q.attached = true ∧ (x.grid.kernel, w.pc) ∈ q.breakpoints) ∧
    (s.ctxReplaying x.grid.ctx = true → ∀ wr, exec (.debugStateWrite n wr) s = .next (s.report .replaying)) ∧
    (∀ wr t, s.ctxReplaying x.grid.ctx = false → (s.rouseIsland w).debugPut n w x wr = some t →
      (s.debuggable w x = true → exec (.debugStateWrite n wr) s = .next ((t.updCtx x.grid.ctx fun c =>
        { c with edited := true, desc := { c.desc with flags := c.desc.flags ||| 16 } }).rewritten w)) ∧
      (s.debuggable w x = false → w.phase = .faulted → w.saved = false → spillWrite wr = false →
        exec (.debugStateWrite n wr) s = .next t) ∧
      (s.debuggable w x = false → w.phase ≠ .faulted ∨ w.saved = true ∨ spillWrite wr = true →
        exec (.debugStateWrite n wr) s = .next (s.report .refused)))) ∧
  (∀ v, s.replayView n = some v →
    (∀ t, s.replayStep n = some t → exec (.debugStep n) s = .next t) ∧
    (s.replayStep n = none → exec (.debugStep n) s = .next (s.report .refused)) ∧
    ∀ wr, exec (.debugStateWrite n wr) s = .next (s.report .replaying)) ∧
  exec (.folioTimeout ctx) s = .next (s.closeFolio ctx false) ∧
  (∀ f rest, s.staging = f :: rest →
    (s.archiveUp = true → exec (.folioWritten true) s = .next { s with
      staging := rest
      archive := s.archive.put s.archiveNext f
      archiveNext := (s.archiveNext + 1) % max 1 Config.archiveRanges }) ∧
    (s.archiveUp = false → exec (.folioWritten true) s = .next s) ∧
    exec (.folioWritten false) s = .next s)

/-! ### Links, device, replay -/

/-- R384 to R388, Table 23.1: the transitions of a link; what a port answers to SPDM; export ranges; requests of peers.
Model's readings: log entries 8, 17 and 32. -/
def Obligations.LinkEvents : Prop := ∀ (s : State) (port : Nat), port < 22 →
  let l := s.link port
  (l.state = .down → s.startRec.steps.getD 8 0 ≠ 4 →
    exec (.linkPartnerDetect port) s = .next (s.setLink port { l with state := .training })) ∧
  (l.state = .training →
    exec (.linkTrainingTimeout port) s = .next (s.setLink port l.drop) ∧
    (l.before = none →
      exec (.linkTrained port 4) s = .next (s.setLink port { l with state := .up, lanes := 4 }) ∧
      ∀ k, 1 ≤ k → k < 4 → exec (.linkTrained port k) s = .next (s.setLink port { l with state := .degraded, lanes := k })) ∧
    ∀ b k, l.before = some b → 1 ≤ k → k ≤ 4 →
      exec (.retrainComplete port k true) s = .next (s.setLink port { l with
        lanes := k, before := none, state := if k < 4 then .degraded else if l.session.isSome then .authenticated else .up }) ∧
      exec (.retrainComplete port k false) s = .next (s.setLink port { l with
        lanes := k, before := none, session := none, failures := 0, state := if k < 4 then .degraded else .up })) ∧
  (∀ id, l.state = .up → exec (.spdmSessionEstablished port id) s =
    .next (s.setLink port { l with state := .authenticated, session := some id, key := l.key + 1, failures := 0 })) ∧
  (∀ id, l.state = .degraded → l.session = none → exec (.spdmSessionEstablished port id) s =
    .next (s.setLink port { l with session := some id, key := l.key + 1, failures := 0 })) ∧
  (l.state = .up ∨ l.state = .authenticated ∨ l.state = .degraded →
    exec (.authenticationFailure port) s = .next (s.setLink port l.quarantine) ∧
    (∀ k, l.lanes ≤ k → exec (.laneLoss port k) s = .next (s.setLink port l)) ∧
    (0 < l.lanes → exec (.laneLoss port 0) s = .next (s.setLink port l.drop)) ∧
    ∀ k, 0 < k → k < l.lanes → exec (.laneLoss port k) s = .next (s.setLink port { l with state := .degraded, lanes := k })) ∧
  (l.session.isSome = true →
    (64 < l.failures → exec (.tagFailureLimit port) s = .next (s.setLink port l.quarantine)) ∧
    (l.failures ≤ 64 → exec (.tagFailureLimit port) s = .next (s.setLink port l)) ∧
    exec (.endSession port) s = .next (s.setLink port l.quarantine) ∧
    exec (.keyUpdate port) s = .next (s.setLink port { l with key := l.key + 1 })) ∧
  (l.state ≠ .quarantined → exec (.lossOfSignal port) s = .next (s.setLink port l.drop)) ∧
  (l.state = .quarantined → exec (.lossOfSignal port) s = .next (s.setLink port l) ∧
    exec (.portRelease port) s = .next (s.setLink port l.drop)) ∧
  exec (.portQuarantine port) s = .next (s.setLink port l.quarantine) ∧
  exec (.portDisable port) s = .next (s.setLink port l.drop) ∧
  (l.carrying = true → exec (.retrain port) s =
    .next { s.setLink port { l with state := .training, before := some l.state } with
      lifetime := { s.lifetime with
        retrains := s.lifetime.retrains.modify port fun n => if n = 0xffffffff then n else n + 1 } }) ∧
  (∀ code terms bytes, s.speaks port = true →
    (spdmSupported code terms = true → exec (.spdmMessage port code ⟨terms, bytes⟩) s =
      .next (s.report (.spdm port (Config.spdmAnswer port code (s.spdmBasis code bytes))))) ∧
    (spdmSupported code terms = false → exec (.spdmMessage port code ⟨terms, bytes⟩) s = .next (s.report .refused))) ∧
  (∀ idx r, idx < 256 → 0 < r.length → r.dom < 1024 →
    exec (.exportRangeInstall idx (some r)) s = .next { s with exports := s.exports.put idx r }) ∧
  (∀ idx, idx < 256 → exec (.exportRangeInstall idx none) s = .next { s with exports := s.exports.del idx }) ∧
  (∀ peer pa req, port < 18 → l.carrying = true →
    (∀ e, s.exportFor peer pa req = some e → exec (.inboundRequest port peer pa req) s = .next (s.serveRequest port pa e.dom req)) ∧
    (s.exportFor peer pa req = none → exec (.inboundRequest port peer pa req) s =
      .next ((s.setLink port { l with refused := l.refused + 1 }).report (.completionError port))))

/-- R2, R22, R24, R381, R405 to R408: a start from any record, its steps passing, failing or taking their alternates: what each
enters, what stops it, what the alternates hold; refused and stopped starts; what a power loss leaves; islands set and woken; the power limit; lifetime entries. Model's readings: log entries 6, 17 and 33. -/
def Obligations.DeviceEvents : Prop := ∀ (s : State) (limit no i : Nat) (invalid : List LifeEntry) (st : IslandState),
  let refused := Host.Outcome.next (s.report .refused)
  (∀ l : List StartStep, limit ≤ 2800 → no < 1024 → s.startRec.started = false → s.startRec.inARow < 2 → l.length = 10 →
    let before := fun (k : Nat) => s.startRec.steps.getD (k - 1) 0
    let byAlt := fun (k : Nat) => (before k = 2 ∨ before k = 4) ∧ k ≠ 1 ∧ k ≠ 10
    let needed := fun (k : Nat) => k ≠ 2 ∧ k ≠ 8 ∧ k ≠ 9
    let out := fun (k : Nat) => l.getD (k - 1) { mainOk := false, altOk := false }
    let passes := fun (k : Nat) => if byAlt k then (out k).altOk = true else (out k).mainOk = true
    let byte := fun (k : Nat) => if passes k then (if byAlt k then 3 else 1) else if needed k then 2 else 4
    let ran := fun (n : Nat) => (List.range n).map fun i => i + 1
    let counted := fun (marks : List LifeEntry) (n : Nat) => ((ran n).filter fun k => decide (¬ passes k)).foldl
      (fun (t : State) k => t.count (.startFail k) 1)
      ({ s.cold with lifetime := marks.foldl Lifetime.zero s.lifetime }.count .starts 1)
    ((∀ k, 1 ≤ k → k ≤ 10 → needed k → passes k) →
      let alts := (ran 10).filter fun k => decide (byte k = 3)
      exec (.deviceStart l invalid limit no) s = .next { counted invalid 10 with
        startRec := { steps := (ran 10).map byte, invalid := invalid, stoppedAt := none, inARow := 0, alternates := alts
                      started := true }
        islands := (if 5 ∈ alts ∨ 6 ∈ alts ∨ 7 ∈ alts then (List.range 24).map fun i => (i, IslandState.reduced) else []) ++
          if 3 ∈ alts then [(28, .reduced), (29, .reduced)] else []
        powerLimit := limit, deviceNo := no }) ∧
    ∀ k, 1 ≤ k → k ≤ 10 → needed k → ¬ passes k → (∀ j, 1 ≤ j → j < k → needed j → passes j) →
      let marks := if k = 1 then [] else invalid
      exec (.deviceStart l invalid limit no) s = .next ({ counted marks k with
        startRec := { s.startRec with
          steps := (ran k).map byte ++ List.replicate (10 - k) 0, invalid := marks, stoppedAt := some k
          inARow := if s.startRec.stoppedAt = some k then s.startRec.inARow + 1 else 1, alternates := [], started := false } }.report
        (.startStopped k))) ∧
  (∀ l, s.startRec.started = true ∨ 2800 < limit ∨ 1024 ≤ no → exec (.deviceStart l invalid limit no) s = refused) ∧
  (limit ≤ 2800 → no < 1024 → s.startRec.started = false → 2 ≤ s.startRec.inARow → ∀ l, l.length = 10 →
    exec (.deviceStart l invalid limit no) s = .next (s.report (.startStopped (s.startRec.stoppedAt.getD 0)))) ∧
  exec .startRecordClear s =
    .next { s with startRec := { started := s.startRec.started, alternates := s.startRec.alternates } } ∧
  (∀ e n, exec (.lifetimeUpdate e n) s = .next (s.count e n)) ∧
  (∀ e n, exec (.powerLoss (some (e, n)) true) s = .next (s.count e n).cold) ∧
  (∀ d, exec (.powerLoss d false) s = .next s.cold) ∧
  (limit ≤ 2800 → exec (.powerLimitSet limit) s = .next { s with powerLimit := limit }) ∧
  (2800 < limit → exec (.powerLimitSet limit) s = refused) ∧
  (s.held i = true → exec (.islandStateSet i .run) s = refused) ∧
  (24 ≤ i → s.held i = false → exec (.islandStateSet i .reduced) s = refused) ∧
  (i < 24 → st ≠ .off → s.island (24 + i / 6) = .off → exec (.islandStateSet i st) s = refused) ∧
  (i < 24 → (st = .run → s.held i = false) → st = .off ∨ s.island (24 + i / 6) ≠ .off →
    (st ≠ .run → s.blocks.any (fun e => s.replayIsland i e.1 e.2) = true →
      exec (.islandStateSet i st) s = .next ((s.saveBlocks (s.replayIsland i)).stopReplays i)) ∧
    ((st ≠ .run → s.blocks.any (fun e => s.replayIsland i e.1 e.2) = false) →
      (st = .off → s.haltedOn i = false ∧ s.blocks.any (fun e => s.onIsland i e.1 e.2) = false) →
      exec (.islandStateSet i st) s = .next (s.setCoreIsland i st)) ∧
    (st = .off → s.blocks.any (fun e => s.replayIsland i e.1 e.2) = false → s.haltedOn i = true →
      exec (.islandStateSet i st) s = refused) ∧
    (st = .off → s.blocks.any (fun e => s.replayIsland i e.1 e.2) = false → s.haltedOn i = false →
      s.blocks.any (fun e => s.onIsland i e.1 e.2) = true → exec (.islandStateSet i st) s = .next (s.saveBlocks (s.onIsland i)))) ∧
  (24 ≤ i → i < 28 → (∀ k, k < 6 → s.island ((i - 24) * 6 + k) = .off) →
    exec (.islandStateSet i .off) s = .next ({ s with islands := s.islands.put i .off }.sramOff (i - 24))) ∧
  (24 ≤ i → islandHas i st = true → (i < 28 → st ≠ .off) → (st = .run → s.held i = false) → (st = .reduced → s.held i = true) →
    exec (.islandStateSet i st) s = .next { s with islands := s.islands.put i st }) ∧
  (islandHas i st = false → exec (.islandStateSet i st) s = refused) ∧
  (i < 24 → (s.island i).rank < st.rank → s.island i ≠ .off → (s.die (i / 6)).queue ≠ [] ∨ s.coopOn i = true →
    (st = .run → s.held i = false) → exec (.islandWake i st) s = .next (s.setCoreIsland i st)) ∧
  (24 ≤ i → islandHas i st = true → (s.island i).rank < st.rank → s.island i ≠ .off → (st = .run → s.held i = false) →
    exec (.islandWake i st) s = .next { s with islands := s.islands.put i st })

/-- R381, R397 to R402, R408: a due checkpoint opens an interval and keeps the one before; a full journal area brings one that
keeps none earlier; a stop is recorded, and judged at once or when a save of the context that goes on is over: the core goes to
the start of the interval that it names, its checkpoint restored and its journal undone, every wave of the context halting, or
it is refused; then the steps of its log are executed again one by one, which lead from each image of the core to the next; a
stop that is come to is reported; a continued core is where it was, running, while a replay at another core of the context keeps the waves of the rest
halted. Model's readings: log entries 17 and 31. -/
def Obligations.ReplayEvents : Prop := ∀ (s : State) (die core : Nat) (r : ReplayCore), (s.core die core).replay = some r →
  let puts := fun (t : State) (q : ReplayCore) => t.updCore die core fun k => { k with replay := some q }
  (r.due = true → exec (.checkpoint die core) s = .next ((puts s { r with due := false }).newInterval die core true)) ∧
  (r.due = false → exec (.checkpoint die core) s = .next s) ∧
  (s.areaFull r = true →
    exec (.journalFullCheckpoint die core) s = .next ((puts s { r with prev := none }).newInterval die core true)) ∧
  (s.areaFull r = false → exec (.journalFullCheckpoint die core) s = .next s) ∧
  (∀ stop : StopName, stop.die = die → stop.core = core →
    let t := s.traceRecord r.ctx (stopRecord s stop 1 0xffffffff)
    (s.attached r.ctx = true → s.replays r.ctx = true →
      (s.savingIn r.ctx = true →
        exec (.replayToStop r.ctx stop) s = .next { t with stopAsks := t.stopAsks ++ [(r.ctx, stop)] }) ∧
      (s.savingIn r.ctx = false → exec (.replayToStop r.ctx stop) s = .next (t.judgeStop r.ctx stop))) ∧
    (s.attached r.ctx = false ∨ s.replays r.ctx = false → exec (.replayToStop r.ctx stop) s = .next (s.report .refused)) ∧
    (∀ i steps later, r.interval? stop.interval = some (i, steps, later) → i.reached stop = true →
      (s.island (islandOf die core) = .run → s.judgeStop r.ctx stop = puts (s.haltAll r.ctx)
        { r with replay := some {
            stop := stop
            view := { i.start with lds := undoAll die core (s.coreImage die core).lds (i.journal ++ later) }
            ahead := i.log ++ steps
            held := s.halting r.ctx ++ match r.replay with
              | some p => p.held
              | none => [] } }) ∧
      (s.island (islandOf die core) ≠ .run → s.judgeStop r.ctx stop = s.report .refused)) ∧
    (r.interval? stop.interval = none → s.judgeStop r.ctx stop =
      (s.traceRecord r.ctx (stopRecord s stop 3 0xffffffff)).report (.stop false true stop)) ∧
    (∀ q, r.interval? stop.interval = some q → q.1.reached stop = false →
      s.judgeStop r.ctx stop = (s.traceRecord r.ctx (stopRecord s stop 4 0xffffffff)).report (.stop false false stop)) ∧
    (s.stopAsks = [(r.ctx, stop)] → s.savingIn r.ctx = false → s.attached r.ctx = true →
      let u := { s with stopAsks := [] }
      (s.replays r.ctx = true → s.judgeStops = u.judgeStop r.ctx stop) ∧
      (s.replays r.ctx = false → s.judgeStops = u.refuseStop r.ctx stop true))) ∧
  (∀ p, r.replay = some p → p.reached = false → p.view.stands p.stop = true →
    let w := p.view.waves.get p.stop.wave
    exec (.replayStopReached die core) s =
      .next (((puts s { r with replay := some { p with mode := .held, reached := true } }).traceRecord r.ctx
        (stopRecord s p.stop 2 ((w.map fun v => v.pc).getD 0xffffffff))).report (.stop true false p.stop))) ∧
  (∀ p, r.replay = some p → p.reached = true ∨ p.view.stands p.stop = false → exec (.replayStopReached die core) s = .next s) ∧
  (∀ p e rest, r.replay = some p → p.ahead = e :: rest → p.mode = .toStop → p.view.stands p.stop = false →
    s.replayOn die core = puts s { r with replay := some { p with view := p.view.after die core e, ahead := rest } }) ∧
  (∀ p, r.replay = some p → p.mode = .held → s.replayOn die core = puts s r) ∧
  (∀ (a b : CoreImage) (k : Counters) (turn : Turn) (n : Nat),
    let m := a.after die core (LogStep.of a b die core k turn)
    ((b.waves.map fun e => e.1).Nodup → m.waves.get n = b.waves.get n) ∧
    ((b.blocks.map fun e => e.1).Nodup → m.blocks.get n = b.blocks.get n) ∧
    (Memory.wf (some 0) (a.rerun die core k turn).lds = true →
      (Memory.find m.lds n).getD 0 = (Memory.find b.lds n).getD 0) ∧
    m.tlb = b.tlb ∧ m.stall = b.stall ∧ m.unread = b.unread) ∧
  (∀ p, r.replay = some p → s.replaysElsewhere r.ctx die core = [] →
    exec (.replayContinue die core) s = .next { puts s { r with replay := none } with
      waves := s.waves.map fun (e : Nat × Wave) => if p.held.contains e.1 then (e.1, e.2.release) else e }) ∧
  ∀ p, r.replay = some p → s.replaysElsewhere r.ctx die core ≠ [] →
    let held := p.held ++ ((s.replaysElsewhere r.ctx die core).map fun e => e.2).flatten
    let here := fun (n : Nat) => match s.waves.get n with
      | some w => w.die == die && w.core == core && !w.saved
      | none => false
    ∃ t, exec (.replayContinue die core) s = .next t ∧
      t.waves = s.waves.map fun (e : Nat × Wave) => if (held.filter here).contains e.1 then (e.1, e.2.release) else e

/-! ### Encodings -/

/-- R46, R47, R53, R57, R63, Tables 3.1 to 3.8: the decoder reads every well-formed instruction back from its word.
Model's readings: log entry 9. -/
def Obligations.DecodeOfEncode : Prop := ∀ (i : Instr) (w : BitVec 96), i.wf = true → encode i = some w → decodeWord w = .ok i

/-- R50, R53, R57, R63: a word that decodes is the word of the instruction that it decodes to, which is well-formed: every
bit of it is accounted for, and no two words decode to one instruction. Model's readings: log entry 9. -/
def Obligations.EncodeOfDecode : Prop := ∀ (i : Instr) (w : BitVec 96), decodeWord w = .ok i → encode i = some w ∧ i.wf = true

/-- R47: the bytes of a word in memory, the three words that they make, and the value of OP. -/
def Obligations.WordsAreLittleEndian : Prop := ∀ (w : BitVec 96),
  (bytesOfWord w).length = 12 ∧ (bytesOfWord w)[0]? = some (w.extractLsb' 0 8) ∧
  (bytesOfWord w)[11]? = some (w.extractLsb' 88 8) ∧
  (∀ k, k < 12 → (bytesOfWord w)[k]? = some (w.extractLsb' (8 * k) 8)) ∧
  leField (bytesOfWord w) 0 4 = (w.extractLsb' 0 32).toNat ∧
  leField (bytesOfWord w) 4 4 = (w.extractLsb' 32 32).toNat ∧
  leField (bytesOfWord w) 8 4 = (w.extractLsb' 64 32).toNat ∧
  (Raw.ofWord w).op.toNat = (w.extractLsb' 90 6).toNat * 64 + (w.extractLsb' 84 6).toNat ∧
  wordOfBytes (bytesOfWord w) = w

/-- R46 to R50, R68: words set out field by field decode to the instructions that they stand for. -/
def Obligations.GivenWordsDecode : Prop :=
  let h : Head := {}
  decodeWord 0 = .ok (.nop h) ∧
  decodeWord 0x080100000006000068000102 = .ok (.iadd { pred := 1 } (.lane 6) (.lane 6) (.imm 1) ⟨.s32, true⟩) ∧
  decodeWord 0x200000000004000020000300 = .ok (.fadd h (.lane 4) (.lane 2) (.lane 3) ⟨.f32, .rne, false⟩) ∧
  decodeWord 0x6020000000004000a4000920 = .ok (.tmma h 1 (.uni 10) (.uni 9) .e4m3 false) ∧
  decodeWord 0xffffffffffffffffffffffff = .error .illegalOp ∧
  decodeWord (0x8#96 <<< 80) = .ok (.hintSpaceWord 0)

/-! ### The step and its invariant -/

/-- Every step keeps the canonical form of the memories: addresses rise, and no entry is what an unlisted byte reads as.
Model's readings: log entries 2 and 3. -/
def Obligations.EveryStepKeepsTheMemoryForm : Prop := ∀ (s t : State), s.memOk = true → step s = .next t → t.memOk = true

/-- R174, R246, R361, R385, R406, R407: the device right after reset. Log entries 2, 5 and 6 name what the spec leaves open:
which values the other registers have; that a step finds nothing to do and leaves it as it is, is the model's order of turns
(log entry 1). -/
def Obligations.ResetState : Prop :=
  let s := State.reset
  s.memOk = true ∧ s.lds = [] ∧ s.hbm = [] ∧ s.waves = [] ∧ s.blocks = [] ∧ s.grids = [] ∧ s.queues = [] ∧ s.pifo = [] ∧
  (∀ c, (s.ctx c).state = .free) ∧ (∀ d, (s.domain d).live = true ↔ d = 0) ∧ (∀ p, (s.link p).state = .down) ∧
  (∀ i, s.island i = .run) ∧ (∀ d c, (s.core d c).tlb = []) ∧ s.frozen = false ∧ s.startRec.started = false ∧
  step s = .next s

/-- R90, R117, R174, R359: a step whose turn is a wave's runs the instruction that the bytes at its PC decode to, on the
state in which its core holds the text; a step whose turn is an event runs that event; what is asked for over the control
interface is done for M or S mode only, and what R359, R377 and R405 keep to the Custodian for M mode only. Around `exec` a step
only ends a single step or passes a breakpoint (R236, R379), notes which retirement passes have become ready (R339), keeps for
each replaying core what its log and journal need and writes its journal area (R397), executes a step of such a log again where
that is the turn (R399), judges stops that a save has held (R408), unfreezes dispatch behind the causes that Curator takes (R377), and
advances the model's counter (log entry 3): `State.settled`, `State.recorded`. Model's readings: log entries 1, 3, 13, 17 and
31. -/
def Obligations.StepRunsTheDecodedInstruction : Prop := ∀ (s : State) (rest : List Turn),
  let runs := fun (i : Instr) (t : State) =>
    step s = match exec i t with
      | .next u => .next (s.settled t u i)
      | .fault f => .fault f
      | .refused r => .refused r
  (∀ n w x i bs, s.waves.get n = some w → s.wctx w = some x → w.due n = none → x.pcOk w.pc = true →
    let at_ := fun (s0 : State) => s0.canIssue w x = true ∧ s0.atBreakpoint w x = false ∧ decodeBytes (s0.fetch w x) = .ok (i, bs)
    (s.agenda = .issue n :: rest → at_ { s with agenda := rest } →
      runs i ({ { s with agenda := rest } with cur := n }.holdText w x)) ∧
    (s.agenda = [] → s.readyWave = some n → at_ s → runs i ({ s with cur := n }.holdText w x))) ∧
  (∀ e, s.agenda = .event e :: rest → Instr.isEvent e = true → runs e { s with agenda := rest }) ∧
  (∀ mode e, s.agenda = .control mode e :: rest → Instr.isControl e = true →
    (mode.may e = true → runs e { s with agenda := rest }) ∧
    (mode.may e = false → step s = .next (s.recorded ({ s with agenda := rest }.report .refused)))) ∧
  (∀ e, PrivMode.m.may e = true ∧ PrivMode.u.may e = false ∧ (PrivMode.s.may e = false ↔ e = .freezeDispatch ∨
    (∃ a b, e = .lifetimeUpdate a b) ∨ (∃ a b, e = .islandStateSet a b) ∨ ∃ a, e = .curatorRestart a)) ∧
  (∀ mode a, s.agenda = .ask mode a :: rest →
    (mode ≠ .u → step s = .next (s.recorded ({ s with agenda := rest }.asked a))) ∧
    (mode = .u → step s = .next (s.recorded ({ s with agenda := rest }.report .refused)))) ∧
  (∀ die core, s.agenda = .replay die core :: rest →
    step s = .next (s.recorded ({ s with agenda := rest }.replayOn die core))) ∧
  (s.agenda = [] → s.readyWave = none → step s = .next (s.recorded s))

namespace Sys2Proof.Claims

/-! ### Terms of the frames -/

/-- Every byte of every memory reads as before, and so does every wave but the current one; a byte of a local store under
a domain, where the wave's block holds its granules, as it does while it issues. -/
structure Untouched (s t : State) : Prop where
  raw : ∀ a, t.ldsRaw a = s.ldsRaw a
  tags : ∀ g, t.ldsTags.get g = s.ldsTags.get g
  lds : (∀ v, s.waves.get s.cur = some v → ∀ e ∈ s.blocks, e.1 = v.block → e.2.placed = true) →
    ∀ dom a, t.ldsRead dom a = s.ldsRead dom a
  hbm : ∀ dom pa, t.hbmRead dom pa = s.hbmRead dom pa
  waves : ∀ n, n ≠ s.cur → t.waves.get n = s.waves.get n

/-- The registers of a wave before and after: lane registers stay outside the guard and outside `lane`, uniform ones
outside `uni`, predicates outside the guard and outside `pred`; the granules of the spill stacks, pending operations and
the registers that no instruction but a MOV writes stay. -/
structure Kept (g : Mask) (lane uni pred : Nat → Prop) (v u : Wave) : Prop where
  lanes : ∀ l r, (g.getLsbD l = false ∨ ¬ lane r) → (u.lane l).reg r = (v.lane l).reg r
  unis : ∀ r, ¬ uni r → u.uni r = v.uni r
  preds : ∀ l p, (g.getLsbD l = false ∨ ¬ pred p) → (u.lane l).q.getLsbD p = (v.lane l).q.getLsbD p
  spill : u.granules = v.granules ∧ u.spillImage = v.spillImage
  pending : u.loads = v.loads ∧ u.stores = v.stores ∧ u.copies = v.copies ∧ u.tiles = v.tiles
  settings : u.hvec = v.hvec ∧ u.sglim = v.sglim ∧ u.sgq = v.sgq ∧ u.arrw = v.arrw

/-- The masks and the registers of handler mode stay, and so do the wait and the barrier bits. -/
structure Steady (v u : Wave) : Prop where
  masks : u.run = v.run ∧ u.live = v.live ∧ u.park = v.park
  handler : u.hdep = v.hdep ∧ u.hcause = v.hcause ∧ u.evtm = v.evtm ∧ u.hpc1 = v.hpc1 ∧ u.hpc2 = v.hpc2 ∧
    u.hrun1 = v.hrun1 ∧ u.hrun2 = v.hrun2 ∧ u.keepMask = v.keepMask ∧ u.keepCause = v.keepCause
  serial : u.sgcnt = v.sgcnt ∧ u.serial = v.serial ∧ u.chosen = v.chosen
  waits : u.wait = v.wait ∧ u.pend = v.pend ∧ u.pphase = v.pphase ∧ u.item = v.item

/-- The registers that a result in D fills: a lane register, or the pair from it on; a uniform register; a predicate. -/
def dLane (d : Operand) (wide : Bool) (r : Nat) : Prop :=
  ∃ n, d = .lane n ∧ (r = n.toNat ∨ wide = true ∧ r = n.toNat + 1)
def dUni (d : Operand) (r : Nat) : Prop := ∃ n, d = .uni n ∧ r = n.toNat
def dPred (d : Operand) (p : Nat) : Prop := ∃ n, d = .spec n ∧ p = n.toNat
def none_ (_ : Nat) : Prop := False

/-- What a frame says of an instruction: whenever it answers a next state, memory and the other waves are as before, and
the current wave's record is as `f` says. -/
def Frames (i : Instr) (f : Wave → Wave → Prop) : Prop := ∀ s t v, s.waves.get s.cur = some v → exec i s = .next t →
  Untouched s t ∧ ∃ u, t.waves.get s.cur = some u ∧ f v u

end Sys2Proof.Claims

/-! ### Frames -/

/-- R48, R56, R79, R82, R124: an instruction with a register or predicate result changes its D, in the guarded lanes, and
nothing else but the PC and what retirement counts; only a float or conversion instruction changes `%fflags`, and only
FCVT `%dither`. -/
def Obligations.RegisterInstructionsFrame : Prop := ∀ (h : Head) (d a b : Operand) (m : IMod) (f : FMod) (t : BitVec 8) (v : BitVec 32)
    (neg : Bool) (p : BitVec 3) (dt st : CType) (ff ft : FFmt) (fl : FType) (rnd : Rnd) (sat x y z : Bool) (c : ICmp) (fc : FCmp)
    (k : Comb) (sg : Seg) (sm : ShflMode) (pt : PackType) (ut : UnpkType) (g : BitVec 2) (se de : BitVec 3),
  let kept := fun (i : Instr) (wide : Bool) (flags dith : Bool) => Frames i fun o u =>
    Kept (o.guard h) (dLane d wide) (dUni d) none_ o u ∧ Steady o u ∧ (flags = false → u.fflags = o.fflags) ∧
      (dith = false → u.dither = o.dither)
  let test := fun (i : Instr) (flags : Bool) => Frames i fun o u =>
    Kept (o.guard h) none_ none_ (· = predNo d) o u ∧ Steady o u ∧ (flags = false → u.fflags = o.fflags) ∧ u.dither = o.dither
  (∀ i ∈ [Instr.iadd h d a b m, .isub h d a b m, .imul h d a b m, .imulh h d a b m, .imad h d a b m, .imin h d a b m,
      .imax h d a b m, .iabs h d a m, .ineg h d a m, .and h d a b m, .or h d a b m, .xor h d a b m, .andn h d a b m, .not h d a m,
      .shl h d a b m, .shr h d a b m, .sar h d a b m, .rotl h d a b m, .brev h d a m, .bfe h d a b m, .bfi h d a b m],
    kept i (wideType m.ty) false false) ∧
  (∀ i ∈ [Instr.popc h d a m, .clz h d a m, .logt h d a b t, .movi h d v, .sel h d a b neg p, .shfl h d a b sg sm,
      .dot4i8 h d a b x y, .dot8i4 h d a b x y, .dotb32 h d a b x, .fclass h d a f], kept i false false false) ∧
  (∀ ty, (∀ n, d ≠ .spec n) → kept (.mov h d a ty) (wideType ty) false false) ∧
  kept (.icvt h d a dt st sat) (ctypeBits dt == 64) false false ∧
  (∀ i ∈ [Instr.fadd h d a b f, .fsub h d a b f, .fmul h d a b f, .ffma h d a b f, .fmin h d a b f, .fmax h d a b f,
      .fdiv h d a b f, .fsqrt h d a f, .frcp h d a f, .frsq h d a f, .fexp2 h d a f, .flog2 h d a f, .fsin h d a f,
      .fcos h d a f, .frnd h d a f], kept i (fWide f.ty) true false) ∧
  (∀ i ∈ [Instr.fabs h d a f, .fneg h d a f], kept i (fWide f.ty) false false) ∧
  kept (.fcvt h d a ff ft rnd x y se de) (ff == .f64) true true ∧
  kept (.f2i h d a dt fl rnd) (ctypeBits dt == 64) true false ∧ kept (.i2f h d a fl dt rnd) (fWide fl) true false ∧
  kept (.pack h d a b pt rnd x y) false true false ∧ kept (.unpk h d a ut g) true true false ∧
  (∀ i ∈ [Instr.dot4f8 h d a b x y z rnd, .dot2bf h d a b rnd], kept i false true false) ∧
  (∀ i ∈ [Instr.isetp h d a b m.ty c k, .plogt h d a b t, .vote h d a .any, .vote h d a .all, .vote h d a .eq], test i false) ∧
  kept (.vote h d a .ballot) true false false ∧ test (.fsetp h d a b fl fc k) true

/-- R112 to R121, R222 to R227: control, steering and barrier instructions change no register but the return offset of
CALL, a rejoin register, and the results of the handler assists and of BARQ; no memory and no other wave. -/
def Obligations.ControlInstructionsFrame : Prop := ∀ (h : Head) (d a b : Operand) (c : BitVec 18) (bits : BitVec 92),
  let pair := fun (r : Nat) => r = rejoinNo d ∨ r = rejoinNo d + 1
  let flat := fun (o u : Wave) => u.fflags = o.fflags ∧ u.dither = o.dither
  (∀ i ∈ [Instr.nop h, .yield_ h, .icinv h, .trap h c, .sysc h c, .brkpt h c, .hintSpaceWord bits],
    Frames i fun o u => Kept 0 none_ none_ none_ o u ∧ Steady o u ∧ flat o u) ∧
  (∀ i ∈ [Instr.br h c, .brx h a, .ret h a, .exit h, .hret h a], Frames i fun o u => Kept 0 none_ none_ none_ o u ∧ flat o u) ∧
  Frames (.call h d b) (fun o u => Kept (o.guard h) (dLane d false) (dUni d) none_ o u ∧ flat o u) ∧
  (∀ i ∈ [Instr.jenrol h d, .jwait h d, .jstrike h d], Frames i fun o u => Kept 0 none_ pair none_ o u ∧ flat o u) ∧
  (∀ i ∈ [Instr.pcmin h d a, .pcmaj h d a], Frames i fun o u => Kept 0 none_ pair none_ o u ∧ Steady o u ∧ flat o u) ∧
  Frames (.pceq h d a b) (fun o u => Kept 0 none_ (· = rejoinNo d) none_ o u ∧ Steady o u ∧ flat o u) ∧
  (∀ i ∈ [Instr.bararr h c, .barwait h c, .barsync h c], Frames i fun o u => Kept 0 none_ none_ none_ o u ∧ flat o u) ∧
  Frames (.barq h d c) fun o u => Kept 0 none_ (· = uniNo d) none_ o u ∧ Steady o u ∧ flat o u

namespace Sys2Proof.Claims

/-- A byte of a local store lies outside what an entry of a wave's pending stores has still to write. -/
def besideEntry (p : PendStore) (c : Nat) : Prop := ∀ q ∈ p.targets, c < q.2.1 ∨ q.2.1 + q.2.2 ≤ c

/-- A byte of a local store lies outside the stores that a wave has pending. -/
def beside (v : Wave) (c : Nat) : Prop := ∀ p ∈ v.stores, besideEntry p c

/-- A byte lies outside the `n` bytes that each guarded lane addresses, where its address passes the checks: in a local
store, or in the granules that hold the lane's spill stack. -/
def besideLanes (v : Wave) (x : WCtx) (h : Head) (ws : Windows) (addr : Nat → Word) (n c : Nat) : Prop :=
  ∀ l, (v.guard h).getLsbD l = true →
    (∀ q, checkWindow v x ws (addr l) n n = .ok (.lds q) → c < q ∨ q + n ≤ c) ∧
    ∀ q i, checkWindow v x ws (addr l) n n = .ok (.spill q) → i < n → c ≠ v.spillAddr l (q + i)

/-- A byte of a local store is held for a domain as before, and reads as before, spill stacks included. -/
def SameByte (s t : State) (dom c : Nat) : Prop := t.coreRead dom c = s.coreRead dom c ∧ t.ldsRead dom c = s.ldsRead dom c

end Sys2Proof.Claims

/-- R172, R176, R177, R248: whenever a LD, ST or ATOM answers a next state, every byte of the local stores outside the
bytes that its guarded lanes address, for a LD every one, and outside the stores and atomics that the wave had pending,
reads as before under the wave's domain, by a lane's own path into its spill stack (`coreRead`) too, and so does every
byte of HBM; a performed store, with the atomics that waited behind it, changes no byte outside them. Model's readings: log
entry 10. -/
def Obligations.MemoryInstructionsFrame : Prop := ∀ (h : Head) (d a : Operand) (b : Option Operand) (ty : MemType) (op : AtomOp)
    (ord : AtomOrd) (w64 : Bool) (s t : State) (v : Wave) (x : WCtx),
  let n := if w64 then 8 else 4
  let same := fun (far : Nat → Prop) =>
    (∀ c, beside v c → far c → SameByte s t (s.waveDom x) c) ∧
    (∀ dom pa, t.hbmRead dom pa = s.hbmRead dom pa) ∧ ∀ k, k ≠ s.cur → t.waves.get k = s.waves.get k
  s.waves.get s.cur = some v → (s.begun s.cur v).wctx v.begun = some x →
  (∀ e ∈ s.blocks, e.1 = v.block → e.2.placed = true) →
  (exec (.ld h d a b ty) s = .next t → same fun _ => True) ∧
  (exec (.st h d a b ty) s = .next t →
    same (besideLanes v.begun x h { spill := true } (laneAddr v.begun x a b) (memBytes ty))) ∧
  (exec (.atom h d a b op ord w64) s = .next t → same (besideLanes v.begun x h {} (laneAddr v.begun x a b) n)) ∧
  (∀ p ps, v.stores = p :: ps → exec (.storePerformed s.cur) s = .next t → s.wctx v = some x →
    (∀ c, besideEntry p c → (∀ q ∈ ps.takeWhile fun q => q.atom.isSome, besideEntry q c) → SameByte s t (s.waveDom x) c) ∧
    (∀ dom pa, t.hbmRead dom pa = s.hbmRead dom pa) ∧ ∀ k, k ≠ s.cur → t.waves.get k = s.waves.get k)

/-- R170, R171, R247, R248: a domain reads back what it wrote; a write changes no other byte that the domain had; the
first write of another domain into a granule leaves zeros beside it; a write into a spill stack's granule is lost. Model's
readings: log entries 2, 3 and 34 (a write past the last byte of HBM changes nothing: DESIGN CHOICE). -/
def Obligations.MemoryReadsBack : Prop := ∀ (s : State) (dom e a c : Nat) (v : Byte), s.memOk = true →
  (s.inSpill a = false →
    (s.ldsWrite dom a v).ldsRead dom a = v ∧
    (c ≠ a → c / 4096 = a / 4096 → s.ldsTags.get (a / 4096) = some dom →
      (s.ldsWrite dom a v).ldsRead dom c = s.ldsRead dom c) ∧
    (c ≠ a → c / 4096 = a / 4096 → s.ldsTags.get (a / 4096) ≠ some dom → (s.ldsWrite dom a v).ldsRead dom c = 0) ∧
    (e ≠ dom → c / 4096 = a / 4096 → (s.ldsWrite dom a v).ldsRead e c = 0) ∧
    (c / 4096 ≠ a / 4096 → (s.ldsWrite dom a v).ldsRead e c = s.ldsRead e c)) ∧
  (s.inSpill a = true → s.ldsWrite dom a v = s ∧ s.ldsRead e a = 0) ∧
  (a < hbmBytes → (s.hbmWrite dom a v).hbmRead dom a = v) ∧ (hbmBytes ≤ a → s.hbmWrite dom a v = s) ∧ (c ≠ a → (s.hbmWrite dom a v).hbmRead e c = s.hbmRead e c)

/-! ### Causes, events, ages -/

/-- R68, R367 to R370: taking a cause. The wave is faulted and keeps the record, which names the cause, the
instruction's PC, the lanes, the address, the argument and the accession count; its registers, masks, PC and count stay,
and a single step ends (R236); the log of its context gets the record, of 256 records the oldest giving way to it; its
block is faulted, or saved where it was leaving; memory and the other waves stay. Model's readings: log entries 12 and
13. -/
def Obligations.TakingACause : Prop := ∀ (s : State) (n : Nat) (w : Wave) (x : WCtx) (c : Cause) (lanes : Mask) (addr : DWord)
    (arg : Word),
  let t := s.deliver n w x c lanes addr arg
  let k := x.grid.ctx
  ∃ r : FaultRec, r.cause = c ∧ r.pc = w.pc ∧ r.lanes = lanes ∧ r.address = addr ∧ r.arg = arg ∧ r.accn = w.accn ∧ r.ctx = k ∧
    r.sequence = (s.ctx k).sequence ∧ (r.flags.getLsbD 0 = true ↔ w.hdep ≠ 0) ∧
    t.waves.get n = some { w with
      phase := .faulted, fault := some r, halted := w.halted || w.stepping, haltReq := w.haltReq || w.stepping, stepping := false } ∧
    ((s.ctx k).log.length < 256 → (t.ctx k).log = (s.ctx k).log ++ [r]) ∧
    (256 ≤ (s.ctx k).log.length → (t.ctx k).log = ((s.ctx k).log ++ [r]).drop ((s.ctx k).log.length - 255)) ∧
    (t.ctx k).sequence = (s.ctx k).sequence + 1 ∧
    (t.ctx k).lost = (s.ctx k).lost ∧
    (∀ b, s.blocks.get w.block = some b → ∃ b', t.blocks.get w.block = some b' ∧
      b'.phase = match b.phase with
        | .draining | .saving | .flushing => .saving
        | _ => .faulted) ∧
    (∀ m, m ≠ n → t.waves.get m = s.waves.get m) ∧ (∀ a, t.ldsRaw a = s.ldsRaw a) ∧
    (∀ dom pa, t.hbmRead dom pa = s.hbmRead dom pa) ∧ ∀ m, m ≠ k → (t.ctx m).log = (s.ctx m).log

/-- R50, R67, R68, R95: a word that fails a decode check raises the cause of the first it fails, with every lane of RUN,
whatever its guard; so does a word that decodes to no instruction at all; the all-zero word is a NOP, the all-ones word
ILLEGAL_OP in every wave. An instruction in the last word of its text that would go on behind it raises PC_RANGE with every lane
of RUN and takes no effect; here those that go on in every state, and those that act once whose guard holds in no lane; for the
others it is a part of their own statements (`Claims.onward`). Model's readings: log entries 12 and 13. -/
def Obligations.UndecodableWordsRaise : Prop := ∀ (s : State) (v : Wave) (x : WCtx) (c : Cause) (h : Head) (d a b : Operand)
    (m : IMod) (f : FMod) (k : BitVec 32) (t : BitVec 3) (n : BitVec 6) (z : BitVec 18) (ty : MemType),
  (x.textLen ≤ v.begun.nextPc.toNat →
    let u := s.begun s.cur v
    let ends := fun (i : Instr) =>
      Ready i s v x → exec i s = .next ((u.exposedAs u v.begun).deliver s.cur v.begun x .pcRange v.begun.run 0 0)
    (∀ i ∈ [Instr.nop h, .yield_ h, .movi h d k, .iadd h d a b m, .isub h d a b m, .imul h d a b m, .imad h d a b m, .imin h d a b m,
      .and h d a b m, .shl h d a b m, .popc h d a m, .fadd h d a b f, .fmul h d a b f, .ffma h d a b f, .fabs h d a f], ends i) ∧
    (v.begun.guard h = 0 → ∀ i ∈ [Instr.trap h z, .icinv h, .jwait h d, .pcmin h d a, .ld h d a none ty, .st h d a none ty,
      .cpy h d a b .sz4 t false, .bulk h a none t, .waitc h n n n n, .waitt h t n, .arrwait h d a b, .bararr h z, .sracq h d t,
      .tzero h t, .dlaunch h d a, .claimend h a, .itemend h, .cref h d a t], ends i)) ∧
  (∀ i r, s.waves.get s.cur = some v → (s.begun s.cur v).wctx v.begun = some x → i.toRaw = some r →
    decodeFault (x.decode v.begun) r = some c →
    exec i s = .next ((s.begun s.cur v).deliver s.cur v.begun x c v.begun.run 0 0)) ∧
  (∀ n rest e, let s0 := { s with agenda := rest }
    s.agenda = .issue n :: rest → s.waves.get n = some v → s.wctx v = some x → v.due n = none → x.pcOk v.pc = true →
    s0.canIssue v x = true → s0.atBreakpoint v x = false → decodeBytes (s0.fetch v x) = .error e →
    step s = .next (s.recorded
      ((({ s0 with cur := n }.holdText v x).begun n v).deliver n v.begun x (s0.decodeCause v x e) v.run 0 0))) ∧
  (∀ n rest, let s0 := { s with agenda := rest }
    s.agenda = .issue n :: rest → s.waves.get n = some v → s.wctx v = some x → v.due n = none → x.pcOk v.pc = false →
    s0.canIssue v x = true → step s = .next (s.recorded (s0.deliver n v x .pcRange v.run 0 0))) ∧
  (∀ k, decodeFault k (Raw.ofWord 0) = none) ∧ (∀ k, decodeFault k (Raw.ofWord (BitVec.allOnes 96)) = some .illegalOp)

/-- R94, R97, R98, R120: the registers that entering a handler writes at either depth, the default policy's choice, and the
return to the depth before. Bank 1 of the lanes that enter depth 1 stands at `%hvec` (log entry 11, DEDUCED). -/
def Obligations.HandlerEntryAndReturn : Prop := ∀ (w q : Wave) (x : WCtx) (e : Event) (epc : Word) (next : Nat → Word) (cand : Mask),
  let same := fun (u : Wave) => u.live = w.live ∧ u.park = w.park ∧ u.k = w.k ∧ u.hvec = w.hvec ∧ u.accn = w.accn ∧
    ∀ l r, (u.lane l).reg r = (w.lane l).reg r ∧ (u.lane l).q = (w.lane l).q ∧ (u.lane l).age = (w.lane l).age
  (w.enterEvent x e epc next = some q → same q ∧
    (w.hvec ≠ 0xffffffff →
      x.pcOk w.hvec = true ∧ q.hdep = w.hdep + 1 ∧ q.hcause = e.code ∧ q.evtm = e.lanes w ∧ q.run = e.lanes w ∧ q.pc = w.hvec ∧
      (w.hdep = 0 → q.hrun1 = w.run ∧ q.hpc1 = epc ∧ q.handlerIssues = 0 ∧ q.hrun2 = w.hrun2 ∧ q.hpc2 = w.hpc2 ∧
        ∀ l, l < w.lanes.length → (q.lane l).lpc0 = (if w.run.getLsbD l then next l else (w.lane l).lpc0) ∧
          (q.lane l).lpc1 = if (e.lanes w).getLsbD l then w.hvec else (w.lane l).lpc1) ∧
      (w.hdep = 1 → q.hrun2 = w.run ∧ q.hpc2 = epc ∧ q.keepMask = w.evtm ∧ q.keepCause = w.hcause ∧ q.hrun1 = w.hrun1 ∧
        q.hpc1 = w.hpc1 ∧ q.handlerIssues = w.handlerIssues ∧
        ∀ l, l < w.lanes.length → (q.lane l).lpc0 = (w.lane l).lpc0 ∧
          (q.lane l).lpc1 = if w.run.getLsbD l then next l else (w.lane l).lpc1)) ∧
    (w.hvec = 0xffffffff → q.hdep = 0 ∧ q.hcause = 0 ∧ q.evtm = 0 ∧ x.pcOk q.pc = true ∧ q.run ≠ 0 ∧
      ∀ l, l < 64 → (q.run.getLsbD l = true ↔ w.runnable.getLsbD l = true ∧ (q.lane l).lpc0 = q.pc) ∧
        (w.runnable.getLsbD l = true → q.pc.toNat ≤ (q.lane l).lpc0.toNat))) ∧
  (w.handlerReturn x cand = some q → same q ∧ x.pcOk q.pc = true ∧ q.hdep = w.hdep - 1 ∧
    (∃ l, lowestLane cand = some l ∧ q.pc = w.lpc (w.hdep - 1).toNat l) ∧
    (∀ l, l < 64 → (q.run.getLsbD l = true ↔ cand.getLsbD l = true ∧ w.lpc (w.hdep - 1).toNat l = q.pc)) ∧
    (w.hdep = 1 → q.evtm = 0 ∧ q.hcause = 0) ∧ (w.hdep = 2 → q.evtm = w.keepMask ∧ q.hcause = w.keepCause))

/-- R98: the default policy leaves the wave with the RUN, PC, depth and cause that a handler would that takes the event,
chooses by PCMIN over its candidates and returns by HRET. Model's readings: log entry 11. -/
def Obligations.DefaultPolicyIsPcminThenHret : Prop := ∀ (w q d r : Wave) (x : WCtx) (e : Event) (epc : Word) (next : Nat → Word)
    (g : Mask) (pc : Word),
  w.hdep = 0 → w.hvec ≠ 0xffffffff → w.enterEvent x e epc next = some q →
  { w with hvec := 0xffffffff }.enterEvent x e epc next = some d →
  q.lowestGroup 0 q.candidates = some (g, pc) → q.handlerReturn x (g &&& q.candidates) = some r →
  r.run = d.run ∧ r.pc = d.pc ∧ r.hdep = d.hdep ∧ r.hcause = d.hcause ∧ r.evtm = d.evtm ∧ r.live = d.live ∧ r.park = d.park ∧
    ∀ l, (r.lane l).lpc0 = (d.lane l).lpc0

/-- R103, R105, R106, R396: what an instruction that retires counts: the accession count; at depth 0 the ages and the serial
quantum, in handler mode the handler-issue count; and which lane is the oldest-starved. -/
def Obligations.RetirementCountsAndAges : Prop := ∀ (w v : Wave) (l : Nat),
  let u := w.retire v
  let old := (v.lane l).age
  u.accn = v.accn + 1 ∧ (u.lane l).regs = (v.lane l).regs ∧ (u.lane l).q = (v.lane l).q ∧ u.run = v.run ∧ u.live = v.live ∧
  (w.hdep ≠ 0 → u.lanes = v.lanes ∧ u.handlerIssues = v.handlerIssues + 1 ∧ u.quantum = v.quantum) ∧
  (w.hdep = 0 → u.handlerIssues = v.handlerIssues ∧ (w.serial = true → u.quantum = v.quantum - 1) ∧
    (w.serial = false → u.quantum = v.quantum) ∧ (l < v.lanes.length →
      (w.live.getLsbD l = false → (u.lane l).age = old) ∧
      (w.live.getLsbD l = true → w.run.getLsbD l = true ∨ w.park.getLsbD l = true → (u.lane l).age = 0) ∧
      (w.live.getLsbD l = true → w.run.getLsbD l = false → w.park.getLsbD l = false →
        (u.lane l).age = if old = 0xffffffff then old else old + 1))) ∧
  (∀ c, w.oldest = some c → w.runnable.getLsbD c = true ∧ w.age c = w.sgage ∧
    ∀ k, k < 64 → w.runnable.getLsbD k = true → (w.age k).toNat ≤ (w.age c).toNat ∧ (w.age k = w.age c → c ≤ k)) ∧
  (w.runnable ≠ 0 → ∃ c, w.oldest = some c)

/-! ### Values -/

/-- R70: without saturate every element of an integer result is the exact value's low bits, with saturate the value brought
to the nearest end of the range; b32 with saturate raises ILLEGAL_MOD. -/
def Obligations.IntegersWrapOrSaturate : Prop := ∀ (m : IMod) (f : Int → Int → Int → Int) (a b d : DWord) (k : Nat),
  let n := elemBits m.ty
  let s := signedType m.ty
  let at_ := fun (v : DWord) => (elems m.ty v)[k]?
  (∀ p q r, at_ a = some p → at_ b = some q → at_ d = some r → ∃ e, at_ (intOp m f a b d) = some e ∧
    minInt s n ≤ e ∧ e ≤ maxInt s n ∧
    (m.sat = false → e % (2 ^ n : Nat) = f p q r % (2 ^ n : Nat)) ∧
    (m.sat = true → (f p q r < minInt s n → e = minInt s n) ∧ (maxInt s n < f p q r → e = maxInt s n) ∧
      (minInt s n ≤ f p q r → f p q r ≤ maxInt s n → e = f p q r))) ∧
  intOp ⟨.s32, false⟩ (fun p q _ => p + q) 0x7ffffff0 0x20 0 = 0x80000010 ∧
  intOp ⟨.s32, true⟩ (fun p q _ => p + q) 0x7ffffff0 0x20 0 = 0x7fffffff ∧
  ∀ (c : DecodeCtx) (r : Raw) (o : Op), Op.ofCode r.op = some o → (o.levelTwo = true → c.levelTwo = true) →
    o ∈ [Op.iadd, .isub, .imul, .imulh, .imad, .imin, .imax, .iabs, .ineg, .and, .or, .xor, .andn, .not, .shl, .shr, .sar, .rotl,
      .popc, .clz, .brev, .bfe, .bfi] →
    operandsOk c o r = true → mHi r.m = IType.b32.code → r.m.getLsbD 1 = true → decodeFault c r = some .illegalMod

/-- R152: FABS clears and FNEG inverts the sign bit of each element and no other bit, of a NaN too; nothing is flagged. -/
def Obligations.FloatSignBits : Prop := ∀ (h : Head) (d a : Operand) (m : FMod),
  let signs : DWord := match m.ty with
    | .f32 => 0x80000000
    | .f64 => 0x8000000000000000
    | .f16 | .bf16 => 0x8000
    | .f16x2 | .bf16x2 => 0x80008000
  let width : DWord := match m.ty with
    | .f64 => BitVec.allOnes 64
    | .f16 | .bf16 => 0xffff
    | _ => 0xffffffff
  Puts (.fabs h d a m) h d (fWide m.ty) (fun w x l => fRead w x m.ty l a &&& width &&& ~~~signs) ∧
  Puts (.fneg h d a m) h d (fWide m.ty) (fun w x l => (fRead w x m.ty l a ^^^ signs) &&& width)

/-- R48, R54, R56, R139: what a result is that is written to D: lane registers of the guarded lanes, a pair for a wide
one, or once a uniform register whose upper half a narrow one clears; predicates of the guarded lanes; PLOGT's table. -/
def Obligations.GuardedWrites : Prop := ∀ (w : Wave) (h : Head) (g : Mask) (wide : Bool) (f : Nat → DWord) (p : Nat → Bool)
    (n : BitVec 8) (k : BitVec 6) (l r : Nat),
  ((w.guard h).getLsbD l = true ↔ l < 64 ∧ w.run.getLsbD l = true ∧
    ((h.pred = 0 ∨ (w.lane l).q.getLsbD h.pred.toNat = true) ↔ h.neg = false)) ∧
  (let u := w.writeD (.lane n) wide g f
   (l < w.lanes.length → n.toNat + 1 < (w.lane l).regs.length → g.getLsbD l = true →
    (u.lane l).reg n.toNat = (f l).setWidth 32 ∧ (wide = true → (u.lane l).reg (n.toNat + 1) = (f l).extractLsb' 32 32) ∧
      (wide = false → (u.lane l).reg (n.toNat + 1) = (w.lane l).reg (n.toNat + 1))) ∧
   (g.getLsbD l = false ∨ r ≠ n.toNat ∧ r ≠ n.toNat + 1 → (u.lane l).reg r = (w.lane l).reg r)) ∧
  (let u := w.writeD (.uni k) wide g f
   (g = 0 → u = w) ∧ (∀ c, lowestLane g = some c → k.toNat < w.k.length →
     u.uni k.toNat = if wide then f c else ((f c).setWidth 32).setWidth 64) ∧ (r ≠ k.toNat → u.uni r = w.uni r)) ∧
  (∀ b, b < 8 → l < w.lanes.length → let u := w.writePred b g p
    (u.lane l).q.getLsbD b = (if g.getLsbD l then p l else (w.lane l).q.getLsbD b) ∧
      (r < 8 → r ≠ b → (u.lane l).q.getLsbD r = (w.lane l).q.getLsbD r)) ∧
  ∀ x y z : Bool, (0x88 : BitVec 8).getLsbD (x.toNat + 2 * y.toNat + 4 * z.toNat) = (x && y) ∧
    (0x55 : BitVec 8).getLsbD (x.toNat + 2 * y.toNat + 4 * z.toNat) = !x
end

