-- ==== Sys2Proof/Laws/Tables.lean ====
section
/-! SUPPORT. What reading a table gives after each way of changing it. No law asks that the keys rise. -/

namespace Sys2Proof

@[simp] theorem Tbl.get_nil {α : Type} (n : Nat) : Tbl.get ([] : Tbl α) n = none := rfl

/-- An entry that was put is read. -/
@[simp] theorem Tbl.get_put {α : Type} (t : Tbl α) (n : Nat) (x : α) : Tbl.get (t.put n x) n = some x := by
  induction t with
  | nil => simp [Tbl.put, Tbl.get]
  | cons e t ih =>
    obtain ⟨k, v⟩ := e
    simp only [Tbl.put]
    split
    · simp [Tbl.get]
    · split
      · simp [Tbl.get]
      · simp [Tbl.get, *]

/-- Every other entry stays. -/
theorem Tbl.get_put_ne {α : Type} (t : Tbl α) {n m : Nat} (x : α) (h : m ≠ n) : Tbl.get (t.put n x) m = Tbl.get t m := by
  induction t with
  | nil => simp [Tbl.put, Tbl.get, Ne.symm h]
  | cons e t ih =>
    obtain ⟨k, v⟩ := e
    simp only [Tbl.put]
    split
    · next hk => subst hk; simp [Tbl.get, Ne.symm h]
    · split
      · simp [Tbl.get, Ne.symm h]
      · simp only [Tbl.get, ih]

/-- An entry that was changed. -/
@[simp] theorem Tbl.get_upd {α : Type} (t : Tbl α) (n : Nat) (f : α → α) :
    Tbl.get (t.upd n f) n = (Tbl.get t n).map f := by
  induction t with
  | nil => rfl
  | cons e t ih =>
    obtain ⟨k, v⟩ := e
    by_cases hk : k = n
    · simp [Tbl.upd, Tbl.get, hk]
    · simp only [Tbl.upd, List.map_cons, hk, if_false, Tbl.get] at ih ⊢; exact ih

/-- Every other entry stays. -/
theorem Tbl.get_upd_ne {α : Type} (t : Tbl α) {n m : Nat} (f : α → α) (h : m ≠ n) :
    Tbl.get (t.upd n f) m = Tbl.get t m := by
  induction t with
  | nil => rfl
  | cons e t ih =>
    obtain ⟨k, v⟩ := e
    by_cases hk : k = n
    · subst hk; simp only [Tbl.upd, List.map_cons, if_true, Tbl.get, Ne.symm h, if_false] at ih ⊢; exact ih
    · simp only [Tbl.upd, List.map_cons, hk, if_false, Tbl.get] at ih ⊢; rw [ih]

/-- An entry that was deleted. -/
@[simp] theorem Tbl.get_del {α : Type} (t : Tbl α) (n : Nat) : Tbl.get (t.del n) n = none := by
  induction t with
  | nil => rfl
  | cons e t ih =>
    obtain ⟨k, v⟩ := e
    by_cases hk : k = n
    · simp only [Tbl.del, List.filter_cons, hk, ne_eq, not_true, decide_false] at ih ⊢; exact ih
    · simp only [Tbl.del, List.filter_cons, hk, ne_eq, not_false_eq_true, decide_true, if_true, Tbl.get, if_false] at ih ⊢; exact ih

/-- Every other entry stays. -/
theorem Tbl.get_del_ne {α : Type} (t : Tbl α) {n m : Nat} (h : m ≠ n) : Tbl.get (t.del n) m = Tbl.get t m := by
  induction t with
  | nil => rfl
  | cons e t ih =>
    obtain ⟨k, v⟩ := e
    by_cases hk : k = n
    · subst hk
      simp only [Tbl.del, List.filter_cons, ne_eq, not_true, decide_false, Tbl.get, Ne.symm h, if_false] at ih ⊢; exact ih
    · simp only [Tbl.del, List.filter_cons, hk, ne_eq, not_false_eq_true, decide_true, if_true, Tbl.get] at ih ⊢; rw [ih]

/-- A change of every entry that keeps the keys. -/
theorem Tbl.get_map {α β : Type} (t : Tbl α) (f : Nat → α → β) (n : Nat) :
    Tbl.get (t.map fun (e : Nat × α) => (e.1, f e.1 e.2)) n = (Tbl.get t n).map (f n) := by
  induction t with
  | nil => rfl
  | cons e t ih =>
    obtain ⟨k, v⟩ := e
    by_cases hk : k = n
    · simp [Tbl.get, hk]
    · simp only [List.map_cons, Tbl.get, hk, if_false]; exact ih

/-- What is read stands in the table. -/
theorem Tbl.mem_of_get {α : Type} {t : Tbl α} {n : Nat} {x : α} (h : Tbl.get t n = some x) : (n, x) ∈ t := by
  induction t with
  | nil => simp [Tbl.get] at h
  | cons e t ih =>
    obtain ⟨k, v⟩ := e
    simp only [Tbl.get] at h
    split at h
    · next hk => simp_all
    · exact List.mem_cons_of_mem _ (ih h)

end Sys2Proof
end

