-- ==== Sys2Proof/Laws/State.lean ====
section
/-! SUPPORT. What each update of a record of the state leaves of every other field, and what it makes of its own. -/

namespace Sys2Proof.Machine

/-! ### setWave -/

@[simp] theorem State.setWave_blocks (s : State) (n : Nat) (w : Wave) : (s.setWave n w).blocks = s.blocks := rfl
@[simp] theorem State.setWave_grids (s : State) (n : Nat) (w : Wave) : (s.setWave n w).grids = s.grids := rfl
@[simp] theorem State.setWave_kernels (s : State) (n : Nat) (w : Wave) : (s.setWave n w).kernels = s.kernels := rfl
@[simp] theorem State.setWave_contexts (s : State) (n : Nat) (w : Wave) : (s.setWave n w).contexts = s.contexts := rfl
@[simp] theorem State.setWave_dies (s : State) (n : Nat) (w : Wave) : (s.setWave n w).dies = s.dies := rfl
@[simp] theorem State.setWave_cores (s : State) (n : Nat) (w : Wave) : (s.setWave n w).cores = s.cores := rfl
@[simp] theorem State.setWave_cards (s : State) (n : Nat) (w : Wave) : (s.setWave n w).cards = s.cards := rfl
@[simp] theorem State.setWave_lds (s : State) (n : Nat) (w : Wave) : (s.setWave n w).lds = s.lds := rfl
@[simp] theorem State.setWave_ldsTags (s : State) (n : Nat) (w : Wave) : (s.setWave n w).ldsTags = s.ldsTags := rfl
@[simp] theorem State.setWave_hbm (s : State) (n : Nat) (w : Wave) : (s.setWave n w).hbm = s.hbm := rfl
@[simp] theorem State.setWave_hbmDom (s : State) (n : Nat) (w : Wave) : (s.setWave n w).hbmDom = s.hbmDom := rfl
@[simp] theorem State.setWave_hbmHeld (s : State) (n : Nat) (w : Wave) : (s.setWave n w).hbmHeld = s.hbmHeld := rfl
@[simp] theorem State.setWave_hbmClock (s : State) (n : Nat) (w : Wave) : (s.setWave n w).hbmClock = s.hbmClock := rfl
@[simp] theorem State.setWave_domains (s : State) (n : Nat) (w : Wave) : (s.setWave n w).domains = s.domains := rfl
@[simp] theorem State.setWave_regions (s : State) (n : Nat) (w : Wave) : (s.setWave n w).regions = s.regions := rfl
@[simp] theorem State.setWave_cascades (s : State) (n : Nat) (w : Wave) : (s.setWave n w).cascades = s.cascades := rfl
@[simp] theorem State.setWave_invalidations (s : State) (n : Nat) (w : Wave) : (s.setWave n w).invalidations = s.invalidations := rfl
@[simp] theorem State.setWave_seqs (s : State) (n : Nat) (w : Wave) : (s.setWave n w).seqs = s.seqs := rfl
@[simp] theorem State.setWave_queues (s : State) (n : Nat) (w : Wave) : (s.setWave n w).queues = s.queues := rfl
@[simp] theorem State.setWave_pifo (s : State) (n : Nat) (w : Wave) : (s.setWave n w).pifo = s.pifo := rfl
@[simp] theorem State.setWave_rankPrograms (s : State) (n : Nat) (w : Wave) : (s.setWave n w).rankPrograms = s.rankPrograms := rfl
@[simp] theorem State.setWave_threads (s : State) (n : Nat) (w : Wave) : (s.setWave n w).threads = s.threads := rfl
@[simp] theorem State.setWave_frozen (s : State) (n : Nat) (w : Wave) : (s.setWave n w).frozen = s.frozen := rfl
@[simp] theorem State.setWave_taking (s : State) (n : Nat) (w : Wave) : (s.setWave n w).taking = s.taking := rfl
@[simp] theorem State.setWave_stopAsks (s : State) (n : Nat) (w : Wave) : (s.setWave n w).stopAsks = s.stopAsks := rfl
@[simp] theorem State.setWave_restarts (s : State) (n : Nat) (w : Wave) : (s.setWave n w).restarts = s.restarts := rfl
@[simp] theorem State.setWave_rotation (s : State) (n : Nat) (w : Wave) : (s.setWave n w).rotation = s.rotation := rfl
@[simp] theorem State.setWave_coopWaiting (s : State) (n : Nat) (w : Wave) : (s.setWave n w).coopWaiting = s.coopWaiting := rfl
@[simp] theorem State.setWave_coopTold (s : State) (n : Nat) (w : Wave) : (s.setWave n w).coopTold = s.coopTold := rfl
@[simp] theorem State.setWave_nextGrid (s : State) (n : Nat) (w : Wave) : (s.setWave n w).nextGrid = s.nextGrid := rfl
@[simp] theorem State.setWave_nextSerial (s : State) (n : Nat) (w : Wave) : (s.setWave n w).nextSerial = s.nextSerial := rfl
@[simp] theorem State.setWave_nextHandle (s : State) (n : Nat) (w : Wave) : (s.setWave n w).nextHandle = s.nextHandle := rfl
@[simp] theorem State.setWave_nextTrace (s : State) (n : Nat) (w : Wave) : (s.setWave n w).nextTrace = s.nextTrace := rfl
@[simp] theorem State.setWave_nextKey (s : State) (n : Nat) (w : Wave) : (s.setWave n w).nextKey = s.nextKey := rfl
@[simp] theorem State.setWave_links (s : State) (n : Nat) (w : Wave) : (s.setWave n w).links = s.links := rfl
@[simp] theorem State.setWave_deviceNo (s : State) (n : Nat) (w : Wave) : (s.setWave n w).deviceNo = s.deviceNo := rfl
@[simp] theorem State.setWave_exports (s : State) (n : Nat) (w : Wave) : (s.setWave n w).exports = s.exports := rfl
@[simp] theorem State.setWave_groups (s : State) (n : Nat) (w : Wave) : (s.setWave n w).groups = s.groups := rfl
@[simp] theorem State.setWave_staging (s : State) (n : Nat) (w : Wave) : (s.setWave n w).staging = s.staging := rfl
@[simp] theorem State.setWave_archive (s : State) (n : Nat) (w : Wave) : (s.setWave n w).archive = s.archive := rfl
@[simp] theorem State.setWave_archiveNext (s : State) (n : Nat) (w : Wave) : (s.setWave n w).archiveNext = s.archiveNext := rfl
@[simp] theorem State.setWave_lifetime (s : State) (n : Nat) (w : Wave) : (s.setWave n w).lifetime = s.lifetime := rfl
@[simp] theorem State.setWave_startRec (s : State) (n : Nat) (w : Wave) : (s.setWave n w).startRec = s.startRec := rfl
@[simp] theorem State.setWave_islands (s : State) (n : Nat) (w : Wave) : (s.setWave n w).islands = s.islands := rfl
@[simp] theorem State.setWave_powerLimit (s : State) (n : Nat) (w : Wave) : (s.setWave n w).powerLimit = s.powerLimit := rfl
@[simp] theorem State.setWave_errors (s : State) (n : Nat) (w : Wave) : (s.setWave n w).errors = s.errors := rfl
@[simp] theorem State.setWave_readError (s : State) (n : Nat) (w : Wave) : (s.setWave n w).readError = s.readError := rfl
@[simp] theorem State.setWave_ldsWrote (s : State) (n : Nat) (w : Wave) : (s.setWave n w).ldsWrote = s.ldsWrote := rfl
@[simp] theorem State.setWave_reports (s : State) (n : Nat) (w : Wave) : (s.setWave n w).reports = s.reports := rfl
@[simp] theorem State.setWave_agenda (s : State) (n : Nat) (w : Wave) : (s.setWave n w).agenda = s.agenda := rfl
@[simp] theorem State.setWave_cur (s : State) (n : Nat) (w : Wave) : (s.setWave n w).cur = s.cur := rfl
@[simp] theorem State.setWave_fresh (s : State) (n : Nat) (w : Wave) : (s.setWave n w).fresh = s.fresh := rfl

/-! ### updWave -/

@[simp] theorem State.updWave_blocks (s : State) (n : Nat) (f : Wave → Wave) : (s.updWave n f).blocks = s.blocks := rfl
@[simp] theorem State.updWave_grids (s : State) (n : Nat) (f : Wave → Wave) : (s.updWave n f).grids = s.grids := rfl
@[simp] theorem State.updWave_kernels (s : State) (n : Nat) (f : Wave → Wave) : (s.updWave n f).kernels = s.kernels := rfl
@[simp] theorem State.updWave_contexts (s : State) (n : Nat) (f : Wave → Wave) : (s.updWave n f).contexts = s.contexts := rfl
@[simp] theorem State.updWave_dies (s : State) (n : Nat) (f : Wave → Wave) : (s.updWave n f).dies = s.dies := rfl
@[simp] theorem State.updWave_cores (s : State) (n : Nat) (f : Wave → Wave) : (s.updWave n f).cores = s.cores := rfl
@[simp] theorem State.updWave_cards (s : State) (n : Nat) (f : Wave → Wave) : (s.updWave n f).cards = s.cards := rfl
@[simp] theorem State.updWave_lds (s : State) (n : Nat) (f : Wave → Wave) : (s.updWave n f).lds = s.lds := rfl
@[simp] theorem State.updWave_ldsTags (s : State) (n : Nat) (f : Wave → Wave) : (s.updWave n f).ldsTags = s.ldsTags := rfl
@[simp] theorem State.updWave_hbm (s : State) (n : Nat) (f : Wave → Wave) : (s.updWave n f).hbm = s.hbm := rfl
@[simp] theorem State.updWave_hbmDom (s : State) (n : Nat) (f : Wave → Wave) : (s.updWave n f).hbmDom = s.hbmDom := rfl
@[simp] theorem State.updWave_hbmHeld (s : State) (n : Nat) (f : Wave → Wave) : (s.updWave n f).hbmHeld = s.hbmHeld := rfl
@[simp] theorem State.updWave_hbmClock (s : State) (n : Nat) (f : Wave → Wave) : (s.updWave n f).hbmClock = s.hbmClock := rfl
@[simp] theorem State.updWave_domains (s : State) (n : Nat) (f : Wave → Wave) : (s.updWave n f).domains = s.domains := rfl
@[simp] theorem State.updWave_regions (s : State) (n : Nat) (f : Wave → Wave) : (s.updWave n f).regions = s.regions := rfl
@[simp] theorem State.updWave_cascades (s : State) (n : Nat) (f : Wave → Wave) : (s.updWave n f).cascades = s.cascades := rfl
@[simp] theorem State.updWave_invalidations (s : State) (n : Nat) (f : Wave → Wave) : (s.updWave n f).invalidations = s.invalidations := rfl
@[simp] theorem State.updWave_seqs (s : State) (n : Nat) (f : Wave → Wave) : (s.updWave n f).seqs = s.seqs := rfl
@[simp] theorem State.updWave_queues (s : State) (n : Nat) (f : Wave → Wave) : (s.updWave n f).queues = s.queues := rfl
@[simp] theorem State.updWave_pifo (s : State) (n : Nat) (f : Wave → Wave) : (s.updWave n f).pifo = s.pifo := rfl
@[simp] theorem State.updWave_rankPrograms (s : State) (n : Nat) (f : Wave → Wave) : (s.updWave n f).rankPrograms = s.rankPrograms := rfl
@[simp] theorem State.updWave_threads (s : State) (n : Nat) (f : Wave → Wave) : (s.updWave n f).threads = s.threads := rfl
@[simp] theorem State.updWave_frozen (s : State) (n : Nat) (f : Wave → Wave) : (s.updWave n f).frozen = s.frozen := rfl
@[simp] theorem State.updWave_taking (s : State) (n : Nat) (f : Wave → Wave) : (s.updWave n f).taking = s.taking := rfl
@[simp] theorem State.updWave_stopAsks (s : State) (n : Nat) (f : Wave → Wave) : (s.updWave n f).stopAsks = s.stopAsks := rfl
@[simp] theorem State.updWave_restarts (s : State) (n : Nat) (f : Wave → Wave) : (s.updWave n f).restarts = s.restarts := rfl
@[simp] theorem State.updWave_rotation (s : State) (n : Nat) (f : Wave → Wave) : (s.updWave n f).rotation = s.rotation := rfl
@[simp] theorem State.updWave_coopWaiting (s : State) (n : Nat) (f : Wave → Wave) : (s.updWave n f).coopWaiting = s.coopWaiting := rfl
@[simp] theorem State.updWave_coopTold (s : State) (n : Nat) (f : Wave → Wave) : (s.updWave n f).coopTold = s.coopTold := rfl
@[simp] theorem State.updWave_nextGrid (s : State) (n : Nat) (f : Wave → Wave) : (s.updWave n f).nextGrid = s.nextGrid := rfl
@[simp] theorem State.updWave_nextSerial (s : State) (n : Nat) (f : Wave → Wave) : (s.updWave n f).nextSerial = s.nextSerial := rfl
@[simp] theorem State.updWave_nextHandle (s : State) (n : Nat) (f : Wave → Wave) : (s.updWave n f).nextHandle = s.nextHandle := rfl
@[simp] theorem State.updWave_nextTrace (s : State) (n : Nat) (f : Wave → Wave) : (s.updWave n f).nextTrace = s.nextTrace := rfl
@[simp] theorem State.updWave_nextKey (s : State) (n : Nat) (f : Wave → Wave) : (s.updWave n f).nextKey = s.nextKey := rfl
@[simp] theorem State.updWave_links (s : State) (n : Nat) (f : Wave → Wave) : (s.updWave n f).links = s.links := rfl
@[simp] theorem State.updWave_deviceNo (s : State) (n : Nat) (f : Wave → Wave) : (s.updWave n f).deviceNo = s.deviceNo := rfl
@[simp] theorem State.updWave_exports (s : State) (n : Nat) (f : Wave → Wave) : (s.updWave n f).exports = s.exports := rfl
@[simp] theorem State.updWave_groups (s : State) (n : Nat) (f : Wave → Wave) : (s.updWave n f).groups = s.groups := rfl
@[simp] theorem State.updWave_staging (s : State) (n : Nat) (f : Wave → Wave) : (s.updWave n f).staging = s.staging := rfl
@[simp] theorem State.updWave_archive (s : State) (n : Nat) (f : Wave → Wave) : (s.updWave n f).archive = s.archive := rfl
@[simp] theorem State.updWave_archiveNext (s : State) (n : Nat) (f : Wave → Wave) : (s.updWave n f).archiveNext = s.archiveNext := rfl
@[simp] theorem State.updWave_lifetime (s : State) (n : Nat) (f : Wave → Wave) : (s.updWave n f).lifetime = s.lifetime := rfl
@[simp] theorem State.updWave_startRec (s : State) (n : Nat) (f : Wave → Wave) : (s.updWave n f).startRec = s.startRec := rfl
@[simp] theorem State.updWave_islands (s : State) (n : Nat) (f : Wave → Wave) : (s.updWave n f).islands = s.islands := rfl
@[simp] theorem State.updWave_powerLimit (s : State) (n : Nat) (f : Wave → Wave) : (s.updWave n f).powerLimit = s.powerLimit := rfl
@[simp] theorem State.updWave_errors (s : State) (n : Nat) (f : Wave → Wave) : (s.updWave n f).errors = s.errors := rfl
@[simp] theorem State.updWave_readError (s : State) (n : Nat) (f : Wave → Wave) : (s.updWave n f).readError = s.readError := rfl
@[simp] theorem State.updWave_ldsWrote (s : State) (n : Nat) (f : Wave → Wave) : (s.updWave n f).ldsWrote = s.ldsWrote := rfl
@[simp] theorem State.updWave_reports (s : State) (n : Nat) (f : Wave → Wave) : (s.updWave n f).reports = s.reports := rfl
@[simp] theorem State.updWave_agenda (s : State) (n : Nat) (f : Wave → Wave) : (s.updWave n f).agenda = s.agenda := rfl
@[simp] theorem State.updWave_cur (s : State) (n : Nat) (f : Wave → Wave) : (s.updWave n f).cur = s.cur := rfl
@[simp] theorem State.updWave_fresh (s : State) (n : Nat) (f : Wave → Wave) : (s.updWave n f).fresh = s.fresh := rfl

/-! ### setBlock -/

@[simp] theorem State.setBlock_waves (s : State) (n : Nat) (b : Block) : (s.setBlock n b).waves = s.waves := rfl
@[simp] theorem State.setBlock_grids (s : State) (n : Nat) (b : Block) : (s.setBlock n b).grids = s.grids := rfl
@[simp] theorem State.setBlock_kernels (s : State) (n : Nat) (b : Block) : (s.setBlock n b).kernels = s.kernels := rfl
@[simp] theorem State.setBlock_contexts (s : State) (n : Nat) (b : Block) : (s.setBlock n b).contexts = s.contexts := rfl
@[simp] theorem State.setBlock_dies (s : State) (n : Nat) (b : Block) : (s.setBlock n b).dies = s.dies := rfl
@[simp] theorem State.setBlock_cores (s : State) (n : Nat) (b : Block) : (s.setBlock n b).cores = s.cores := rfl
@[simp] theorem State.setBlock_cards (s : State) (n : Nat) (b : Block) : (s.setBlock n b).cards = s.cards := rfl
@[simp] theorem State.setBlock_lds (s : State) (n : Nat) (b : Block) : (s.setBlock n b).lds = s.lds := rfl
@[simp] theorem State.setBlock_ldsTags (s : State) (n : Nat) (b : Block) : (s.setBlock n b).ldsTags = s.ldsTags := rfl
@[simp] theorem State.setBlock_hbm (s : State) (n : Nat) (b : Block) : (s.setBlock n b).hbm = s.hbm := rfl
@[simp] theorem State.setBlock_hbmDom (s : State) (n : Nat) (b : Block) : (s.setBlock n b).hbmDom = s.hbmDom := rfl
@[simp] theorem State.setBlock_hbmHeld (s : State) (n : Nat) (b : Block) : (s.setBlock n b).hbmHeld = s.hbmHeld := rfl
@[simp] theorem State.setBlock_hbmClock (s : State) (n : Nat) (b : Block) : (s.setBlock n b).hbmClock = s.hbmClock := rfl
@[simp] theorem State.setBlock_domains (s : State) (n : Nat) (b : Block) : (s.setBlock n b).domains = s.domains := rfl
@[simp] theorem State.setBlock_regions (s : State) (n : Nat) (b : Block) : (s.setBlock n b).regions = s.regions := rfl
@[simp] theorem State.setBlock_cascades (s : State) (n : Nat) (b : Block) : (s.setBlock n b).cascades = s.cascades := rfl
@[simp] theorem State.setBlock_invalidations (s : State) (n : Nat) (b : Block) : (s.setBlock n b).invalidations = s.invalidations := rfl
@[simp] theorem State.setBlock_seqs (s : State) (n : Nat) (b : Block) : (s.setBlock n b).seqs = s.seqs := rfl
@[simp] theorem State.setBlock_queues (s : State) (n : Nat) (b : Block) : (s.setBlock n b).queues = s.queues := rfl
@[simp] theorem State.setBlock_pifo (s : State) (n : Nat) (b : Block) : (s.setBlock n b).pifo = s.pifo := rfl
@[simp] theorem State.setBlock_rankPrograms (s : State) (n : Nat) (b : Block) : (s.setBlock n b).rankPrograms = s.rankPrograms := rfl
@[simp] theorem State.setBlock_threads (s : State) (n : Nat) (b : Block) : (s.setBlock n b).threads = s.threads := rfl
@[simp] theorem State.setBlock_frozen (s : State) (n : Nat) (b : Block) : (s.setBlock n b).frozen = s.frozen := rfl
@[simp] theorem State.setBlock_taking (s : State) (n : Nat) (b : Block) : (s.setBlock n b).taking = s.taking := rfl
@[simp] theorem State.setBlock_stopAsks (s : State) (n : Nat) (b : Block) : (s.setBlock n b).stopAsks = s.stopAsks := rfl
@[simp] theorem State.setBlock_restarts (s : State) (n : Nat) (b : Block) : (s.setBlock n b).restarts = s.restarts := rfl
@[simp] theorem State.setBlock_rotation (s : State) (n : Nat) (b : Block) : (s.setBlock n b).rotation = s.rotation := rfl
@[simp] theorem State.setBlock_coopWaiting (s : State) (n : Nat) (b : Block) : (s.setBlock n b).coopWaiting = s.coopWaiting := rfl
@[simp] theorem State.setBlock_coopTold (s : State) (n : Nat) (b : Block) : (s.setBlock n b).coopTold = s.coopTold := rfl
@[simp] theorem State.setBlock_nextGrid (s : State) (n : Nat) (b : Block) : (s.setBlock n b).nextGrid = s.nextGrid := rfl
@[simp] theorem State.setBlock_nextSerial (s : State) (n : Nat) (b : Block) : (s.setBlock n b).nextSerial = s.nextSerial := rfl
@[simp] theorem State.setBlock_nextHandle (s : State) (n : Nat) (b : Block) : (s.setBlock n b).nextHandle = s.nextHandle := rfl
@[simp] theorem State.setBlock_nextTrace (s : State) (n : Nat) (b : Block) : (s.setBlock n b).nextTrace = s.nextTrace := rfl
@[simp] theorem State.setBlock_nextKey (s : State) (n : Nat) (b : Block) : (s.setBlock n b).nextKey = s.nextKey := rfl
@[simp] theorem State.setBlock_links (s : State) (n : Nat) (b : Block) : (s.setBlock n b).links = s.links := rfl
@[simp] theorem State.setBlock_deviceNo (s : State) (n : Nat) (b : Block) : (s.setBlock n b).deviceNo = s.deviceNo := rfl
@[simp] theorem State.setBlock_exports (s : State) (n : Nat) (b : Block) : (s.setBlock n b).exports = s.exports := rfl
@[simp] theorem State.setBlock_groups (s : State) (n : Nat) (b : Block) : (s.setBlock n b).groups = s.groups := rfl
@[simp] theorem State.setBlock_staging (s : State) (n : Nat) (b : Block) : (s.setBlock n b).staging = s.staging := rfl
@[simp] theorem State.setBlock_archive (s : State) (n : Nat) (b : Block) : (s.setBlock n b).archive = s.archive := rfl
@[simp] theorem State.setBlock_archiveNext (s : State) (n : Nat) (b : Block) : (s.setBlock n b).archiveNext = s.archiveNext := rfl
@[simp] theorem State.setBlock_lifetime (s : State) (n : Nat) (b : Block) : (s.setBlock n b).lifetime = s.lifetime := rfl
@[simp] theorem State.setBlock_startRec (s : State) (n : Nat) (b : Block) : (s.setBlock n b).startRec = s.startRec := rfl
@[simp] theorem State.setBlock_islands (s : State) (n : Nat) (b : Block) : (s.setBlock n b).islands = s.islands := rfl
@[simp] theorem State.setBlock_powerLimit (s : State) (n : Nat) (b : Block) : (s.setBlock n b).powerLimit = s.powerLimit := rfl
@[simp] theorem State.setBlock_errors (s : State) (n : Nat) (b : Block) : (s.setBlock n b).errors = s.errors := rfl
@[simp] theorem State.setBlock_readError (s : State) (n : Nat) (b : Block) : (s.setBlock n b).readError = s.readError := rfl
@[simp] theorem State.setBlock_ldsWrote (s : State) (n : Nat) (b : Block) : (s.setBlock n b).ldsWrote = s.ldsWrote := rfl
@[simp] theorem State.setBlock_reports (s : State) (n : Nat) (b : Block) : (s.setBlock n b).reports = s.reports := rfl
@[simp] theorem State.setBlock_agenda (s : State) (n : Nat) (b : Block) : (s.setBlock n b).agenda = s.agenda := rfl
@[simp] theorem State.setBlock_cur (s : State) (n : Nat) (b : Block) : (s.setBlock n b).cur = s.cur := rfl
@[simp] theorem State.setBlock_fresh (s : State) (n : Nat) (b : Block) : (s.setBlock n b).fresh = s.fresh := rfl

/-! ### updBlock -/

@[simp] theorem State.updBlock_waves (s : State) (n : Nat) (f : Block → Block) : (s.updBlock n f).waves = s.waves := rfl
@[simp] theorem State.updBlock_grids (s : State) (n : Nat) (f : Block → Block) : (s.updBlock n f).grids = s.grids := rfl
@[simp] theorem State.updBlock_kernels (s : State) (n : Nat) (f : Block → Block) : (s.updBlock n f).kernels = s.kernels := rfl
@[simp] theorem State.updBlock_contexts (s : State) (n : Nat) (f : Block → Block) : (s.updBlock n f).contexts = s.contexts := rfl
@[simp] theorem State.updBlock_dies (s : State) (n : Nat) (f : Block → Block) : (s.updBlock n f).dies = s.dies := rfl
@[simp] theorem State.updBlock_cores (s : State) (n : Nat) (f : Block → Block) : (s.updBlock n f).cores = s.cores := rfl
@[simp] theorem State.updBlock_cards (s : State) (n : Nat) (f : Block → Block) : (s.updBlock n f).cards = s.cards := rfl
@[simp] theorem State.updBlock_lds (s : State) (n : Nat) (f : Block → Block) : (s.updBlock n f).lds = s.lds := rfl
@[simp] theorem State.updBlock_ldsTags (s : State) (n : Nat) (f : Block → Block) : (s.updBlock n f).ldsTags = s.ldsTags := rfl
@[simp] theorem State.updBlock_hbm (s : State) (n : Nat) (f : Block → Block) : (s.updBlock n f).hbm = s.hbm := rfl
@[simp] theorem State.updBlock_hbmDom (s : State) (n : Nat) (f : Block → Block) : (s.updBlock n f).hbmDom = s.hbmDom := rfl
@[simp] theorem State.updBlock_hbmHeld (s : State) (n : Nat) (f : Block → Block) : (s.updBlock n f).hbmHeld = s.hbmHeld := rfl
@[simp] theorem State.updBlock_hbmClock (s : State) (n : Nat) (f : Block → Block) : (s.updBlock n f).hbmClock = s.hbmClock := rfl
@[simp] theorem State.updBlock_domains (s : State) (n : Nat) (f : Block → Block) : (s.updBlock n f).domains = s.domains := rfl
@[simp] theorem State.updBlock_regions (s : State) (n : Nat) (f : Block → Block) : (s.updBlock n f).regions = s.regions := rfl
@[simp] theorem State.updBlock_cascades (s : State) (n : Nat) (f : Block → Block) : (s.updBlock n f).cascades = s.cascades := rfl
@[simp] theorem State.updBlock_invalidations (s : State) (n : Nat) (f : Block → Block) : (s.updBlock n f).invalidations = s.invalidations := rfl
@[simp] theorem State.updBlock_seqs (s : State) (n : Nat) (f : Block → Block) : (s.updBlock n f).seqs = s.seqs := rfl
@[simp] theorem State.updBlock_queues (s : State) (n : Nat) (f : Block → Block) : (s.updBlock n f).queues = s.queues := rfl
@[simp] theorem State.updBlock_pifo (s : State) (n : Nat) (f : Block → Block) : (s.updBlock n f).pifo = s.pifo := rfl
@[simp] theorem State.updBlock_rankPrograms (s : State) (n : Nat) (f : Block → Block) : (s.updBlock n f).rankPrograms = s.rankPrograms := rfl
@[simp] theorem State.updBlock_threads (s : State) (n : Nat) (f : Block → Block) : (s.updBlock n f).threads = s.threads := rfl
@[simp] theorem State.updBlock_frozen (s : State) (n : Nat) (f : Block → Block) : (s.updBlock n f).frozen = s.frozen := rfl
@[simp] theorem State.updBlock_taking (s : State) (n : Nat) (f : Block → Block) : (s.updBlock n f).taking = s.taking := rfl
@[simp] theorem State.updBlock_stopAsks (s : State) (n : Nat) (f : Block → Block) : (s.updBlock n f).stopAsks = s.stopAsks := rfl
@[simp] theorem State.updBlock_restarts (s : State) (n : Nat) (f : Block → Block) : (s.updBlock n f).restarts = s.restarts := rfl
@[simp] theorem State.updBlock_rotation (s : State) (n : Nat) (f : Block → Block) : (s.updBlock n f).rotation = s.rotation := rfl
@[simp] theorem State.updBlock_coopWaiting (s : State) (n : Nat) (f : Block → Block) : (s.updBlock n f).coopWaiting = s.coopWaiting := rfl
@[simp] theorem State.updBlock_coopTold (s : State) (n : Nat) (f : Block → Block) : (s.updBlock n f).coopTold = s.coopTold := rfl
@[simp] theorem State.updBlock_nextGrid (s : State) (n : Nat) (f : Block → Block) : (s.updBlock n f).nextGrid = s.nextGrid := rfl
@[simp] theorem State.updBlock_nextSerial (s : State) (n : Nat) (f : Block → Block) : (s.updBlock n f).nextSerial = s.nextSerial := rfl
@[simp] theorem State.updBlock_nextHandle (s : State) (n : Nat) (f : Block → Block) : (s.updBlock n f).nextHandle = s.nextHandle := rfl
@[simp] theorem State.updBlock_nextTrace (s : State) (n : Nat) (f : Block → Block) : (s.updBlock n f).nextTrace = s.nextTrace := rfl
@[simp] theorem State.updBlock_nextKey (s : State) (n : Nat) (f : Block → Block) : (s.updBlock n f).nextKey = s.nextKey := rfl
@[simp] theorem State.updBlock_links (s : State) (n : Nat) (f : Block → Block) : (s.updBlock n f).links = s.links := rfl
@[simp] theorem State.updBlock_deviceNo (s : State) (n : Nat) (f : Block → Block) : (s.updBlock n f).deviceNo = s.deviceNo := rfl
@[simp] theorem State.updBlock_exports (s : State) (n : Nat) (f : Block → Block) : (s.updBlock n f).exports = s.exports := rfl
@[simp] theorem State.updBlock_groups (s : State) (n : Nat) (f : Block → Block) : (s.updBlock n f).groups = s.groups := rfl
@[simp] theorem State.updBlock_staging (s : State) (n : Nat) (f : Block → Block) : (s.updBlock n f).staging = s.staging := rfl
@[simp] theorem State.updBlock_archive (s : State) (n : Nat) (f : Block → Block) : (s.updBlock n f).archive = s.archive := rfl
@[simp] theorem State.updBlock_archiveNext (s : State) (n : Nat) (f : Block → Block) : (s.updBlock n f).archiveNext = s.archiveNext := rfl
@[simp] theorem State.updBlock_lifetime (s : State) (n : Nat) (f : Block → Block) : (s.updBlock n f).lifetime = s.lifetime := rfl
@[simp] theorem State.updBlock_startRec (s : State) (n : Nat) (f : Block → Block) : (s.updBlock n f).startRec = s.startRec := rfl
@[simp] theorem State.updBlock_islands (s : State) (n : Nat) (f : Block → Block) : (s.updBlock n f).islands = s.islands := rfl
@[simp] theorem State.updBlock_powerLimit (s : State) (n : Nat) (f : Block → Block) : (s.updBlock n f).powerLimit = s.powerLimit := rfl
@[simp] theorem State.updBlock_errors (s : State) (n : Nat) (f : Block → Block) : (s.updBlock n f).errors = s.errors := rfl
@[simp] theorem State.updBlock_readError (s : State) (n : Nat) (f : Block → Block) : (s.updBlock n f).readError = s.readError := rfl
@[simp] theorem State.updBlock_ldsWrote (s : State) (n : Nat) (f : Block → Block) : (s.updBlock n f).ldsWrote = s.ldsWrote := rfl
@[simp] theorem State.updBlock_reports (s : State) (n : Nat) (f : Block → Block) : (s.updBlock n f).reports = s.reports := rfl
@[simp] theorem State.updBlock_agenda (s : State) (n : Nat) (f : Block → Block) : (s.updBlock n f).agenda = s.agenda := rfl
@[simp] theorem State.updBlock_cur (s : State) (n : Nat) (f : Block → Block) : (s.updBlock n f).cur = s.cur := rfl
@[simp] theorem State.updBlock_fresh (s : State) (n : Nat) (f : Block → Block) : (s.updBlock n f).fresh = s.fresh := rfl

/-! ### setGrid -/

@[simp] theorem State.setGrid_waves (s : State) (n : Nat) (g : Grid) : (s.setGrid n g).waves = s.waves := rfl
@[simp] theorem State.setGrid_blocks (s : State) (n : Nat) (g : Grid) : (s.setGrid n g).blocks = s.blocks := rfl
@[simp] theorem State.setGrid_kernels (s : State) (n : Nat) (g : Grid) : (s.setGrid n g).kernels = s.kernels := rfl
@[simp] theorem State.setGrid_contexts (s : State) (n : Nat) (g : Grid) : (s.setGrid n g).contexts = s.contexts := rfl
@[simp] theorem State.setGrid_dies (s : State) (n : Nat) (g : Grid) : (s.setGrid n g).dies = s.dies := rfl
@[simp] theorem State.setGrid_cores (s : State) (n : Nat) (g : Grid) : (s.setGrid n g).cores = s.cores := rfl
@[simp] theorem State.setGrid_cards (s : State) (n : Nat) (g : Grid) : (s.setGrid n g).cards = s.cards := rfl
@[simp] theorem State.setGrid_lds (s : State) (n : Nat) (g : Grid) : (s.setGrid n g).lds = s.lds := rfl
@[simp] theorem State.setGrid_ldsTags (s : State) (n : Nat) (g : Grid) : (s.setGrid n g).ldsTags = s.ldsTags := rfl
@[simp] theorem State.setGrid_hbm (s : State) (n : Nat) (g : Grid) : (s.setGrid n g).hbm = s.hbm := rfl
@[simp] theorem State.setGrid_hbmDom (s : State) (n : Nat) (g : Grid) : (s.setGrid n g).hbmDom = s.hbmDom := rfl
@[simp] theorem State.setGrid_hbmHeld (s : State) (n : Nat) (g : Grid) : (s.setGrid n g).hbmHeld = s.hbmHeld := rfl
@[simp] theorem State.setGrid_hbmClock (s : State) (n : Nat) (g : Grid) : (s.setGrid n g).hbmClock = s.hbmClock := rfl
@[simp] theorem State.setGrid_domains (s : State) (n : Nat) (g : Grid) : (s.setGrid n g).domains = s.domains := rfl
@[simp] theorem State.setGrid_regions (s : State) (n : Nat) (g : Grid) : (s.setGrid n g).regions = s.regions := rfl
@[simp] theorem State.setGrid_cascades (s : State) (n : Nat) (g : Grid) : (s.setGrid n g).cascades = s.cascades := rfl
@[simp] theorem State.setGrid_invalidations (s : State) (n : Nat) (g : Grid) : (s.setGrid n g).invalidations = s.invalidations := rfl
@[simp] theorem State.setGrid_seqs (s : State) (n : Nat) (g : Grid) : (s.setGrid n g).seqs = s.seqs := rfl
@[simp] theorem State.setGrid_queues (s : State) (n : Nat) (g : Grid) : (s.setGrid n g).queues = s.queues := rfl
@[simp] theorem State.setGrid_pifo (s : State) (n : Nat) (g : Grid) : (s.setGrid n g).pifo = s.pifo := rfl
@[simp] theorem State.setGrid_rankPrograms (s : State) (n : Nat) (g : Grid) : (s.setGrid n g).rankPrograms = s.rankPrograms := rfl
@[simp] theorem State.setGrid_threads (s : State) (n : Nat) (g : Grid) : (s.setGrid n g).threads = s.threads := rfl
@[simp] theorem State.setGrid_frozen (s : State) (n : Nat) (g : Grid) : (s.setGrid n g).frozen = s.frozen := rfl
@[simp] theorem State.setGrid_taking (s : State) (n : Nat) (g : Grid) : (s.setGrid n g).taking = s.taking := rfl
@[simp] theorem State.setGrid_stopAsks (s : State) (n : Nat) (g : Grid) : (s.setGrid n g).stopAsks = s.stopAsks := rfl
@[simp] theorem State.setGrid_restarts (s : State) (n : Nat) (g : Grid) : (s.setGrid n g).restarts = s.restarts := rfl
@[simp] theorem State.setGrid_rotation (s : State) (n : Nat) (g : Grid) : (s.setGrid n g).rotation = s.rotation := rfl
@[simp] theorem State.setGrid_coopWaiting (s : State) (n : Nat) (g : Grid) : (s.setGrid n g).coopWaiting = s.coopWaiting := rfl
@[simp] theorem State.setGrid_coopTold (s : State) (n : Nat) (g : Grid) : (s.setGrid n g).coopTold = s.coopTold := rfl
@[simp] theorem State.setGrid_nextGrid (s : State) (n : Nat) (g : Grid) : (s.setGrid n g).nextGrid = s.nextGrid := rfl
@[simp] theorem State.setGrid_nextSerial (s : State) (n : Nat) (g : Grid) : (s.setGrid n g).nextSerial = s.nextSerial := rfl
@[simp] theorem State.setGrid_nextHandle (s : State) (n : Nat) (g : Grid) : (s.setGrid n g).nextHandle = s.nextHandle := rfl
@[simp] theorem State.setGrid_nextTrace (s : State) (n : Nat) (g : Grid) : (s.setGrid n g).nextTrace = s.nextTrace := rfl
@[simp] theorem State.setGrid_nextKey (s : State) (n : Nat) (g : Grid) : (s.setGrid n g).nextKey = s.nextKey := rfl
@[simp] theorem State.setGrid_links (s : State) (n : Nat) (g : Grid) : (s.setGrid n g).links = s.links := rfl
@[simp] theorem State.setGrid_deviceNo (s : State) (n : Nat) (g : Grid) : (s.setGrid n g).deviceNo = s.deviceNo := rfl
@[simp] theorem State.setGrid_exports (s : State) (n : Nat) (g : Grid) : (s.setGrid n g).exports = s.exports := rfl
@[simp] theorem State.setGrid_groups (s : State) (n : Nat) (g : Grid) : (s.setGrid n g).groups = s.groups := rfl
@[simp] theorem State.setGrid_staging (s : State) (n : Nat) (g : Grid) : (s.setGrid n g).staging = s.staging := rfl
@[simp] theorem State.setGrid_archive (s : State) (n : Nat) (g : Grid) : (s.setGrid n g).archive = s.archive := rfl
@[simp] theorem State.setGrid_archiveNext (s : State) (n : Nat) (g : Grid) : (s.setGrid n g).archiveNext = s.archiveNext := rfl
@[simp] theorem State.setGrid_lifetime (s : State) (n : Nat) (g : Grid) : (s.setGrid n g).lifetime = s.lifetime := rfl
@[simp] theorem State.setGrid_startRec (s : State) (n : Nat) (g : Grid) : (s.setGrid n g).startRec = s.startRec := rfl
@[simp] theorem State.setGrid_islands (s : State) (n : Nat) (g : Grid) : (s.setGrid n g).islands = s.islands := rfl
@[simp] theorem State.setGrid_powerLimit (s : State) (n : Nat) (g : Grid) : (s.setGrid n g).powerLimit = s.powerLimit := rfl
@[simp] theorem State.setGrid_errors (s : State) (n : Nat) (g : Grid) : (s.setGrid n g).errors = s.errors := rfl
@[simp] theorem State.setGrid_readError (s : State) (n : Nat) (g : Grid) : (s.setGrid n g).readError = s.readError := rfl
@[simp] theorem State.setGrid_ldsWrote (s : State) (n : Nat) (g : Grid) : (s.setGrid n g).ldsWrote = s.ldsWrote := rfl
@[simp] theorem State.setGrid_reports (s : State) (n : Nat) (g : Grid) : (s.setGrid n g).reports = s.reports := rfl
@[simp] theorem State.setGrid_agenda (s : State) (n : Nat) (g : Grid) : (s.setGrid n g).agenda = s.agenda := rfl
@[simp] theorem State.setGrid_cur (s : State) (n : Nat) (g : Grid) : (s.setGrid n g).cur = s.cur := rfl
@[simp] theorem State.setGrid_fresh (s : State) (n : Nat) (g : Grid) : (s.setGrid n g).fresh = s.fresh := rfl

/-! ### updGrid -/

@[simp] theorem State.updGrid_waves (s : State) (n : Nat) (f : Grid → Grid) : (s.updGrid n f).waves = s.waves := rfl
@[simp] theorem State.updGrid_blocks (s : State) (n : Nat) (f : Grid → Grid) : (s.updGrid n f).blocks = s.blocks := rfl
@[simp] theorem State.updGrid_kernels (s : State) (n : Nat) (f : Grid → Grid) : (s.updGrid n f).kernels = s.kernels := rfl
@[simp] theorem State.updGrid_contexts (s : State) (n : Nat) (f : Grid → Grid) : (s.updGrid n f).contexts = s.contexts := rfl
@[simp] theorem State.updGrid_dies (s : State) (n : Nat) (f : Grid → Grid) : (s.updGrid n f).dies = s.dies := rfl
@[simp] theorem State.updGrid_cores (s : State) (n : Nat) (f : Grid → Grid) : (s.updGrid n f).cores = s.cores := rfl
@[simp] theorem State.updGrid_cards (s : State) (n : Nat) (f : Grid → Grid) : (s.updGrid n f).cards = s.cards := rfl
@[simp] theorem State.updGrid_lds (s : State) (n : Nat) (f : Grid → Grid) : (s.updGrid n f).lds = s.lds := rfl
@[simp] theorem State.updGrid_ldsTags (s : State) (n : Nat) (f : Grid → Grid) : (s.updGrid n f).ldsTags = s.ldsTags := rfl
@[simp] theorem State.updGrid_hbm (s : State) (n : Nat) (f : Grid → Grid) : (s.updGrid n f).hbm = s.hbm := rfl
@[simp] theorem State.updGrid_hbmDom (s : State) (n : Nat) (f : Grid → Grid) : (s.updGrid n f).hbmDom = s.hbmDom := rfl
@[simp] theorem State.updGrid_hbmHeld (s : State) (n : Nat) (f : Grid → Grid) : (s.updGrid n f).hbmHeld = s.hbmHeld := rfl
@[simp] theorem State.updGrid_hbmClock (s : State) (n : Nat) (f : Grid → Grid) : (s.updGrid n f).hbmClock = s.hbmClock := rfl
@[simp] theorem State.updGrid_domains (s : State) (n : Nat) (f : Grid → Grid) : (s.updGrid n f).domains = s.domains := rfl
@[simp] theorem State.updGrid_regions (s : State) (n : Nat) (f : Grid → Grid) : (s.updGrid n f).regions = s.regions := rfl
@[simp] theorem State.updGrid_cascades (s : State) (n : Nat) (f : Grid → Grid) : (s.updGrid n f).cascades = s.cascades := rfl
@[simp] theorem State.updGrid_invalidations (s : State) (n : Nat) (f : Grid → Grid) : (s.updGrid n f).invalidations = s.invalidations := rfl
@[simp] theorem State.updGrid_seqs (s : State) (n : Nat) (f : Grid → Grid) : (s.updGrid n f).seqs = s.seqs := rfl
@[simp] theorem State.updGrid_queues (s : State) (n : Nat) (f : Grid → Grid) : (s.updGrid n f).queues = s.queues := rfl
@[simp] theorem State.updGrid_pifo (s : State) (n : Nat) (f : Grid → Grid) : (s.updGrid n f).pifo = s.pifo := rfl
@[simp] theorem State.updGrid_rankPrograms (s : State) (n : Nat) (f : Grid → Grid) : (s.updGrid n f).rankPrograms = s.rankPrograms := rfl
@[simp] theorem State.updGrid_threads (s : State) (n : Nat) (f : Grid → Grid) : (s.updGrid n f).threads = s.threads := rfl
@[simp] theorem State.updGrid_frozen (s : State) (n : Nat) (f : Grid → Grid) : (s.updGrid n f).frozen = s.frozen := rfl
@[simp] theorem State.updGrid_taking (s : State) (n : Nat) (f : Grid → Grid) : (s.updGrid n f).taking = s.taking := rfl
@[simp] theorem State.updGrid_stopAsks (s : State) (n : Nat) (f : Grid → Grid) : (s.updGrid n f).stopAsks = s.stopAsks := rfl
@[simp] theorem State.updGrid_restarts (s : State) (n : Nat) (f : Grid → Grid) : (s.updGrid n f).restarts = s.restarts := rfl
@[simp] theorem State.updGrid_rotation (s : State) (n : Nat) (f : Grid → Grid) : (s.updGrid n f).rotation = s.rotation := rfl
@[simp] theorem State.updGrid_coopWaiting (s : State) (n : Nat) (f : Grid → Grid) : (s.updGrid n f).coopWaiting = s.coopWaiting := rfl
@[simp] theorem State.updGrid_coopTold (s : State) (n : Nat) (f : Grid → Grid) : (s.updGrid n f).coopTold = s.coopTold := rfl
@[simp] theorem State.updGrid_nextGrid (s : State) (n : Nat) (f : Grid → Grid) : (s.updGrid n f).nextGrid = s.nextGrid := rfl
@[simp] theorem State.updGrid_nextSerial (s : State) (n : Nat) (f : Grid → Grid) : (s.updGrid n f).nextSerial = s.nextSerial := rfl
@[simp] theorem State.updGrid_nextHandle (s : State) (n : Nat) (f : Grid → Grid) : (s.updGrid n f).nextHandle = s.nextHandle := rfl
@[simp] theorem State.updGrid_nextTrace (s : State) (n : Nat) (f : Grid → Grid) : (s.updGrid n f).nextTrace = s.nextTrace := rfl
@[simp] theorem State.updGrid_nextKey (s : State) (n : Nat) (f : Grid → Grid) : (s.updGrid n f).nextKey = s.nextKey := rfl
@[simp] theorem State.updGrid_links (s : State) (n : Nat) (f : Grid → Grid) : (s.updGrid n f).links = s.links := rfl
@[simp] theorem State.updGrid_deviceNo (s : State) (n : Nat) (f : Grid → Grid) : (s.updGrid n f).deviceNo = s.deviceNo := rfl
@[simp] theorem State.updGrid_exports (s : State) (n : Nat) (f : Grid → Grid) : (s.updGrid n f).exports = s.exports := rfl
@[simp] theorem State.updGrid_groups (s : State) (n : Nat) (f : Grid → Grid) : (s.updGrid n f).groups = s.groups := rfl
@[simp] theorem State.updGrid_staging (s : State) (n : Nat) (f : Grid → Grid) : (s.updGrid n f).staging = s.staging := rfl
@[simp] theorem State.updGrid_archive (s : State) (n : Nat) (f : Grid → Grid) : (s.updGrid n f).archive = s.archive := rfl
@[simp] theorem State.updGrid_archiveNext (s : State) (n : Nat) (f : Grid → Grid) : (s.updGrid n f).archiveNext = s.archiveNext := rfl
@[simp] theorem State.updGrid_lifetime (s : State) (n : Nat) (f : Grid → Grid) : (s.updGrid n f).lifetime = s.lifetime := rfl
@[simp] theorem State.updGrid_startRec (s : State) (n : Nat) (f : Grid → Grid) : (s.updGrid n f).startRec = s.startRec := rfl
@[simp] theorem State.updGrid_islands (s : State) (n : Nat) (f : Grid → Grid) : (s.updGrid n f).islands = s.islands := rfl
@[simp] theorem State.updGrid_powerLimit (s : State) (n : Nat) (f : Grid → Grid) : (s.updGrid n f).powerLimit = s.powerLimit := rfl
@[simp] theorem State.updGrid_errors (s : State) (n : Nat) (f : Grid → Grid) : (s.updGrid n f).errors = s.errors := rfl
@[simp] theorem State.updGrid_readError (s : State) (n : Nat) (f : Grid → Grid) : (s.updGrid n f).readError = s.readError := rfl
@[simp] theorem State.updGrid_ldsWrote (s : State) (n : Nat) (f : Grid → Grid) : (s.updGrid n f).ldsWrote = s.ldsWrote := rfl
@[simp] theorem State.updGrid_reports (s : State) (n : Nat) (f : Grid → Grid) : (s.updGrid n f).reports = s.reports := rfl
@[simp] theorem State.updGrid_agenda (s : State) (n : Nat) (f : Grid → Grid) : (s.updGrid n f).agenda = s.agenda := rfl
@[simp] theorem State.updGrid_cur (s : State) (n : Nat) (f : Grid → Grid) : (s.updGrid n f).cur = s.cur := rfl
@[simp] theorem State.updGrid_fresh (s : State) (n : Nat) (f : Grid → Grid) : (s.updGrid n f).fresh = s.fresh := rfl

/-! ### setCtx -/

@[simp] theorem State.setCtx_waves (s : State) (n : Nat) (c : Context) : (s.setCtx n c).waves = s.waves := rfl
@[simp] theorem State.setCtx_blocks (s : State) (n : Nat) (c : Context) : (s.setCtx n c).blocks = s.blocks := rfl
@[simp] theorem State.setCtx_grids (s : State) (n : Nat) (c : Context) : (s.setCtx n c).grids = s.grids := rfl
@[simp] theorem State.setCtx_kernels (s : State) (n : Nat) (c : Context) : (s.setCtx n c).kernels = s.kernels := rfl
@[simp] theorem State.setCtx_dies (s : State) (n : Nat) (c : Context) : (s.setCtx n c).dies = s.dies := rfl
@[simp] theorem State.setCtx_cores (s : State) (n : Nat) (c : Context) : (s.setCtx n c).cores = s.cores := rfl
@[simp] theorem State.setCtx_cards (s : State) (n : Nat) (c : Context) : (s.setCtx n c).cards = s.cards := rfl
@[simp] theorem State.setCtx_lds (s : State) (n : Nat) (c : Context) : (s.setCtx n c).lds = s.lds := rfl
@[simp] theorem State.setCtx_ldsTags (s : State) (n : Nat) (c : Context) : (s.setCtx n c).ldsTags = s.ldsTags := rfl
@[simp] theorem State.setCtx_hbm (s : State) (n : Nat) (c : Context) : (s.setCtx n c).hbm = s.hbm := rfl
@[simp] theorem State.setCtx_hbmDom (s : State) (n : Nat) (c : Context) : (s.setCtx n c).hbmDom = s.hbmDom := rfl
@[simp] theorem State.setCtx_hbmHeld (s : State) (n : Nat) (c : Context) : (s.setCtx n c).hbmHeld = s.hbmHeld := rfl
@[simp] theorem State.setCtx_hbmClock (s : State) (n : Nat) (c : Context) : (s.setCtx n c).hbmClock = s.hbmClock := rfl
@[simp] theorem State.setCtx_domains (s : State) (n : Nat) (c : Context) : (s.setCtx n c).domains = s.domains := rfl
@[simp] theorem State.setCtx_regions (s : State) (n : Nat) (c : Context) : (s.setCtx n c).regions = s.regions := rfl
@[simp] theorem State.setCtx_cascades (s : State) (n : Nat) (c : Context) : (s.setCtx n c).cascades = s.cascades := rfl
@[simp] theorem State.setCtx_invalidations (s : State) (n : Nat) (c : Context) : (s.setCtx n c).invalidations = s.invalidations := rfl
@[simp] theorem State.setCtx_seqs (s : State) (n : Nat) (c : Context) : (s.setCtx n c).seqs = s.seqs := rfl
@[simp] theorem State.setCtx_queues (s : State) (n : Nat) (c : Context) : (s.setCtx n c).queues = s.queues := rfl
@[simp] theorem State.setCtx_pifo (s : State) (n : Nat) (c : Context) : (s.setCtx n c).pifo = s.pifo := rfl
@[simp] theorem State.setCtx_rankPrograms (s : State) (n : Nat) (c : Context) : (s.setCtx n c).rankPrograms = s.rankPrograms := rfl
@[simp] theorem State.setCtx_threads (s : State) (n : Nat) (c : Context) : (s.setCtx n c).threads = s.threads := rfl
@[simp] theorem State.setCtx_frozen (s : State) (n : Nat) (c : Context) : (s.setCtx n c).frozen = s.frozen := rfl
@[simp] theorem State.setCtx_taking (s : State) (n : Nat) (c : Context) : (s.setCtx n c).taking = s.taking := rfl
@[simp] theorem State.setCtx_stopAsks (s : State) (n : Nat) (c : Context) : (s.setCtx n c).stopAsks = s.stopAsks := rfl
@[simp] theorem State.setCtx_restarts (s : State) (n : Nat) (c : Context) : (s.setCtx n c).restarts = s.restarts := rfl
@[simp] theorem State.setCtx_rotation (s : State) (n : Nat) (c : Context) : (s.setCtx n c).rotation = s.rotation := rfl
@[simp] theorem State.setCtx_coopWaiting (s : State) (n : Nat) (c : Context) : (s.setCtx n c).coopWaiting = s.coopWaiting := rfl
@[simp] theorem State.setCtx_coopTold (s : State) (n : Nat) (c : Context) : (s.setCtx n c).coopTold = s.coopTold := rfl
@[simp] theorem State.setCtx_nextGrid (s : State) (n : Nat) (c : Context) : (s.setCtx n c).nextGrid = s.nextGrid := rfl
@[simp] theorem State.setCtx_nextSerial (s : State) (n : Nat) (c : Context) : (s.setCtx n c).nextSerial = s.nextSerial := rfl
@[simp] theorem State.setCtx_nextHandle (s : State) (n : Nat) (c : Context) : (s.setCtx n c).nextHandle = s.nextHandle := rfl
@[simp] theorem State.setCtx_nextTrace (s : State) (n : Nat) (c : Context) : (s.setCtx n c).nextTrace = s.nextTrace := rfl
@[simp] theorem State.setCtx_nextKey (s : State) (n : Nat) (c : Context) : (s.setCtx n c).nextKey = s.nextKey := rfl
@[simp] theorem State.setCtx_links (s : State) (n : Nat) (c : Context) : (s.setCtx n c).links = s.links := rfl
@[simp] theorem State.setCtx_deviceNo (s : State) (n : Nat) (c : Context) : (s.setCtx n c).deviceNo = s.deviceNo := rfl
@[simp] theorem State.setCtx_exports (s : State) (n : Nat) (c : Context) : (s.setCtx n c).exports = s.exports := rfl
@[simp] theorem State.setCtx_groups (s : State) (n : Nat) (c : Context) : (s.setCtx n c).groups = s.groups := rfl
@[simp] theorem State.setCtx_staging (s : State) (n : Nat) (c : Context) : (s.setCtx n c).staging = s.staging := rfl
@[simp] theorem State.setCtx_archive (s : State) (n : Nat) (c : Context) : (s.setCtx n c).archive = s.archive := rfl
@[simp] theorem State.setCtx_archiveNext (s : State) (n : Nat) (c : Context) : (s.setCtx n c).archiveNext = s.archiveNext := rfl
@[simp] theorem State.setCtx_lifetime (s : State) (n : Nat) (c : Context) : (s.setCtx n c).lifetime = s.lifetime := rfl
@[simp] theorem State.setCtx_startRec (s : State) (n : Nat) (c : Context) : (s.setCtx n c).startRec = s.startRec := rfl
@[simp] theorem State.setCtx_islands (s : State) (n : Nat) (c : Context) : (s.setCtx n c).islands = s.islands := rfl
@[simp] theorem State.setCtx_powerLimit (s : State) (n : Nat) (c : Context) : (s.setCtx n c).powerLimit = s.powerLimit := rfl
@[simp] theorem State.setCtx_errors (s : State) (n : Nat) (c : Context) : (s.setCtx n c).errors = s.errors := rfl
@[simp] theorem State.setCtx_readError (s : State) (n : Nat) (c : Context) : (s.setCtx n c).readError = s.readError := rfl
@[simp] theorem State.setCtx_ldsWrote (s : State) (n : Nat) (c : Context) : (s.setCtx n c).ldsWrote = s.ldsWrote := rfl
@[simp] theorem State.setCtx_reports (s : State) (n : Nat) (c : Context) : (s.setCtx n c).reports = s.reports := rfl
@[simp] theorem State.setCtx_agenda (s : State) (n : Nat) (c : Context) : (s.setCtx n c).agenda = s.agenda := rfl
@[simp] theorem State.setCtx_cur (s : State) (n : Nat) (c : Context) : (s.setCtx n c).cur = s.cur := rfl
@[simp] theorem State.setCtx_fresh (s : State) (n : Nat) (c : Context) : (s.setCtx n c).fresh = s.fresh := rfl

/-! ### updCtx -/

@[simp] theorem State.updCtx_waves (s : State) (n : Nat) (f : Context → Context) : (s.updCtx n f).waves = s.waves := rfl
@[simp] theorem State.updCtx_blocks (s : State) (n : Nat) (f : Context → Context) : (s.updCtx n f).blocks = s.blocks := rfl
@[simp] theorem State.updCtx_grids (s : State) (n : Nat) (f : Context → Context) : (s.updCtx n f).grids = s.grids := rfl
@[simp] theorem State.updCtx_kernels (s : State) (n : Nat) (f : Context → Context) : (s.updCtx n f).kernels = s.kernels := rfl
@[simp] theorem State.updCtx_dies (s : State) (n : Nat) (f : Context → Context) : (s.updCtx n f).dies = s.dies := rfl
@[simp] theorem State.updCtx_cores (s : State) (n : Nat) (f : Context → Context) : (s.updCtx n f).cores = s.cores := rfl
@[simp] theorem State.updCtx_cards (s : State) (n : Nat) (f : Context → Context) : (s.updCtx n f).cards = s.cards := rfl
@[simp] theorem State.updCtx_lds (s : State) (n : Nat) (f : Context → Context) : (s.updCtx n f).lds = s.lds := rfl
@[simp] theorem State.updCtx_ldsTags (s : State) (n : Nat) (f : Context → Context) : (s.updCtx n f).ldsTags = s.ldsTags := rfl
@[simp] theorem State.updCtx_hbm (s : State) (n : Nat) (f : Context → Context) : (s.updCtx n f).hbm = s.hbm := rfl
@[simp] theorem State.updCtx_hbmDom (s : State) (n : Nat) (f : Context → Context) : (s.updCtx n f).hbmDom = s.hbmDom := rfl
@[simp] theorem State.updCtx_hbmHeld (s : State) (n : Nat) (f : Context → Context) : (s.updCtx n f).hbmHeld = s.hbmHeld := rfl
@[simp] theorem State.updCtx_hbmClock (s : State) (n : Nat) (f : Context → Context) : (s.updCtx n f).hbmClock = s.hbmClock := rfl
@[simp] theorem State.updCtx_domains (s : State) (n : Nat) (f : Context → Context) : (s.updCtx n f).domains = s.domains := rfl
@[simp] theorem State.updCtx_regions (s : State) (n : Nat) (f : Context → Context) : (s.updCtx n f).regions = s.regions := rfl
@[simp] theorem State.updCtx_cascades (s : State) (n : Nat) (f : Context → Context) : (s.updCtx n f).cascades = s.cascades := rfl
@[simp] theorem State.updCtx_invalidations (s : State) (n : Nat) (f : Context → Context) : (s.updCtx n f).invalidations = s.invalidations := rfl
@[simp] theorem State.updCtx_seqs (s : State) (n : Nat) (f : Context → Context) : (s.updCtx n f).seqs = s.seqs := rfl
@[simp] theorem State.updCtx_queues (s : State) (n : Nat) (f : Context → Context) : (s.updCtx n f).queues = s.queues := rfl
@[simp] theorem State.updCtx_pifo (s : State) (n : Nat) (f : Context → Context) : (s.updCtx n f).pifo = s.pifo := rfl
@[simp] theorem State.updCtx_rankPrograms (s : State) (n : Nat) (f : Context → Context) : (s.updCtx n f).rankPrograms = s.rankPrograms := rfl
@[simp] theorem State.updCtx_threads (s : State) (n : Nat) (f : Context → Context) : (s.updCtx n f).threads = s.threads := rfl
@[simp] theorem State.updCtx_frozen (s : State) (n : Nat) (f : Context → Context) : (s.updCtx n f).frozen = s.frozen := rfl
@[simp] theorem State.updCtx_taking (s : State) (n : Nat) (f : Context → Context) : (s.updCtx n f).taking = s.taking := rfl
@[simp] theorem State.updCtx_stopAsks (s : State) (n : Nat) (f : Context → Context) : (s.updCtx n f).stopAsks = s.stopAsks := rfl
@[simp] theorem State.updCtx_restarts (s : State) (n : Nat) (f : Context → Context) : (s.updCtx n f).restarts = s.restarts := rfl
@[simp] theorem State.updCtx_rotation (s : State) (n : Nat) (f : Context → Context) : (s.updCtx n f).rotation = s.rotation := rfl
@[simp] theorem State.updCtx_coopWaiting (s : State) (n : Nat) (f : Context → Context) : (s.updCtx n f).coopWaiting = s.coopWaiting := rfl
@[simp] theorem State.updCtx_coopTold (s : State) (n : Nat) (f : Context → Context) : (s.updCtx n f).coopTold = s.coopTold := rfl
@[simp] theorem State.updCtx_nextGrid (s : State) (n : Nat) (f : Context → Context) : (s.updCtx n f).nextGrid = s.nextGrid := rfl
@[simp] theorem State.updCtx_nextSerial (s : State) (n : Nat) (f : Context → Context) : (s.updCtx n f).nextSerial = s.nextSerial := rfl
@[simp] theorem State.updCtx_nextHandle (s : State) (n : Nat) (f : Context → Context) : (s.updCtx n f).nextHandle = s.nextHandle := rfl
@[simp] theorem State.updCtx_nextTrace (s : State) (n : Nat) (f : Context → Context) : (s.updCtx n f).nextTrace = s.nextTrace := rfl
@[simp] theorem State.updCtx_nextKey (s : State) (n : Nat) (f : Context → Context) : (s.updCtx n f).nextKey = s.nextKey := rfl
@[simp] theorem State.updCtx_links (s : State) (n : Nat) (f : Context → Context) : (s.updCtx n f).links = s.links := rfl
@[simp] theorem State.updCtx_deviceNo (s : State) (n : Nat) (f : Context → Context) : (s.updCtx n f).deviceNo = s.deviceNo := rfl
@[simp] theorem State.updCtx_exports (s : State) (n : Nat) (f : Context → Context) : (s.updCtx n f).exports = s.exports := rfl
@[simp] theorem State.updCtx_groups (s : State) (n : Nat) (f : Context → Context) : (s.updCtx n f).groups = s.groups := rfl
@[simp] theorem State.updCtx_staging (s : State) (n : Nat) (f : Context → Context) : (s.updCtx n f).staging = s.staging := rfl
@[simp] theorem State.updCtx_archive (s : State) (n : Nat) (f : Context → Context) : (s.updCtx n f).archive = s.archive := rfl
@[simp] theorem State.updCtx_archiveNext (s : State) (n : Nat) (f : Context → Context) : (s.updCtx n f).archiveNext = s.archiveNext := rfl
@[simp] theorem State.updCtx_lifetime (s : State) (n : Nat) (f : Context → Context) : (s.updCtx n f).lifetime = s.lifetime := rfl
@[simp] theorem State.updCtx_startRec (s : State) (n : Nat) (f : Context → Context) : (s.updCtx n f).startRec = s.startRec := rfl
@[simp] theorem State.updCtx_islands (s : State) (n : Nat) (f : Context → Context) : (s.updCtx n f).islands = s.islands := rfl
@[simp] theorem State.updCtx_powerLimit (s : State) (n : Nat) (f : Context → Context) : (s.updCtx n f).powerLimit = s.powerLimit := rfl
@[simp] theorem State.updCtx_errors (s : State) (n : Nat) (f : Context → Context) : (s.updCtx n f).errors = s.errors := rfl
@[simp] theorem State.updCtx_readError (s : State) (n : Nat) (f : Context → Context) : (s.updCtx n f).readError = s.readError := rfl
@[simp] theorem State.updCtx_ldsWrote (s : State) (n : Nat) (f : Context → Context) : (s.updCtx n f).ldsWrote = s.ldsWrote := rfl
@[simp] theorem State.updCtx_reports (s : State) (n : Nat) (f : Context → Context) : (s.updCtx n f).reports = s.reports := rfl
@[simp] theorem State.updCtx_agenda (s : State) (n : Nat) (f : Context → Context) : (s.updCtx n f).agenda = s.agenda := rfl
@[simp] theorem State.updCtx_cur (s : State) (n : Nat) (f : Context → Context) : (s.updCtx n f).cur = s.cur := rfl
@[simp] theorem State.updCtx_fresh (s : State) (n : Nat) (f : Context → Context) : (s.updCtx n f).fresh = s.fresh := rfl

/-! ### setDie -/

@[simp] theorem State.setDie_waves (s : State) (n : Nat) (d : Die) : (s.setDie n d).waves = s.waves := rfl
@[simp] theorem State.setDie_blocks (s : State) (n : Nat) (d : Die) : (s.setDie n d).blocks = s.blocks := rfl
@[simp] theorem State.setDie_grids (s : State) (n : Nat) (d : Die) : (s.setDie n d).grids = s.grids := rfl
@[simp] theorem State.setDie_kernels (s : State) (n : Nat) (d : Die) : (s.setDie n d).kernels = s.kernels := rfl
@[simp] theorem State.setDie_contexts (s : State) (n : Nat) (d : Die) : (s.setDie n d).contexts = s.contexts := rfl
@[simp] theorem State.setDie_cores (s : State) (n : Nat) (d : Die) : (s.setDie n d).cores = s.cores := rfl
@[simp] theorem State.setDie_cards (s : State) (n : Nat) (d : Die) : (s.setDie n d).cards = s.cards := rfl
@[simp] theorem State.setDie_lds (s : State) (n : Nat) (d : Die) : (s.setDie n d).lds = s.lds := rfl
@[simp] theorem State.setDie_ldsTags (s : State) (n : Nat) (d : Die) : (s.setDie n d).ldsTags = s.ldsTags := rfl
@[simp] theorem State.setDie_hbm (s : State) (n : Nat) (d : Die) : (s.setDie n d).hbm = s.hbm := rfl
@[simp] theorem State.setDie_hbmDom (s : State) (n : Nat) (d : Die) : (s.setDie n d).hbmDom = s.hbmDom := rfl
@[simp] theorem State.setDie_hbmHeld (s : State) (n : Nat) (d : Die) : (s.setDie n d).hbmHeld = s.hbmHeld := rfl
@[simp] theorem State.setDie_hbmClock (s : State) (n : Nat) (d : Die) : (s.setDie n d).hbmClock = s.hbmClock := rfl
@[simp] theorem State.setDie_domains (s : State) (n : Nat) (d : Die) : (s.setDie n d).domains = s.domains := rfl
@[simp] theorem State.setDie_regions (s : State) (n : Nat) (d : Die) : (s.setDie n d).regions = s.regions := rfl
@[simp] theorem State.setDie_cascades (s : State) (n : Nat) (d : Die) : (s.setDie n d).cascades = s.cascades := rfl
@[simp] theorem State.setDie_invalidations (s : State) (n : Nat) (d : Die) : (s.setDie n d).invalidations = s.invalidations := rfl
@[simp] theorem State.setDie_seqs (s : State) (n : Nat) (d : Die) : (s.setDie n d).seqs = s.seqs := rfl
@[simp] theorem State.setDie_queues (s : State) (n : Nat) (d : Die) : (s.setDie n d).queues = s.queues := rfl
@[simp] theorem State.setDie_pifo (s : State) (n : Nat) (d : Die) : (s.setDie n d).pifo = s.pifo := rfl
@[simp] theorem State.setDie_rankPrograms (s : State) (n : Nat) (d : Die) : (s.setDie n d).rankPrograms = s.rankPrograms := rfl
@[simp] theorem State.setDie_threads (s : State) (n : Nat) (d : Die) : (s.setDie n d).threads = s.threads := rfl
@[simp] theorem State.setDie_frozen (s : State) (n : Nat) (d : Die) : (s.setDie n d).frozen = s.frozen := rfl
@[simp] theorem State.setDie_taking (s : State) (n : Nat) (d : Die) : (s.setDie n d).taking = s.taking := rfl
@[simp] theorem State.setDie_stopAsks (s : State) (n : Nat) (d : Die) : (s.setDie n d).stopAsks = s.stopAsks := rfl
@[simp] theorem State.setDie_restarts (s : State) (n : Nat) (d : Die) : (s.setDie n d).restarts = s.restarts := rfl
@[simp] theorem State.setDie_rotation (s : State) (n : Nat) (d : Die) : (s.setDie n d).rotation = s.rotation := rfl
@[simp] theorem State.setDie_coopWaiting (s : State) (n : Nat) (d : Die) : (s.setDie n d).coopWaiting = s.coopWaiting := rfl
@[simp] theorem State.setDie_coopTold (s : State) (n : Nat) (d : Die) : (s.setDie n d).coopTold = s.coopTold := rfl
@[simp] theorem State.setDie_nextGrid (s : State) (n : Nat) (d : Die) : (s.setDie n d).nextGrid = s.nextGrid := rfl
@[simp] theorem State.setDie_nextSerial (s : State) (n : Nat) (d : Die) : (s.setDie n d).nextSerial = s.nextSerial := rfl
@[simp] theorem State.setDie_nextHandle (s : State) (n : Nat) (d : Die) : (s.setDie n d).nextHandle = s.nextHandle := rfl
@[simp] theorem State.setDie_nextTrace (s : State) (n : Nat) (d : Die) : (s.setDie n d).nextTrace = s.nextTrace := rfl
@[simp] theorem State.setDie_nextKey (s : State) (n : Nat) (d : Die) : (s.setDie n d).nextKey = s.nextKey := rfl
@[simp] theorem State.setDie_links (s : State) (n : Nat) (d : Die) : (s.setDie n d).links = s.links := rfl
@[simp] theorem State.setDie_deviceNo (s : State) (n : Nat) (d : Die) : (s.setDie n d).deviceNo = s.deviceNo := rfl
@[simp] theorem State.setDie_exports (s : State) (n : Nat) (d : Die) : (s.setDie n d).exports = s.exports := rfl
@[simp] theorem State.setDie_groups (s : State) (n : Nat) (d : Die) : (s.setDie n d).groups = s.groups := rfl
@[simp] theorem State.setDie_staging (s : State) (n : Nat) (d : Die) : (s.setDie n d).staging = s.staging := rfl
@[simp] theorem State.setDie_archive (s : State) (n : Nat) (d : Die) : (s.setDie n d).archive = s.archive := rfl
@[simp] theorem State.setDie_archiveNext (s : State) (n : Nat) (d : Die) : (s.setDie n d).archiveNext = s.archiveNext := rfl
@[simp] theorem State.setDie_lifetime (s : State) (n : Nat) (d : Die) : (s.setDie n d).lifetime = s.lifetime := rfl
@[simp] theorem State.setDie_startRec (s : State) (n : Nat) (d : Die) : (s.setDie n d).startRec = s.startRec := rfl
@[simp] theorem State.setDie_islands (s : State) (n : Nat) (d : Die) : (s.setDie n d).islands = s.islands := rfl
@[simp] theorem State.setDie_powerLimit (s : State) (n : Nat) (d : Die) : (s.setDie n d).powerLimit = s.powerLimit := rfl
@[simp] theorem State.setDie_errors (s : State) (n : Nat) (d : Die) : (s.setDie n d).errors = s.errors := rfl
@[simp] theorem State.setDie_readError (s : State) (n : Nat) (d : Die) : (s.setDie n d).readError = s.readError := rfl
@[simp] theorem State.setDie_ldsWrote (s : State) (n : Nat) (d : Die) : (s.setDie n d).ldsWrote = s.ldsWrote := rfl
@[simp] theorem State.setDie_reports (s : State) (n : Nat) (d : Die) : (s.setDie n d).reports = s.reports := rfl
@[simp] theorem State.setDie_agenda (s : State) (n : Nat) (d : Die) : (s.setDie n d).agenda = s.agenda := rfl
@[simp] theorem State.setDie_cur (s : State) (n : Nat) (d : Die) : (s.setDie n d).cur = s.cur := rfl
@[simp] theorem State.setDie_fresh (s : State) (n : Nat) (d : Die) : (s.setDie n d).fresh = s.fresh := rfl

/-! ### updDie -/

@[simp] theorem State.updDie_waves (s : State) (n : Nat) (f : Die → Die) : (s.updDie n f).waves = s.waves := rfl
@[simp] theorem State.updDie_blocks (s : State) (n : Nat) (f : Die → Die) : (s.updDie n f).blocks = s.blocks := rfl
@[simp] theorem State.updDie_grids (s : State) (n : Nat) (f : Die → Die) : (s.updDie n f).grids = s.grids := rfl
@[simp] theorem State.updDie_kernels (s : State) (n : Nat) (f : Die → Die) : (s.updDie n f).kernels = s.kernels := rfl
@[simp] theorem State.updDie_contexts (s : State) (n : Nat) (f : Die → Die) : (s.updDie n f).contexts = s.contexts := rfl
@[simp] theorem State.updDie_cores (s : State) (n : Nat) (f : Die → Die) : (s.updDie n f).cores = s.cores := rfl
@[simp] theorem State.updDie_cards (s : State) (n : Nat) (f : Die → Die) : (s.updDie n f).cards = s.cards := rfl
@[simp] theorem State.updDie_lds (s : State) (n : Nat) (f : Die → Die) : (s.updDie n f).lds = s.lds := rfl
@[simp] theorem State.updDie_ldsTags (s : State) (n : Nat) (f : Die → Die) : (s.updDie n f).ldsTags = s.ldsTags := rfl
@[simp] theorem State.updDie_hbm (s : State) (n : Nat) (f : Die → Die) : (s.updDie n f).hbm = s.hbm := rfl
@[simp] theorem State.updDie_hbmDom (s : State) (n : Nat) (f : Die → Die) : (s.updDie n f).hbmDom = s.hbmDom := rfl
@[simp] theorem State.updDie_hbmHeld (s : State) (n : Nat) (f : Die → Die) : (s.updDie n f).hbmHeld = s.hbmHeld := rfl
@[simp] theorem State.updDie_hbmClock (s : State) (n : Nat) (f : Die → Die) : (s.updDie n f).hbmClock = s.hbmClock := rfl
@[simp] theorem State.updDie_domains (s : State) (n : Nat) (f : Die → Die) : (s.updDie n f).domains = s.domains := rfl
@[simp] theorem State.updDie_regions (s : State) (n : Nat) (f : Die → Die) : (s.updDie n f).regions = s.regions := rfl
@[simp] theorem State.updDie_cascades (s : State) (n : Nat) (f : Die → Die) : (s.updDie n f).cascades = s.cascades := rfl
@[simp] theorem State.updDie_invalidations (s : State) (n : Nat) (f : Die → Die) : (s.updDie n f).invalidations = s.invalidations := rfl
@[simp] theorem State.updDie_seqs (s : State) (n : Nat) (f : Die → Die) : (s.updDie n f).seqs = s.seqs := rfl
@[simp] theorem State.updDie_queues (s : State) (n : Nat) (f : Die → Die) : (s.updDie n f).queues = s.queues := rfl
@[simp] theorem State.updDie_pifo (s : State) (n : Nat) (f : Die → Die) : (s.updDie n f).pifo = s.pifo := rfl
@[simp] theorem State.updDie_rankPrograms (s : State) (n : Nat) (f : Die → Die) : (s.updDie n f).rankPrograms = s.rankPrograms := rfl
@[simp] theorem State.updDie_threads (s : State) (n : Nat) (f : Die → Die) : (s.updDie n f).threads = s.threads := rfl
@[simp] theorem State.updDie_frozen (s : State) (n : Nat) (f : Die → Die) : (s.updDie n f).frozen = s.frozen := rfl
@[simp] theorem State.updDie_taking (s : State) (n : Nat) (f : Die → Die) : (s.updDie n f).taking = s.taking := rfl
@[simp] theorem State.updDie_stopAsks (s : State) (n : Nat) (f : Die → Die) : (s.updDie n f).stopAsks = s.stopAsks := rfl
@[simp] theorem State.updDie_restarts (s : State) (n : Nat) (f : Die → Die) : (s.updDie n f).restarts = s.restarts := rfl
@[simp] theorem State.updDie_rotation (s : State) (n : Nat) (f : Die → Die) : (s.updDie n f).rotation = s.rotation := rfl
@[simp] theorem State.updDie_coopWaiting (s : State) (n : Nat) (f : Die → Die) : (s.updDie n f).coopWaiting = s.coopWaiting := rfl
@[simp] theorem State.updDie_coopTold (s : State) (n : Nat) (f : Die → Die) : (s.updDie n f).coopTold = s.coopTold := rfl
@[simp] theorem State.updDie_nextGrid (s : State) (n : Nat) (f : Die → Die) : (s.updDie n f).nextGrid = s.nextGrid := rfl
@[simp] theorem State.updDie_nextSerial (s : State) (n : Nat) (f : Die → Die) : (s.updDie n f).nextSerial = s.nextSerial := rfl
@[simp] theorem State.updDie_nextHandle (s : State) (n : Nat) (f : Die → Die) : (s.updDie n f).nextHandle = s.nextHandle := rfl
@[simp] theorem State.updDie_nextTrace (s : State) (n : Nat) (f : Die → Die) : (s.updDie n f).nextTrace = s.nextTrace := rfl
@[simp] theorem State.updDie_nextKey (s : State) (n : Nat) (f : Die → Die) : (s.updDie n f).nextKey = s.nextKey := rfl
@[simp] theorem State.updDie_links (s : State) (n : Nat) (f : Die → Die) : (s.updDie n f).links = s.links := rfl
@[simp] theorem State.updDie_deviceNo (s : State) (n : Nat) (f : Die → Die) : (s.updDie n f).deviceNo = s.deviceNo := rfl
@[simp] theorem State.updDie_exports (s : State) (n : Nat) (f : Die → Die) : (s.updDie n f).exports = s.exports := rfl
@[simp] theorem State.updDie_groups (s : State) (n : Nat) (f : Die → Die) : (s.updDie n f).groups = s.groups := rfl
@[simp] theorem State.updDie_staging (s : State) (n : Nat) (f : Die → Die) : (s.updDie n f).staging = s.staging := rfl
@[simp] theorem State.updDie_archive (s : State) (n : Nat) (f : Die → Die) : (s.updDie n f).archive = s.archive := rfl
@[simp] theorem State.updDie_archiveNext (s : State) (n : Nat) (f : Die → Die) : (s.updDie n f).archiveNext = s.archiveNext := rfl
@[simp] theorem State.updDie_lifetime (s : State) (n : Nat) (f : Die → Die) : (s.updDie n f).lifetime = s.lifetime := rfl
@[simp] theorem State.updDie_startRec (s : State) (n : Nat) (f : Die → Die) : (s.updDie n f).startRec = s.startRec := rfl
@[simp] theorem State.updDie_islands (s : State) (n : Nat) (f : Die → Die) : (s.updDie n f).islands = s.islands := rfl
@[simp] theorem State.updDie_powerLimit (s : State) (n : Nat) (f : Die → Die) : (s.updDie n f).powerLimit = s.powerLimit := rfl
@[simp] theorem State.updDie_errors (s : State) (n : Nat) (f : Die → Die) : (s.updDie n f).errors = s.errors := rfl
@[simp] theorem State.updDie_readError (s : State) (n : Nat) (f : Die → Die) : (s.updDie n f).readError = s.readError := rfl
@[simp] theorem State.updDie_ldsWrote (s : State) (n : Nat) (f : Die → Die) : (s.updDie n f).ldsWrote = s.ldsWrote := rfl
@[simp] theorem State.updDie_reports (s : State) (n : Nat) (f : Die → Die) : (s.updDie n f).reports = s.reports := rfl
@[simp] theorem State.updDie_agenda (s : State) (n : Nat) (f : Die → Die) : (s.updDie n f).agenda = s.agenda := rfl
@[simp] theorem State.updDie_cur (s : State) (n : Nat) (f : Die → Die) : (s.updDie n f).cur = s.cur := rfl
@[simp] theorem State.updDie_fresh (s : State) (n : Nat) (f : Die → Die) : (s.updDie n f).fresh = s.fresh := rfl

/-! ### setCore -/

@[simp] theorem State.setCore_waves (s : State) (d c : Nat) (k : Core) : (s.setCore d c k).waves = s.waves := rfl
@[simp] theorem State.setCore_blocks (s : State) (d c : Nat) (k : Core) : (s.setCore d c k).blocks = s.blocks := rfl
@[simp] theorem State.setCore_grids (s : State) (d c : Nat) (k : Core) : (s.setCore d c k).grids = s.grids := rfl
@[simp] theorem State.setCore_kernels (s : State) (d c : Nat) (k : Core) : (s.setCore d c k).kernels = s.kernels := rfl
@[simp] theorem State.setCore_contexts (s : State) (d c : Nat) (k : Core) : (s.setCore d c k).contexts = s.contexts := rfl
@[simp] theorem State.setCore_dies (s : State) (d c : Nat) (k : Core) : (s.setCore d c k).dies = s.dies := rfl
@[simp] theorem State.setCore_cards (s : State) (d c : Nat) (k : Core) : (s.setCore d c k).cards = s.cards := rfl
@[simp] theorem State.setCore_lds (s : State) (d c : Nat) (k : Core) : (s.setCore d c k).lds = s.lds := rfl
@[simp] theorem State.setCore_ldsTags (s : State) (d c : Nat) (k : Core) : (s.setCore d c k).ldsTags = s.ldsTags := rfl
@[simp] theorem State.setCore_hbm (s : State) (d c : Nat) (k : Core) : (s.setCore d c k).hbm = s.hbm := rfl
@[simp] theorem State.setCore_hbmDom (s : State) (d c : Nat) (k : Core) : (s.setCore d c k).hbmDom = s.hbmDom := rfl
@[simp] theorem State.setCore_hbmHeld (s : State) (d c : Nat) (k : Core) : (s.setCore d c k).hbmHeld = s.hbmHeld := rfl
@[simp] theorem State.setCore_hbmClock (s : State) (d c : Nat) (k : Core) : (s.setCore d c k).hbmClock = s.hbmClock := rfl
@[simp] theorem State.setCore_domains (s : State) (d c : Nat) (k : Core) : (s.setCore d c k).domains = s.domains := rfl
@[simp] theorem State.setCore_regions (s : State) (d c : Nat) (k : Core) : (s.setCore d c k).regions = s.regions := rfl
@[simp] theorem State.setCore_cascades (s : State) (d c : Nat) (k : Core) : (s.setCore d c k).cascades = s.cascades := rfl
@[simp] theorem State.setCore_invalidations (s : State) (d c : Nat) (k : Core) : (s.setCore d c k).invalidations = s.invalidations := rfl
@[simp] theorem State.setCore_seqs (s : State) (d c : Nat) (k : Core) : (s.setCore d c k).seqs = s.seqs := rfl
@[simp] theorem State.setCore_queues (s : State) (d c : Nat) (k : Core) : (s.setCore d c k).queues = s.queues := rfl
@[simp] theorem State.setCore_pifo (s : State) (d c : Nat) (k : Core) : (s.setCore d c k).pifo = s.pifo := rfl
@[simp] theorem State.setCore_rankPrograms (s : State) (d c : Nat) (k : Core) : (s.setCore d c k).rankPrograms = s.rankPrograms := rfl
@[simp] theorem State.setCore_threads (s : State) (d c : Nat) (k : Core) : (s.setCore d c k).threads = s.threads := rfl
@[simp] theorem State.setCore_frozen (s : State) (d c : Nat) (k : Core) : (s.setCore d c k).frozen = s.frozen := rfl
@[simp] theorem State.setCore_taking (s : State) (d c : Nat) (k : Core) : (s.setCore d c k).taking = s.taking := rfl
@[simp] theorem State.setCore_stopAsks (s : State) (d c : Nat) (k : Core) : (s.setCore d c k).stopAsks = s.stopAsks := rfl
@[simp] theorem State.setCore_restarts (s : State) (d c : Nat) (k : Core) : (s.setCore d c k).restarts = s.restarts := rfl
@[simp] theorem State.setCore_rotation (s : State) (d c : Nat) (k : Core) : (s.setCore d c k).rotation = s.rotation := rfl
@[simp] theorem State.setCore_coopWaiting (s : State) (d c : Nat) (k : Core) : (s.setCore d c k).coopWaiting = s.coopWaiting := rfl
@[simp] theorem State.setCore_coopTold (s : State) (d c : Nat) (k : Core) : (s.setCore d c k).coopTold = s.coopTold := rfl
@[simp] theorem State.setCore_nextGrid (s : State) (d c : Nat) (k : Core) : (s.setCore d c k).nextGrid = s.nextGrid := rfl
@[simp] theorem State.setCore_nextSerial (s : State) (d c : Nat) (k : Core) : (s.setCore d c k).nextSerial = s.nextSerial := rfl
@[simp] theorem State.setCore_nextHandle (s : State) (d c : Nat) (k : Core) : (s.setCore d c k).nextHandle = s.nextHandle := rfl
@[simp] theorem State.setCore_nextTrace (s : State) (d c : Nat) (k : Core) : (s.setCore d c k).nextTrace = s.nextTrace := rfl
@[simp] theorem State.setCore_nextKey (s : State) (d c : Nat) (k : Core) : (s.setCore d c k).nextKey = s.nextKey := rfl
@[simp] theorem State.setCore_links (s : State) (d c : Nat) (k : Core) : (s.setCore d c k).links = s.links := rfl
@[simp] theorem State.setCore_deviceNo (s : State) (d c : Nat) (k : Core) : (s.setCore d c k).deviceNo = s.deviceNo := rfl
@[simp] theorem State.setCore_exports (s : State) (d c : Nat) (k : Core) : (s.setCore d c k).exports = s.exports := rfl
@[simp] theorem State.setCore_groups (s : State) (d c : Nat) (k : Core) : (s.setCore d c k).groups = s.groups := rfl
@[simp] theorem State.setCore_staging (s : State) (d c : Nat) (k : Core) : (s.setCore d c k).staging = s.staging := rfl
@[simp] theorem State.setCore_archive (s : State) (d c : Nat) (k : Core) : (s.setCore d c k).archive = s.archive := rfl
@[simp] theorem State.setCore_archiveNext (s : State) (d c : Nat) (k : Core) : (s.setCore d c k).archiveNext = s.archiveNext := rfl
@[simp] theorem State.setCore_lifetime (s : State) (d c : Nat) (k : Core) : (s.setCore d c k).lifetime = s.lifetime := rfl
@[simp] theorem State.setCore_startRec (s : State) (d c : Nat) (k : Core) : (s.setCore d c k).startRec = s.startRec := rfl
@[simp] theorem State.setCore_islands (s : State) (d c : Nat) (k : Core) : (s.setCore d c k).islands = s.islands := rfl
@[simp] theorem State.setCore_powerLimit (s : State) (d c : Nat) (k : Core) : (s.setCore d c k).powerLimit = s.powerLimit := rfl
@[simp] theorem State.setCore_errors (s : State) (d c : Nat) (k : Core) : (s.setCore d c k).errors = s.errors := rfl
@[simp] theorem State.setCore_readError (s : State) (d c : Nat) (k : Core) : (s.setCore d c k).readError = s.readError := rfl
@[simp] theorem State.setCore_ldsWrote (s : State) (d c : Nat) (k : Core) : (s.setCore d c k).ldsWrote = s.ldsWrote := rfl
@[simp] theorem State.setCore_reports (s : State) (d c : Nat) (k : Core) : (s.setCore d c k).reports = s.reports := rfl
@[simp] theorem State.setCore_agenda (s : State) (d c : Nat) (k : Core) : (s.setCore d c k).agenda = s.agenda := rfl
@[simp] theorem State.setCore_cur (s : State) (d c : Nat) (k : Core) : (s.setCore d c k).cur = s.cur := rfl
@[simp] theorem State.setCore_fresh (s : State) (d c : Nat) (k : Core) : (s.setCore d c k).fresh = s.fresh := rfl

/-! ### updCore -/

@[simp] theorem State.updCore_waves (s : State) (d c : Nat) (f : Core → Core) : (s.updCore d c f).waves = s.waves := rfl
@[simp] theorem State.updCore_blocks (s : State) (d c : Nat) (f : Core → Core) : (s.updCore d c f).blocks = s.blocks := rfl
@[simp] theorem State.updCore_grids (s : State) (d c : Nat) (f : Core → Core) : (s.updCore d c f).grids = s.grids := rfl
@[simp] theorem State.updCore_kernels (s : State) (d c : Nat) (f : Core → Core) : (s.updCore d c f).kernels = s.kernels := rfl
@[simp] theorem State.updCore_contexts (s : State) (d c : Nat) (f : Core → Core) : (s.updCore d c f).contexts = s.contexts := rfl
@[simp] theorem State.updCore_dies (s : State) (d c : Nat) (f : Core → Core) : (s.updCore d c f).dies = s.dies := rfl
@[simp] theorem State.updCore_cards (s : State) (d c : Nat) (f : Core → Core) : (s.updCore d c f).cards = s.cards := rfl
@[simp] theorem State.updCore_lds (s : State) (d c : Nat) (f : Core → Core) : (s.updCore d c f).lds = s.lds := rfl
@[simp] theorem State.updCore_ldsTags (s : State) (d c : Nat) (f : Core → Core) : (s.updCore d c f).ldsTags = s.ldsTags := rfl
@[simp] theorem State.updCore_hbm (s : State) (d c : Nat) (f : Core → Core) : (s.updCore d c f).hbm = s.hbm := rfl
@[simp] theorem State.updCore_hbmDom (s : State) (d c : Nat) (f : Core → Core) : (s.updCore d c f).hbmDom = s.hbmDom := rfl
@[simp] theorem State.updCore_hbmHeld (s : State) (d c : Nat) (f : Core → Core) : (s.updCore d c f).hbmHeld = s.hbmHeld := rfl
@[simp] theorem State.updCore_hbmClock (s : State) (d c : Nat) (f : Core → Core) : (s.updCore d c f).hbmClock = s.hbmClock := rfl
@[simp] theorem State.updCore_domains (s : State) (d c : Nat) (f : Core → Core) : (s.updCore d c f).domains = s.domains := rfl
@[simp] theorem State.updCore_regions (s : State) (d c : Nat) (f : Core → Core) : (s.updCore d c f).regions = s.regions := rfl
@[simp] theorem State.updCore_cascades (s : State) (d c : Nat) (f : Core → Core) : (s.updCore d c f).cascades = s.cascades := rfl
@[simp] theorem State.updCore_invalidations (s : State) (d c : Nat) (f : Core → Core) : (s.updCore d c f).invalidations = s.invalidations := rfl
@[simp] theorem State.updCore_seqs (s : State) (d c : Nat) (f : Core → Core) : (s.updCore d c f).seqs = s.seqs := rfl
@[simp] theorem State.updCore_queues (s : State) (d c : Nat) (f : Core → Core) : (s.updCore d c f).queues = s.queues := rfl
@[simp] theorem State.updCore_pifo (s : State) (d c : Nat) (f : Core → Core) : (s.updCore d c f).pifo = s.pifo := rfl
@[simp] theorem State.updCore_rankPrograms (s : State) (d c : Nat) (f : Core → Core) : (s.updCore d c f).rankPrograms = s.rankPrograms := rfl
@[simp] theorem State.updCore_threads (s : State) (d c : Nat) (f : Core → Core) : (s.updCore d c f).threads = s.threads := rfl
@[simp] theorem State.updCore_frozen (s : State) (d c : Nat) (f : Core → Core) : (s.updCore d c f).frozen = s.frozen := rfl
@[simp] theorem State.updCore_taking (s : State) (d c : Nat) (f : Core → Core) : (s.updCore d c f).taking = s.taking := rfl
@[simp] theorem State.updCore_stopAsks (s : State) (d c : Nat) (f : Core → Core) : (s.updCore d c f).stopAsks = s.stopAsks := rfl
@[simp] theorem State.updCore_restarts (s : State) (d c : Nat) (f : Core → Core) : (s.updCore d c f).restarts = s.restarts := rfl
@[simp] theorem State.updCore_rotation (s : State) (d c : Nat) (f : Core → Core) : (s.updCore d c f).rotation = s.rotation := rfl
@[simp] theorem State.updCore_coopWaiting (s : State) (d c : Nat) (f : Core → Core) : (s.updCore d c f).coopWaiting = s.coopWaiting := rfl
@[simp] theorem State.updCore_coopTold (s : State) (d c : Nat) (f : Core → Core) : (s.updCore d c f).coopTold = s.coopTold := rfl
@[simp] theorem State.updCore_nextGrid (s : State) (d c : Nat) (f : Core → Core) : (s.updCore d c f).nextGrid = s.nextGrid := rfl
@[simp] theorem State.updCore_nextSerial (s : State) (d c : Nat) (f : Core → Core) : (s.updCore d c f).nextSerial = s.nextSerial := rfl
@[simp] theorem State.updCore_nextHandle (s : State) (d c : Nat) (f : Core → Core) : (s.updCore d c f).nextHandle = s.nextHandle := rfl
@[simp] theorem State.updCore_nextTrace (s : State) (d c : Nat) (f : Core → Core) : (s.updCore d c f).nextTrace = s.nextTrace := rfl
@[simp] theorem State.updCore_nextKey (s : State) (d c : Nat) (f : Core → Core) : (s.updCore d c f).nextKey = s.nextKey := rfl
@[simp] theorem State.updCore_links (s : State) (d c : Nat) (f : Core → Core) : (s.updCore d c f).links = s.links := rfl
@[simp] theorem State.updCore_deviceNo (s : State) (d c : Nat) (f : Core → Core) : (s.updCore d c f).deviceNo = s.deviceNo := rfl
@[simp] theorem State.updCore_exports (s : State) (d c : Nat) (f : Core → Core) : (s.updCore d c f).exports = s.exports := rfl
@[simp] theorem State.updCore_groups (s : State) (d c : Nat) (f : Core → Core) : (s.updCore d c f).groups = s.groups := rfl
@[simp] theorem State.updCore_staging (s : State) (d c : Nat) (f : Core → Core) : (s.updCore d c f).staging = s.staging := rfl
@[simp] theorem State.updCore_archive (s : State) (d c : Nat) (f : Core → Core) : (s.updCore d c f).archive = s.archive := rfl
@[simp] theorem State.updCore_archiveNext (s : State) (d c : Nat) (f : Core → Core) : (s.updCore d c f).archiveNext = s.archiveNext := rfl
@[simp] theorem State.updCore_lifetime (s : State) (d c : Nat) (f : Core → Core) : (s.updCore d c f).lifetime = s.lifetime := rfl
@[simp] theorem State.updCore_startRec (s : State) (d c : Nat) (f : Core → Core) : (s.updCore d c f).startRec = s.startRec := rfl
@[simp] theorem State.updCore_islands (s : State) (d c : Nat) (f : Core → Core) : (s.updCore d c f).islands = s.islands := rfl
@[simp] theorem State.updCore_powerLimit (s : State) (d c : Nat) (f : Core → Core) : (s.updCore d c f).powerLimit = s.powerLimit := rfl
@[simp] theorem State.updCore_errors (s : State) (d c : Nat) (f : Core → Core) : (s.updCore d c f).errors = s.errors := rfl
@[simp] theorem State.updCore_readError (s : State) (d c : Nat) (f : Core → Core) : (s.updCore d c f).readError = s.readError := rfl
@[simp] theorem State.updCore_ldsWrote (s : State) (d c : Nat) (f : Core → Core) : (s.updCore d c f).ldsWrote = s.ldsWrote := rfl
@[simp] theorem State.updCore_reports (s : State) (d c : Nat) (f : Core → Core) : (s.updCore d c f).reports = s.reports := rfl
@[simp] theorem State.updCore_agenda (s : State) (d c : Nat) (f : Core → Core) : (s.updCore d c f).agenda = s.agenda := rfl
@[simp] theorem State.updCore_cur (s : State) (d c : Nat) (f : Core → Core) : (s.updCore d c f).cur = s.cur := rfl
@[simp] theorem State.updCore_fresh (s : State) (d c : Nat) (f : Core → Core) : (s.updCore d c f).fresh = s.fresh := rfl

/-! ### setLink -/

@[simp] theorem State.setLink_waves (s : State) (n : Nat) (l : Link) : (s.setLink n l).waves = s.waves := rfl
@[simp] theorem State.setLink_blocks (s : State) (n : Nat) (l : Link) : (s.setLink n l).blocks = s.blocks := rfl
@[simp] theorem State.setLink_grids (s : State) (n : Nat) (l : Link) : (s.setLink n l).grids = s.grids := rfl
@[simp] theorem State.setLink_kernels (s : State) (n : Nat) (l : Link) : (s.setLink n l).kernels = s.kernels := rfl
@[simp] theorem State.setLink_contexts (s : State) (n : Nat) (l : Link) : (s.setLink n l).contexts = s.contexts := rfl
@[simp] theorem State.setLink_dies (s : State) (n : Nat) (l : Link) : (s.setLink n l).dies = s.dies := rfl
@[simp] theorem State.setLink_cores (s : State) (n : Nat) (l : Link) : (s.setLink n l).cores = s.cores := rfl
@[simp] theorem State.setLink_cards (s : State) (n : Nat) (l : Link) : (s.setLink n l).cards = s.cards := rfl
@[simp] theorem State.setLink_lds (s : State) (n : Nat) (l : Link) : (s.setLink n l).lds = s.lds := rfl
@[simp] theorem State.setLink_ldsTags (s : State) (n : Nat) (l : Link) : (s.setLink n l).ldsTags = s.ldsTags := rfl
@[simp] theorem State.setLink_hbm (s : State) (n : Nat) (l : Link) : (s.setLink n l).hbm = s.hbm := rfl
@[simp] theorem State.setLink_hbmDom (s : State) (n : Nat) (l : Link) : (s.setLink n l).hbmDom = s.hbmDom := rfl
@[simp] theorem State.setLink_hbmHeld (s : State) (n : Nat) (l : Link) : (s.setLink n l).hbmHeld = s.hbmHeld := rfl
@[simp] theorem State.setLink_hbmClock (s : State) (n : Nat) (l : Link) : (s.setLink n l).hbmClock = s.hbmClock := rfl
@[simp] theorem State.setLink_domains (s : State) (n : Nat) (l : Link) : (s.setLink n l).domains = s.domains := rfl
@[simp] theorem State.setLink_regions (s : State) (n : Nat) (l : Link) : (s.setLink n l).regions = s.regions := rfl
@[simp] theorem State.setLink_cascades (s : State) (n : Nat) (l : Link) : (s.setLink n l).cascades = s.cascades := rfl
@[simp] theorem State.setLink_invalidations (s : State) (n : Nat) (l : Link) : (s.setLink n l).invalidations = s.invalidations := rfl
@[simp] theorem State.setLink_seqs (s : State) (n : Nat) (l : Link) : (s.setLink n l).seqs = s.seqs := rfl
@[simp] theorem State.setLink_queues (s : State) (n : Nat) (l : Link) : (s.setLink n l).queues = s.queues := rfl
@[simp] theorem State.setLink_pifo (s : State) (n : Nat) (l : Link) : (s.setLink n l).pifo = s.pifo := rfl
@[simp] theorem State.setLink_rankPrograms (s : State) (n : Nat) (l : Link) : (s.setLink n l).rankPrograms = s.rankPrograms := rfl
@[simp] theorem State.setLink_threads (s : State) (n : Nat) (l : Link) : (s.setLink n l).threads = s.threads := rfl
@[simp] theorem State.setLink_frozen (s : State) (n : Nat) (l : Link) : (s.setLink n l).frozen = s.frozen := rfl
@[simp] theorem State.setLink_taking (s : State) (n : Nat) (l : Link) : (s.setLink n l).taking = s.taking := rfl
@[simp] theorem State.setLink_stopAsks (s : State) (n : Nat) (l : Link) : (s.setLink n l).stopAsks = s.stopAsks := rfl
@[simp] theorem State.setLink_restarts (s : State) (n : Nat) (l : Link) : (s.setLink n l).restarts = s.restarts := rfl
@[simp] theorem State.setLink_rotation (s : State) (n : Nat) (l : Link) : (s.setLink n l).rotation = s.rotation := rfl
@[simp] theorem State.setLink_coopWaiting (s : State) (n : Nat) (l : Link) : (s.setLink n l).coopWaiting = s.coopWaiting := rfl
@[simp] theorem State.setLink_coopTold (s : State) (n : Nat) (l : Link) : (s.setLink n l).coopTold = s.coopTold := rfl
@[simp] theorem State.setLink_nextGrid (s : State) (n : Nat) (l : Link) : (s.setLink n l).nextGrid = s.nextGrid := rfl
@[simp] theorem State.setLink_nextSerial (s : State) (n : Nat) (l : Link) : (s.setLink n l).nextSerial = s.nextSerial := rfl
@[simp] theorem State.setLink_nextHandle (s : State) (n : Nat) (l : Link) : (s.setLink n l).nextHandle = s.nextHandle := rfl
@[simp] theorem State.setLink_nextTrace (s : State) (n : Nat) (l : Link) : (s.setLink n l).nextTrace = s.nextTrace := rfl
@[simp] theorem State.setLink_nextKey (s : State) (n : Nat) (l : Link) : (s.setLink n l).nextKey = s.nextKey := rfl
@[simp] theorem State.setLink_deviceNo (s : State) (n : Nat) (l : Link) : (s.setLink n l).deviceNo = s.deviceNo := rfl
@[simp] theorem State.setLink_exports (s : State) (n : Nat) (l : Link) : (s.setLink n l).exports = s.exports := rfl
@[simp] theorem State.setLink_groups (s : State) (n : Nat) (l : Link) : (s.setLink n l).groups = s.groups := rfl
@[simp] theorem State.setLink_staging (s : State) (n : Nat) (l : Link) : (s.setLink n l).staging = s.staging := rfl
@[simp] theorem State.setLink_archive (s : State) (n : Nat) (l : Link) : (s.setLink n l).archive = s.archive := rfl
@[simp] theorem State.setLink_archiveNext (s : State) (n : Nat) (l : Link) : (s.setLink n l).archiveNext = s.archiveNext := rfl
@[simp] theorem State.setLink_lifetime (s : State) (n : Nat) (l : Link) : (s.setLink n l).lifetime = s.lifetime := rfl
@[simp] theorem State.setLink_startRec (s : State) (n : Nat) (l : Link) : (s.setLink n l).startRec = s.startRec := rfl
@[simp] theorem State.setLink_islands (s : State) (n : Nat) (l : Link) : (s.setLink n l).islands = s.islands := rfl
@[simp] theorem State.setLink_powerLimit (s : State) (n : Nat) (l : Link) : (s.setLink n l).powerLimit = s.powerLimit := rfl
@[simp] theorem State.setLink_errors (s : State) (n : Nat) (l : Link) : (s.setLink n l).errors = s.errors := rfl
@[simp] theorem State.setLink_readError (s : State) (n : Nat) (l : Link) : (s.setLink n l).readError = s.readError := rfl
@[simp] theorem State.setLink_ldsWrote (s : State) (n : Nat) (l : Link) : (s.setLink n l).ldsWrote = s.ldsWrote := rfl
@[simp] theorem State.setLink_reports (s : State) (n : Nat) (l : Link) : (s.setLink n l).reports = s.reports := rfl
@[simp] theorem State.setLink_agenda (s : State) (n : Nat) (l : Link) : (s.setLink n l).agenda = s.agenda := rfl
@[simp] theorem State.setLink_cur (s : State) (n : Nat) (l : Link) : (s.setLink n l).cur = s.cur := rfl
@[simp] theorem State.setLink_fresh (s : State) (n : Nat) (l : Link) : (s.setLink n l).fresh = s.fresh := rfl

/-! ### report -/

@[simp] theorem State.report_waves (s : State) (r : Report) : (s.report r).waves = s.waves := rfl
@[simp] theorem State.report_blocks (s : State) (r : Report) : (s.report r).blocks = s.blocks := rfl
@[simp] theorem State.report_grids (s : State) (r : Report) : (s.report r).grids = s.grids := rfl
@[simp] theorem State.report_kernels (s : State) (r : Report) : (s.report r).kernels = s.kernels := rfl
@[simp] theorem State.report_contexts (s : State) (r : Report) : (s.report r).contexts = s.contexts := rfl
@[simp] theorem State.report_dies (s : State) (r : Report) : (s.report r).dies = s.dies := rfl
@[simp] theorem State.report_cores (s : State) (r : Report) : (s.report r).cores = s.cores := rfl
@[simp] theorem State.report_cards (s : State) (r : Report) : (s.report r).cards = s.cards := rfl
@[simp] theorem State.report_lds (s : State) (r : Report) : (s.report r).lds = s.lds := rfl
@[simp] theorem State.report_ldsTags (s : State) (r : Report) : (s.report r).ldsTags = s.ldsTags := rfl
@[simp] theorem State.report_hbm (s : State) (r : Report) : (s.report r).hbm = s.hbm := rfl
@[simp] theorem State.report_hbmDom (s : State) (r : Report) : (s.report r).hbmDom = s.hbmDom := rfl
@[simp] theorem State.report_hbmHeld (s : State) (r : Report) : (s.report r).hbmHeld = s.hbmHeld := rfl
@[simp] theorem State.report_hbmClock (s : State) (r : Report) : (s.report r).hbmClock = s.hbmClock := rfl
@[simp] theorem State.report_domains (s : State) (r : Report) : (s.report r).domains = s.domains := rfl
@[simp] theorem State.report_regions (s : State) (r : Report) : (s.report r).regions = s.regions := rfl
@[simp] theorem State.report_cascades (s : State) (r : Report) : (s.report r).cascades = s.cascades := rfl
@[simp] theorem State.report_invalidations (s : State) (r : Report) : (s.report r).invalidations = s.invalidations := rfl
@[simp] theorem State.report_seqs (s : State) (r : Report) : (s.report r).seqs = s.seqs := rfl
@[simp] theorem State.report_queues (s : State) (r : Report) : (s.report r).queues = s.queues := rfl
@[simp] theorem State.report_pifo (s : State) (r : Report) : (s.report r).pifo = s.pifo := rfl
@[simp] theorem State.report_rankPrograms (s : State) (r : Report) : (s.report r).rankPrograms = s.rankPrograms := rfl
@[simp] theorem State.report_threads (s : State) (r : Report) : (s.report r).threads = s.threads := rfl
@[simp] theorem State.report_frozen (s : State) (r : Report) : (s.report r).frozen = s.frozen := rfl
@[simp] theorem State.report_taking (s : State) (r : Report) : (s.report r).taking = s.taking := rfl
@[simp] theorem State.report_stopAsks (s : State) (r : Report) : (s.report r).stopAsks = s.stopAsks := rfl
@[simp] theorem State.report_restarts (s : State) (r : Report) : (s.report r).restarts = s.restarts := rfl
@[simp] theorem State.report_rotation (s : State) (r : Report) : (s.report r).rotation = s.rotation := rfl
@[simp] theorem State.report_coopWaiting (s : State) (r : Report) : (s.report r).coopWaiting = s.coopWaiting := rfl
@[simp] theorem State.report_coopTold (s : State) (r : Report) : (s.report r).coopTold = s.coopTold := rfl
@[simp] theorem State.report_nextGrid (s : State) (r : Report) : (s.report r).nextGrid = s.nextGrid := rfl
@[simp] theorem State.report_nextSerial (s : State) (r : Report) : (s.report r).nextSerial = s.nextSerial := rfl
@[simp] theorem State.report_nextHandle (s : State) (r : Report) : (s.report r).nextHandle = s.nextHandle := rfl
@[simp] theorem State.report_nextTrace (s : State) (r : Report) : (s.report r).nextTrace = s.nextTrace := rfl
@[simp] theorem State.report_nextKey (s : State) (r : Report) : (s.report r).nextKey = s.nextKey := rfl
@[simp] theorem State.report_links (s : State) (r : Report) : (s.report r).links = s.links := rfl
@[simp] theorem State.report_deviceNo (s : State) (r : Report) : (s.report r).deviceNo = s.deviceNo := rfl
@[simp] theorem State.report_exports (s : State) (r : Report) : (s.report r).exports = s.exports := rfl
@[simp] theorem State.report_groups (s : State) (r : Report) : (s.report r).groups = s.groups := rfl
@[simp] theorem State.report_staging (s : State) (r : Report) : (s.report r).staging = s.staging := rfl
@[simp] theorem State.report_archive (s : State) (r : Report) : (s.report r).archive = s.archive := rfl
@[simp] theorem State.report_archiveNext (s : State) (r : Report) : (s.report r).archiveNext = s.archiveNext := rfl
@[simp] theorem State.report_lifetime (s : State) (r : Report) : (s.report r).lifetime = s.lifetime := rfl
@[simp] theorem State.report_startRec (s : State) (r : Report) : (s.report r).startRec = s.startRec := rfl
@[simp] theorem State.report_islands (s : State) (r : Report) : (s.report r).islands = s.islands := rfl
@[simp] theorem State.report_powerLimit (s : State) (r : Report) : (s.report r).powerLimit = s.powerLimit := rfl
@[simp] theorem State.report_errors (s : State) (r : Report) : (s.report r).errors = s.errors := rfl
@[simp] theorem State.report_readError (s : State) (r : Report) : (s.report r).readError = s.readError := rfl
@[simp] theorem State.report_ldsWrote (s : State) (r : Report) : (s.report r).ldsWrote = s.ldsWrote := rfl
@[simp] theorem State.report_agenda (s : State) (r : Report) : (s.report r).agenda = s.agenda := rfl
@[simp] theorem State.report_cur (s : State) (r : Report) : (s.report r).cur = s.cur := rfl
@[simp] theorem State.report_fresh (s : State) (r : Report) : (s.report r).fresh = s.fresh := rfl

/-! ### The records that an update writes -/

@[simp] theorem State.setWave_waves (s : State) (n : Nat) (w : Wave) : (s.setWave n w).waves = s.waves.put n w := rfl
@[simp] theorem State.updWave_waves (s : State) (n : Nat) (f : Wave → Wave) : (s.updWave n f).waves = s.waves.upd n f := rfl
@[simp] theorem State.setBlock_blocks (s : State) (n : Nat) (b : Block) : (s.setBlock n b).blocks = s.blocks.put n b := rfl
@[simp] theorem State.updBlock_blocks (s : State) (n : Nat) (f : Block → Block) : (s.updBlock n f).blocks = s.blocks.upd n f := rfl
@[simp] theorem State.setGrid_grids (s : State) (n : Nat) (g : Grid) : (s.setGrid n g).grids = s.grids.put n g := rfl
@[simp] theorem State.updGrid_grids (s : State) (n : Nat) (f : Grid → Grid) : (s.updGrid n f).grids = s.grids.upd n f := rfl
@[simp] theorem State.setLink_links (s : State) (n : Nat) (l : Link) : (s.setLink n l).links = s.links.put n l := rfl
@[simp] theorem State.report_reports (s : State) (r : Report) : (s.report r).reports = s.reports ++ [r] := rfl

@[simp] theorem State.setCtx_ctx (s : State) (n : Nat) (c : Context) : (s.setCtx n c).ctx n = c := by
  simp [State.ctx, State.setCtx]

theorem State.setCtx_ctx_ne (s : State) {n m : Nat} (c : Context) (h : m ≠ n) : (s.setCtx n c).ctx m = s.ctx m := by
  simp [State.ctx, State.setCtx, Tbl.get_put_ne _ _ h]

@[simp] theorem State.updCtx_ctx (s : State) (n : Nat) (f : Context → Context) : (s.updCtx n f).ctx n = f (s.ctx n) := by
  simp [State.updCtx]

theorem State.updCtx_ctx_ne (s : State) {n m : Nat} (f : Context → Context) (h : m ≠ n) : (s.updCtx n f).ctx m = s.ctx m :=
  State.setCtx_ctx_ne s _ h

@[simp] theorem State.setDie_die (s : State) (n : Nat) (d : Die) : (s.setDie n d).die n = d := by
  simp [State.die, State.setDie]

@[simp] theorem State.updDie_die (s : State) (n : Nat) (f : Die → Die) : (s.updDie n f).die n = f (s.die n) := by
  simp [State.updDie]

theorem State.updDie_die_ne (s : State) {n m : Nat} (f : Die → Die) (h : m ≠ n) : (s.updDie n f).die m = s.die m := by
  simp [State.die, State.updDie, State.setDie, Tbl.get_put_ne _ _ h]

@[simp] theorem State.setCore_core (s : State) (d c : Nat) (k : Core) : (s.setCore d c k).core d c = k := by
  simp [State.core, State.setCore]

@[simp] theorem State.updCore_core (s : State) (d c : Nat) (f : Core → Core) : (s.updCore d c f).core d c = f (s.core d c) := by
  simp [State.updCore]

@[simp] theorem State.setLink_link (s : State) (n : Nat) (l : Link) : (s.setLink n l).link n = l := by
  simp [State.link, State.setLink]

/-! ### A fresh key -/

@[simp] theorem State.newKey_waves (s : State) : s.newKey.2.waves = s.waves := rfl
@[simp] theorem State.newKey_blocks (s : State) : s.newKey.2.blocks = s.blocks := rfl
@[simp] theorem State.newKey_grids (s : State) : s.newKey.2.grids = s.grids := rfl
@[simp] theorem State.newKey_kernels (s : State) : s.newKey.2.kernels = s.kernels := rfl
@[simp] theorem State.newKey_contexts (s : State) : s.newKey.2.contexts = s.contexts := rfl
@[simp] theorem State.newKey_dies (s : State) : s.newKey.2.dies = s.dies := rfl
@[simp] theorem State.newKey_cores (s : State) : s.newKey.2.cores = s.cores := rfl
@[simp] theorem State.newKey_cards (s : State) : s.newKey.2.cards = s.cards := rfl
@[simp] theorem State.newKey_lds (s : State) : s.newKey.2.lds = s.lds := rfl
@[simp] theorem State.newKey_ldsTags (s : State) : s.newKey.2.ldsTags = s.ldsTags := rfl
@[simp] theorem State.newKey_hbm (s : State) : s.newKey.2.hbm = s.hbm := rfl
@[simp] theorem State.newKey_hbmDom (s : State) : s.newKey.2.hbmDom = s.hbmDom := rfl
@[simp] theorem State.newKey_hbmHeld (s : State) : s.newKey.2.hbmHeld = s.hbmHeld := rfl
@[simp] theorem State.newKey_hbmClock (s : State) : s.newKey.2.hbmClock = s.hbmClock := rfl
@[simp] theorem State.newKey_domains (s : State) : s.newKey.2.domains = s.domains := rfl
@[simp] theorem State.newKey_regions (s : State) : s.newKey.2.regions = s.regions := rfl
@[simp] theorem State.newKey_cascades (s : State) : s.newKey.2.cascades = s.cascades := rfl
@[simp] theorem State.newKey_invalidations (s : State) : s.newKey.2.invalidations = s.invalidations := rfl
@[simp] theorem State.newKey_seqs (s : State) : s.newKey.2.seqs = s.seqs := rfl
@[simp] theorem State.newKey_queues (s : State) : s.newKey.2.queues = s.queues := rfl
@[simp] theorem State.newKey_pifo (s : State) : s.newKey.2.pifo = s.pifo := rfl
@[simp] theorem State.newKey_rankPrograms (s : State) : s.newKey.2.rankPrograms = s.rankPrograms := rfl
@[simp] theorem State.newKey_threads (s : State) : s.newKey.2.threads = s.threads := rfl
@[simp] theorem State.newKey_frozen (s : State) : s.newKey.2.frozen = s.frozen := rfl
@[simp] theorem State.newKey_taking (s : State) : s.newKey.2.taking = s.taking := rfl
@[simp] theorem State.newKey_stopAsks (s : State) : s.newKey.2.stopAsks = s.stopAsks := rfl
@[simp] theorem State.newKey_restarts (s : State) : s.newKey.2.restarts = s.restarts := rfl
@[simp] theorem State.newKey_rotation (s : State) : s.newKey.2.rotation = s.rotation := rfl
@[simp] theorem State.newKey_coopWaiting (s : State) : s.newKey.2.coopWaiting = s.coopWaiting := rfl
@[simp] theorem State.newKey_coopTold (s : State) : s.newKey.2.coopTold = s.coopTold := rfl
@[simp] theorem State.newKey_nextGrid (s : State) : s.newKey.2.nextGrid = s.nextGrid := rfl
@[simp] theorem State.newKey_nextSerial (s : State) : s.newKey.2.nextSerial = s.nextSerial := rfl
@[simp] theorem State.newKey_nextHandle (s : State) : s.newKey.2.nextHandle = s.nextHandle := rfl
@[simp] theorem State.newKey_nextTrace (s : State) : s.newKey.2.nextTrace = s.nextTrace := rfl
@[simp] theorem State.newKey_nextKey (s : State) : s.newKey.2.nextKey = s.nextKey := rfl
@[simp] theorem State.newKey_links (s : State) : s.newKey.2.links = s.links := rfl
@[simp] theorem State.newKey_deviceNo (s : State) : s.newKey.2.deviceNo = s.deviceNo := rfl
@[simp] theorem State.newKey_exports (s : State) : s.newKey.2.exports = s.exports := rfl
@[simp] theorem State.newKey_groups (s : State) : s.newKey.2.groups = s.groups := rfl
@[simp] theorem State.newKey_staging (s : State) : s.newKey.2.staging = s.staging := rfl
@[simp] theorem State.newKey_archive (s : State) : s.newKey.2.archive = s.archive := rfl
@[simp] theorem State.newKey_archiveNext (s : State) : s.newKey.2.archiveNext = s.archiveNext := rfl
@[simp] theorem State.newKey_lifetime (s : State) : s.newKey.2.lifetime = s.lifetime := rfl
@[simp] theorem State.newKey_startRec (s : State) : s.newKey.2.startRec = s.startRec := rfl
@[simp] theorem State.newKey_islands (s : State) : s.newKey.2.islands = s.islands := rfl
@[simp] theorem State.newKey_powerLimit (s : State) : s.newKey.2.powerLimit = s.powerLimit := rfl
@[simp] theorem State.newKey_errors (s : State) : s.newKey.2.errors = s.errors := rfl
@[simp] theorem State.newKey_readError (s : State) : s.newKey.2.readError = s.readError := rfl
@[simp] theorem State.newKey_ldsWrote (s : State) : s.newKey.2.ldsWrote = s.ldsWrote := rfl
@[simp] theorem State.newKey_reports (s : State) : s.newKey.2.reports = s.reports := rfl
@[simp] theorem State.newKey_agenda (s : State) : s.newKey.2.agenda = s.agenda := rfl
@[simp] theorem State.newKey_cur (s : State) : s.newKey.2.cur = s.cur := rfl
@[simp] theorem State.newKey_fresh (s : State) : s.newKey.2.fresh = s.fresh + 1 := rfl

end Sys2Proof.Machine
end

