-- ==== Sys2Proof/Laws/Memory.lean ====
section
/-! SUPPORT. Memory in canonical form: reading what was written, and the form kept by every operation on memory. -/

namespace Sys2Proof.Machine

/-! ### Reading what was written -/

/-- Below its first address a memory lists nothing. -/
theorem Memory.find_of_wfFrom {dflt : Option Byte} {m : Memory} {lo a : Nat} (h : Memory.wfFrom dflt lo m = true)
    (ha : a < lo) : Memory.find m a = none := by
  induction m generalizing lo with
  | nil => rfl
  | cons e t ih =>
    obtain ⟨k, b⟩ := e
    simp only [Memory.wfFrom, Bool.and_eq_true, decide_eq_true_eq] at h
    simp only [Memory.find]
    rw [if_neg (by omega)]
    exact ih h.2 (by omega)

/-- A memory without an entry of one value reads back every byte that is written. -/
@[simp] theorem Memory.find_set_none (m : Memory) (a : Nat) (b : Byte) : Memory.find (Memory.set none m a b) a = some b := by
  induction m with
  | nil => simp [Memory.set, Memory.find]
  | cons e t ih =>
    obtain ⟨k, x⟩ := e
    simp only [Memory.set]
    split
    · simp [Memory.find]
    · split
      · simp [Memory.find]
      · simp [Memory.find, *]

/-- A write leaves every other address as it was. -/
theorem Memory.find_set_ne (dflt : Option Byte) (m : Memory) {a c : Nat} (b : Byte) (h : c ≠ a) :
    Memory.find (Memory.set dflt m a b) c = Memory.find m c := by
  induction m with
  | nil => simp only [Memory.set]; split <;> simp [Memory.find, Ne.symm h]
  | cons e t ih =>
    obtain ⟨k, x⟩ := e
    simp only [Memory.set]
    split
    · next hk => subst hk; split <;> simp [Memory.find, Ne.symm h]
    · split
      · split <;> simp [Memory.find, Ne.symm h]
      · simp only [Memory.find, ih]

/-- A memory in canonical form reads back every byte that is written. -/
theorem Memory.getD_set {d : Byte} {m : Memory} {lo : Nat} (h : Memory.wfFrom (some d) lo m = true) (a : Nat) (b : Byte) :
    (Memory.find (Memory.set (some d) m a b) a).getD d = b := by
  induction m generalizing lo with
  | nil =>
    simp only [Memory.set]
    split
    · next hb => simp only [Option.some.injEq] at hb; simp [Memory.find, hb]
    · simp [Memory.find]
  | cons e t ih =>
    obtain ⟨k, x⟩ := e
    simp only [Memory.wfFrom, Bool.and_eq_true, decide_eq_true_eq] at h
    simp only [Memory.set]
    split
    · next hk =>
      split
      · next hb =>
        simp only [Option.some.injEq] at hb
        rw [Memory.find_of_wfFrom h.2 (by omega)]; simp [hb]
      · simp [Memory.find]
    · split
      · split
        · next hk hb =>
          simp only [Option.some.injEq] at hb
          rw [Memory.find, if_neg (by omega), Memory.find_of_wfFrom h.2 (by omega)]; simp [hb]
        · simp [Memory.find]
      · next h1 h2 =>
        rw [Memory.find, if_neg h1]; exact ih h.2

/-! ### The canonical form -/

theorem Memory.wfFrom_mono {dflt : Option Byte} {m : Memory} {lo lo' : Nat} (h : Memory.wfFrom dflt lo m = true)
    (hl : lo' ≤ lo) : Memory.wfFrom dflt lo' m = true := by
  cases m with
  | nil => rfl
  | cons e t =>
    obtain ⟨k, b⟩ := e
    simp only [Memory.wfFrom, Bool.and_eq_true, decide_eq_true_eq] at h ⊢
    exact ⟨⟨by omega, h.1.2⟩, h.2⟩

/-- A write keeps the form. -/
theorem Memory.wfFrom_set {dflt : Option Byte} {m : Memory} {lo : Nat} (h : Memory.wfFrom dflt lo m = true) {a : Nat} (b : Byte)
    (ha : lo ≤ a) : Memory.wfFrom dflt lo (Memory.set dflt m a b) = true := by
  induction m generalizing lo with
  | nil =>
    simp only [Memory.set]
    split
    · rfl
    · next hb => simp [Memory.wfFrom, ha, hb]
  | cons e t ih =>
    obtain ⟨k, x⟩ := e
    have h' := h
    simp only [Memory.wfFrom, Bool.and_eq_true, decide_eq_true_eq] at h'
    simp only [Memory.set]
    split
    · next hk =>
      split
      · exact Memory.wfFrom_mono h'.2 (by omega)
      · next hb => subst hk; simp [Memory.wfFrom, h'.1.1, hb, h'.2]
    · split
      · split
        · exact h
        · next hk hb =>
          simp only [Memory.wfFrom, Bool.and_eq_true, decide_eq_true_eq]
          exact ⟨⟨ha, hb⟩, ⟨⟨by omega, h'.1.2⟩, h'.2⟩⟩
      · simp only [Memory.wfFrom, Bool.and_eq_true, decide_eq_true_eq]
        exact ⟨h'.1, ih h'.2 (by omega)⟩

theorem Memory.wf_set {dflt : Option Byte} {m : Memory} (h : Memory.wf dflt m = true) (a : Nat) (b : Byte) :
    Memory.wf dflt (Memory.set dflt m a b) = true :=
  Memory.wfFrom_set h b (Nat.zero_le a)

/-- Leaving entries out keeps the form. -/
theorem Memory.wfFrom_filter {dflt : Option Byte} {m : Memory} {lo : Nat} (h : Memory.wfFrom dflt lo m = true)
    (p : Host.Cell → Bool) : Memory.wfFrom dflt lo (m.filter p) = true := by
  induction m generalizing lo with
  | nil => rfl
  | cons e t ih =>
    obtain ⟨k, x⟩ := e
    simp only [Memory.wfFrom, Bool.and_eq_true, decide_eq_true_eq] at h
    simp only [List.filter_cons]
    split
    · simp only [Memory.wfFrom, Bool.and_eq_true, decide_eq_true_eq]
      exact ⟨h.1, ih h.2⟩
    · exact Memory.wfFrom_mono (ih h.2) (by omega)

theorem Memory.wf_filter {dflt : Option Byte} {m : Memory} (h : Memory.wf dflt m = true) (p : Host.Cell → Bool) :
    Memory.wf dflt (m.filter p) = true :=
  Memory.wfFrom_filter h p

theorem Memory.wf_clearGranule {dflt : Option Byte} {m : Memory} (h : Memory.wf dflt m = true) (g : Nat) :
    Memory.wf dflt (clearGranule m g) = true :=
  Memory.wf_filter h _

theorem Memory.find_filter_of_neg {m : Memory} {p : Host.Cell → Bool} {a : Nat} (h : ∀ b, p (a, b) = false) :
    Memory.find (m.filter p) a = none := by
  induction m with
  | nil => rfl
  | cons e t ih =>
    obtain ⟨k, x⟩ := e
    simp only [List.filter_cons]
    split
    · next hp =>
      rw [Memory.find, if_neg]
      · exact ih
      · intro hk; subst hk; simp [h x] at hp
    · exact ih

theorem Memory.find_filter_of_pos {m : Memory} {p : Host.Cell → Bool} {a : Nat} (h : ∀ b, p (a, b) = true) :
    Memory.find (m.filter p) a = Memory.find m a := by
  induction m with
  | nil => rfl
  | cons e t ih =>
    obtain ⟨k, x⟩ := e
    by_cases hk : k = a
    · subst hk; simp [h x, Memory.find]
    · simp only [List.filter_cons]
      split
      · simp only [Memory.find, if_neg hk]; exact ih
      · rw [Memory.find, if_neg hk]; exact ih

/-- A cleared granule lists nothing. -/
theorem Memory.find_clearGranule {m : Memory} {g a : Nat} (h : a / 4096 = g) : Memory.find (clearGranule m g) a = none :=
  Memory.find_filter_of_neg fun _ => by simp [h]

/-- The bytes outside a cleared granule stay. -/
theorem Memory.find_clearGranule_ne {m : Memory} {g a : Nat} (h : a / 4096 ≠ g) :
    Memory.find (clearGranule m g) a = Memory.find m a :=
  Memory.find_filter_of_pos fun _ => by simp [h]

end Sys2Proof.Machine
end

