-- ==== Sys2Proof/Laws/Stores.lean ====
section
/-! SUPPORT. What writing bytes of a local store or of HBM changes, and what it leaves. -/

namespace Sys2Proof.Machine

/-! ### Local store: the fields a write leaves -/

@[simp] theorem State.coreWrite_waves (s : State) (dom a : Nat) (b : Byte) : (s.coreWrite dom a b).waves = s.waves := by
  unfold State.coreWrite; split <;> rfl
@[simp] theorem State.ldsWrite_waves (s : State) (dom a : Nat) (b : Byte) : (s.ldsWrite dom a b).waves = s.waves := by
  unfold State.ldsWrite; split
  · rfl
  · simp
@[simp] theorem State.ldsWrites_waves (bs : List Byte) : ∀ (s : State) (dom a : Nat), (s.ldsWrites dom a bs).waves = s.waves := by
  induction bs with
  | nil => intros; rfl
  | cons b bs ih => intros; simp [State.ldsWrites, ih]

@[simp] theorem State.coreWrite_blocks (s : State) (dom a : Nat) (b : Byte) : (s.coreWrite dom a b).blocks = s.blocks := by
  unfold State.coreWrite; split <;> rfl
@[simp] theorem State.ldsWrite_blocks (s : State) (dom a : Nat) (b : Byte) : (s.ldsWrite dom a b).blocks = s.blocks := by
  unfold State.ldsWrite; split
  · rfl
  · simp
@[simp] theorem State.ldsWrites_blocks (bs : List Byte) : ∀ (s : State) (dom a : Nat), (s.ldsWrites dom a bs).blocks = s.blocks := by
  induction bs with
  | nil => intros; rfl
  | cons b bs ih => intros; simp [State.ldsWrites, ih]

@[simp] theorem State.coreWrite_grids (s : State) (dom a : Nat) (b : Byte) : (s.coreWrite dom a b).grids = s.grids := by
  unfold State.coreWrite; split <;> rfl
@[simp] theorem State.ldsWrite_grids (s : State) (dom a : Nat) (b : Byte) : (s.ldsWrite dom a b).grids = s.grids := by
  unfold State.ldsWrite; split
  · rfl
  · simp
@[simp] theorem State.ldsWrites_grids (bs : List Byte) : ∀ (s : State) (dom a : Nat), (s.ldsWrites dom a bs).grids = s.grids := by
  induction bs with
  | nil => intros; rfl
  | cons b bs ih => intros; simp [State.ldsWrites, ih]

@[simp] theorem State.coreWrite_kernels (s : State) (dom a : Nat) (b : Byte) : (s.coreWrite dom a b).kernels = s.kernels := by
  unfold State.coreWrite; split <;> rfl
@[simp] theorem State.ldsWrite_kernels (s : State) (dom a : Nat) (b : Byte) : (s.ldsWrite dom a b).kernels = s.kernels := by
  unfold State.ldsWrite; split
  · rfl
  · simp
@[simp] theorem State.ldsWrites_kernels (bs : List Byte) : ∀ (s : State) (dom a : Nat), (s.ldsWrites dom a bs).kernels = s.kernels := by
  induction bs with
  | nil => intros; rfl
  | cons b bs ih => intros; simp [State.ldsWrites, ih]

@[simp] theorem State.coreWrite_contexts (s : State) (dom a : Nat) (b : Byte) : (s.coreWrite dom a b).contexts = s.contexts := by
  unfold State.coreWrite; split <;> rfl
@[simp] theorem State.ldsWrite_contexts (s : State) (dom a : Nat) (b : Byte) : (s.ldsWrite dom a b).contexts = s.contexts := by
  unfold State.ldsWrite; split
  · rfl
  · simp
@[simp] theorem State.ldsWrites_contexts (bs : List Byte) : ∀ (s : State) (dom a : Nat), (s.ldsWrites dom a bs).contexts = s.contexts := by
  induction bs with
  | nil => intros; rfl
  | cons b bs ih => intros; simp [State.ldsWrites, ih]

@[simp] theorem State.coreWrite_dies (s : State) (dom a : Nat) (b : Byte) : (s.coreWrite dom a b).dies = s.dies := by
  unfold State.coreWrite; split <;> rfl
@[simp] theorem State.ldsWrite_dies (s : State) (dom a : Nat) (b : Byte) : (s.ldsWrite dom a b).dies = s.dies := by
  unfold State.ldsWrite; split
  · rfl
  · simp
@[simp] theorem State.ldsWrites_dies (bs : List Byte) : ∀ (s : State) (dom a : Nat), (s.ldsWrites dom a bs).dies = s.dies := by
  induction bs with
  | nil => intros; rfl
  | cons b bs ih => intros; simp [State.ldsWrites, ih]

@[simp] theorem State.coreWrite_cores (s : State) (dom a : Nat) (b : Byte) : (s.coreWrite dom a b).cores = s.cores := by
  unfold State.coreWrite; split <;> rfl
@[simp] theorem State.ldsWrite_cores (s : State) (dom a : Nat) (b : Byte) : (s.ldsWrite dom a b).cores = s.cores := by
  unfold State.ldsWrite; split
  · rfl
  · simp
@[simp] theorem State.ldsWrites_cores (bs : List Byte) : ∀ (s : State) (dom a : Nat), (s.ldsWrites dom a bs).cores = s.cores := by
  induction bs with
  | nil => intros; rfl
  | cons b bs ih => intros; simp [State.ldsWrites, ih]

@[simp] theorem State.coreWrite_cards (s : State) (dom a : Nat) (b : Byte) : (s.coreWrite dom a b).cards = s.cards := by
  unfold State.coreWrite; split <;> rfl
@[simp] theorem State.ldsWrite_cards (s : State) (dom a : Nat) (b : Byte) : (s.ldsWrite dom a b).cards = s.cards := by
  unfold State.ldsWrite; split
  · rfl
  · simp
@[simp] theorem State.ldsWrites_cards (bs : List Byte) : ∀ (s : State) (dom a : Nat), (s.ldsWrites dom a bs).cards = s.cards := by
  induction bs with
  | nil => intros; rfl
  | cons b bs ih => intros; simp [State.ldsWrites, ih]

@[simp] theorem State.coreWrite_hbm (s : State) (dom a : Nat) (b : Byte) : (s.coreWrite dom a b).hbm = s.hbm := by
  unfold State.coreWrite; split <;> rfl
@[simp] theorem State.ldsWrite_hbm (s : State) (dom a : Nat) (b : Byte) : (s.ldsWrite dom a b).hbm = s.hbm := by
  unfold State.ldsWrite; split
  · rfl
  · simp
@[simp] theorem State.ldsWrites_hbm (bs : List Byte) : ∀ (s : State) (dom a : Nat), (s.ldsWrites dom a bs).hbm = s.hbm := by
  induction bs with
  | nil => intros; rfl
  | cons b bs ih => intros; simp [State.ldsWrites, ih]

@[simp] theorem State.coreWrite_hbmDom (s : State) (dom a : Nat) (b : Byte) : (s.coreWrite dom a b).hbmDom = s.hbmDom := by
  unfold State.coreWrite; split <;> rfl
@[simp] theorem State.ldsWrite_hbmDom (s : State) (dom a : Nat) (b : Byte) : (s.ldsWrite dom a b).hbmDom = s.hbmDom := by
  unfold State.ldsWrite; split
  · rfl
  · simp
@[simp] theorem State.ldsWrites_hbmDom (bs : List Byte) : ∀ (s : State) (dom a : Nat), (s.ldsWrites dom a bs).hbmDom = s.hbmDom := by
  induction bs with
  | nil => intros; rfl
  | cons b bs ih => intros; simp [State.ldsWrites, ih]

@[simp] theorem State.coreWrite_hbmHeld (s : State) (dom a : Nat) (b : Byte) : (s.coreWrite dom a b).hbmHeld = s.hbmHeld := by
  unfold State.coreWrite; split <;> rfl
@[simp] theorem State.ldsWrite_hbmHeld (s : State) (dom a : Nat) (b : Byte) : (s.ldsWrite dom a b).hbmHeld = s.hbmHeld := by
  unfold State.ldsWrite; split
  · rfl
  · simp
@[simp] theorem State.ldsWrites_hbmHeld (bs : List Byte) : ∀ (s : State) (dom a : Nat), (s.ldsWrites dom a bs).hbmHeld = s.hbmHeld := by
  induction bs with
  | nil => intros; rfl
  | cons b bs ih => intros; simp [State.ldsWrites, ih]

@[simp] theorem State.coreWrite_domains (s : State) (dom a : Nat) (b : Byte) : (s.coreWrite dom a b).domains = s.domains := by
  unfold State.coreWrite; split <;> rfl
@[simp] theorem State.ldsWrite_domains (s : State) (dom a : Nat) (b : Byte) : (s.ldsWrite dom a b).domains = s.domains := by
  unfold State.ldsWrite; split
  · rfl
  · simp
@[simp] theorem State.ldsWrites_domains (bs : List Byte) : ∀ (s : State) (dom a : Nat), (s.ldsWrites dom a bs).domains = s.domains := by
  induction bs with
  | nil => intros; rfl
  | cons b bs ih => intros; simp [State.ldsWrites, ih]

@[simp] theorem State.coreWrite_regions (s : State) (dom a : Nat) (b : Byte) : (s.coreWrite dom a b).regions = s.regions := by
  unfold State.coreWrite; split <;> rfl
@[simp] theorem State.ldsWrite_regions (s : State) (dom a : Nat) (b : Byte) : (s.ldsWrite dom a b).regions = s.regions := by
  unfold State.ldsWrite; split
  · rfl
  · simp
@[simp] theorem State.ldsWrites_regions (bs : List Byte) : ∀ (s : State) (dom a : Nat), (s.ldsWrites dom a bs).regions = s.regions := by
  induction bs with
  | nil => intros; rfl
  | cons b bs ih => intros; simp [State.ldsWrites, ih]

@[simp] theorem State.coreWrite_cascades (s : State) (dom a : Nat) (b : Byte) : (s.coreWrite dom a b).cascades = s.cascades := by
  unfold State.coreWrite; split <;> rfl
@[simp] theorem State.ldsWrite_cascades (s : State) (dom a : Nat) (b : Byte) : (s.ldsWrite dom a b).cascades = s.cascades := by
  unfold State.ldsWrite; split
  · rfl
  · simp
@[simp] theorem State.ldsWrites_cascades (bs : List Byte) : ∀ (s : State) (dom a : Nat), (s.ldsWrites dom a bs).cascades = s.cascades := by
  induction bs with
  | nil => intros; rfl
  | cons b bs ih => intros; simp [State.ldsWrites, ih]

@[simp] theorem State.coreWrite_invalidations (s : State) (dom a : Nat) (b : Byte) : (s.coreWrite dom a b).invalidations = s.invalidations := by
  unfold State.coreWrite; split <;> rfl
@[simp] theorem State.ldsWrite_invalidations (s : State) (dom a : Nat) (b : Byte) : (s.ldsWrite dom a b).invalidations = s.invalidations := by
  unfold State.ldsWrite; split
  · rfl
  · simp
@[simp] theorem State.ldsWrites_invalidations (bs : List Byte) : ∀ (s : State) (dom a : Nat), (s.ldsWrites dom a bs).invalidations = s.invalidations := by
  induction bs with
  | nil => intros; rfl
  | cons b bs ih => intros; simp [State.ldsWrites, ih]

@[simp] theorem State.coreWrite_seqs (s : State) (dom a : Nat) (b : Byte) : (s.coreWrite dom a b).seqs = s.seqs := by
  unfold State.coreWrite; split <;> rfl
@[simp] theorem State.ldsWrite_seqs (s : State) (dom a : Nat) (b : Byte) : (s.ldsWrite dom a b).seqs = s.seqs := by
  unfold State.ldsWrite; split
  · rfl
  · simp
@[simp] theorem State.ldsWrites_seqs (bs : List Byte) : ∀ (s : State) (dom a : Nat), (s.ldsWrites dom a bs).seqs = s.seqs := by
  induction bs with
  | nil => intros; rfl
  | cons b bs ih => intros; simp [State.ldsWrites, ih]

@[simp] theorem State.coreWrite_queues (s : State) (dom a : Nat) (b : Byte) : (s.coreWrite dom a b).queues = s.queues := by
  unfold State.coreWrite; split <;> rfl
@[simp] theorem State.ldsWrite_queues (s : State) (dom a : Nat) (b : Byte) : (s.ldsWrite dom a b).queues = s.queues := by
  unfold State.ldsWrite; split
  · rfl
  · simp
@[simp] theorem State.ldsWrites_queues (bs : List Byte) : ∀ (s : State) (dom a : Nat), (s.ldsWrites dom a bs).queues = s.queues := by
  induction bs with
  | nil => intros; rfl
  | cons b bs ih => intros; simp [State.ldsWrites, ih]

@[simp] theorem State.coreWrite_pifo (s : State) (dom a : Nat) (b : Byte) : (s.coreWrite dom a b).pifo = s.pifo := by
  unfold State.coreWrite; split <;> rfl
@[simp] theorem State.ldsWrite_pifo (s : State) (dom a : Nat) (b : Byte) : (s.ldsWrite dom a b).pifo = s.pifo := by
  unfold State.ldsWrite; split
  · rfl
  · simp
@[simp] theorem State.ldsWrites_pifo (bs : List Byte) : ∀ (s : State) (dom a : Nat), (s.ldsWrites dom a bs).pifo = s.pifo := by
  induction bs with
  | nil => intros; rfl
  | cons b bs ih => intros; simp [State.ldsWrites, ih]

@[simp] theorem State.coreWrite_rankPrograms (s : State) (dom a : Nat) (b : Byte) : (s.coreWrite dom a b).rankPrograms = s.rankPrograms := by
  unfold State.coreWrite; split <;> rfl
@[simp] theorem State.ldsWrite_rankPrograms (s : State) (dom a : Nat) (b : Byte) : (s.ldsWrite dom a b).rankPrograms = s.rankPrograms := by
  unfold State.ldsWrite; split
  · rfl
  · simp
@[simp] theorem State.ldsWrites_rankPrograms (bs : List Byte) : ∀ (s : State) (dom a : Nat), (s.ldsWrites dom a bs).rankPrograms = s.rankPrograms := by
  induction bs with
  | nil => intros; rfl
  | cons b bs ih => intros; simp [State.ldsWrites, ih]

@[simp] theorem State.coreWrite_threads (s : State) (dom a : Nat) (b : Byte) : (s.coreWrite dom a b).threads = s.threads := by
  unfold State.coreWrite; split <;> rfl
@[simp] theorem State.ldsWrite_threads (s : State) (dom a : Nat) (b : Byte) : (s.ldsWrite dom a b).threads = s.threads := by
  unfold State.ldsWrite; split
  · rfl
  · simp
@[simp] theorem State.ldsWrites_threads (bs : List Byte) : ∀ (s : State) (dom a : Nat), (s.ldsWrites dom a bs).threads = s.threads := by
  induction bs with
  | nil => intros; rfl
  | cons b bs ih => intros; simp [State.ldsWrites, ih]

@[simp] theorem State.coreWrite_frozen (s : State) (dom a : Nat) (b : Byte) : (s.coreWrite dom a b).frozen = s.frozen := by
  unfold State.coreWrite; split <;> rfl
@[simp] theorem State.ldsWrite_frozen (s : State) (dom a : Nat) (b : Byte) : (s.ldsWrite dom a b).frozen = s.frozen := by
  unfold State.ldsWrite; split
  · rfl
  · simp
@[simp] theorem State.ldsWrites_frozen (bs : List Byte) : ∀ (s : State) (dom a : Nat), (s.ldsWrites dom a bs).frozen = s.frozen := by
  induction bs with
  | nil => intros; rfl
  | cons b bs ih => intros; simp [State.ldsWrites, ih]

@[simp] theorem State.coreWrite_restarts (s : State) (dom a : Nat) (b : Byte) : (s.coreWrite dom a b).restarts = s.restarts := by
  unfold State.coreWrite; split <;> rfl
@[simp] theorem State.ldsWrite_restarts (s : State) (dom a : Nat) (b : Byte) : (s.ldsWrite dom a b).restarts = s.restarts := by
  unfold State.ldsWrite; split
  · rfl
  · simp
@[simp] theorem State.ldsWrites_restarts (bs : List Byte) : ∀ (s : State) (dom a : Nat), (s.ldsWrites dom a bs).restarts = s.restarts := by
  induction bs with
  | nil => intros; rfl
  | cons b bs ih => intros; simp [State.ldsWrites, ih]

@[simp] theorem State.coreWrite_rotation (s : State) (dom a : Nat) (b : Byte) : (s.coreWrite dom a b).rotation = s.rotation := by
  unfold State.coreWrite; split <;> rfl
@[simp] theorem State.ldsWrite_rotation (s : State) (dom a : Nat) (b : Byte) : (s.ldsWrite dom a b).rotation = s.rotation := by
  unfold State.ldsWrite; split
  · rfl
  · simp
@[simp] theorem State.ldsWrites_rotation (bs : List Byte) : ∀ (s : State) (dom a : Nat), (s.ldsWrites dom a bs).rotation = s.rotation := by
  induction bs with
  | nil => intros; rfl
  | cons b bs ih => intros; simp [State.ldsWrites, ih]

@[simp] theorem State.coreWrite_coopWaiting (s : State) (dom a : Nat) (b : Byte) : (s.coreWrite dom a b).coopWaiting = s.coopWaiting := by
  unfold State.coreWrite; split <;> rfl
@[simp] theorem State.ldsWrite_coopWaiting (s : State) (dom a : Nat) (b : Byte) : (s.ldsWrite dom a b).coopWaiting = s.coopWaiting := by
  unfold State.ldsWrite; split
  · rfl
  · simp
@[simp] theorem State.ldsWrites_coopWaiting (bs : List Byte) : ∀ (s : State) (dom a : Nat), (s.ldsWrites dom a bs).coopWaiting = s.coopWaiting := by
  induction bs with
  | nil => intros; rfl
  | cons b bs ih => intros; simp [State.ldsWrites, ih]

@[simp] theorem State.coreWrite_coopTold (s : State) (dom a : Nat) (b : Byte) : (s.coreWrite dom a b).coopTold = s.coopTold := by
  unfold State.coreWrite; split <;> rfl
@[simp] theorem State.ldsWrite_coopTold (s : State) (dom a : Nat) (b : Byte) : (s.ldsWrite dom a b).coopTold = s.coopTold := by
  unfold State.ldsWrite; split
  · rfl
  · simp
@[simp] theorem State.ldsWrites_coopTold (bs : List Byte) : ∀ (s : State) (dom a : Nat), (s.ldsWrites dom a bs).coopTold = s.coopTold := by
  induction bs with
  | nil => intros; rfl
  | cons b bs ih => intros; simp [State.ldsWrites, ih]

@[simp] theorem State.coreWrite_nextGrid (s : State) (dom a : Nat) (b : Byte) : (s.coreWrite dom a b).nextGrid = s.nextGrid := by
  unfold State.coreWrite; split <;> rfl
@[simp] theorem State.ldsWrite_nextGrid (s : State) (dom a : Nat) (b : Byte) : (s.ldsWrite dom a b).nextGrid = s.nextGrid := by
  unfold State.ldsWrite; split
  · rfl
  · simp
@[simp] theorem State.ldsWrites_nextGrid (bs : List Byte) : ∀ (s : State) (dom a : Nat), (s.ldsWrites dom a bs).nextGrid = s.nextGrid := by
  induction bs with
  | nil => intros; rfl
  | cons b bs ih => intros; simp [State.ldsWrites, ih]

@[simp] theorem State.coreWrite_nextSerial (s : State) (dom a : Nat) (b : Byte) : (s.coreWrite dom a b).nextSerial = s.nextSerial := by
  unfold State.coreWrite; split <;> rfl
@[simp] theorem State.ldsWrite_nextSerial (s : State) (dom a : Nat) (b : Byte) : (s.ldsWrite dom a b).nextSerial = s.nextSerial := by
  unfold State.ldsWrite; split
  · rfl
  · simp
@[simp] theorem State.ldsWrites_nextSerial (bs : List Byte) : ∀ (s : State) (dom a : Nat), (s.ldsWrites dom a bs).nextSerial = s.nextSerial := by
  induction bs with
  | nil => intros; rfl
  | cons b bs ih => intros; simp [State.ldsWrites, ih]

@[simp] theorem State.coreWrite_nextHandle (s : State) (dom a : Nat) (b : Byte) : (s.coreWrite dom a b).nextHandle = s.nextHandle := by
  unfold State.coreWrite; split <;> rfl
@[simp] theorem State.ldsWrite_nextHandle (s : State) (dom a : Nat) (b : Byte) : (s.ldsWrite dom a b).nextHandle = s.nextHandle := by
  unfold State.ldsWrite; split
  · rfl
  · simp
@[simp] theorem State.ldsWrites_nextHandle (bs : List Byte) : ∀ (s : State) (dom a : Nat), (s.ldsWrites dom a bs).nextHandle = s.nextHandle := by
  induction bs with
  | nil => intros; rfl
  | cons b bs ih => intros; simp [State.ldsWrites, ih]

@[simp] theorem State.coreWrite_nextTrace (s : State) (dom a : Nat) (b : Byte) : (s.coreWrite dom a b).nextTrace = s.nextTrace := by
  unfold State.coreWrite; split <;> rfl
@[simp] theorem State.ldsWrite_nextTrace (s : State) (dom a : Nat) (b : Byte) : (s.ldsWrite dom a b).nextTrace = s.nextTrace := by
  unfold State.ldsWrite; split
  · rfl
  · simp
@[simp] theorem State.ldsWrites_nextTrace (bs : List Byte) : ∀ (s : State) (dom a : Nat), (s.ldsWrites dom a bs).nextTrace = s.nextTrace := by
  induction bs with
  | nil => intros; rfl
  | cons b bs ih => intros; simp [State.ldsWrites, ih]

@[simp] theorem State.coreWrite_nextKey (s : State) (dom a : Nat) (b : Byte) : (s.coreWrite dom a b).nextKey = s.nextKey := by
  unfold State.coreWrite; split <;> rfl
@[simp] theorem State.ldsWrite_nextKey (s : State) (dom a : Nat) (b : Byte) : (s.ldsWrite dom a b).nextKey = s.nextKey := by
  unfold State.ldsWrite; split
  · rfl
  · simp
@[simp] theorem State.ldsWrites_nextKey (bs : List Byte) : ∀ (s : State) (dom a : Nat), (s.ldsWrites dom a bs).nextKey = s.nextKey := by
  induction bs with
  | nil => intros; rfl
  | cons b bs ih => intros; simp [State.ldsWrites, ih]

@[simp] theorem State.coreWrite_links (s : State) (dom a : Nat) (b : Byte) : (s.coreWrite dom a b).links = s.links := by
  unfold State.coreWrite; split <;> rfl
@[simp] theorem State.ldsWrite_links (s : State) (dom a : Nat) (b : Byte) : (s.ldsWrite dom a b).links = s.links := by
  unfold State.ldsWrite; split
  · rfl
  · simp
@[simp] theorem State.ldsWrites_links (bs : List Byte) : ∀ (s : State) (dom a : Nat), (s.ldsWrites dom a bs).links = s.links := by
  induction bs with
  | nil => intros; rfl
  | cons b bs ih => intros; simp [State.ldsWrites, ih]

@[simp] theorem State.coreWrite_deviceNo (s : State) (dom a : Nat) (b : Byte) : (s.coreWrite dom a b).deviceNo = s.deviceNo := by
  unfold State.coreWrite; split <;> rfl
@[simp] theorem State.ldsWrite_deviceNo (s : State) (dom a : Nat) (b : Byte) : (s.ldsWrite dom a b).deviceNo = s.deviceNo := by
  unfold State.ldsWrite; split
  · rfl
  · simp
@[simp] theorem State.ldsWrites_deviceNo (bs : List Byte) : ∀ (s : State) (dom a : Nat), (s.ldsWrites dom a bs).deviceNo = s.deviceNo := by
  induction bs with
  | nil => intros; rfl
  | cons b bs ih => intros; simp [State.ldsWrites, ih]

@[simp] theorem State.coreWrite_exports (s : State) (dom a : Nat) (b : Byte) : (s.coreWrite dom a b).exports = s.exports := by
  unfold State.coreWrite; split <;> rfl
@[simp] theorem State.ldsWrite_exports (s : State) (dom a : Nat) (b : Byte) : (s.ldsWrite dom a b).exports = s.exports := by
  unfold State.ldsWrite; split
  · rfl
  · simp
@[simp] theorem State.ldsWrites_exports (bs : List Byte) : ∀ (s : State) (dom a : Nat), (s.ldsWrites dom a bs).exports = s.exports := by
  induction bs with
  | nil => intros; rfl
  | cons b bs ih => intros; simp [State.ldsWrites, ih]

@[simp] theorem State.coreWrite_groups (s : State) (dom a : Nat) (b : Byte) : (s.coreWrite dom a b).groups = s.groups := by
  unfold State.coreWrite; split <;> rfl
@[simp] theorem State.ldsWrite_groups (s : State) (dom a : Nat) (b : Byte) : (s.ldsWrite dom a b).groups = s.groups := by
  unfold State.ldsWrite; split
  · rfl
  · simp
@[simp] theorem State.ldsWrites_groups (bs : List Byte) : ∀ (s : State) (dom a : Nat), (s.ldsWrites dom a bs).groups = s.groups := by
  induction bs with
  | nil => intros; rfl
  | cons b bs ih => intros; simp [State.ldsWrites, ih]

@[simp] theorem State.coreWrite_staging (s : State) (dom a : Nat) (b : Byte) : (s.coreWrite dom a b).staging = s.staging := by
  unfold State.coreWrite; split <;> rfl
@[simp] theorem State.ldsWrite_staging (s : State) (dom a : Nat) (b : Byte) : (s.ldsWrite dom a b).staging = s.staging := by
  unfold State.ldsWrite; split
  · rfl
  · simp
@[simp] theorem State.ldsWrites_staging (bs : List Byte) : ∀ (s : State) (dom a : Nat), (s.ldsWrites dom a bs).staging = s.staging := by
  induction bs with
  | nil => intros; rfl
  | cons b bs ih => intros; simp [State.ldsWrites, ih]

@[simp] theorem State.coreWrite_archive (s : State) (dom a : Nat) (b : Byte) : (s.coreWrite dom a b).archive = s.archive := by
  unfold State.coreWrite; split <;> rfl
@[simp] theorem State.ldsWrite_archive (s : State) (dom a : Nat) (b : Byte) : (s.ldsWrite dom a b).archive = s.archive := by
  unfold State.ldsWrite; split
  · rfl
  · simp
@[simp] theorem State.ldsWrites_archive (bs : List Byte) : ∀ (s : State) (dom a : Nat), (s.ldsWrites dom a bs).archive = s.archive := by
  induction bs with
  | nil => intros; rfl
  | cons b bs ih => intros; simp [State.ldsWrites, ih]

@[simp] theorem State.coreWrite_archiveNext (s : State) (dom a : Nat) (b : Byte) : (s.coreWrite dom a b).archiveNext = s.archiveNext := by
  unfold State.coreWrite; split <;> rfl
@[simp] theorem State.ldsWrite_archiveNext (s : State) (dom a : Nat) (b : Byte) : (s.ldsWrite dom a b).archiveNext = s.archiveNext := by
  unfold State.ldsWrite; split
  · rfl
  · simp
@[simp] theorem State.ldsWrites_archiveNext (bs : List Byte) : ∀ (s : State) (dom a : Nat), (s.ldsWrites dom a bs).archiveNext = s.archiveNext := by
  induction bs with
  | nil => intros; rfl
  | cons b bs ih => intros; simp [State.ldsWrites, ih]

@[simp] theorem State.coreWrite_lifetime (s : State) (dom a : Nat) (b : Byte) : (s.coreWrite dom a b).lifetime = s.lifetime := by
  unfold State.coreWrite; split <;> rfl
@[simp] theorem State.ldsWrite_lifetime (s : State) (dom a : Nat) (b : Byte) : (s.ldsWrite dom a b).lifetime = s.lifetime := by
  unfold State.ldsWrite; split
  · rfl
  · simp
@[simp] theorem State.ldsWrites_lifetime (bs : List Byte) : ∀ (s : State) (dom a : Nat), (s.ldsWrites dom a bs).lifetime = s.lifetime := by
  induction bs with
  | nil => intros; rfl
  | cons b bs ih => intros; simp [State.ldsWrites, ih]

@[simp] theorem State.coreWrite_startRec (s : State) (dom a : Nat) (b : Byte) : (s.coreWrite dom a b).startRec = s.startRec := by
  unfold State.coreWrite; split <;> rfl
@[simp] theorem State.ldsWrite_startRec (s : State) (dom a : Nat) (b : Byte) : (s.ldsWrite dom a b).startRec = s.startRec := by
  unfold State.ldsWrite; split
  · rfl
  · simp
@[simp] theorem State.ldsWrites_startRec (bs : List Byte) : ∀ (s : State) (dom a : Nat), (s.ldsWrites dom a bs).startRec = s.startRec := by
  induction bs with
  | nil => intros; rfl
  | cons b bs ih => intros; simp [State.ldsWrites, ih]

@[simp] theorem State.coreWrite_islands (s : State) (dom a : Nat) (b : Byte) : (s.coreWrite dom a b).islands = s.islands := by
  unfold State.coreWrite; split <;> rfl
@[simp] theorem State.ldsWrite_islands (s : State) (dom a : Nat) (b : Byte) : (s.ldsWrite dom a b).islands = s.islands := by
  unfold State.ldsWrite; split
  · rfl
  · simp
@[simp] theorem State.ldsWrites_islands (bs : List Byte) : ∀ (s : State) (dom a : Nat), (s.ldsWrites dom a bs).islands = s.islands := by
  induction bs with
  | nil => intros; rfl
  | cons b bs ih => intros; simp [State.ldsWrites, ih]

@[simp] theorem State.coreWrite_powerLimit (s : State) (dom a : Nat) (b : Byte) : (s.coreWrite dom a b).powerLimit = s.powerLimit := by
  unfold State.coreWrite; split <;> rfl
@[simp] theorem State.ldsWrite_powerLimit (s : State) (dom a : Nat) (b : Byte) : (s.ldsWrite dom a b).powerLimit = s.powerLimit := by
  unfold State.ldsWrite; split
  · rfl
  · simp
@[simp] theorem State.ldsWrites_powerLimit (bs : List Byte) : ∀ (s : State) (dom a : Nat), (s.ldsWrites dom a bs).powerLimit = s.powerLimit := by
  induction bs with
  | nil => intros; rfl
  | cons b bs ih => intros; simp [State.ldsWrites, ih]

@[simp] theorem State.coreWrite_errors (s : State) (dom a : Nat) (b : Byte) : (s.coreWrite dom a b).errors = s.errors := by
  unfold State.coreWrite; split <;> rfl
@[simp] theorem State.ldsWrite_errors (s : State) (dom a : Nat) (b : Byte) : (s.ldsWrite dom a b).errors = s.errors := by
  unfold State.ldsWrite; split
  · rfl
  · simp
@[simp] theorem State.ldsWrites_errors (bs : List Byte) : ∀ (s : State) (dom a : Nat), (s.ldsWrites dom a bs).errors = s.errors := by
  induction bs with
  | nil => intros; rfl
  | cons b bs ih => intros; simp [State.ldsWrites, ih]

@[simp] theorem State.coreWrite_readError (s : State) (dom a : Nat) (b : Byte) : (s.coreWrite dom a b).readError = s.readError := by
  unfold State.coreWrite; split <;> rfl
@[simp] theorem State.ldsWrite_readError (s : State) (dom a : Nat) (b : Byte) : (s.ldsWrite dom a b).readError = s.readError := by
  unfold State.ldsWrite; split
  · rfl
  · simp
@[simp] theorem State.ldsWrites_readError (bs : List Byte) : ∀ (s : State) (dom a : Nat), (s.ldsWrites dom a bs).readError = s.readError := by
  induction bs with
  | nil => intros; rfl
  | cons b bs ih => intros; simp [State.ldsWrites, ih]

@[simp] theorem State.coreWrite_reports (s : State) (dom a : Nat) (b : Byte) : (s.coreWrite dom a b).reports = s.reports := by
  unfold State.coreWrite; split <;> rfl
@[simp] theorem State.ldsWrite_reports (s : State) (dom a : Nat) (b : Byte) : (s.ldsWrite dom a b).reports = s.reports := by
  unfold State.ldsWrite; split
  · rfl
  · simp
@[simp] theorem State.ldsWrites_reports (bs : List Byte) : ∀ (s : State) (dom a : Nat), (s.ldsWrites dom a bs).reports = s.reports := by
  induction bs with
  | nil => intros; rfl
  | cons b bs ih => intros; simp [State.ldsWrites, ih]

@[simp] theorem State.coreWrite_agenda (s : State) (dom a : Nat) (b : Byte) : (s.coreWrite dom a b).agenda = s.agenda := by
  unfold State.coreWrite; split <;> rfl
@[simp] theorem State.ldsWrite_agenda (s : State) (dom a : Nat) (b : Byte) : (s.ldsWrite dom a b).agenda = s.agenda := by
  unfold State.ldsWrite; split
  · rfl
  · simp
@[simp] theorem State.ldsWrites_agenda (bs : List Byte) : ∀ (s : State) (dom a : Nat), (s.ldsWrites dom a bs).agenda = s.agenda := by
  induction bs with
  | nil => intros; rfl
  | cons b bs ih => intros; simp [State.ldsWrites, ih]

@[simp] theorem State.coreWrite_cur (s : State) (dom a : Nat) (b : Byte) : (s.coreWrite dom a b).cur = s.cur := by
  unfold State.coreWrite; split <;> rfl
@[simp] theorem State.ldsWrite_cur (s : State) (dom a : Nat) (b : Byte) : (s.ldsWrite dom a b).cur = s.cur := by
  unfold State.ldsWrite; split
  · rfl
  · simp
@[simp] theorem State.ldsWrites_cur (bs : List Byte) : ∀ (s : State) (dom a : Nat), (s.ldsWrites dom a bs).cur = s.cur := by
  induction bs with
  | nil => intros; rfl
  | cons b bs ih => intros; simp [State.ldsWrites, ih]

@[simp] theorem State.coreWrite_fresh (s : State) (dom a : Nat) (b : Byte) : (s.coreWrite dom a b).fresh = s.fresh := by
  unfold State.coreWrite; split <;> rfl
@[simp] theorem State.ldsWrite_fresh (s : State) (dom a : Nat) (b : Byte) : (s.ldsWrite dom a b).fresh = s.fresh := by
  unfold State.ldsWrite; split
  · rfl
  · simp
@[simp] theorem State.ldsWrites_fresh (bs : List Byte) : ∀ (s : State) (dom a : Nat), (s.ldsWrites dom a bs).fresh = s.fresh := by
  induction bs with
  | nil => intros; rfl
  | cons b bs ih => intros; simp [State.ldsWrites, ih]

/-! ### HBM: the fields a write leaves -/

@[simp] theorem State.hbmWrite_waves (s : State) (dom pa : Nat) (b : Byte) : (s.hbmWrite dom pa b).waves = s.waves := by
  unfold State.hbmWrite; split <;> rfl
@[simp] theorem State.hbmWrites_waves (bs : List Byte) : ∀ (s : State) (dom pa : Nat), (s.hbmWrites dom pa bs).waves = s.waves := by
  induction bs with
  | nil => intros; rfl
  | cons b bs ih => intros; simp [State.hbmWrites, ih]

@[simp] theorem State.hbmWrite_blocks (s : State) (dom pa : Nat) (b : Byte) : (s.hbmWrite dom pa b).blocks = s.blocks := by
  unfold State.hbmWrite; split <;> rfl
@[simp] theorem State.hbmWrites_blocks (bs : List Byte) : ∀ (s : State) (dom pa : Nat), (s.hbmWrites dom pa bs).blocks = s.blocks := by
  induction bs with
  | nil => intros; rfl
  | cons b bs ih => intros; simp [State.hbmWrites, ih]

@[simp] theorem State.hbmWrite_grids (s : State) (dom pa : Nat) (b : Byte) : (s.hbmWrite dom pa b).grids = s.grids := by
  unfold State.hbmWrite; split <;> rfl
@[simp] theorem State.hbmWrites_grids (bs : List Byte) : ∀ (s : State) (dom pa : Nat), (s.hbmWrites dom pa bs).grids = s.grids := by
  induction bs with
  | nil => intros; rfl
  | cons b bs ih => intros; simp [State.hbmWrites, ih]

@[simp] theorem State.hbmWrite_kernels (s : State) (dom pa : Nat) (b : Byte) : (s.hbmWrite dom pa b).kernels = s.kernels := by
  unfold State.hbmWrite; split <;> rfl
@[simp] theorem State.hbmWrites_kernels (bs : List Byte) : ∀ (s : State) (dom pa : Nat), (s.hbmWrites dom pa bs).kernels = s.kernels := by
  induction bs with
  | nil => intros; rfl
  | cons b bs ih => intros; simp [State.hbmWrites, ih]

@[simp] theorem State.hbmWrite_contexts (s : State) (dom pa : Nat) (b : Byte) : (s.hbmWrite dom pa b).contexts = s.contexts := by
  unfold State.hbmWrite; split <;> rfl
@[simp] theorem State.hbmWrites_contexts (bs : List Byte) : ∀ (s : State) (dom pa : Nat), (s.hbmWrites dom pa bs).contexts = s.contexts := by
  induction bs with
  | nil => intros; rfl
  | cons b bs ih => intros; simp [State.hbmWrites, ih]

@[simp] theorem State.hbmWrite_dies (s : State) (dom pa : Nat) (b : Byte) : (s.hbmWrite dom pa b).dies = s.dies := by
  unfold State.hbmWrite; split <;> rfl
@[simp] theorem State.hbmWrites_dies (bs : List Byte) : ∀ (s : State) (dom pa : Nat), (s.hbmWrites dom pa bs).dies = s.dies := by
  induction bs with
  | nil => intros; rfl
  | cons b bs ih => intros; simp [State.hbmWrites, ih]

@[simp] theorem State.hbmWrite_cores (s : State) (dom pa : Nat) (b : Byte) : (s.hbmWrite dom pa b).cores = s.cores := by
  unfold State.hbmWrite; split <;> rfl
@[simp] theorem State.hbmWrites_cores (bs : List Byte) : ∀ (s : State) (dom pa : Nat), (s.hbmWrites dom pa bs).cores = s.cores := by
  induction bs with
  | nil => intros; rfl
  | cons b bs ih => intros; simp [State.hbmWrites, ih]

@[simp] theorem State.hbmWrite_cards (s : State) (dom pa : Nat) (b : Byte) : (s.hbmWrite dom pa b).cards = s.cards := by
  unfold State.hbmWrite; split <;> rfl
@[simp] theorem State.hbmWrites_cards (bs : List Byte) : ∀ (s : State) (dom pa : Nat), (s.hbmWrites dom pa bs).cards = s.cards := by
  induction bs with
  | nil => intros; rfl
  | cons b bs ih => intros; simp [State.hbmWrites, ih]

@[simp] theorem State.hbmWrite_lds (s : State) (dom pa : Nat) (b : Byte) : (s.hbmWrite dom pa b).lds = s.lds := by
  unfold State.hbmWrite; split <;> rfl
@[simp] theorem State.hbmWrites_lds (bs : List Byte) : ∀ (s : State) (dom pa : Nat), (s.hbmWrites dom pa bs).lds = s.lds := by
  induction bs with
  | nil => intros; rfl
  | cons b bs ih => intros; simp [State.hbmWrites, ih]

@[simp] theorem State.hbmWrite_ldsTags (s : State) (dom pa : Nat) (b : Byte) : (s.hbmWrite dom pa b).ldsTags = s.ldsTags := by
  unfold State.hbmWrite; split <;> rfl
@[simp] theorem State.hbmWrites_ldsTags (bs : List Byte) : ∀ (s : State) (dom pa : Nat), (s.hbmWrites dom pa bs).ldsTags = s.ldsTags := by
  induction bs with
  | nil => intros; rfl
  | cons b bs ih => intros; simp [State.hbmWrites, ih]

@[simp] theorem State.hbmWrite_domains (s : State) (dom pa : Nat) (b : Byte) : (s.hbmWrite dom pa b).domains = s.domains := by
  unfold State.hbmWrite; split <;> rfl
@[simp] theorem State.hbmWrites_domains (bs : List Byte) : ∀ (s : State) (dom pa : Nat), (s.hbmWrites dom pa bs).domains = s.domains := by
  induction bs with
  | nil => intros; rfl
  | cons b bs ih => intros; simp [State.hbmWrites, ih]

@[simp] theorem State.hbmWrite_regions (s : State) (dom pa : Nat) (b : Byte) : (s.hbmWrite dom pa b).regions = s.regions := by
  unfold State.hbmWrite; split <;> rfl
@[simp] theorem State.hbmWrites_regions (bs : List Byte) : ∀ (s : State) (dom pa : Nat), (s.hbmWrites dom pa bs).regions = s.regions := by
  induction bs with
  | nil => intros; rfl
  | cons b bs ih => intros; simp [State.hbmWrites, ih]

@[simp] theorem State.hbmWrite_cascades (s : State) (dom pa : Nat) (b : Byte) : (s.hbmWrite dom pa b).cascades = s.cascades := by
  unfold State.hbmWrite; split <;> rfl
@[simp] theorem State.hbmWrites_cascades (bs : List Byte) : ∀ (s : State) (dom pa : Nat), (s.hbmWrites dom pa bs).cascades = s.cascades := by
  induction bs with
  | nil => intros; rfl
  | cons b bs ih => intros; simp [State.hbmWrites, ih]

@[simp] theorem State.hbmWrite_invalidations (s : State) (dom pa : Nat) (b : Byte) : (s.hbmWrite dom pa b).invalidations = s.invalidations := by
  unfold State.hbmWrite; split <;> rfl
@[simp] theorem State.hbmWrites_invalidations (bs : List Byte) : ∀ (s : State) (dom pa : Nat), (s.hbmWrites dom pa bs).invalidations = s.invalidations := by
  induction bs with
  | nil => intros; rfl
  | cons b bs ih => intros; simp [State.hbmWrites, ih]

@[simp] theorem State.hbmWrite_seqs (s : State) (dom pa : Nat) (b : Byte) : (s.hbmWrite dom pa b).seqs = s.seqs := by
  unfold State.hbmWrite; split <;> rfl
@[simp] theorem State.hbmWrites_seqs (bs : List Byte) : ∀ (s : State) (dom pa : Nat), (s.hbmWrites dom pa bs).seqs = s.seqs := by
  induction bs with
  | nil => intros; rfl
  | cons b bs ih => intros; simp [State.hbmWrites, ih]

@[simp] theorem State.hbmWrite_queues (s : State) (dom pa : Nat) (b : Byte) : (s.hbmWrite dom pa b).queues = s.queues := by
  unfold State.hbmWrite; split <;> rfl
@[simp] theorem State.hbmWrites_queues (bs : List Byte) : ∀ (s : State) (dom pa : Nat), (s.hbmWrites dom pa bs).queues = s.queues := by
  induction bs with
  | nil => intros; rfl
  | cons b bs ih => intros; simp [State.hbmWrites, ih]

@[simp] theorem State.hbmWrite_pifo (s : State) (dom pa : Nat) (b : Byte) : (s.hbmWrite dom pa b).pifo = s.pifo := by
  unfold State.hbmWrite; split <;> rfl
@[simp] theorem State.hbmWrites_pifo (bs : List Byte) : ∀ (s : State) (dom pa : Nat), (s.hbmWrites dom pa bs).pifo = s.pifo := by
  induction bs with
  | nil => intros; rfl
  | cons b bs ih => intros; simp [State.hbmWrites, ih]

@[simp] theorem State.hbmWrite_rankPrograms (s : State) (dom pa : Nat) (b : Byte) : (s.hbmWrite dom pa b).rankPrograms = s.rankPrograms := by
  unfold State.hbmWrite; split <;> rfl
@[simp] theorem State.hbmWrites_rankPrograms (bs : List Byte) : ∀ (s : State) (dom pa : Nat), (s.hbmWrites dom pa bs).rankPrograms = s.rankPrograms := by
  induction bs with
  | nil => intros; rfl
  | cons b bs ih => intros; simp [State.hbmWrites, ih]

@[simp] theorem State.hbmWrite_threads (s : State) (dom pa : Nat) (b : Byte) : (s.hbmWrite dom pa b).threads = s.threads := by
  unfold State.hbmWrite; split <;> rfl
@[simp] theorem State.hbmWrites_threads (bs : List Byte) : ∀ (s : State) (dom pa : Nat), (s.hbmWrites dom pa bs).threads = s.threads := by
  induction bs with
  | nil => intros; rfl
  | cons b bs ih => intros; simp [State.hbmWrites, ih]

@[simp] theorem State.hbmWrite_frozen (s : State) (dom pa : Nat) (b : Byte) : (s.hbmWrite dom pa b).frozen = s.frozen := by
  unfold State.hbmWrite; split <;> rfl
@[simp] theorem State.hbmWrites_frozen (bs : List Byte) : ∀ (s : State) (dom pa : Nat), (s.hbmWrites dom pa bs).frozen = s.frozen := by
  induction bs with
  | nil => intros; rfl
  | cons b bs ih => intros; simp [State.hbmWrites, ih]

@[simp] theorem State.hbmWrite_restarts (s : State) (dom pa : Nat) (b : Byte) : (s.hbmWrite dom pa b).restarts = s.restarts := by
  unfold State.hbmWrite; split <;> rfl
@[simp] theorem State.hbmWrites_restarts (bs : List Byte) : ∀ (s : State) (dom pa : Nat), (s.hbmWrites dom pa bs).restarts = s.restarts := by
  induction bs with
  | nil => intros; rfl
  | cons b bs ih => intros; simp [State.hbmWrites, ih]

@[simp] theorem State.hbmWrite_rotation (s : State) (dom pa : Nat) (b : Byte) : (s.hbmWrite dom pa b).rotation = s.rotation := by
  unfold State.hbmWrite; split <;> rfl
@[simp] theorem State.hbmWrites_rotation (bs : List Byte) : ∀ (s : State) (dom pa : Nat), (s.hbmWrites dom pa bs).rotation = s.rotation := by
  induction bs with
  | nil => intros; rfl
  | cons b bs ih => intros; simp [State.hbmWrites, ih]

@[simp] theorem State.hbmWrite_coopWaiting (s : State) (dom pa : Nat) (b : Byte) : (s.hbmWrite dom pa b).coopWaiting = s.coopWaiting := by
  unfold State.hbmWrite; split <;> rfl
@[simp] theorem State.hbmWrites_coopWaiting (bs : List Byte) : ∀ (s : State) (dom pa : Nat), (s.hbmWrites dom pa bs).coopWaiting = s.coopWaiting := by
  induction bs with
  | nil => intros; rfl
  | cons b bs ih => intros; simp [State.hbmWrites, ih]

@[simp] theorem State.hbmWrite_coopTold (s : State) (dom pa : Nat) (b : Byte) : (s.hbmWrite dom pa b).coopTold = s.coopTold := by
  unfold State.hbmWrite; split <;> rfl
@[simp] theorem State.hbmWrites_coopTold (bs : List Byte) : ∀ (s : State) (dom pa : Nat), (s.hbmWrites dom pa bs).coopTold = s.coopTold := by
  induction bs with
  | nil => intros; rfl
  | cons b bs ih => intros; simp [State.hbmWrites, ih]

@[simp] theorem State.hbmWrite_nextGrid (s : State) (dom pa : Nat) (b : Byte) : (s.hbmWrite dom pa b).nextGrid = s.nextGrid := by
  unfold State.hbmWrite; split <;> rfl
@[simp] theorem State.hbmWrites_nextGrid (bs : List Byte) : ∀ (s : State) (dom pa : Nat), (s.hbmWrites dom pa bs).nextGrid = s.nextGrid := by
  induction bs with
  | nil => intros; rfl
  | cons b bs ih => intros; simp [State.hbmWrites, ih]

@[simp] theorem State.hbmWrite_nextSerial (s : State) (dom pa : Nat) (b : Byte) : (s.hbmWrite dom pa b).nextSerial = s.nextSerial := by
  unfold State.hbmWrite; split <;> rfl
@[simp] theorem State.hbmWrites_nextSerial (bs : List Byte) : ∀ (s : State) (dom pa : Nat), (s.hbmWrites dom pa bs).nextSerial = s.nextSerial := by
  induction bs with
  | nil => intros; rfl
  | cons b bs ih => intros; simp [State.hbmWrites, ih]

@[simp] theorem State.hbmWrite_nextHandle (s : State) (dom pa : Nat) (b : Byte) : (s.hbmWrite dom pa b).nextHandle = s.nextHandle := by
  unfold State.hbmWrite; split <;> rfl
@[simp] theorem State.hbmWrites_nextHandle (bs : List Byte) : ∀ (s : State) (dom pa : Nat), (s.hbmWrites dom pa bs).nextHandle = s.nextHandle := by
  induction bs with
  | nil => intros; rfl
  | cons b bs ih => intros; simp [State.hbmWrites, ih]

@[simp] theorem State.hbmWrite_nextTrace (s : State) (dom pa : Nat) (b : Byte) : (s.hbmWrite dom pa b).nextTrace = s.nextTrace := by
  unfold State.hbmWrite; split <;> rfl
@[simp] theorem State.hbmWrites_nextTrace (bs : List Byte) : ∀ (s : State) (dom pa : Nat), (s.hbmWrites dom pa bs).nextTrace = s.nextTrace := by
  induction bs with
  | nil => intros; rfl
  | cons b bs ih => intros; simp [State.hbmWrites, ih]

@[simp] theorem State.hbmWrite_nextKey (s : State) (dom pa : Nat) (b : Byte) : (s.hbmWrite dom pa b).nextKey = s.nextKey := by
  unfold State.hbmWrite; split <;> rfl
@[simp] theorem State.hbmWrites_nextKey (bs : List Byte) : ∀ (s : State) (dom pa : Nat), (s.hbmWrites dom pa bs).nextKey = s.nextKey := by
  induction bs with
  | nil => intros; rfl
  | cons b bs ih => intros; simp [State.hbmWrites, ih]

@[simp] theorem State.hbmWrite_links (s : State) (dom pa : Nat) (b : Byte) : (s.hbmWrite dom pa b).links = s.links := by
  unfold State.hbmWrite; split <;> rfl
@[simp] theorem State.hbmWrites_links (bs : List Byte) : ∀ (s : State) (dom pa : Nat), (s.hbmWrites dom pa bs).links = s.links := by
  induction bs with
  | nil => intros; rfl
  | cons b bs ih => intros; simp [State.hbmWrites, ih]

@[simp] theorem State.hbmWrite_deviceNo (s : State) (dom pa : Nat) (b : Byte) : (s.hbmWrite dom pa b).deviceNo = s.deviceNo := by
  unfold State.hbmWrite; split <;> rfl
@[simp] theorem State.hbmWrites_deviceNo (bs : List Byte) : ∀ (s : State) (dom pa : Nat), (s.hbmWrites dom pa bs).deviceNo = s.deviceNo := by
  induction bs with
  | nil => intros; rfl
  | cons b bs ih => intros; simp [State.hbmWrites, ih]

@[simp] theorem State.hbmWrite_exports (s : State) (dom pa : Nat) (b : Byte) : (s.hbmWrite dom pa b).exports = s.exports := by
  unfold State.hbmWrite; split <;> rfl
@[simp] theorem State.hbmWrites_exports (bs : List Byte) : ∀ (s : State) (dom pa : Nat), (s.hbmWrites dom pa bs).exports = s.exports := by
  induction bs with
  | nil => intros; rfl
  | cons b bs ih => intros; simp [State.hbmWrites, ih]

@[simp] theorem State.hbmWrite_groups (s : State) (dom pa : Nat) (b : Byte) : (s.hbmWrite dom pa b).groups = s.groups := by
  unfold State.hbmWrite; split <;> rfl
@[simp] theorem State.hbmWrites_groups (bs : List Byte) : ∀ (s : State) (dom pa : Nat), (s.hbmWrites dom pa bs).groups = s.groups := by
  induction bs with
  | nil => intros; rfl
  | cons b bs ih => intros; simp [State.hbmWrites, ih]

@[simp] theorem State.hbmWrite_staging (s : State) (dom pa : Nat) (b : Byte) : (s.hbmWrite dom pa b).staging = s.staging := by
  unfold State.hbmWrite; split <;> rfl
@[simp] theorem State.hbmWrites_staging (bs : List Byte) : ∀ (s : State) (dom pa : Nat), (s.hbmWrites dom pa bs).staging = s.staging := by
  induction bs with
  | nil => intros; rfl
  | cons b bs ih => intros; simp [State.hbmWrites, ih]

@[simp] theorem State.hbmWrite_archive (s : State) (dom pa : Nat) (b : Byte) : (s.hbmWrite dom pa b).archive = s.archive := by
  unfold State.hbmWrite; split <;> rfl
@[simp] theorem State.hbmWrites_archive (bs : List Byte) : ∀ (s : State) (dom pa : Nat), (s.hbmWrites dom pa bs).archive = s.archive := by
  induction bs with
  | nil => intros; rfl
  | cons b bs ih => intros; simp [State.hbmWrites, ih]

@[simp] theorem State.hbmWrite_archiveNext (s : State) (dom pa : Nat) (b : Byte) : (s.hbmWrite dom pa b).archiveNext = s.archiveNext := by
  unfold State.hbmWrite; split <;> rfl
@[simp] theorem State.hbmWrites_archiveNext (bs : List Byte) : ∀ (s : State) (dom pa : Nat), (s.hbmWrites dom pa bs).archiveNext = s.archiveNext := by
  induction bs with
  | nil => intros; rfl
  | cons b bs ih => intros; simp [State.hbmWrites, ih]

@[simp] theorem State.hbmWrite_lifetime (s : State) (dom pa : Nat) (b : Byte) : (s.hbmWrite dom pa b).lifetime = s.lifetime := by
  unfold State.hbmWrite; split <;> rfl
@[simp] theorem State.hbmWrites_lifetime (bs : List Byte) : ∀ (s : State) (dom pa : Nat), (s.hbmWrites dom pa bs).lifetime = s.lifetime := by
  induction bs with
  | nil => intros; rfl
  | cons b bs ih => intros; simp [State.hbmWrites, ih]

@[simp] theorem State.hbmWrite_startRec (s : State) (dom pa : Nat) (b : Byte) : (s.hbmWrite dom pa b).startRec = s.startRec := by
  unfold State.hbmWrite; split <;> rfl
@[simp] theorem State.hbmWrites_startRec (bs : List Byte) : ∀ (s : State) (dom pa : Nat), (s.hbmWrites dom pa bs).startRec = s.startRec := by
  induction bs with
  | nil => intros; rfl
  | cons b bs ih => intros; simp [State.hbmWrites, ih]

@[simp] theorem State.hbmWrite_islands (s : State) (dom pa : Nat) (b : Byte) : (s.hbmWrite dom pa b).islands = s.islands := by
  unfold State.hbmWrite; split <;> rfl
@[simp] theorem State.hbmWrites_islands (bs : List Byte) : ∀ (s : State) (dom pa : Nat), (s.hbmWrites dom pa bs).islands = s.islands := by
  induction bs with
  | nil => intros; rfl
  | cons b bs ih => intros; simp [State.hbmWrites, ih]

@[simp] theorem State.hbmWrite_powerLimit (s : State) (dom pa : Nat) (b : Byte) : (s.hbmWrite dom pa b).powerLimit = s.powerLimit := by
  unfold State.hbmWrite; split <;> rfl
@[simp] theorem State.hbmWrites_powerLimit (bs : List Byte) : ∀ (s : State) (dom pa : Nat), (s.hbmWrites dom pa bs).powerLimit = s.powerLimit := by
  induction bs with
  | nil => intros; rfl
  | cons b bs ih => intros; simp [State.hbmWrites, ih]

@[simp] theorem State.hbmWrite_errors (s : State) (dom pa : Nat) (b : Byte) : (s.hbmWrite dom pa b).errors = s.errors := by
  unfold State.hbmWrite; split <;> rfl
@[simp] theorem State.hbmWrites_errors (bs : List Byte) : ∀ (s : State) (dom pa : Nat), (s.hbmWrites dom pa bs).errors = s.errors := by
  induction bs with
  | nil => intros; rfl
  | cons b bs ih => intros; simp [State.hbmWrites, ih]

@[simp] theorem State.hbmWrite_readError (s : State) (dom pa : Nat) (b : Byte) : (s.hbmWrite dom pa b).readError = s.readError := by
  unfold State.hbmWrite; split <;> rfl
@[simp] theorem State.hbmWrites_readError (bs : List Byte) : ∀ (s : State) (dom pa : Nat), (s.hbmWrites dom pa bs).readError = s.readError := by
  induction bs with
  | nil => intros; rfl
  | cons b bs ih => intros; simp [State.hbmWrites, ih]

@[simp] theorem State.hbmWrite_ldsWrote (s : State) (dom pa : Nat) (b : Byte) : (s.hbmWrite dom pa b).ldsWrote = s.ldsWrote := by
  unfold State.hbmWrite; split <;> rfl
@[simp] theorem State.hbmWrites_ldsWrote (bs : List Byte) : ∀ (s : State) (dom pa : Nat), (s.hbmWrites dom pa bs).ldsWrote = s.ldsWrote := by
  induction bs with
  | nil => intros; rfl
  | cons b bs ih => intros; simp [State.hbmWrites, ih]

@[simp] theorem State.hbmWrite_reports (s : State) (dom pa : Nat) (b : Byte) : (s.hbmWrite dom pa b).reports = s.reports := by
  unfold State.hbmWrite; split <;> rfl
@[simp] theorem State.hbmWrites_reports (bs : List Byte) : ∀ (s : State) (dom pa : Nat), (s.hbmWrites dom pa bs).reports = s.reports := by
  induction bs with
  | nil => intros; rfl
  | cons b bs ih => intros; simp [State.hbmWrites, ih]

@[simp] theorem State.hbmWrite_agenda (s : State) (dom pa : Nat) (b : Byte) : (s.hbmWrite dom pa b).agenda = s.agenda := by
  unfold State.hbmWrite; split <;> rfl
@[simp] theorem State.hbmWrites_agenda (bs : List Byte) : ∀ (s : State) (dom pa : Nat), (s.hbmWrites dom pa bs).agenda = s.agenda := by
  induction bs with
  | nil => intros; rfl
  | cons b bs ih => intros; simp [State.hbmWrites, ih]

@[simp] theorem State.hbmWrite_cur (s : State) (dom pa : Nat) (b : Byte) : (s.hbmWrite dom pa b).cur = s.cur := by
  unfold State.hbmWrite; split <;> rfl
@[simp] theorem State.hbmWrites_cur (bs : List Byte) : ∀ (s : State) (dom pa : Nat), (s.hbmWrites dom pa bs).cur = s.cur := by
  induction bs with
  | nil => intros; rfl
  | cons b bs ih => intros; simp [State.hbmWrites, ih]

@[simp] theorem State.hbmWrite_fresh (s : State) (dom pa : Nat) (b : Byte) : (s.hbmWrite dom pa b).fresh = s.fresh := by
  unfold State.hbmWrite; split <;> rfl
@[simp] theorem State.hbmWrites_fresh (bs : List Byte) : ∀ (s : State) (dom pa : Nat), (s.hbmWrites dom pa bs).fresh = s.fresh := by
  induction bs with
  | nil => intros; rfl
  | cons b bs ih => intros; simp [State.hbmWrites, ih]

/-! ### Spill granules -/

/-- Which bytes lie in spill stacks depends on the blocks and the waves alone. -/
theorem State.inSpill_congr {s t : State} (hw : t.waves = s.waves) (hb : t.blocks = s.blocks) (a : Nat) :
    t.inSpill a = s.inSpill a := by
  unfold State.inSpill; rw [hw, hb]

@[simp] theorem State.inSpill_coreWrite (s : State) (dom a : Nat) (b : Byte) (c : Nat) :
    (s.coreWrite dom a b).inSpill c = s.inSpill c :=
  State.inSpill_congr (by simp) (by simp) c

@[simp] theorem State.inSpill_ldsWrite (s : State) (dom a : Nat) (b : Byte) (c : Nat) :
    (s.ldsWrite dom a b).inSpill c = s.inSpill c :=
  State.inSpill_congr (by simp) (by simp) c

@[simp] theorem State.inSpill_ldsWrites (s : State) (dom a : Nat) (bs : List Byte) (c : Nat) :
    (s.ldsWrites dom a bs).inSpill c = s.inSpill c :=
  State.inSpill_congr (by simp) (by simp) c

/-! ### Reading a local store after a write, whatever lies there (R248) -/

/-- After a write the granule is the writing domain's. -/
@[simp] theorem State.ldsTags_coreWrite (s : State) (dom a : Nat) (b : Byte) :
    (s.coreWrite dom a b).ldsTags.get (a / 4096) = some dom := by
  unfold State.coreWrite
  split
  · next ht => exact ht
  · simp

/-- Tags of other granules stay. -/
theorem State.ldsTags_coreWrite_ne (s : State) (dom a : Nat) (b : Byte) {g : Nat} (h : g ≠ a / 4096) :
    (s.coreWrite dom a b).ldsTags.get g = s.ldsTags.get g := by
  unfold State.coreWrite
  split
  · rfl
  · exact Tbl.get_put_ne _ _ h

/-- The byte written is the byte held. -/
theorem State.ldsRaw_coreWrite (s : State) (dom a : Nat) (b : Byte) (hm : Memory.wf (some 0) s.lds = true) :
    (s.coreWrite dom a b).ldsRaw a = b := by
  unfold State.coreWrite State.ldsRaw
  split
  · exact Memory.getD_set (lo := 0) hm a b
  · exact Memory.getD_set (lo := 0) (Memory.wf_clearGranule hm _) a b

/-- A domain that owns the granule leaves every other byte held as it was. -/
theorem State.ldsRaw_coreWrite_ne (s : State) (dom a : Nat) (b : Byte) {c : Nat} (h : c ≠ a)
    (ht : c / 4096 ≠ a / 4096 ∨ s.ldsTags.get (a / 4096) = some dom) : (s.coreWrite dom a b).ldsRaw c = s.ldsRaw c := by
  unfold State.coreWrite State.ldsRaw
  split
  · simp only [Memory.find_set_ne _ _ _ h]
  · next hn =>
    obtain ht | ht := ht
    · simp only [Memory.find_set_ne _ _ _ h, Memory.find_clearGranule_ne ht]
    · exact absurd ht hn

/-- A domain reads back what it wrote. -/
theorem State.coreRead_coreWrite (s : State) (dom a : Nat) (b : Byte) (hm : Memory.wf (some 0) s.lds = true) :
    (s.coreWrite dom a b).coreRead dom a = b := by
  unfold State.coreRead
  rw [State.ldsTags_coreWrite, if_pos rfl]
  exact State.ldsRaw_coreWrite s dom a b hm

/-- Bytes of other granules read as before, under every domain. -/
theorem State.coreRead_coreWrite_granule (s : State) (dom a : Nat) (b : Byte) (e : Nat) {c : Nat} (h : c / 4096 ≠ a / 4096) :
    (s.coreWrite dom a b).coreRead e c = s.coreRead e c := by
  unfold State.coreRead
  rw [State.ldsTags_coreWrite_ne _ _ _ _ h, State.ldsRaw_coreWrite_ne _ _ _ _ (fun hc => h (by rw [hc])) (.inl h)]

/-- Other bytes of a granule that the domain owns read as before. -/
theorem State.coreRead_coreWrite_own (s : State) (dom a : Nat) (b : Byte) (e : Nat) {c : Nat} (h : c ≠ a)
    (ht : s.ldsTags.get (a / 4096) = some dom) : (s.coreWrite dom a b).coreRead e c = s.coreRead e c := by
  have hl : (s.coreWrite dom a b).ldsTags = s.ldsTags := by
    unfold State.coreWrite; rw [if_pos ht]
  unfold State.coreRead
  rw [hl, State.ldsRaw_coreWrite_ne _ _ _ _ h (.inr ht)]

/-- Other bytes of a granule that a write takes from another domain read as 0. -/
theorem State.coreRead_coreWrite_taken (s : State) (dom a : Nat) (b : Byte) {c : Nat} (h : c ≠ a) (hg : c / 4096 = a / 4096)
    (ht : s.ldsTags.get (a / 4096) ≠ some dom) : (s.coreWrite dom a b).coreRead dom c = 0 := by
  unfold State.coreRead
  rw [hg, State.ldsTags_coreWrite]
  simp only [if_true, State.ldsRaw, State.coreWrite, ht, if_false]
  rw [Memory.find_set_ne _ _ _ h, Memory.find_clearGranule hg]; rfl

/-! ### Reading a local store after a write by a window or an engine (R171, R248) -/

/-- A write into a spill stack is discarded. -/
theorem State.ldsWrite_spill (s : State) (dom a : Nat) (b : Byte) (h : s.inSpill a = true) : s.ldsWrite dom a b = s := by
  simp [State.ldsWrite, h]

theorem State.ldsWrite_open (s : State) (dom a : Nat) (b : Byte) (h : s.inSpill a = false) :
    s.ldsWrite dom a b = s.coreWrite dom a b := by
  simp [State.ldsWrite, h]

/-- After a write the granule is the writing domain's. -/
theorem State.ldsTags_ldsWrite (s : State) (dom a : Nat) (b : Byte) (h : s.inSpill a = false) :
    (s.ldsWrite dom a b).ldsTags.get (a / 4096) = some dom := by
  simp [State.ldsWrite_open _ _ _ _ h]

/-- The byte written is the byte held. -/
theorem State.ldsRaw_ldsWrite (s : State) (dom a : Nat) (b : Byte) (h : s.inSpill a = false)
    (hm : Memory.wf (some 0) s.lds = true) : (s.ldsWrite dom a b).ldsRaw a = b := by
  rw [State.ldsWrite_open _ _ _ _ h]; exact State.ldsRaw_coreWrite s dom a b hm

/-- A domain reads back what it wrote. -/
theorem State.ldsRead_ldsWrite (s : State) (dom a : Nat) (b : Byte) (h : s.inSpill a = false)
    (hm : Memory.wf (some 0) s.lds = true) : (s.ldsWrite dom a b).ldsRead dom a = b := by
  unfold State.ldsRead
  rw [State.inSpill_ldsWrite, h, State.ldsWrite_open _ _ _ _ h]
  exact State.coreRead_coreWrite s dom a b hm

/-- Bytes of other granules read as before, under every domain. -/
theorem State.ldsRead_ldsWrite_granule (s : State) (dom a : Nat) (b : Byte) (e : Nat) {c : Nat} (h : c / 4096 ≠ a / 4096) :
    (s.ldsWrite dom a b).ldsRead e c = s.ldsRead e c := by
  unfold State.ldsRead
  rw [State.inSpill_ldsWrite]
  cases ha : s.inSpill a
  · rw [State.ldsWrite_open _ _ _ _ ha, State.coreRead_coreWrite_granule _ _ _ _ _ h]
  · rw [State.ldsWrite_spill _ _ _ _ ha]

/-- Other bytes of a granule that the domain owns read as before. -/
theorem State.ldsRead_ldsWrite_own (s : State) (dom a : Nat) (b : Byte) (e : Nat) {c : Nat} (h : c ≠ a)
    (ht : s.ldsTags.get (a / 4096) = some dom) : (s.ldsWrite dom a b).ldsRead e c = s.ldsRead e c := by
  unfold State.ldsRead
  rw [State.inSpill_ldsWrite]
  cases ha : s.inSpill a
  · rw [State.ldsWrite_open _ _ _ _ ha, State.coreRead_coreWrite_own _ _ _ _ _ h ht]
  · rw [State.ldsWrite_spill _ _ _ _ ha]

/-- Other bytes of a granule that a write takes from another domain read as 0. -/
theorem State.ldsRead_ldsWrite_taken (s : State) (dom a : Nat) (b : Byte) {c : Nat} (h : c ≠ a) (hg : c / 4096 = a / 4096)
    (hs : s.inSpill a = false) (ht : s.ldsTags.get (a / 4096) ≠ some dom) : (s.ldsWrite dom a b).ldsRead dom c = 0 := by
  unfold State.ldsRead
  split
  · rfl
  · rw [State.ldsWrite_open _ _ _ _ hs]; exact State.coreRead_coreWrite_taken s dom a b h hg ht

/-! ### Reading HBM after a write (R247) -/

@[simp] theorem State.decipher_hbmWrite (s : State) (dom pa : Nat) (b : Byte) (e a : Nat) (x : Option Byte) (y : Option Nat) :
    (s.hbmWrite dom pa b).decipher e a x y = s.decipher e a x y := by
  simp [State.decipher, State.domain]

theorem State.hbmRead_hbmWrite (s : State) (dom pa : Nat) (b : Byte) (h : pa < hbmBytes) :
    (s.hbmWrite dom pa b).hbmRead dom pa = b := by
  rw [State.hbmRead, State.decipher_hbmWrite]
  simp [State.hbmWrite, Nat.not_le.mpr h, State.decipher]

theorem State.hbmRead_hbmWrite_ne (s : State) (dom pa : Nat) (b : Byte) (e : Nat) {c : Nat} (h : c ≠ pa) :
    (s.hbmWrite dom pa b).hbmRead e c = s.hbmRead e c := by
  rw [State.hbmRead, State.decipher_hbmWrite, State.hbmRead]
  unfold State.hbmWrite
  split
  · rfl
  · simp only [Memory.find_set_ne _ _ _ h, Tbl.get_put_ne _ _ h]

theorem State.hbmRead_hbmWrites_ne (bs : List Byte) : ∀ (s : State) (dom pa e : Nat) {c : Nat},
    (c < pa ∨ pa + bs.length ≤ c) → (s.hbmWrites dom pa bs).hbmRead e c = s.hbmRead e c := by
  induction bs with
  | nil => intros; rfl
  | cons b bs ih =>
    intro s dom pa e c h
    simp only [List.length_cons] at h
    rw [State.hbmWrites, ih _ _ _ _ (by omega), State.hbmRead_hbmWrite_ne _ _ _ _ _ (by omega)]

/-! ### Bytes outside a run of writes -/

theorem State.ldsRead_ldsWrites_granule (bs : List Byte) : ∀ (s : State) (dom a e : Nat) {c : Nat},
    (∀ i, i < bs.length → c / 4096 ≠ (a + i) / 4096) → (s.ldsWrites dom a bs).ldsRead e c = s.ldsRead e c := by
  induction bs with
  | nil => intros; rfl
  | cons b bs ih =>
    intro s dom a e c h
    rw [State.ldsWrites, ih, State.ldsRead_ldsWrite_granule]
    · exact h 0 (by simp)
    · intro i hi
      have := h (i + 1) (by simp; omega)
      rwa [show a + 1 + i = a + (i + 1) by omega]

end Sys2Proof.Machine
end

