-- ==== Sys2Proof/Laws/Issue.lean ====
section
/-! SUPPORT. Issue of an instruction: what `issue` answers once the checks before a meaning have passed, and which parts of
the state the operations shared by meanings leave alone. -/

namespace Sys2Proof.Machine

@[simp] theorem State.begun_cur (s : State) (n : Nat) (w : Wave) : (s.begun n w).cur = s.cur := rfl

/-- The current wave after it has begun. -/
theorem State.begun_wave {s : State} {n : Nat} {v w : Wave} (h : s.waves.get n = some w) :
    (s.begun n v).waves.get n = some w.begun := by
  show Tbl.get ((s.waves.upd n Wave.begun)) n = _
  rw [Tbl.get_upd, h]; rfl

/-- The checks pass: `issue` comes to what the meaning comes to. -/
theorem issue_of {i : Instr} {s : State} {v : Wave} {x : WCtx} {r : Raw} {o : Op} (body : State → Wave → WCtx → Res)
    (hw : s.waves.get s.cur = some v) (hx : (s.begun s.cur v).wctx v.begun = some x) (hr : i.toRaw = some r)
    (ho : Op.ofCode r.op = some o) (hd : decodeFault (x.decode v.begun) r = none) (hi : v.begun.interlocked o r = false) :
    issue i s body = .next ((s.begun s.cur v).finish s.cur v.begun x (body (s.begun s.cur v) v.begun x)) := by
  simp only [issue, hw, hx, hr, ho, hd, hi, State.begun_cur, Bool.false_eq_true, if_false]

/-- A word that fails a decode check: its cause is taken (R67). -/
theorem issue_decode_fault {i : Instr} {s : State} {v : Wave} {x : WCtx} {r : Raw} {c : Cause} (body : State → Wave → WCtx → Res)
    (hw : s.waves.get s.cur = some v) (hx : (s.begun s.cur v).wctx v.begun = some x) (hr : i.toRaw = some r)
    (hd : decodeFault (x.decode v.begun) r = some c) :
    issue i s body = .next ((s.begun s.cur v).deliver s.cur v.begun x c v.begun.run 0 0) := by
  simp only [issue, hw, hx, hr, hd, State.begun_cur]

/-- A meaning that is done: the wave retires it and goes to the next instruction, which lies in the text. -/
theorem State.finish_done {s t : State} {n : Nat} {w : Wave} {x : WCtx} (h : w.nextPc.toNat < x.textLen) :
    s.finish n w x (.done t) = t.updWave n fun v => (w.retire v).goto w.nextPc := by
  simp only [State.finish, h, decide_true, if_true]

theorem State.finish_wait {s t : State} {n : Nat} {w : Wave} {x : WCtx} (h : w.nextPc.toNat < x.textLen) :
    s.finish n w x (.wait t) = t := by
  simp only [State.finish, h, decide_true, if_true]

/-- A fold keeps what each step keeps. -/
theorem foldl_keeps {α β γ : Type} (p : α → γ) (f : α → β → α) (h : ∀ a b, p (f a b) = p a) (l : List β) (a : α) :
    p (l.foldl f a) = p a := by
  induction l generalizing a with
  | nil => rfl
  | cons b l ih => rw [List.foldl_cons, ih, h]

@[simp] theorem PendAtom.apply_cur (a : PendAtom) (d : Nat) (s : State) : (a.apply d s).1.cur = s.cur := by
  have key := foldl_keeps (fun r : State × List RegWrite => r.1.cur) (a.lane d) (fun r p => by simp [PendAtom.lane])
    (List.zip (List.range a.parts.length) a.parts) (s, [])
  unfold PendAtom.apply
  dsimp only
  split <;> exact key

@[simp] theorem State.perform_cur (s : State) (n d : Nat) (p : PendStore) : (s.perform n d p).cur = s.cur := by
  have h : (p.writes.foldl (fun s a => s.ldsWrites d a.1 a.2) s).cur = s.cur :=
    foldl_keeps State.cur _ (fun a b => by simp) _ s
  unfold State.perform
  dsimp only
  split
  · exact h
  · exact (PendAtom.apply_cur _ _ _).trans h

@[simp] theorem State.flushStores_cur (s : State) (n d : Nat) : (s.flushStores n d).cur = s.cur := by
  unfold State.flushStores
  split
  · rfl
  · exact foldl_keeps State.cur _ (fun a b => State.perform_cur a n d b) _ s

@[simp] theorem State.expose_cur (s : State) (w : Wave) (b : Bool) : (s.expose w b).cur = s.cur := by
  unfold State.expose; split <;> rfl

end Sys2Proof.Machine
end

