-- ==== Sys2Proof/Laws/Mem.lean ====
section
/-! SUPPORT. What memory an operation of the state leaves as it was, and that every operation on memory keeps its
canonical form: the named operations over records, faults, waves. -/

namespace Sys2Proof.Machine

/-- The two memories with their key domains. -/
def State.mem (s : State) : Memory × Tbl Nat × Memory × Tbl Nat := (s.lds, s.ldsTags, s.hbm, s.hbmDom)

theorem State.memOk_of_mem {s t : State} (h : t.mem = s.mem) : t.memOk = s.memOk := by
  simp only [State.mem, Prod.mk.injEq] at h
  simp only [State.memOk, h.1, h.2.2.1]

theorem State.memOk_keep {s t : State} (h : t.mem = s.mem) (hs : s.memOk = true) : t.memOk = true :=
  (State.memOk_of_mem h).trans hs

/-! ### Records -/

@[simp] theorem State.setWave_mem (s : State) (n : Nat) (w : Wave) : (s.setWave n w).mem = s.mem := rfl
@[simp] theorem State.updWave_mem (s : State) (n : Nat) (f : Wave → Wave) : (s.updWave n f).mem = s.mem := rfl
@[simp] theorem State.setBlock_mem (s : State) (n : Nat) (b : Block) : (s.setBlock n b).mem = s.mem := rfl
@[simp] theorem State.updBlock_mem (s : State) (n : Nat) (f : Block → Block) : (s.updBlock n f).mem = s.mem := rfl
@[simp] theorem State.exposedAs_mem (s t : State) (w : Wave) : (s.exposedAs t w).mem = s.mem := by
  unfold State.exposedAs
  split
  · split <;> rfl
  · rfl
@[simp] theorem State.setGrid_mem (s : State) (n : Nat) (g : Grid) : (s.setGrid n g).mem = s.mem := rfl
@[simp] theorem State.updGrid_mem (s : State) (n : Nat) (f : Grid → Grid) : (s.updGrid n f).mem = s.mem := rfl
@[simp] theorem State.setCtx_mem (s : State) (n : Nat) (c : Context) : (s.setCtx n c).mem = s.mem := rfl
@[simp] theorem State.updCtx_mem (s : State) (n : Nat) (f : Context → Context) : (s.updCtx n f).mem = s.mem := rfl
@[simp] theorem State.setDie_mem (s : State) (n : Nat) (d : Die) : (s.setDie n d).mem = s.mem := rfl
@[simp] theorem State.updDie_mem (s : State) (n : Nat) (f : Die → Die) : (s.updDie n f).mem = s.mem := rfl
@[simp] theorem State.setCore_mem (s : State) (d c : Nat) (k : Core) : (s.setCore d c k).mem = s.mem := rfl
@[simp] theorem State.updCore_mem (s : State) (d c : Nat) (f : Core → Core) : (s.updCore d c f).mem = s.mem := rfl
@[simp] theorem State.setLink_mem (s : State) (n : Nat) (l : Link) : (s.setLink n l).mem = s.mem := rfl
@[simp] theorem State.report_mem (s : State) (r : Report) : (s.report r).mem = s.mem := rfl
@[simp] theorem State.newKey_mem (s : State) : s.newKey.2.mem = s.mem := rfl
@[simp] theorem State.enkey_mem (s : State) (d : Nat) : (s.enkey d).mem = s.mem := rfl
@[simp] theorem State.begun_mem (s : State) (n : Nat) (w : Wave) : (s.begun n w).mem = s.mem := rfl
@[simp] theorem State.pageFault_mem (s : State) (d : Nat) (p : PageStall) : (s.pageFault d p).mem = s.mem := rfl

/-! ### Faults (R365 to R370) -/

@[simp] theorem State.closeFolio_mem (s : State) (c : Nat) (b : Bool) : (s.closeFolio c b).mem = s.mem := by
  unfold State.closeFolio; repeat' (first | rfl | split)

@[simp] theorem State.closeWhen_mem (s : State) (c : Nat) (b : Bool) : (s.closeWhen c b).mem = s.mem := by
  unfold State.closeWhen; split <;> simp

@[simp] theorem State.traceRecord_mem (s : State) (c : Nat) (bs : List Byte) : (s.traceRecord c bs).mem = s.mem := by
  unfold State.traceRecord
  dsimp only
  split
  · rfl
  · rw [State.closeWhen_mem, State.updCtx_mem, State.closeWhen_mem]

@[simp] theorem State.logRecord_mem (s : State) (r : FaultRec) : (s.logRecord r).2.mem = s.mem := by
  simp only [State.logRecord, State.traceRecord_mem, State.updCtx_mem]

@[simp] theorem State.notice_mem (s : State) (r : FaultRec) : (s.notice r).mem = s.mem := by
  simp only [State.notice]
  split <;> simp

@[simp] theorem State.deliver_mem (s : State) (n : Nat) (w : Wave) (x : WCtx) (c : Cause) (l : Mask) (a : DWord) (g : Word) :
    (s.deliver n w x c l a g).mem = s.mem := by
  simp [State.deliver]

/-! ### Memory -/

theorem State.memOk_iff (s : State) : s.memOk = true ↔ Memory.wf (some 0) s.lds = true ∧ Memory.wf none s.hbm = true := by
  simp [State.memOk]

@[simp] theorem State.coreWrite_memOk (s : State) (dom a : Nat) (b : Byte) (h : s.memOk = true) :
    (s.coreWrite dom a b).memOk = true := by
  rw [State.memOk_iff] at h ⊢
  refine ⟨?_, by simpa using h.2⟩
  unfold State.coreWrite
  split
  · exact Memory.wf_set h.1 a b
  · exact Memory.wf_set (Memory.wf_clearGranule h.1 _) a b

@[simp] theorem State.ldsWrite_memOk (s : State) (dom a : Nat) (b : Byte) (h : s.memOk = true) :
    (s.ldsWrite dom a b).memOk = true := by
  unfold State.ldsWrite
  split
  · exact h
  · exact State.coreWrite_memOk _ _ _ _ h

@[simp] theorem State.spillWrites_memOk (bs : List Byte) : ∀ (s : State) (dom : Nat) (w : Wave) (l off : Nat), s.memOk = true →
    (s.spillWrites dom w l off bs).memOk = true := by
  induction bs with
  | nil => intro _ _ _ _ _ h; exact h
  | cons b bs ih => intro s dom w l off h; exact ih _ _ _ _ _ (State.coreWrite_memOk s dom _ b h)

@[simp] theorem State.ldsWrites_memOk (bs : List Byte) : ∀ (s : State) (dom a : Nat), s.memOk = true →
    (s.ldsWrites dom a bs).memOk = true := by
  induction bs with
  | nil => intro _ _ _ h; exact h
  | cons b bs ih => intro s dom a h; exact ih _ _ _ (State.ldsWrite_memOk s dom a b h)

@[simp] theorem State.hbmWrite_memOk (s : State) (dom a : Nat) (b : Byte) (h : s.memOk = true) :
    (s.hbmWrite dom a b).memOk = true := by
  unfold State.hbmWrite
  split
  · exact h
  · rw [State.memOk_iff] at h ⊢
    exact ⟨h.1, Memory.wf_set h.2 a b⟩

@[simp] theorem State.hbmWrites_memOk (bs : List Byte) : ∀ (s : State) (dom a : Nat), s.memOk = true →
    (s.hbmWrites dom a bs).memOk = true := by
  induction bs with
  | nil => intro _ _ _ h; exact h
  | cons b bs ih => intro s dom a h; exact ih _ _ _ (State.hbmWrite_memOk s dom a b h)

@[simp] theorem State.discard_memOk (s : State) (dom : Nat) (h : s.memOk = true) : (s.discard dom).memOk = true := by
  rw [State.memOk_iff] at h ⊢
  exact ⟨h.1, Memory.wf_filter h.2 _⟩

/-- A fold of operations that keep the form keeps it. -/
theorem foldl_memOk {α : Type} {f : State → α → State} (hf : ∀ s a, s.memOk = true → (f s a).memOk = true) (l : List α) :
    ∀ s : State, s.memOk = true → (l.foldl f s).memOk = true := by
  induction l with
  | nil => intro _ h; exact h
  | cons a l ih => intro s h; exact ih _ (hf s a h)

/-- A fold of operations that leave memory leaves it. -/
theorem foldl_mem {α : Type} {f : State → α → State} (hf : ∀ s a, (f s a).mem = s.mem) (l : List α) :
    ∀ s : State, (l.foldl f s).mem = s.mem := by
  induction l with
  | nil => intro _; rfl
  | cons a l ih => intro s; exact (ih _).trans (hf s a)

@[simp] theorem PendAtom.apply_memOk (a : PendAtom) (dom : Nat) (s : State) (h : s.memOk = true) : (a.apply dom s).1.memOk = true := by
  have key : ∀ (l : List (Nat × Nat × Nat × Nat × Nat)) (acc : State × List RegWrite), acc.1.memOk = true →
      (l.foldl (a.lane dom) acc).1.memOk = true := by
    intro l
    induction l with
    | nil => intro _ ha; exact ha
    | cons p l ih => intro acc ha; exact ih _ (State.ldsWrites_memOk _ _ _ _ ha)
  unfold PendAtom.apply
  dsimp only
  split
  · exact key _ (s, []) h
  · exact key _ (s, []) h

@[simp] theorem State.perform_memOk (s : State) (key dom : Nat) (p : PendStore) (h : s.memOk = true) :
    (s.perform key dom p).memOk = true := by
  unfold State.perform
  have h1 : (p.writes.foldl (fun s a => s.ldsWrites dom a.1 a.2) s).memOk = true :=
    foldl_memOk (fun s q hq => State.ldsWrites_memOk _ _ _ _ hq) _ _ h
  dsimp only
  split
  · exact h1
  · exact State.memOk_keep (State.updWave_mem _ _ _) (PendAtom.apply_memOk _ _ _ h1)

theorem State.performAtoms_memOk (key dom : Nat) (ps : List PendStore) : ∀ s : State, s.memOk = true →
    (s.performAtoms key dom ps).memOk = true := by
  induction ps with
  | nil => intro _ h; exact h
  | cons p ps ih =>
    intro s h
    unfold State.performAtoms
    split
    · exact ih _ (State.memOk_keep (State.updWave_mem _ _ _) (State.perform_memOk _ _ _ _ h))
    · exact h

@[simp] theorem State.flushStores_memOk (s : State) (n dom : Nat) (h : s.memOk = true) : (s.flushStores n dom).memOk = true := by
  unfold State.flushStores
  split
  · exact h
  · refine State.memOk_keep (State.updWave_mem _ _ _) ?_
    exact foldl_memOk (fun s p hs => State.perform_memOk _ _ _ _ hs) _ _ h

/-! ### Ends of instructions -/

/-- What the meaning of a wave's instruction comes to keeps the form. -/
def Res.memOk : Res → Prop
  | .done s | .over s | .stall s | .wait s | .causeIn s _ _ _ _ => s.memOk = true
  | .cause _ _ _ _ => True

theorem State.finish_memOk (s : State) (n : Nat) (w : Wave) (x : WCtx) {r : Res} (h : s.memOk = true) (hr : r.memOk) :
    (s.finish n w x r).memOk = true := by
  unfold State.finish
  split
  · exact hr
  · exact hr
  · split
    · exact hr
    · exact State.memOk_keep (by simp) h
  · exact State.memOk_keep (by simp) h
  · exact State.memOk_keep (by simp) hr
  · split
    · exact State.memOk_keep (State.updWave_mem _ _ _) hr
    · exact State.memOk_keep (by simp) h

/-- An instruction of a wave keeps the form where its meaning does. -/
theorem issue_memOk {i : Instr} {s t : State} {body : State → Wave → WCtx → Res}
    (hb : ∀ u w x, u.memOk = true → (body u w x).memOk) (h : s.memOk = true) (ht : issue i s body = .next t) :
    t.memOk = true := by
  unfold issue at ht
  split at ht
  · cases ht
  · next w0 _ =>
    have hu : (s.begun s.cur w0).memOk = true := State.memOk_keep (State.begun_mem _ _ _) h
    dsimp only at ht
    split at ht
    · split at ht
      · cases ht; exact State.memOk_keep (by simp) h
      · split at ht
        · cases ht; exact hu
        · cases ht; exact State.finish_memOk _ _ _ _ hu (hb _ _ _ hu)
      · cases ht; exact hu
    · cases ht

/-! ### Shapes of meanings -/

theorem once_memOk {s : State} {w : Wave} {h : Head} {f : Mask → Res} (hs : s.memOk = true) (hf : ∀ g, (f g).memOk) :
    (once s w h f).memOk := by
  unfold once
  split
  · exact hs
  · exact hf _

theorem onceCause_memOk (g : Mask) (c : Cause) (a : DWord) : (onceCause g c a).memOk := trivial

theorem alu_memOk {s : State} (w : Wave) (h : Head) (d : Operand) (wide : Bool) (f : Nat → DWord) (hs : s.memOk = true) :
    (alu s w h d wide f).memOk :=
  State.memOk_keep (State.setWave_mem _ _ _) hs

theorem aluF_memOk {s : State} (w : Wave) (h : Head) (d : Operand) (wide : Bool) (f : Nat → DWord × BitVec 5)
    (hs : s.memOk = true) : (aluF s w h d wide f).memOk :=
  State.memOk_keep (State.setWave_mem _ _ _) hs

end Sys2Proof.Machine
end

