-- ==== Sys2Proof/Laws/Frames.lean ====
section
/-! SUPPORT. Frames: what beginning to issue, retiring, going on and taking a cause leave as it was: which bytes lie in
spill stacks, the bytes of memory, the other waves, the registers of the wave. -/

namespace Sys2Proof

/-- A test that the entry put passes as the one it replaces does has the same answer over the table. -/
theorem Tbl.any_put {α : Type} (p : α → Bool) : ∀ (t : Tbl α) {n : Nat} {x y : α}, Tbl.get t n = some y → p x = p y →
    (t.put n x).any (fun e => p e.2) = t.any fun e => p e.2
  | [], _, _, _, h, _ => by simp at h
  | (k, v) :: t, n, x, y, h, hp => by
    simp only [Tbl.put]
    by_cases hk : k = n
    · subst hk; simp only [Tbl.get, if_true] at h; simp only [if_true, List.any_cons, hp]
      injection h with h; rw [h]
    · have hn : Tbl.get t n = some y := by simpa only [Tbl.get, hk, if_false] using h
      by_cases hl : n < k
      · simp only [hk, hl, if_true, if_false, List.any_cons, hp]
        cases hy : p y
        · rfl
        · have := Tbl.mem_of_get hn
          have ha : t.any (fun e => p e.2) = true := List.any_eq_true.2 ⟨_, this, hy⟩
          rw [ha]; simp
      · simp only [hk, hl, if_false, List.any_cons, Tbl.any_put p t hn hp]

/-- A change of one entry that a test does not see. -/
theorem Tbl.any_upd {α : Type} (p : α → Bool) (t : Tbl α) (n : Nat) (f : α → α) (h : ∀ e ∈ t, e.1 = n → p (f e.2) = p e.2) :
    (t.upd n f).any (fun e => p e.2) = t.any fun e => p e.2 := by
  induction t with
  | nil => rfl
  | cons e t ih =>
    have hi := ih fun a ha => h a (List.mem_cons_of_mem _ ha)
    simp only [Tbl.upd] at hi ⊢
    simp only [List.map_cons, List.any_cons, hi]
    split
    · next he => rw [h e (List.mem_cons_self ..) he]
    · rfl

end Sys2Proof

namespace Sys2Proof.Machine

/-! ### Bytes in spill stacks (R171) -/

/-- What decides whether a wave holds a spill granule. -/
def Wave.spillKey (w : Wave) : Bool × Nat × Nat × List Nat := (w.saved, w.die, w.core, w.granules)

/-- What decides whether a block holds one. -/
def Block.spillKey (b : Block) : Bool × Nat × List Nat × List (List Nat) := (b.placed, b.die, b.cores, b.spill)

theorem State.inSpill_setWave {s : State} {n : Nat} {w v : Wave} (a : Nat) (hw : s.waves.get n = some v)
    (h : w.spillKey = v.spillKey) : (s.setWave n w).inSpill a = s.inSpill a := by
  simp only [Wave.spillKey, Prod.mk.injEq] at h
  obtain ⟨h1, h2, h3, h4⟩ := h
  unfold State.inSpill
  rw [show (s.setWave n w).blocks = s.blocks from rfl, show (s.setWave n w).waves = s.waves.put n w from rfl,
    Tbl.any_put (fun w => !w.saved && w.die == dieOf a && w.core == coreOf a && w.granules.contains (a % 0x400000 / 4096)) s.waves hw
      (by simp only [h1, h2, h3, h4])]

theorem State.inSpill_updWave {s : State} {n : Nat} {f : Wave → Wave} (a : Nat) (h : ∀ w, (f w).spillKey = w.spillKey) :
    (s.updWave n f).inSpill a = s.inSpill a := by
  unfold State.inSpill
  rw [show (s.updWave n f).blocks = s.blocks from rfl, show (s.updWave n f).waves = s.waves.upd n f from rfl,
    Tbl.any_upd (fun w => !w.saved && w.die == dieOf a && w.core == coreOf a && w.granules.contains (a % 0x400000 / 4096)) s.waves n f]
  intro e _ _
  have h := h e.2
  simp only [Wave.spillKey, Prod.mk.injEq] at h
  obtain ⟨h1, h2, h3, h4⟩ := h
  simp only [h1, h2, h3, h4]

theorem State.inSpill_updBlock {s : State} {n : Nat} {f : Block → Block} (a : Nat)
    (h : ∀ e ∈ s.blocks, e.1 = n → (f e.2).spillKey = e.2.spillKey) : (s.updBlock n f).inSpill a = s.inSpill a := by
  unfold State.inSpill
  rw [show (s.updBlock n f).waves = s.waves from rfl, show (s.updBlock n f).blocks = s.blocks.upd n f from rfl,
    Tbl.any_upd (fun b => b.placed && decide (b.die = dieOf a) &&
      (List.zip b.cores b.spill).any fun p => decide (p.1 = coreOf a) && p.2.contains (a % 0x400000 / 4096)) s.blocks n f]
  intro e he hn
  have h := h e he hn
  simp only [Block.spillKey, Prod.mk.injEq] at h
  obtain ⟨h1, h2, h3, h4⟩ := h
  simp only [h1, h2, h3, h4]

/-! ### The wave's registers -/

theorem Wave.lane_mapIdx (w : Wave) (f : Nat → Lane → Lane) (l : Nat) :
    ({ w with lanes := w.lanes.mapIdx f } : Wave).lane l =
      if l < w.lanes.length then f l (w.lane l) else w.lane l := by
  simp only [Wave.lane, List.getD_eq_getElem?_getD, List.getElem?_mapIdx]
  by_cases h : l < w.lanes.length
  · simp [h]
  · simp [h]

/-- A lane after its PC or its age has changed. -/
def Lane.data (x : Lane) : List Word × BitVec 8 × Option Item := (x.regs, x.q, x.item)

@[simp] theorem Lane.data_setLpc (x : Lane) (k : Nat) (p : Word) : (x.setLpc k p).data = x.data := by
  unfold Lane.setLpc; split <;> rfl

@[simp] theorem Wave.data_setLpcs (w : Wave) (k : Nat) (m : Mask) (p : Nat → Word) (l : Nat) :
    ((w.setLpcs k m p).lane l).data = (w.lane l).data := by
  unfold Wave.setLpcs
  rw [Wave.lane_mapIdx]
  split
  · split
    · exact Lane.data_setLpc _ _ _
    · rfl
  · rfl

@[simp] theorem Wave.data_goto (w : Wave) (p : Word) (l : Nat) : ((w.goto p).lane l).data = (w.lane l).data := by
  unfold Wave.goto; dsimp only; split
  · exact Wave.data_setLpcs _ _ _ _ _
  · split
    · exact Wave.data_setLpcs _ _ _ _ _
    · rfl

@[simp] theorem Wave.data_retire (w v : Wave) (l : Nat) : ((w.retire v).lane l).data = (v.lane l).data := by
  show (Wave.lane { v with lanes := if w.hdep = 0 then w.aged v.lanes else v.lanes } l).data = _
  split
  · unfold Wave.aged; rw [Wave.lane_mapIdx]
    split
    · split
      · rfl
      · split <;> rfl
    · rfl
  · rfl

theorem Lane.data_eq {x y : Lane} (h : x.data = y.data) :
    (∀ r, x.reg r = y.reg r) ∧ x.q = y.q := by
  simp only [Lane.data, Prod.mk.injEq] at h
  obtain ⟨h1, h2, _⟩ := h
  exact ⟨fun r => by simp only [Lane.reg, h1], h2⟩

/-- All of a wave but its lanes, its PC, what retirement counts, and where it stands. -/
def Wave.rest (w : Wave) : Wave :=
  { w with lanes := [], pc := 0, accn := 0, quantum := 0, handlerIssues := 0, phase := .active, fault := none }

@[simp] theorem Wave.rest_begun (w : Wave) : w.begun.rest = w.rest := rfl
@[simp] theorem Wave.rest_retire (w v : Wave) : (w.retire v).rest = v.rest := rfl
@[simp] theorem Wave.rest_goto (w : Wave) (p : Word) : (w.goto p).rest = w.rest := by
  unfold Wave.goto; dsimp only; split
  · rfl
  · split <;> rfl

/-! ### Beginning to issue -/

/-- A block that holds its granules holds them when its wave has begun to issue. -/
theorem State.inSpill_begun {s : State} {n : Nat} {v : Wave} (a : Nat)
    (h : ∀ e ∈ s.blocks, e.1 = v.block → e.2.placed = true) : (s.begun n v).inSpill a = s.inSpill a := by
  unfold State.begun
  rw [State.inSpill_updBlock, State.inSpill_updWave]
  · intro w; rfl
  · intro e he hn
    have hp := h e he hn
    simp only [Block.spillKey, Prod.mk.injEq, and_true]
    rw [hp]
    unfold Block.placed at hp ⊢
    cases hq : e.2.phase <;> simp_all

theorem State.begun_waves_ne {s : State} {n m : Nat} (v : Wave) (h : m ≠ n) : (s.begun n v).waves.get m = s.waves.get m :=
  Tbl.get_upd_ne s.waves Wave.begun h

/-! ### Taking a cause (R367 to R370) -/

@[simp] theorem State.closeFolio_waves (s : State) (c : Nat) (b : Bool) : (s.closeFolio c b).waves = s.waves := by
  unfold State.closeFolio; repeat' (first | rfl | split)
@[simp] theorem State.closeFolio_blocks (s : State) (c : Nat) (b : Bool) : (s.closeFolio c b).blocks = s.blocks := by
  unfold State.closeFolio; repeat' (first | rfl | split)
@[simp] theorem State.closeFolio_domains (s : State) (c : Nat) (b : Bool) : (s.closeFolio c b).domains = s.domains := by
  unfold State.closeFolio; repeat' (first | rfl | split)
@[simp] theorem State.closeWhen_waves (s : State) (c : Nat) (b : Bool) : (s.closeWhen c b).waves = s.waves := by
  unfold State.closeWhen; split <;> simp
@[simp] theorem State.traceRecord_waves (s : State) (c : Nat) (bs : List Byte) : (s.traceRecord c bs).waves = s.waves := by
  unfold State.traceRecord; dsimp only
  split
  · rfl
  · exact (State.closeWhen_waves _ _ _).trans (State.closeWhen_waves s _ _)
@[simp] theorem State.closeWhen_blocks (s : State) (c : Nat) (b : Bool) : (s.closeWhen c b).blocks = s.blocks := by
  unfold State.closeWhen; split <;> simp
@[simp] theorem State.traceRecord_blocks (s : State) (c : Nat) (bs : List Byte) : (s.traceRecord c bs).blocks = s.blocks := by
  unfold State.traceRecord; dsimp only
  split
  · rfl
  · exact (State.closeWhen_blocks _ _ _).trans (State.closeWhen_blocks s _ _)
@[simp] theorem State.closeWhen_domains (s : State) (c : Nat) (b : Bool) : (s.closeWhen c b).domains = s.domains := by
  unfold State.closeWhen; split <;> simp
@[simp] theorem State.traceRecord_domains (s : State) (c : Nat) (bs : List Byte) : (s.traceRecord c bs).domains = s.domains := by
  unfold State.traceRecord; dsimp only
  split
  · rfl
  · exact (State.closeWhen_domains _ _ _).trans (State.closeWhen_domains s _ _)
@[simp] theorem State.logRecord_waves (s : State) (r : FaultRec) : (s.logRecord r).2.waves = s.waves := by
  unfold State.logRecord; dsimp only; rw [State.traceRecord_waves]; rfl
@[simp] theorem State.logRecord_blocks (s : State) (r : FaultRec) : (s.logRecord r).2.blocks = s.blocks := by
  unfold State.logRecord; dsimp only; rw [State.traceRecord_blocks]; rfl
@[simp] theorem State.logRecord_domains (s : State) (r : FaultRec) : (s.logRecord r).2.domains = s.domains := by
  unfold State.logRecord; dsimp only; rw [State.traceRecord_domains]; rfl

/-- The wave after its cause has been taken. -/
theorem State.deliver_wave (s : State) (n : Nat) (w : Wave) (x : WCtx) (c : Cause) (m : Mask) (a : DWord) (g : Word) :
    ∃ r, (s.deliver n w x c m a g).waves.get n = some (w.faultedWith r) :=
  ⟨_, Tbl.get_put _ _ _⟩

theorem State.deliver_waves_ne (s : State) {n k : Nat} (w : Wave) (x : WCtx) (c : Cause) (m : Mask) (a : DWord) (g : Word)
    (h : k ≠ n) : (s.deliver n w x c m a g).waves.get k = s.waves.get k := by
  show Tbl.get (Tbl.put (s.logRecord _).2.waves n _) k = _
  rw [Tbl.get_put_ne _ _ h, State.logRecord_waves]

theorem State.inSpill_deliver {s : State} {n : Nat} {w v : Wave} (x : WCtx) (c : Cause) (m : Mask) (d : DWord) (g : Word) (a : Nat)
    (hw : s.waves.get n = some v) (hk : w.spillKey = v.spillKey)
    (h : ∀ e ∈ s.blocks, e.1 = w.block → e.2.placed = true) : (s.deliver n w x c m d g).inSpill a = s.inSpill a := by
  unfold State.deliver
  dsimp only
  rw [State.inSpill_updBlock, State.inSpill_setWave (v := v)]
  · exact State.inSpill_congr (State.logRecord_waves _ _) (State.logRecord_blocks _ _) a
  · rw [State.logRecord_waves]; exact hw
  · exact hk
  · intro e he hn
    have hb : ((s.logRecord (s.waveRecord w x c m d g)).2.setWave n
        (w.faultedWith (s.logRecord (s.waveRecord w x c m d g)).1)).blocks = s.blocks :=
      State.logRecord_blocks _ _
    rw [hb] at he
    have hp := h e he hn
    simp only [Block.spillKey, Prod.mk.injEq, and_true]
    rw [hp]
    unfold Block.placed
    cases hq : e.2.phase <;> rfl

end Sys2Proof.Machine
end

