-- ==== Sys2Proof/Laws/KeepsA.lean ====
section
/-! SUPPORT. Memory under the shared operations of the wave's instructions: what leaves it as it was, and what keeps its
canonical form. -/

namespace Sys2Proof.Machine

/-! ### Formers, texts, exposure -/

@[simp] theorem State.dropText_mem (s : State) (d c n : Nat) : (s.dropText d c n).mem = s.mem := rfl
@[simp] theorem State.setFormer_mem (s : State) (d : Nat) (f : Former) : (s.setFormer d f).mem = s.mem := rfl

@[simp] theorem State.formBodies_mem (s : State) (d : Nat) : (s.formBodies d).mem = s.mem := by
  unfold State.formBodies; repeat' (first | rfl | split)

@[simp] theorem State.applyPass_mem (s : State) (n : Nat) (w : Wave) (p : Pass) : (s.applyPass n w p).mem = s.mem := by
  unfold State.applyPass
  dsimp only
  rw [State.updWave_mem]
  split <;> simp

@[simp] theorem State.retireFirst_mem (s : State) (w : Wave) : (s.retireFirst w).mem = s.mem := by
  unfold State.retireFirst
  have key : ∀ (l : List (Nat × Wave × Pass)) (u : State),
      (l.foldl (fun s e => s.applyPass e.1 e.2.1 e.2.2) u).mem = u.mem := by
    intro l
    induction l with
    | nil => intro _; rfl
    | cons e l ih => intro u; exact (ih _).trans (State.applyPass_mem _ _ _ _)
  exact key _ _

@[simp] theorem State.exitItems_mem (s : State) (w : Wave) (g : Mask) : (s.exitItems w g).1.mem = s.mem := by
  unfold State.exitItems
  dsimp only
  split
  · dsimp only; split <;> simp
  · split <;> rfl
  · rfl

@[simp] theorem State.expose_mem (s : State) (w : Wave) (b : Bool) : (s.expose w b).mem = s.mem := by
  unfold State.expose; split <;> rfl

/-- A cause met after the window checks leaves memory as it was. -/
theorem Res.exposing_memOk {r : Res} {s : State} (w : Wave) (b : Bool) (hs : s.memOk = true) (hr : r.memOk) :
    (r.exposing s w b).memOk := by
  unfold Res.exposing
  split
  · split
    · exact State.memOk_keep (State.expose_mem _ _ _) hs
    · exact hr
  · exact hr

/-! ### Loads, stores, atomics -/

@[simp] theorem State.writeLoc_memOk (s : State) (w : Wave) (x : WCtx) (l : Nat) (p : Loc) (bs : List Byte) (h : s.memOk = true) :
    (s.writeLoc w x l p bs).memOk = true := by
  unfold State.writeLoc
  split
  · exact State.spillWrites_memOk _ _ _ _ _ _ h
  · exact State.ldsWrites_memOk _ _ _ _ h

@[simp] theorem State.forward_memOk (s : State) (w : Wave) (x : WCtx) (g : Mask) (ps : List (Nat × Loc)) (n : Nat)
    (h : s.memOk = true) : (s.forward w x g ps n).memOk = true := by
  unfold State.forward; split
  · exact State.flushStores_memOk _ _ _ h
  · exact h

theorem ldAt_memOk (d : Operand) (ty : MemType) (s : State) (w : Wave) (x : WCtx) (g : Mask) (ps : List (Nat × Loc))
    (h : s.memOk = true) : (ldAt d ty s w x g ps).memOk = true :=
  State.memOk_keep (State.updWave_mem _ _ _) (State.forward_memOk s w x g ps _ h)

theorem stAt_memOk (d : Operand) (ty : MemType) (s : State) (w : Wave) (x : WCtx) (ps : List (Nat × Loc)) (h : s.memOk = true) :
    (stAt d ty s w x ps).memOk = true := by
  unfold stAt
  dsimp only
  refine State.memOk_keep (State.updWave_mem _ _ _) ?_
  refine foldl_memOk (fun s p hs => State.writeLoc_memOk _ _ _ _ _ _ hs) _ _ ?_
  split
  · exact State.flushStores_memOk _ _ _ h
  · exact h

theorem atomAt_memOk (d : Operand) (op : AtomOp) (ord : AtomOrd) (w64 : Bool) (s : State) (w : Wave) (x : WCtx)
    (ps : List (Nat × Loc)) (h : s.memOk = true) : (atomAt d op ord w64 s w x ps).memOk = true := by
  unfold atomAt
  dsimp only
  split
  · exact State.memOk_keep (State.updWave_mem _ _ _) h
  · exact State.memOk_keep (State.updWave_mem _ _ _) (PendAtom.apply_memOk _ _ _ (State.flushStores_memOk _ _ _ h))

/-! ### Physical memory and collection regions -/

@[simp] theorem State.memWrites_memOk (s : State) (dom pa : Nat) (bs : List Byte) (h : s.memOk = true) :
    (s.memWrites dom pa bs).memOk = true := by
  unfold State.memWrites; split
  · exact h
  · exact State.hbmWrites_memOk _ _ _ _ h

@[simp] theorem State.uncorrectable_mem (s : State) (r : FaultRec) (a : Nat) : (s.uncorrectable r a).mem = s.mem := by
  simp only [State.uncorrectable, State.notice_mem]; rfl

@[simp] theorem State.setRegion_mem (s : State) (d : Nat) (r : Region) : (s.setRegion d r).mem = s.mem := rfl
@[simp] theorem State.pinOne_mem (s : State) : s.pinOne.mem = s.mem := rfl

@[simp] theorem State.pinName_mem (s : State) (d : Nat) (n : BitVec 128) : (s.pinName d n).mem = s.mem := by
  unfold State.pinName; repeat' (first | rfl | split)

@[simp] theorem State.countError_mem (s : State) (c d : Nat) (n : BitVec 128) (a : Nat) (k : Option Nat) :
    (s.countError c d n a k).mem = s.mem := by
  simp [State.countError]

theorem State.incr_mem {s : State} {d : Nat} {n : BitVec 128} {r : Word × State} (h : s.incr d n = some r) : r.2.mem = s.mem := by
  unfold State.incr at h
  split at h
  · cases h; rfl
  · split at h
    · cases h
    · split at h
      · cases h
      · split at h
        · cases h; rfl
        · cases h; dsimp only; split <;> rfl

theorem State.decr_mem {s : State} {d : Nat} {n : BitVec 128} {r : Word × Bool × State} (h : s.decr d n = some r) :
    r.2.2.mem = s.mem := by
  unfold State.decr at h
  split at h
  · cases h; rfl
  · split at h
    · cases h
    · split at h
      · cases h
      · split at h
        · cases h; rfl
        · split at h <;> cases h <;> rfl

@[simp] theorem State.unref_mem (s : State) (d : Nat) (n : BitVec 128) : (s.unref d n).mem = s.mem := by
  unfold State.unref; split
  · next h => exact State.decr_mem h
  · rfl

@[simp] theorem State.cascadeStep_mem (s : State) (d : Nat) : (s.cascadeStep d).mem = s.mem := by
  unfold State.cascadeStep; split
  · rfl
  · simp; rfl

theorem State.incrAll_mem (d : Nat) (l : List (BitVec 128)) : ∀ (s : State) (k : Nat), (s.incrAll d l k).2.1.mem = s.mem := by
  induction l with
  | nil => intros; rfl
  | cons n l ih =>
    intro s k
    unfold State.incrAll
    split
    · next h => exact (ih _ _).trans (State.incr_mem h)
    · rfl

@[simp] theorem State.lookLine_mem (s : State) (d : Nat) (node : Bool) (bs : List Byte) (e : Option MemError) :
    (s.lookLine d node bs e).2.mem = s.mem := by
  unfold State.lookLine
  split
  · rfl
  · split
    · rfl
    · dsimp only
      split
      · repeat' split
        all_goals first | rfl | exact State.incr_mem (by assumption)
      · split
        · rfl
        · split
          · rfl
          · split
            · split
              · exact State.incrAll_mem _ _ _ _
              · split
                · exact (foldl_mem (fun s e => State.unref_mem s _ e) _ _).trans (State.incrAll_mem _ _ _ _)
                · exact (foldl_mem (fun s e => State.unref_mem s _ e) _ _).trans (State.incrAll_mem _ _ _ _)
            · rfl

/-! ### Copies, arrival words, cards at issue -/

@[simp] theorem State.creditAt_memOk (s : State) (dom a b : Nat) (h : s.memOk = true) : (s.creditAt dom a b).memOk = true :=
  State.ldsWrites_memOk _ _ _ _ h

@[simp] theorem State.faultAt_memOk (s : State) (dom a : Nat) (h : s.memOk = true) : (s.faultAt dom a).memOk = true :=
  State.ldsWrites_memOk _ _ _ _ h

@[simp] theorem handCard_mem (tag : Nat) (a : Word) (slot : Option (Nat × List Byte)) (s : State) (w : Wave) (x : WCtx) :
    (handCard tag a slot s w x).mem = s.mem := rfl

@[simp] theorem State.waveError_mem (s : State) (w : Wave) (x : WCtx) (i : Issued) (e : Option MemError) (l : Mask) (a : DWord) :
    (s.waveError w x i e l a).mem = s.mem := by
  unfold State.waveError; split <;> simp [State.lateRecord]

theorem State.wake_memOk (s : State) (n : Nat) (f : Wave → Wave) (h : s.memOk = true) : (s.wake n f).memOk = true := by
  unfold State.wake
  split
  · exact h
  · split
    · exact h
    · exact State.finish_memOk _ _ _ _ (State.memOk_keep (State.setWave_mem _ _ _) h)
        (State.memOk_keep (State.setWave_mem _ _ _) h : (Res.done _).memOk)

/-- An event of a wave keeps the form where its effect does. -/
theorem onWave_memOk {s t : State} {n : Nat} {f : Wave → WCtx → State} (hf : ∀ w x, (f w x).memOk = true) (h : s.memOk = true)
    (ht : onWave s n f = .next t) : t.memOk = true := by
  unfold onWave at ht
  split at ht
  · cases ht; exact h
  · split at ht <;> cases ht
    · exact h
    · exact hf _ _

@[simp] theorem State.landBytes_memOk (s : State) (x : WCtx) (c : PendCopy) (l : CopyLane) (bs : List Byte) (offs : List Nat)
    (h : s.memOk = true) : (s.landBytes x c l bs offs).memOk = true := by
  unfold State.landBytes
  refine foldl_memOk (fun s i hs => ?_) _ _ h
  split
  · exact State.ldsWrite_memOk _ _ _ _ hs
  · split
    · split
      · exact State.memWrites_memOk _ _ _ _ hs
      · exact hs
    · exact hs
  · exact hs

theorem State.landLane_memOk (s : State) (n : Nat) (x : WCtx) (c : PendCopy) (l : CopyLane) (bs : List Byte) (h : s.memOk = true) :
    (s.landLane n x c l bs).memOk = true := by
  have key := State.memOk_keep (State.updWave_mem (s.landBytes x c l bs l.rest) n fun v =>
    v.updCopy c.op fun k => k.updLane l.lane fun q => { q with done := true }) (State.landBytes_memOk s x c l bs l.rest h)
  unfold State.landLane
  dsimp only
  split
  · exact key
  · exact State.creditAt_memOk _ _ _ _ key

@[simp] theorem State.landSome_memOk (s : State) (n op lane : Nat) (offs : List Nat) (h : s.memOk = true) :
    (s.landSome n op lane offs).memOk = true := by
  unfold State.landSome
  split
  · exact h
  · split
    · exact State.memOk_keep (State.updWave_mem _ _ _) (State.landBytes_memOk _ _ _ _ _ _ h)
    · exact h

@[simp] theorem State.structPut_memOk (s : State) (w : Wave) (x : WCtx) (a : Word) (bs : List Byte) (offs : List Nat)
    (h : s.memOk = true) : (s.structPut w x a bs offs).memOk = true :=
  foldl_memOk (fun _ _ hs => State.ldsWrite_memOk _ _ _ _ hs) _ _ h

/-- The translations at issue end in no state whose memory differs. -/
theorem State.translateAll_memOk {s : State} {w : Wave} {c : Nat} {vas : List (Nat × DWord)} {need : Need} {r : Res}
    (hs : s.memOk = true) (h : s.translateAll w c vas need = .error r) : r.memOk := by
  unfold State.translateAll at h
  dsimp only at h
  split at h
  · cases h; trivial
  · split at h
    · cases h; exact State.memOk_keep (State.updDie_mem _ _ _) hs
    · split at h
      · cases h; exact State.memOk_keep (State.pageFault_mem _ _ _) hs
      · cases h

/-! ### Barriers and rings -/

@[simp] theorem State.updBarrier_mem (s : State) (w : Wave) (x : WCtx) (b : Nat) (f : Barrier → Barrier) :
    (s.updBarrier w x b f).mem = s.mem := by
  unfold State.updBarrier; split <;> rfl

@[simp] theorem State.leaveBarriers_mem (s : State) (w : Wave) (x : WCtx) : (s.leaveBarriers w x).mem = s.mem := rfl
@[simp] theorem State.updRing_mem (s : State) (w : Wave) (r : Nat) (f : Ring → Ring) : (s.updRing w r f).mem = s.mem := rfl
@[simp] theorem State.countSafeguard_mem (s : State) : s.countSafeguard.mem = s.mem := rfl

@[simp] theorem State.engage_mem (s : State) (n : Nat) (w : Wave) (x : WCtx) : (s.engage n w x).mem = s.mem := by
  unfold State.engage
  split
  · rfl
  · split <;> simp

theorem barrierOnce_memOk {s : State} {w : Wave} {h : Head} {f : Mask → Res} (hs : s.memOk = true) (hf : ∀ g, (f g).memOk) :
    (barrierOnce s w h f).memOk := by
  unfold barrierOnce
  refine once_memOk hs fun g => ?_
  split
  · trivial
  · exact hf g

theorem arriveRes_memOk {b : Nat} {s : State} {w : Wave} {x : WCtx} {g : Mask} {f : State → Res} (hs : s.memOk = true)
    (hf : ∀ u : State, u.memOk = true → (f u).memOk) : (arriveRes b s w x g f).memOk := by
  unfold arriveRes
  dsimp only
  split
  · trivial
  · split
    · exact hs
    · exact hf _ (State.memOk_keep (by simp) hs)

theorem waitRes_memOk {b : Nat} {s : State} {w : Wave} (hs : s.memOk = true) : (waitRes b s w).memOk := by
  unfold waitRes
  dsimp only
  split
  · exact hs
  · split <;> exact State.memOk_keep (State.updWave_mem _ _ _) hs

/-! ### Tiles -/

@[simp] theorem State.ldsReduce_memOk (s : State) (dom a : Nat) (c : Word) (h : s.memOk = true) :
    (s.ldsReduce dom a c).memOk = true :=
  State.ldsWrites_memOk _ _ _ _ h

@[simp] theorem State.hbmReduce_memOk (s : State) (dom a : Nat) (c : Word) (h : s.memOk = true) :
    (s.hbmReduce dom a c).memOk = true :=
  State.memWrites_memOk _ _ _ _ h

@[simp] theorem State.applyContribution_memOk (s : State) (c : Contribution) (h : s.memOk = true) :
    (s.applyContribution c).memOk = true := by
  unfold State.applyContribution
  split
  · exact foldl_memOk (fun _ _ hs => State.ldsReduce_memOk _ _ _ _ hs) _ _ h
  · exact foldl_memOk (fun _ _ hs => State.hbmReduce_memOk _ _ _ _ hs) _ _ h

theorem State.applyHeld_memOk (n : Nat) : ∀ (s : State) (q : Seq), s.memOk = true → (s.applyHeld q n).1.memOk = true := by
  induction n with
  | zero => intro _ _ h; exact h
  | succ n ih =>
    intro s q h
    unfold State.applyHeld
    split
    · exact h
    · exact ih _ _ (State.applyContribution_memOk _ _ h)

@[simp] theorem State.seqError_mem (s : State) (c : Contribution) : (s.seqError c).mem = s.mem := by simp [State.seqError]

theorem State.arrive_memOk {s t : State} {c : Contribution} (h : s.memOk = true) (ht : s.arrive c = some t) : t.memOk = true := by
  unfold State.arrive at ht
  dsimp only at ht
  split at ht
  · cases ht; exact State.memOk_keep (State.seqError_mem _ _) h
  · split at ht
    · cases ht
      exact State.memOk_keep rfl (State.applyHeld_memOk _ _ _ (State.applyContribution_memOk _ _ h))
    · split at ht
      · split at ht
        · cases ht
        · cases ht; exact State.memOk_keep rfl h
      · cases ht; exact State.memOk_keep (State.seqError_mem s c) h

@[simp] theorem State.drainWrites_memOk (s : State) (w : Wave) (x : WCtx) (a : Word) (hbm : Option (List (Nat × Nat × Nat)))
    (ps : List (Nat × Byte)) (h : s.memOk = true) : (s.drainWrites w x a hbm ps).memOk = true := by
  unfold State.drainWrites
  refine foldl_memOk (fun s p hs => ?_) _ _ h
  split
  · exact State.memWrites_memOk _ _ _ _ hs
  · exact State.ldsWrite_memOk _ _ _ _ hs

@[simp] theorem State.updMatrix_mem (s : State) (w : Wave) (f : Matrix → Matrix) : (s.updMatrix w f).mem = s.mem := rfl

theorem tileEffect_memOk {s : State} {w : Wave} {x : WCtx} {m : Matrix} {op : TileOp} {r : State × Matrix × FlagSet}
    (h : s.memOk = true) (hr : tileEffect s w x m op = some r) : r.1.memOk = true := by
  unfold tileEffect at hr
  dsimp only at hr
  split at hr
  case h_7 => cases hr; exact State.drainWrites_memOk _ _ _ _ _ _ h
  case h_8 => cases hr; exact State.applyContribution_memOk _ _ h
  all_goals cases hr; try exact h

@[simp] theorem State.tileReadSome_mem (s : State) (n i : Nat) (offs : List Nat) : (s.tileReadSome n i offs).mem = s.mem := by
  unfold State.tileReadSome; repeat' (first | rfl | split)

@[simp] theorem State.tileWriteSome_memOk (s : State) (n : Nat) (offs : List Nat) (h : s.memOk = true) :
    (s.tileWriteSome n offs).memOk = true := by
  unfold State.tileWriteSome
  split
  · exact h
  · split
    · exact State.memOk_keep (State.updWave_mem _ _ _) (State.drainWrites_memOk _ _ _ _ _ _ h)
    · exact h

@[simp] theorem State.drainPeerTimeout_mem (s : State) (n : Nat) : (s.drainPeerTimeout n).mem = s.mem := by
  unfold State.drainPeerTimeout
  split
  · rfl
  · split
    · simp
    · rfl

theorem tileOnce_memOk {s : State} {w : Wave} {h : Head} {f : Mask → Res} (hs : s.memOk = true) (hf : ∀ g, (f g).memOk) :
    (tileOnce s w h f).memOk := by
  unfold tileOnce
  refine once_memOk hs fun g => ?_
  split
  · trivial
  · exact hf g

theorem tileQueue_memOk {op : TileOp} {f : Matrix → Matrix} {s : State} {w : Wave} {x : WCtx} (hs : s.memOk = true) :
    (tileQueue op f s w x).memOk := by
  unfold tileQueue
  split
  · exact hs
  · refine State.memOk_keep (s := (s.expose w op.exposes).flushStores s.cur (s.waveDom x)) rfl ?_
    exact State.flushStores_memOk _ _ _ (State.memOk_keep (State.expose_mem _ _ _) hs)

theorem tileAt_memOk {w : Wave} {x : WCtx} {g : Mask} {a : Word} {n al : Nat} {f : Res} (hf : f.memOk) :
    (tileAt w x g a n al f).memOk := by
  unfold tileAt; split
  · trivial
  · exact hf

theorem withSlot_memOk {w : Wave} {x : WCtx} {g : Mask} {v : Nat} {wd : SlotWidth} {b : Bool} {f : Res} (hf : f.memOk) :
    (withSlot w x g v wd b f).memOk := by
  unfold withSlot; split
  · exact hf
  · trivial

theorem drainAt_memOk {n : BitVec 3} {a : Word} {wd : DrainWidth} {m : DrainMode} {hbm : Option (List (Nat × Nat × Nat))} {q : DWord}
    {s : State} {w : Wave} {x : WCtx} {g : Mask} (hs : s.memOk = true) : (drainAt n a wd m hbm q s w x g).memOk := by
  unfold drainAt; split
  · trivial
  · exact tileQueue_memOk hs

end Sys2Proof.Machine
end

