-- ==== Sys2Proof/Laws/KeepsB.lean ====
section
/-! SUPPORT. Memory under the shared operations of the device's events: cards, intervals, placement, grids, saving, queues,
loading, contexts, links, service. -/

namespace Sys2Proof.Machine

/-! ### Cards -/

@[simp] theorem Card.writeSpot_memOk (c : Card) (s : State) (b : Byte) (p : Spot) (h : s.memOk = true) :
    (c.writeSpot s b p).memOk = true := by
  unfold Card.writeSpot
  split
  · exact State.ldsWrite_memOk _ _ _ _ h
  · exact State.memWrites_memOk _ _ _ _ h
  · exact h

theorem Card.land_memOk (n : Nat) : ∀ (c : Card) (s : State), s.memOk = true → (c.land s n).1.memOk = true := by
  induction n with
  | zero => intro _ _ h; exact h
  | succ n ih =>
    intro c s h
    unfold Card.land
    split
    · exact h
    · split
      · exact ih _ _ (Card.writeSpot_memOk _ _ _ _ h)
      · exact h

@[simp] theorem Card.credit_memOk (c : Card) (s : State) (n : Nat) (h : s.memOk = true) : (c.credit s n).memOk = true := by
  unfold Card.credit
  split
  · split
    · exact h
    · exact State.creditAt_memOk _ _ _ _ h
  · exact h

@[simp] theorem State.setCard_mem (s : State) (k : Nat) (c : Card) : (s.setCard k c).mem = s.mem := rfl
@[simp] theorem State.paired_mem (s : State) (c : Card) : (s.paired c).mem = s.mem := rfl
@[simp] theorem State.compared_mem (s : State) (c : Card) : (s.compared c).mem = s.mem := rfl

@[simp] theorem State.cardPiece_memOk (s : State) (k n : Nat) (h : s.memOk = true) : (s.cardPiece k n).memOk = true := by
  unfold State.cardPiece
  split
  · exact h
  · exact State.memOk_keep (State.setCard_mem _ _ _) (Card.credit_memOk _ _ _ (Card.land_memOk _ _ _ h))

theorem State.cardPieces_memOk (n : Nat) : ∀ (s : State) (k : Nat), s.memOk = true → (s.cardPieces k n).memOk = true := by
  induction n with
  | zero => intro _ _ h; exact h
  | succ n ih => intro s k h; exact ih _ _ (State.cardPiece_memOk _ _ _ h)

@[simp] theorem Card.putRecord_memOk (c : Card) (s : State) (r : RingHead) (a b : Nat) (l : List Nat) (h : s.memOk = true) :
    (c.putRecord s r a b l).memOk = true := by
  unfold Card.putRecord
  refine foldl_memOk (fun s i hs => ?_) _ _ h
  split
  · exact State.ldsWrite_memOk _ _ _ _ hs
  · exact hs

@[simp] theorem Card.record_memOk (c : Card) (s : State) (a b : Nat) (h : s.memOk = true) : (c.record s a b).memOk = true := by
  unfold Card.record
  split
  · exact h
  · dsimp only
    split
    · exact State.ldsWrites_memOk _ _ _ _ (Card.putRecord_memOk _ _ _ _ _ _ h)
    · exact State.ldsWrites_memOk _ _ _ _ h

@[simp] theorem State.takeCard_mem (s : State) (k : Nat) (c : Card) : (s.takeCard k c).mem = s.mem := by
  unfold State.takeCard; dsimp only; split <;> simp

@[simp] theorem State.dropCard_mem (s : State) (k : Nat) (c : Card) : (s.dropCard k c).mem = s.mem := by
  unfold State.dropCard
  dsimp only
  split
  · exact State.takeCard_mem _ _ _
  · rfl

@[simp] theorem State.closeCard_memOk (s : State) (k : Nat) (c : Card) (a b : Nat) (h : s.memOk = true) :
    (s.closeCard k c a b).memOk = true := by
  unfold State.closeCard
  dsimp only
  have h1 : (if a = 1 then s else match c.arrival with
      | some d => s.faultAt (c.dom s) d
      | none => s).memOk = true := by
    split
    · exact h
    · split
      · exact State.faultAt_memOk _ _ _ h
      · exact h
  refine State.memOk_keep (State.dropCard_mem _ _ _) ?_
  split
  · exact State.memOk_keep (State.unref_mem _ _ _) (Card.record_memOk _ _ _ _ h1)
  · exact Card.record_memOk _ _ _ _ h1

@[simp] theorem State.endCard_memOk (s : State) (k : Nat) (c : Card) (a b : Nat) (h : s.memOk = true) :
    (s.endCard k c a b).memOk = true := by
  unfold State.endCard
  split
  · exact State.closeCard_memOk _ _ _ _ _ h
  · split
    · exact State.closeCard_memOk _ _ _ _ _ (Card.record_memOk _ _ _ _ h)
    · exact State.closeCard_memOk _ _ _ _ _ h

@[simp] theorem State.stopCard_memOk (s : State) (k : Nat) (c : Card) (a b : Nat) (v : DWord) (h : s.memOk = true) :
    (s.stopCard k c a b v).memOk = true := by
  unfold State.stopCard
  exact State.memOk_keep ((State.report_mem _ _).trans (State.setCard_mem _ _ _)) (Card.record_memOk _ _ _ _ h)

/-- An event of a card keeps the form where its effect does. -/
theorem onCard_memOk {s t : State} {k : Nat} {f : Card → State} (hf : ∀ c, (f c).memOk = true) (h : s.memOk = true)
    (ht : onCard s k f = .next t) : t.memOk = true := by
  unfold onCard at ht
  split at ht <;> cases ht
  · exact hf _
  · exact h

/-- An event that leads a card on keeps the form where its effect does. -/
theorem onGoing_memOk {s t : State} {k : Nat} {f : Card → State} (hf : ∀ c, (f c).memOk = true) (h : s.memOk = true)
    (ht : onGoing s k f = .next t) : t.memOk = true := by
  unfold onGoing at ht
  refine onCard_memOk (fun c => ?_) h ht
  split
  · exact h
  · exact hf _

/-- An event that can end or stop a card keeps the form where its effect does. -/
theorem onEnding_memOk {s t : State} {k : Nat} {f : Card → State} (hf : ∀ c, (f c).memOk = true) (h : s.memOk = true)
    (ht : onEnding s k f = .next t) : t.memOk = true := by
  unfold onEnding at ht
  refine onCard_memOk (fun c => ?_) h ht
  split
  · exact hf _
  · split
    · exact State.stopCard_memOk _ _ _ _ _ _ h
    · exact State.endCard_memOk _ _ _ _ _ h

@[simp] theorem State.pairing_mem (s : State) (c : Card) (o : List PeerCard) : (s.pairing c o).mem = s.mem := by
  unfold State.pairing
  split
  · split <;> rfl
  · rfl

@[simp] theorem Card.reportError_mem (c : Card) (s : State) (e : Option MemError) : (c.reportError s e).mem = s.mem := by
  unfold Card.reportError; split <;> simp

@[simp] theorem Card.damaged_memOk (c : Card) (s : State) (e : Option MemError) (h : s.memOk = true) :
    (c.damaged s e).memOk = true := by
  unfold Card.damaged
  split
  · exact h
  · refine State.memOk_keep (Card.reportError_mem _ _ _) ?_
    split
    · exact Card.writeSpot_memOk _ _ _ _ h
    · exact h

@[simp] theorem State.cardWalkError_memOk (s : State) (k i b : Nat) (h : s.memOk = true) : (s.cardWalkError k i b).memOk = true := by
  unfold State.cardWalkError
  split
  · exact h
  · split
    · exact h
    · split
      · exact h
      · exact h
      · split
        · exact State.stopCard_memOk _ _ _ _ _ _ (State.memOk_keep (State.uncorrectable_mem _ _ _) h)
        · exact State.memOk_keep ((State.report_mem _ _).trans (State.uncorrectable_mem _ _ _)) h

@[simp] theorem State.cardIndexError_mem (s : State) (k : Nat) (e : MemError) : (s.cardIndexError k e).mem = s.mem := by
  unfold State.cardIndexError
  split
  · rfl
  · dsimp only
    split
    · rfl
    · split
      · rfl
      · exact (State.setCard_mem _ _ _).trans (State.uncorrectable_mem _ _ _)

@[simp] theorem State.cardPeerTimeout_mem (s : State) (k : Nat) : (s.cardPeerTimeout k).mem = s.mem := by
  unfold State.cardPeerTimeout
  split
  · split
    · simp
    · rfl
  · rfl

@[simp] theorem Card.putResult_memOk (c : Card) (s : State) (i : Nat) (b : Byte) (h : s.memOk = true) :
    (c.putResult s i b).memOk = true := by
  unfold Card.putResult
  split
  · exact Card.writeSpot_memOk _ _ _ _ h
  · exact h

@[simp] theorem Card.deliver_memOk (c : Card) (s : State) (bs : List Byte) (h : s.memOk = true) : (c.deliver s bs).memOk = true := by
  unfold Card.deliver
  exact foldl_memOk (fun s _ hs => Card.credit_memOk _ _ _ hs) _ _
    (foldl_memOk (fun s p hs => Card.putResult_memOk _ _ _ _ hs) _ _ h)

/-- The state in which lost contributions are reported. -/
theorem Card.sources_mem {c : Card} {s : State} {d : List (List Byte)} {p : List (List Byte) × State}
    (h : c.sources s d = some p) : p.2.mem = s.mem := by
  unfold Card.sources at h
  repeat' (first | (cases h; done) | (cases h; rfl) | (dsimp only at h) | split at h)
  all_goals (cases h; exact foldl_mem (fun s n => State.notice_mem s _) _ _)

@[simp] theorem Card.finish_memOk (c : Card) (s : State) (p : List (List Byte) × State) (e : Option MemError)
    (h : p.2.memOk = true) : (c.finish s p e).1.memOk = true := by
  unfold Card.finish
  exact Card.deliver_memOk _ _ _ (State.memOk_keep (Card.reportError_mem _ _ _) h)

/-- What the state comes to with a card's end, before its record is written. -/
theorem Card.comesTo_memOk {c : Card} {s : State} {k : Nat} {how : CardEnd} {r : State × Card × Verdict} (h : s.memOk = true)
    (hr : c.comesTo s k how = some r) : r.1.memOk = true := by
  unfold Card.comesTo at hr
  split at hr
  · split at hr
    · cases hr
    · obtain ⟨q, _, he⟩ := Option.map_eq_some_iff.mp hr
      cases he
      exact State.memOk_keep (State.pairing_mem _ _ _) h
  · repeat' (first | (cases hr; done) | (cases hr; exact h) | split at hr)
  · split at hr
    · cases hr; exact h
    · obtain ⟨q, hq, he⟩ := Option.map_eq_some_iff.mp hr
      cases he
      exact Card.finish_memOk _ _ _ _ (State.memOk_keep (Card.sources_mem hq) h)
  · split at hr
    · cases hr
      split
      · exact h
      · exact h
    · cases hr; exact h
    · cases hr; exact h
    · cases hr

@[simp] theorem State.cardRecord_memOk (s : State) (k : Nat) (how : CardEnd) (l : List Nat) (h : s.memOk = true) :
    (s.cardRecord k how l).memOk = true := by
  unfold State.cardRecord
  split
  · exact h
  · next c _ =>
    split
    · exact h
    · next t d v heq =>
      have ht : t.memOk = true := by
        cases hv : c.verdict with
        | none => rw [hv] at heq; exact Card.comesTo_memOk h heq
        | some w => rw [hv] at heq; cases heq; exact h
      split
      · exact State.memOk_keep (State.setCard_mem _ _ _) ht
      · dsimp only
        refine State.memOk_keep (State.setCard_mem _ _ _) ?_
        split <;> exact Card.putRecord_memOk _ _ _ _ _ _ ht

/-! ### Walks and intervals -/

@[simp] theorem State.unresolved_mem (s : State) (p : PageStall) : (s.unresolved p).mem = s.mem := by
  unfold State.unresolved
  split
  · rfl
  · split
    · rfl
    · dsimp only
      split
      · rfl
      · simp

@[simp] theorem State.requestFault_mem (s : State) (d c p r : Nat) (q : WalkReq) : (s.requestFault d c p r q).mem = s.mem := by
  unfold State.requestFault
  dsimp only
  split
  · rfl
  · split
    · rfl
    · simp

@[simp] theorem State.newInterval_mem (s : State) (d c : Nat) (b : Bool) : (s.newInterval d c b).mem = s.mem := by
  unfold State.newInterval; split <;> rfl

@[simp] theorem State.replayAdmit_mem (s : State) (d c x : Nat) : (s.replayAdmit d c x).mem = s.mem := by
  unfold State.replayAdmit
  dsimp only
  repeat' (first | rfl | exact (State.newInterval_mem _ _ _ _).trans (State.updCore_mem _ _ _ _) | split)

@[simp] theorem State.closeInterval_mem (s : State) (d c : Nat) : (s.closeInterval d c).mem = s.mem := by
  unfold State.closeInterval; split <;> rfl

/-! ### Placing blocks -/

@[simp] theorem State.addWave_mem (s : State) (w : Wave) : (s.addWave w).mem = s.mem := rfl

@[simp] theorem State.startWaves_mem (s : State) (k : Nat) (b : Block) (n : Kernel) (g : Grid) (sh : List WaveShape) :
    (s.startWaves k b n g sh).mem = s.mem := by
  exact foldl_mem (fun s p => State.addWave_mem s _) _ s

@[simp] theorem State.copyRecords_memOk (s : State) (dom : Nat) (b : Block) (n : Nat) (h : s.memOk = true) :
    (s.copyRecords dom b n).memOk = true :=
  foldl_memOk (fun _ _ hs => foldl_memOk (fun _ _ hs => State.ldsWrite_memOk _ _ _ _ hs) _ _ hs) _ _ h

@[simp] theorem State.handedOut_mem (s : State) (g : Nat) : (s.handedOut g).mem = s.mem := rfl

@[simp] theorem State.placeBlock_memOk (s : State) (key : Nat) (b : Block) (k : Kernel) (g : Grid) (d : Nat) (cs : List Nat)
    (gr : List Granules) (r : Option (Nat × Nat)) (h : s.memOk = true) : (s.placeBlock key b k g d cs gr r).memOk = true := by
  unfold State.placeBlock
  dsimp only
  refine State.memOk_keep (State.handedOut_mem _ _) ?_
  refine foldl_memOk (fun s c hs => State.memOk_keep (State.replayAdmit_mem _ _ _ _) hs) _ _ ?_
  have h1 : ∀ b' sh, ((s.setBlock key b').startWaves key b' k g sh).memOk = true := fun b' sh => State.memOk_keep (by simp) h
  split
  · split
    · exact State.copyRecords_memOk _ _ _ _ (h1 _ _)
    · exact h1 _ _
  · exact h1 _ _

/-! ### Grids -/

@[simp] theorem State.newGrid_mem (s : State) (g : Grid) : (s.newGrid g).2.mem = s.mem := rfl
@[simp] theorem State.gridNotice_mem (s : State) (g : Grid) (c : Cause) : (s.gridNotice g c).mem = s.mem := by
  simp [State.gridNotice]
@[simp] theorem State.purgeQueues_mem (s : State) (g : Nat) : (s.purgeQueues g).mem = s.mem := rfl
@[simp] theorem State.leavePifo_mem (s : State) (g : Nat) : (s.leavePifo g).mem = s.mem := rfl

@[simp] theorem State.refuseGrid_mem (s : State) (g : Nat) (c : Cause) : (s.refuseGrid g c).mem = s.mem := by
  unfold State.refuseGrid
  split
  · rfl
  · simp only [State.gridNotice_mem]; rfl

@[simp] theorem State.pushBlock_mem (s : State) (d g n : Nat) : (s.pushBlock d g n).mem = s.mem := rfl

theorem State.pushBlocks_mem (k : Nat) : ∀ (s : State) (d g n : Nat), (s.pushBlocks d g n k).mem = s.mem := by
  induction k with
  | zero => intros; rfl
  | succ k ih => intro s d g n; exact (ih _ _ _ _).trans rfl

@[simp] theorem State.dropPool_mem (s : State) (d g : Nat) : (s.dropPool d g).mem = s.mem := rfl

@[simp] theorem State.poolStep_mem (s : State) (d : Nat) : (s.poolStep d).mem = s.mem := by
  unfold State.poolStep
  dsimp only
  repeat' (first | rfl | exact State.refuseGrid_mem _ _ _ | split)

@[simp] theorem State.pushClosed_mem (s : State) (d : Nat) : (s.pushClosed d).mem = s.mem := by
  unfold State.pushClosed
  refine foldl_mem (fun s g => ?_) _ _
  dsimp only
  repeat' (first | rfl | split)

@[simp] theorem State.intake_mem (s : State) (d : Nat) : (s.intake d).mem = s.mem :=
  (foldl_mem (fun s _ => State.poolStep_mem s d) _ _).trans (State.pushClosed_mem s d)

@[simp] theorem State.refuseBatch_mem (s : State) (d i : Nat) (g : Gatherer) : (s.refuseBatch d i g).mem = s.mem := by
  unfold State.refuseBatch
  dsimp only
  rw [State.updDie_mem]
  split
  · exact State.refuseGrid_mem _ _ _
  · exact (State.newGrid_mem _ _).trans (State.refuseGrid_mem _ _ _)

@[simp] theorem State.closeBatch_mem (s : State) (d i : Nat) (g : Gatherer) : (s.closeBatch d i g).mem = s.mem := by
  unfold State.closeBatch
  split
  · simp
  · rfl

@[simp] theorem State.closeFull_mem (s : State) (d i : Nat) : (s.closeFull d i).mem = s.mem := by
  unfold State.closeFull
  repeat' (first | rfl | exact State.closeBatch_mem _ _ _ _ | split)

theorem State.obtain_mem {s : State} {d c k : Nat} {r : BitVec 20} {p : Nat × State} (h : s.obtain d c k r = some p) :
    p.2.mem = s.mem := by
  unfold State.obtain at h
  split at h
  · cases h; rfl
  · split at h
    · cases h
    · cases h; rfl

@[simp] theorem State.nodePut_mem (s : State) (d c n : Nat) (k : KernelDesc) (r : BitVec 20) (bs : List Byte) :
    (s.nodePut d c n k r bs).2.mem = s.mem := by
  unfold State.nodePut
  split
  · rfl
  · next h =>
    split
    · rfl
    · split
      · rfl
      · simp only [State.closeFull_mem, State.updDie_mem]; exact State.obtain_mem h

@[simp] theorem State.nodeSettle_mem (s : State) (g : Nat) : (s.nodeSettle g).mem = s.mem := rfl

@[simp] theorem State.unbind_mem (s : State) (d i : Nat) : (s.unbind d i).mem = s.mem := by
  unfold State.unbind
  split
  · rfl
  · dsimp only
    rw [State.nodeSettle_mem]
    split
    · rfl
    · simp

@[simp] theorem State.unbindAll_mem (s : State) (p : Gatherer → Bool) : (s.unbindAll p).mem = s.mem := by
  unfold State.unbindAll
  refine foldl_mem (fun s d => foldl_mem (fun s i => ?_) _ _) _ _
  split
  · split
    · simp
    · rfl
  · rfl

theorem launchOnce_memOk {s : State} {w : Wave} {h : Head} {f : Mask → Res} (hs : s.memOk = true) (hf : ∀ g, (f g).memOk) :
    (launchOnce s w h f).memOk := by
  unfold launchOnce
  refine once_memOk hs fun g => ?_
  split
  · trivial
  · exact hf g

@[simp] theorem State.regather_mem (s : State) (g : Nat) (r : BitVec 20) : (s.regather g r).mem = s.mem := by
  unfold State.regather
  refine foldl_mem (fun s d => foldl_mem (fun s i => ?_) _ _) _ _
  split
  · split
    · rfl
    · simp
  · rfl

@[simp] theorem State.cancelOne_mem (s : State) (g : Nat) : (s.cancelOne g).mem = s.mem := by
  unfold State.cancelOne
  split
  · rfl
  · split <;> simp <;> rfl

@[simp] theorem State.cancelGrid_mem (s : State) (g : Nat) : (s.cancelGrid g).mem = s.mem :=
  (foldl_mem (fun s n => State.cancelOne_mem s n) _ _).trans (State.cancelOne_mem s g)

@[simp] theorem State.stopBlocks_mem (s : State) (p : Block → Bool) : (s.stopBlocks p).mem = s.mem := rfl

/-! ### Dispatch -/

@[simp] theorem State.setHdr_memOk (s : State) (q : Queue) (o n v : Nat) (h : s.memOk = true) : (s.setHdr q o n v).memOk = true := by
  unfold State.setHdr; split
  · exact State.memWrites_memOk _ _ _ _ h
  · exact h

@[simp] theorem State.qCount_memOk (s : State) (q : Queue) (o n : Nat) (h : s.memOk = true) : (s.qCount q o n).memOk = true :=
  State.setHdr_memOk _ _ _ _ _ h

@[simp] theorem State.refusePacket_memOk (s : State) (q : Queue) (c : Cause × Nat × DWord) (h : s.memOk = true) :
    (s.refusePacket q c).memOk = true :=
  State.memOk_keep (State.notice_mem _ _) (State.qCount_memOk _ _ _ _ h)

@[simp] theorem State.dropEntry_mem (s : State) (n : Nat) : (s.dropEntry n).mem = s.mem := rfl

@[simp] theorem State.acceptLaunch_memOk (s : State) (e : PifoEntry) (h : s.memOk = true) : (s.acceptLaunch e).2.memOk = true := by
  unfold State.acceptLaunch
  split
  · exact h
  · split
    · exact h
    · split
      · exact State.refusePacket_memOk _ _ _ (State.memOk_keep (State.dropEntry_mem _ _) h)
      · exact h

@[simp] theorem State.serveGrid_mem (s : State) (g : Nat) : (s.serveGrid g).mem = s.mem := by
  unfold State.serveGrid
  dsimp only
  repeat' (first | rfl | exact State.refuseGrid_mem _ _ _ | split)

@[simp] theorem State.leaveQueue_mem (s : State) (d : Nat) (q : QEntry) : (s.leaveQueue d q).mem = s.mem := rfl

@[simp] theorem State.batchPlaced_mem (s : State) (d k : Nat) : (s.batchPlaced d k).mem = s.mem := by
  unfold State.batchPlaced; split <;> simp

theorem State.placeAll_memOk {gk : Nat} {g : Grid} {k : Kernel} {sh : List WaveShape} (ps : List Placement) :
    ∀ {s t : State} {n : Nat} {gr : List (List Granules)} {rs : List Nat}, s.memOk = true →
      s.placeAll gk g k sh n ps gr rs = some t → t.memOk = true := by
  induction ps with
  | nil => intro s t n gr rs h ht; unfold State.placeAll at ht; cases ht; exact h
  | cons p ps ih =>
    intro s t n gr rs h ht
    unfold State.placeAll at ht
    split at ht
    · next heq => cases heq
    · next heq =>
      split at ht
      · cases heq
        exact ih (State.placeBlock_memOk _ _ _ _ _ _ _ _ _ (State.memOk_keep (State.newKey_mem _) h)) ht
      · cases ht
    · cases ht

/-! ### Saving and resuming -/

@[simp] theorem State.poolWrites_memOk (s : State) (c va : Nat) (bs : List Byte) (h : s.memOk = true) :
    (s.poolWrites c va bs).memOk = true := by
  unfold State.poolWrites
  refine foldl_memOk (fun s i hs => ?_) _ _ h
  dsimp only
  split
  · exact State.memWrites_memOk _ _ _ _ hs
  · exact hs

@[simp] theorem State.poolPatch_memOk (s : State) (c va : Nat) (old new : List Byte) (h : s.memOk = true) :
    (s.poolPatch c va old new).memOk = true := by
  unfold State.poolPatch
  refine foldl_memOk (fun s i hs => ?_) _ _ h
  split
  · exact hs
  · exact State.poolWrites_memOk _ _ _ _ hs

@[simp] theorem State.rewriteRecord_memOk (s : State) (n : Nat) (h : s.memOk = true) : (s.rewriteRecord n).memOk = true := by
  unfold State.rewriteRecord
  split
  · split
    · exact State.memOk_keep (State.setBlock_mem _ _ _) (State.poolPatch_memOk _ _ _ _ _ h)
    · exact h
  · exact h

@[simp] theorem State.rewritten_memOk (s : State) (w : Wave) (h : s.memOk = true) : (s.rewritten w).memOk = true := by
  unfold State.rewritten
  split
  · exact State.rewriteRecord_memOk _ _ h
  · exact h

@[simp] theorem State.restoreGranules_memOk (s : State) (dom d c : Nat) (gs : List Nat) (im : Tbl Byte) (h : s.memOk = true) :
    (s.restoreGranules dom d c gs im).memOk = true := by
  unfold State.restoreGranules
  refine foldl_memOk (fun s i hs => ?_) _ _ h
  dsimp only
  refine foldl_memOk (fun s e he => State.coreWrite_memOk _ _ _ _ he) _ _ ?_
  rw [State.memOk_iff] at hs ⊢
  exact ⟨Memory.wf_clearGranule hs.1 _, hs.2⟩

@[simp] theorem State.restoreAlloc_memOk (s : State) (dom : Nat) (b : Block) (p : Nat) (im : Tbl Byte) (h : s.memOk = true) :
    (s.restoreAlloc dom b p im).memOk = true :=
  State.restoreGranules_memOk _ _ _ _ _ _ h

@[simp] theorem State.without_mem (s : State) (g : List Nat) : (s.without g).mem = s.mem := rfl

@[simp] theorem State.selectBlock_mem (s : State) (k : Nat) : (s.selectBlock k).mem = s.mem := by
  unfold State.selectBlock
  dsimp only
  repeat' (first | rfl | split)

@[simp] theorem State.reserve_mem (s : State) (d : Nat) (q : QEntry) (cs : List Nat) : (s.reserve d q cs).mem = s.mem := rfl

@[simp] theorem State.endWaves_mem (s : State) (k : Nat) : (s.endWaves k).mem = s.mem := by
  unfold State.endWaves
  refine foldl_mem (fun s e => ?_) _ _
  split
  · simp
  · rfl

@[simp] theorem State.dropSlices_mem (s : State) (d : Nat) : (s.dropSlices d).mem = s.mem := rfl

@[simp] theorem State.discardText_mem (s : State) (d k : Nat) (cs : List Nat) : (s.discardText d k cs).mem = s.mem := by
  unfold State.discardText
  exact foldl_mem (fun s n => State.updCore_mem _ _ _ _) _ _

@[simp] theorem State.closeIntervals_mem (s : State) (d c : Nat) (cs : List Nat) : (s.closeIntervals d c cs).mem = s.mem := by
  unfold State.closeIntervals
  exact foldl_mem (fun s n => (State.replayAdmit_mem _ _ _ _).trans (State.closeInterval_mem _ _ _)) _ _

theorem State.seatWaves_memOk (l : List ((Nat × Wave) × Nat × List Nat)) : ∀ (s : State) (dom d : Nat), s.memOk = true →
    (s.seatWaves dom d l).memOk = true := by
  induction l with
  | nil => intro _ _ _ h; exact h
  | cons e l ih =>
    intro s dom d h
    exact ih _ _ _ (State.restoreGranules_memOk _ _ _ _ _ _ (State.memOk_keep (State.setWave_mem _ _ _) h))

theorem State.resumeLaunch_memOk {s t : State} {d n : Nat} {b : Block} {g : Grid} {k : Kernel} {cs : List Nat} {gr : List Granules}
    (h : s.memOk = true) (ht : s.resumeLaunch d n b g k cs gr = some t) : t.memOk = true := by
  unfold State.resumeLaunch at ht
  dsimp only at ht
  split at ht
  · cases ht
  · split at ht
    · cases ht
      refine State.memOk_keep ((State.closeIntervals_mem _ _ _ _).trans
        ((State.discardText_mem _ _ _ _).trans (State.updDie_mem _ _ _))) ?_
      exact State.seatWaves_memOk _ _ _ _ (State.restoreAlloc_memOk _ _ _ _ _ (State.memOk_keep rfl h))
    · cases ht

theorem State.resumeBlock_memOk {s t : State} {d n : Nat} {b : Block} {g : Grid} {k : Kernel} {cs : List Nat} {gr : List Granules}
    (h : s.memOk = true) (ht : s.resumeBlock d n b g k cs gr = some t) : t.memOk = true := by
  unfold State.resumeBlock at ht
  dsimp only at ht
  split at ht
  · cases ht
    refine State.memOk_keep ((State.closeIntervals_mem _ _ _ _).trans (State.discardText_mem _ _ _ _))
      (State.seatWaves_memOk _ _ _ _ ?_)
    exact foldl_memOk (fun _ _ hs => State.restoreAlloc_memOk _ _ _ _ _ hs) _ _ (State.memOk_keep rfl h)
  · cases ht

@[simp] theorem State.rereadGrid_mem (s : State) (g : Nat) : (s.rereadGrid g).mem = s.mem := by
  unfold State.rereadGrid
  split
  · rfl
  · split
    · rfl
    · dsimp only
      split
      · rfl
      · exact State.setGrid_mem _ _ _

@[simp] theorem State.rereadBlock_mem (s : State) (n : Nat) : (s.rereadBlock n).mem = s.mem := by
  unfold State.rereadBlock
  split
  · split
    · rfl
    · dsimp only
      split
      · rfl
      · exact (foldl_mem (fun s e => State.setWave_mem s _ _) _ _).trans (State.setBlock_mem _ _ _)
  · rfl

@[simp] theorem State.reread_mem (s : State) (n : Nat) : (s.reread n).mem = s.mem := by
  unfold State.reread
  rw [State.rereadBlock_mem]
  split
  · exact State.rereadGrid_mem _ _
  · rfl

theorem State.resumeOne_memOk {s t : State} {n : Nat} {cs : List Nat} {gr : List Granules} (h : s.memOk = true)
    (ht : s.resumeOne n cs gr = some t) : t.memOk = true := by
  unfold State.resumeOne at ht
  have hr : (s.reread n).memOk = true := State.memOk_keep (State.reread_mem _ _) h
  dsimp only at ht
  split at ht
  · split at ht
    · cases ht
    · split at ht
      · exact State.resumeLaunch_memOk hr ht
      · exact State.resumeBlock_memOk hr ht
  · cases ht

theorem State.resumeAll_memOk (l : List (Nat × Nat)) : ∀ {s t : State} {cs : List Nat} {gr : List Granules}, s.memOk = true →
    s.resumeAll l cs gr = some t → t.memOk = true := by
  induction l with
  | nil => intro s t cs gr h ht; unfold State.resumeAll at ht; cases ht; exact h
  | cons e l ih =>
    intro s t cs gr h ht
    obtain ⟨n, m⟩ := e
    unfold State.resumeAll at ht
    split at ht
    · next h1 => exact ih (State.resumeOne_memOk h h1) ht
    · cases ht

/-! ### Queues -/

@[simp] theorem State.setQueue_mem (s : State) (n : Nat) (q : Queue) : (s.setQueue n q).mem = s.mem := rfl
@[simp] theorem State.rouse_mem (s : State) (n : Nat) : (s.rouse n).mem = s.mem := rfl
@[simp] theorem State.dropQueue_mem (s : State) (n : Nat) : (s.dropQueue n).mem = s.mem := rfl
@[simp] theorem State.assignQueue_mem (s : State) (n c : Nat) : (s.assignQueue n c).mem = s.mem := by
  unfold State.assignQueue; split <;> rfl
@[simp] theorem State.settleQueue_mem (s : State) (n : Nat) : (s.settleQueue n).mem = s.mem := by
  unfold State.settleQueue; repeat' (first | rfl | split)
@[simp] theorem State.notifyFailed_mem (s : State) (n : Nat) : (s.notifyFailed n).mem = s.mem := rfl
@[simp] theorem State.dropNotify_memOk (s : State) (n : Nat) (h : s.memOk = true) : (s.dropNotify n).memOk = true := by
  unfold State.dropNotify; split
  · exact State.memOk_keep (State.rouse_mem _ _) (State.qCount_memOk _ _ _ _ h)
  · exact h

@[simp] theorem State.notifyQueue_memOk (s : State) (n : Nat) (q : Queue) (w : Nat) (h : s.memOk = true) :
    (s.notifyQueue n q w).2.memOk = true := by
  unfold State.notifyQueue
  split
  · exact State.memOk_keep (State.rouse_mem _ _) (State.qCount_memOk _ _ _ _ h)
  · split
    · exact State.memOk_keep (State.rouse_mem _ _) (State.setHdr_memOk _ _ _ _ _ h)
    · exact State.memOk_keep (State.rouse_mem _ _) (State.qCount_memOk _ _ _ _ h)

@[simp] theorem State.signal_memOk (s : State) (c : Nat) (va : DWord) (v : Nat) (b : Bool) (h : s.memOk = true) :
    (s.signal c va v b).memOk = true := by
  unfold State.signal; split
  · exact State.memWrites_memOk _ _ _ _ h
  · exact h

/-- The service of an entry of the PIFO keeps the form where its effect does. -/
theorem withEntry_memOk {s t : State} {n k : Nat} {f : PifoEntry → Queue → State} (hf : ∀ e q, (f e q).memOk = true)
    (h : s.memOk = true) (ht : withEntry s n k f = .next t) : t.memOk = true := by
  unfold withEntry at ht
  split at ht <;> cases ht
  · split
    · exact h
    · exact hf _ _
  · exact h

theorem withHead_memOk {s t : State} {n k : Nat} {f : PifoEntry → Queue → State} (hf : ∀ e q, (f e q).memOk = true)
    (h : s.memOk = true) (ht : withHead s n k f = .next t) : t.memOk = true := by
  unfold withHead at ht
  refine withEntry_memOk (fun e q => ?_) h ht
  split
  · exact h
  · split
    · exact State.refusePacket_memOk _ _ _ (State.memOk_keep (State.dropEntry_mem _ _) h)
    · exact hf e q

theorem moveQueue_memOk {s t : State} {n : Nat} {ok : Queue → Bool} {p : QueuePhase} {f : Queue → Queue} (h : s.memOk = true)
    (ht : moveQueue s n ok p f = .next t) : t.memOk = true := by
  have hs : (s.settleQueue n).memOk = true := State.memOk_keep (State.settleQueue_mem _ _) h
  unfold moveQueue at ht
  dsimp only at ht
  split at ht
  · split at ht <;> cases ht
    · exact State.memOk_keep (State.setQueue_mem _ _ _) (State.setHdr_memOk _ _ _ _ _ hs)
    · exact State.memOk_keep (State.report_mem _ _) hs
  · cases ht; exact State.memOk_keep (State.report_mem _ _) hs

@[simp] theorem State.destroyQueue_memOk (s : State) (n : Nat) (h : s.memOk = true) : (s.destroyQueue n).memOk = true := by
  unfold State.destroyQueue; split
  · exact h
  · exact State.memOk_keep (State.dropQueue_mem _ _) (State.setHdr_memOk _ _ _ _ _ h)

/-! ### Loading -/

@[simp] theorem State.putLeaves_memOk (s : State) (b : DataBlock) (h : s.memOk = true) : (s.putLeaves b).memOk = true :=
  foldl_memOk (fun _ _ hs => State.hbmWrites_memOk _ _ _ _ hs) _ _ h

theorem State.placeData_memOk {s t : State} {c : Nat} {b : DataBlock} (h : s.memOk = true) (ht : s.placeData c b = some t) :
    t.memOk = true := by
  unfold State.placeData at ht
  dsimp only at ht
  split at ht <;> cases ht
  exact State.hbmWrites_memOk _ _ _ _ (State.putLeaves_memOk _ _ h)

theorem State.placeAllData_memOk {c : Nat} {bs : List DataBlock} {s t : State} (h : s.memOk = true)
    (ht : s.placeAllData c bs = some t) : t.memOk = true := by
  unfold State.placeAllData at ht
  split at ht
  · have key : ∀ (l : List DataBlock) (u : State), u.memOk = true → l.foldlM (fun s b => s.placeData c b) u = some t →
        t.memOk = true := by
      intro l
      induction l with
      | nil => intro u hu h1; simp only [List.foldlM_nil, Option.pure_def, Option.some.injEq] at h1; exact h1 ▸ hu
      | cons b l ih =>
        intro u hu h1
        simp only [List.foldlM_cons, Option.bind_eq_bind] at h1
        obtain ⟨v, h2, h3⟩ := Option.bind_eq_some_iff.mp h1
        exact ih v (State.placeData_memOk hu h2) h3
    exact key bs s h ht
  · cases ht

theorem State.enterKernels_memOk {c : Nat} {strip : Bool} (l : List KernelImage) : ∀ {s : State} {o : Option Nat}
    {r : List Nat × State}, s.memOk = true → s.enterKernels c o strip l = some r → r.2.memOk = true := by
  induction l with
  | nil => intro s o r h ht; unfold State.enterKernels at ht; cases ht; exact h
  | cons im l ih =>
    intro s o r h ht
    unfold State.enterKernels at ht
    split at ht
    · next t1 _ h1 _ =>
      split at ht
      · cases ht
      · dsimp only at ht
        obtain ⟨q, hq, he⟩ := Option.map_eq_some_iff.mp ht
        cases he
        have hw := State.hbmWrites_memOk (if strip = true then stripText im.text else im.text) t1 (t1.ownDom c) im.place
          (State.placeAllData_memOk h h1)
        refine ih (r := q) ?_ hq
        exact State.memOk_keep (by rfl) hw
    · cases ht

/-! ### Contexts -/

theorem State.mem_waves (s : State) (x : Tbl Wave) : ({ s with waves := x } : State).mem = s.mem := rfl
theorem State.mem_pifo (s : State) (x : List PifoEntry) : ({ s with pifo := x } : State).mem = s.mem := rfl
theorem State.mem_seqs (s : State) (x : List Seq) : ({ s with seqs := x } : State).mem = s.mem := rfl
theorem State.mem_cores (s : State) (x : Tbl Core) : ({ s with cores := x } : State).mem = s.mem := rfl

@[simp] theorem State.keyed_mem (s : State) (d : Nat) : (s.keyed d).mem = s.mem := by unfold State.keyed; split <;> rfl
@[simp] theorem State.saveBlocks_mem (s : State) (p : Nat → Block → Bool) : (s.saveBlocks p).mem = s.mem := rfl
@[simp] theorem State.endReplay_mem (s : State) (c : Nat) : (s.endReplay c).mem = s.mem := rfl

@[simp] theorem State.revoke_mem (s : State) (c : Nat) : (s.revoke c).mem = s.mem := by
  unfold State.revoke
  split
  · rfl
  · dsimp only
    rw [State.endReplay_mem, State.updCtx_mem, State.mem_waves, State.closeFolio_mem]

theorem State.beginEnd_memOk (s : State) (c : Nat) (h : s.memOk = true) : (s.beginEnd c).memOk = true := by
  unfold State.beginEnd
  dsimp only
  refine foldl_memOk (fun s e hs => State.endCard_memOk _ _ _ _ _ hs) _ _ ?_
  refine State.memOk_keep (State.unbindAll_mem _ _) (State.memOk_keep (State.mem_pifo _ _) ?_)
  refine foldl_memOk (fun s n hs => State.destroyQueue_memOk _ _ hs) _ _ ?_
  refine foldl_memOk (fun s e hs => State.memOk_keep (State.purgeQueues_mem _ _) hs) _ _ ?_
  refine State.memOk_keep (State.stopBlocks_mem _ _) ?_
  refine foldl_memOk (fun s e hs => State.memOk_keep (State.cancelGrid_mem _ _) hs) _ _ ?_
  exact State.memOk_keep ((State.updCtx_mem _ _ _).trans (State.revoke_mem s c)) h

theorem State.finishEnd_memOk (s : State) (c : Nat) (h : s.memOk = true) : (s.finishEnd c).memOk = true := by
  unfold State.finishEnd
  refine State.memOk_keep (State.setCtx_mem _ _ _) ?_
  refine foldl_memOk (fun s d hs => State.discard_memOk _ _ hs) _ _ ?_
  rw [State.memOk_iff] at h ⊢
  exact h

@[simp] theorem State.endContext_memOk (s : State) (c : Nat) (h : s.memOk = true) : (s.endContext c).memOk = true := by
  unfold State.endContext
  have key : ∀ t : State, t.memOk = true →
      (if (t.ctx c).state == .ending && !t.onCompute c then t.finishEnd c else t).memOk = true := by
    intro t ht
    split
    · exact State.finishEnd_memOk _ _ ht
    · exact ht
  refine key _ ?_
  cases (s.ctx c).state with
  | free => exact h
  | created => exact State.beginEnd_memOk s c h
  | resident => exact State.beginEnd_memOk s c h
  | standby => exact State.beginEnd_memOk s c h
  | ending => exact h

theorem State.writeDesc_memOk {s t : State} {c : Nat} {wr : DescWrite} (h : s.memOk = true) (ht : s.writeDesc c wr = some t) :
    t.memOk = true := by
  unfold State.writeDesc at ht
  dsimp only at ht
  repeat' split at ht
  all_goals first
    | (cases ht; done)
    | (cases ht; exact State.memOk_keep rfl h)
    | (cases ht; exact State.memOk_keep ((State.setCtx_mem _ _ _).trans (State.keyed_mem _ _)) h)
    | (cases ht; exact State.discard_memOk _ _ (State.memOk_keep rfl h))

@[simp] theorem State.unfault_mem (s : State) (n : Nat) : (s.unfault n).mem = s.mem := by unfold State.unfault; split <;> rfl

@[simp] theorem State.resumeFault_memOk (s : State) (n : Nat) (w : Wave) (c : Nat) (r : FaultRec) (h : s.memOk = true) :
    (s.resumeFault n w c r).memOk = true := by
  unfold State.resumeFault
  exact State.rewritten_memOk _ _ (State.memOk_keep
    ((State.unfault_mem _ _).trans ((State.updCtx_mem _ _ _).trans (State.setWave_mem _ _ _))) h)

theorem onFaulted_memOk {s t : State} {n : Nat} {f : Wave → WCtx → FaultRec → State} (hf : ∀ w x r, (f w x r).memOk = true)
    (h : s.memOk = true) (ht : onFaulted n s f = .next t) : t.memOk = true := by
  unfold onFaulted at ht
  refine onWave_memOk (fun w x => ?_) h ht
  split
  · split
    · exact hf _ _ _
    · exact h
  · exact h

@[simp] theorem State.adopt_mem (s : State) (a b : Nat) : (s.adopt a b).mem = s.mem := rfl
@[simp] theorem State.reattach_mem (s : State) : s.reattach.mem = s.mem :=
  foldl_mem (fun s n => State.settleQueue_mem s n) _ s

@[simp] theorem State.readLog_mem (s : State) (c : Nat) : (s.readLog c).mem = s.mem := by
  unfold State.readLog; dsimp only; split <;> rfl

@[simp] theorem State.takeHeld_mem (s : State) : s.takeHeld.mem = s.mem := foldl_mem (fun s n => State.readLog_mem s n) _ s

@[simp] theorem State.badTarget_memOk (s : State) (n : Nat) (w : Wave) (x : WCtx) (r : FaultRec) (h : s.memOk = true) :
    (s.badTarget n w x r).memOk = true := by
  unfold State.badTarget
  dsimp only
  split
  · exact State.rewritten_memOk _ _ (State.memOk_keep (by simp) h)
  · exact State.memOk_keep (by simp) h

/-! ### Debugging and replay -/

theorem onDebugged_memOk {s t : State} {n : Nat} {f : Wave → WCtx → State} (hf : ∀ w x, (f w x).memOk = true)
    (h : s.memOk = true) (ht : onDebugged n s f = .next t) : t.memOk = true := by
  unfold onDebugged at ht
  refine onWave_memOk (fun w x => ?_) h ht
  split
  · exact hf _ _
  · exact State.memOk_keep (State.report_mem _ _) h

@[simp] theorem State.rouseIsland_mem (s : State) (w : Wave) : (s.rouseIsland w).mem = s.mem := by
  unfold State.rouseIsland; dsimp only; split <;> rfl

@[simp] theorem State.haltAll_mem (s : State) (c : Nat) : (s.haltAll c).mem = s.mem := rfl

@[simp] theorem State.pastBrkpt_mem (s : State) (n : Nat) (w : Wave) (x : WCtx) (f : Wave → Wave) : (s.pastBrkpt n w x f).mem = s.mem := by
  unfold State.pastBrkpt; split <;> simp

theorem State.replayStep_mem {s t : State} {n : Nat} (h : s.replayStep n = some t) : t.mem = s.mem := by
  unfold State.replayStep at h
  split at h
  · cases h
  · split at h
    · cases h
    · cases h; rfl

@[simp] theorem State.debugRead_mem (s : State) (n : Nat) : (s.debugRead n).mem = s.mem := by
  unfold State.debugRead
  repeat' (first | rfl | split)
  all_goals simp

theorem State.debugPut_memOk {s t : State} {n : Nat} {w : Wave} {x : WCtx} {wr : DbgWrite} (h : s.memOk = true)
    (ht : s.debugPut n w x wr = some t) : t.memOk = true := by
  unfold State.debugPut at ht
  split at ht
  · split at ht
    · cases ht
      split
      · exact h
      · exact State.spillWrites_memOk _ _ _ _ _ _ h
    · cases ht
  · obtain ⟨q, _, he⟩ := Option.map_eq_some_iff.mp ht
    cases he; exact h

@[simp] theorem State.kept_mem (s t : State) (u : Turn) : (s.kept t u).mem = t.mem := rfl
@[simp] theorem State.stampPasses_mem (s : State) : s.stampPasses.mem = s.mem := rfl
@[simp] theorem State.replayOn_mem (s : State) (d c : Nat) : (s.replayOn d c).mem = s.mem := rfl

@[simp] theorem State.areaWrites_memOk (s : State) (d c x at_ : Nat) (bs : List Byte) (h : s.memOk = true) :
    (s.areaWrites d c x at_ bs).memOk = true := by
  unfold State.areaWrites
  exact State.poolWrites_memOk _ _ _ _ (State.poolWrites_memOk _ _ _ _ h)

theorem ite_memOk {p : Prop} [Decidable p] {s t : State} (hs : s.memOk = true) (ht : t.memOk = true) :
    (if p then s else t).memOk = true := by
  split
  · exact hs
  · exact ht

@[simp] theorem State.writeInterval_memOk (s : State) (d c : Nat) (r : ReplayCore) (h : s.memOk = true) :
    (s.writeInterval d c r).memOk = true := by
  unfold State.writeInterval
  split
  · exact h
  · next i _ =>
    have h1 : ∀ rs, (if i.records.isEmpty = true then s.areaWrites d c r.ctx i.base rs else s).memOk = true := by
      intro rs
      split
      · exact State.areaWrites_memOk _ _ _ _ _ _ h
      · exact h
    exact ite_memOk h (State.memOk_keep (State.updCore_mem _ _ _ _) (State.areaWrites_memOk _ _ _ _ _ _ (h1 _)))

@[simp] theorem State.journaled_memOk (s : State) (h : s.memOk = true) : s.journaled.memOk = true := by
  unfold State.journaled
  refine foldl_memOk (fun u e hu => ?_) _ _ h
  split
  · exact State.writeInterval_memOk _ _ _ _ hu
  · exact hu

@[simp] theorem State.refuseStop_mem (s : State) (c : Nat) (n : StopName) (o : Bool) : (s.refuseStop c n o).mem = s.mem := by
  simp [State.refuseStop]

@[simp] theorem State.judgeStop_mem (s : State) (c : Nat) (n : StopName) : (s.judgeStop c n).mem = s.mem := by
  unfold State.judgeStop
  repeat' (first | rfl | exact State.refuseStop_mem _ _ _ _ | split)

@[simp] theorem State.judgeStops_mem (s : State) : s.judgeStops.mem = s.mem := by
  unfold State.judgeStops
  dsimp only
  split
  · rfl
  · refine (foldl_mem (fun t a => ?_) _ _).trans rfl
    split
    · rfl
    · split
      · exact State.judgeStop_mem _ _ _
      · exact State.refuseStop_mem _ _ _ _

@[simp] theorem State.thaw_mem (s : State) : s.thaw.mem = s.mem := by
  unfold State.thaw
  dsimp only
  repeat' (first | rfl | split)

/-- What a step keeps, writes to the journal areas and settles leaves memory in its form. -/
@[simp] theorem State.recorded_memOk (s t : State) (h : t.memOk = true) : (s.recorded t).memOk = true := by
  unfold State.recorded
  dsimp only
  refine State.memOk_keep ((State.thaw_mem _).trans (State.judgeStops_mem _)) (State.journaled_memOk _ (State.memOk_keep ?_ h))
  split <;> rfl

/-! ### Links, service, time, turns -/

theorem onPort_memOk {s t : State} {p : Nat} {f : Link → Link} (h : s.memOk = true) (ht : onPort p s f = .next t) :
    t.memOk = true := by
  unfold onPort at ht
  cases ht
  split
  · exact State.memOk_keep (State.setLink_mem _ _ _) h
  · exact h

@[simp] theorem State.serveRequest_memOk (s : State) (p pa d : Nat) (r : PeerReq) (h : s.memOk = true) :
    (s.serveRequest p pa d r).memOk = true := by
  unfold State.serveRequest
  split
  · exact State.memOk_keep (State.report_mem _ _) h
  · exact State.memOk_keep (State.report_mem _ _) (State.hbmWrites_memOk _ _ _ _ h)
  · exact State.memOk_keep (State.report_mem _ _) (State.hbmWrites_memOk _ _ _ _ h)

@[simp] theorem State.linkTagFailure_mem (s : State) (p : Nat) : (s.linkTagFailure p).mem = s.mem := by
  unfold State.linkTagFailure; split <;> rfl
@[simp] theorem State.linkSecond_mem (s : State) (p : Nat) : (s.linkSecond p).mem = s.mem := by
  unfold State.linkSecond; split <;> rfl
@[simp] theorem State.spdmRequest_mem (s : State) (p c : Nat) (bs : List Byte) : (s.spdmRequest p c bs).mem = s.mem := by
  unfold State.spdmRequest; split <;> rfl
@[simp] theorem State.textRead_mem (s : State) (d c k : Nat) (ws : List Nat) : (s.textRead d c k ws).mem = s.mem := by
  unfold State.textRead; split <;> rfl

@[simp] theorem State.count_mem (s : State) (e : LifeEntry) (n : Nat) : (s.count e n).mem = s.mem := rfl

theorem State.reset_memOk : State.reset.memOk = true := rfl

@[simp] theorem State.cold_memOk (s : State) : s.cold.memOk = true := rfl

@[simp] theorem State.stopReplays_mem (s : State) (i : Nat) : (s.stopReplays i).mem = s.mem := rfl

@[simp] theorem State.setCoreIsland_mem (s : State) (i : Nat) (st : IslandState) : (s.setCoreIsland i st).mem = s.mem := by
  unfold State.setCoreIsland; dsimp only; split <;> rfl

@[simp] theorem State.sramOff_memOk (s : State) (d : Nat) (h : s.memOk = true) : (s.sramOff d).memOk = true := by
  rw [State.memOk_iff] at h ⊢
  exact ⟨Memory.wf_filter h.1 _, h.2⟩

@[simp] theorem State.passCycles_mem (s : State) (d n : Nat) : (s.passCycles d n).mem = s.mem := rfl

@[simp] theorem State.holdText_mem (s : State) (w : Wave) (x : WCtx) : (s.holdText w x).mem = s.mem := by
  unfold State.holdText; split <;> rfl

@[simp] theorem State.stepOver_mem (s t : State) (i : Instr) : (s.stepOver t i).mem = t.mem := by
  unfold State.stepOver
  split
  · rfl
  · split <;> rfl

@[simp] theorem State.settled_memOk (s t u : State) (i : Instr) (h : u.memOk = true) : (s.settled t u i).memOk = true := by
  unfold State.settled
  exact State.memOk_keep (State.newKey_mem _) (State.recorded_memOk _ _ (State.memOk_keep (State.stepOver_mem _ _ _) h))

end Sys2Proof.Machine
end

