-- ==== Sys2Proof/Laws/Masks.lean ====
section
/-! SUPPORT. Lane masks: which lanes a mask that a test picks has, and its lowest lane. -/

namespace Sys2Proof.Machine

/-- The empty mask has no lane. -/
theorem noLane (l : Nat) : BitVec.getLsbD (0 : Mask) l = false := BitVec.getLsbD_zero

/-- The lanes below `n` that a test picks, entered into a mask. -/
theorem getLsbD_foldl_lanes (p : Nat → Bool) (n l : Nat) (h : l < 64) :
    ((List.range n).foldl (fun m i => if p i then m ||| (1#64 <<< i) else m) (0 : Mask)).getLsbD l =
      (decide (l < n) && p l) := by
  induction n with
  | zero => simp
  | succ n ih =>
    rw [List.range_succ, List.foldl_append, List.foldl_cons, List.foldl_nil]
    have hs : (1#64 <<< n).getLsbD l = decide (l = n) := by
      rw [BitVec.getLsbD_shiftLeft, BitVec.getLsbD_one]
      simp only [h, decide_true, Bool.true_and]
      by_cases hl : l = n
      · simp [hl]
      · by_cases hn : l < n
        · simp [hl, hn]
        · have : l - n ≠ 0 := by omega
          simp [hl, this]
    by_cases hl : l = n
    · subst hl
      cases hp : p l
      · simp only [Bool.false_eq_true, if_false, ih, hp, Bool.and_false]
      · simp only [if_true, BitVec.getLsbD_or, ih, hs]; simp
    · have e : decide (l < n + 1) = decide (l < n) := by
        by_cases hn : l < n
        · simp [hn]; omega
        · simp [hn]; omega
      cases hp : p n
      · simp only [Bool.false_eq_true, if_false, ih, e]
      · simp only [if_true, BitVec.getLsbD_or, ih, hs, hl, decide_false, Bool.or_false, e]

/-- A mask has the lanes that its test picks. -/
@[simp] theorem getLsbD_maskOf (p : Nat → Bool) (l : Nat) : (maskOf p).getLsbD l = (decide (l < 64) && p l) := by
  by_cases h : l < 64
  · rw [maskOf, getLsbD_foldl_lanes p 64 l h]
  · rw [BitVec.getLsbD_of_ge (maskOf p) l (by omega)]; simp [h]

/-- A mask is empty where its test picks no lane. -/
theorem maskOf_eq_zero {p : Nat → Bool} (h : ∀ l, l < 64 → p l = false) : maskOf p = 0 := by
  apply BitVec.eq_of_getLsbD_eq
  intro l hl
  rw [getLsbD_maskOf, h l hl]; simp only [Bool.and_false, noLane]

theorem maskOf_ne_zero {p : Nat → Bool} {l : Nat} (hl : l < 64) (h : p l = true) : maskOf p ≠ 0 := by
  intro e
  have := getLsbD_maskOf p l
  rw [e, h, decide_eq_true hl] at this
  rw [noLane] at this; exact absurd this (by decide)

/-- A nonzero mask has a lane. -/
theorem exists_lane {m : Mask} (h : m ≠ 0) : ∃ l, l < 64 ∧ m.getLsbD l = true := by
  by_contra hc
  apply h
  apply BitVec.eq_of_getLsbD_eq
  intro l hl
  rw [noLane]
  cases hm : m.getLsbD l with
  | false => rfl
  | true => exact absurd ⟨l, hl, hm⟩ hc

@[simp] theorem mem_lanesOf {m : Mask} {l : Nat} : l ∈ lanesOf m ↔ l < 64 ∧ m.getLsbD l = true := by
  simp [lanesOf]

/-- A nonzero mask has a lowest lane, and it is one of the mask. -/
theorem lowestLane_some {m : Mask} (h : m ≠ 0) : ∃ l, lowestLane m = some l ∧ m.getLsbD l = true := by
  obtain ⟨l, hl, hm⟩ := exists_lane h
  have : (lowestLane m).isSome := by
    simp only [lowestLane, List.find?_isSome, List.mem_range]
    exact ⟨l, hl, hm⟩
  obtain ⟨k, hk⟩ := Option.isSome_iff_exists.mp this
  exact ⟨k, hk, by simpa using List.find?_some hk⟩

@[simp] theorem lowestLane_zero : lowestLane 0 = none := by decide

end Sys2Proof.Machine
end

