-- ==== Sys2Proof/Laws/PerInstr.lean ====
section
/-! SUPPORT. What holds of every instruction as syntax, one lemma for each constructor: an encoded instruction has an
assigned operation in its OP field (Table 3.1, Table 3.7). -/

namespace Sys2Proof.Laws

/-- The raw fields of an instruction, where it has an encoding, name an assigned operation. -/
def Opcode.Statement (i : Instr) : Prop := ∀ r, i.toRaw = some r → ∃ o, Op.ofCode r.op = some o ∧ o.code = r.op

/-- Fields put together for an operation. -/
theorem opcode_mk {o : Op} {h : Head} {d a b : BitVec 20} {m : BitVec 8} (e : Op.ofCode o.code = some o) (r : Raw)
    (k : some (mkRaw h o d a b m) = some r) : ∃ o, Op.ofCode r.op = some o ∧ o.code = r.op := by
  cases k; exact ⟨o, e, rfl⟩

theorem Opcode.nop (x0) : Opcode.Statement (Instr.nop x0) := fun r k => opcode_mk rfl r k
theorem Opcode.br (x0 x1) : Opcode.Statement (Instr.br x0 x1) := fun r k => opcode_mk rfl r k
theorem Opcode.brx (x0 x1) : Opcode.Statement (Instr.brx x0 x1) := fun r k => opcode_mk rfl r k
theorem Opcode.call (x0 x1 x2) : Opcode.Statement (Instr.call x0 x1 x2) := fun r k => opcode_mk rfl r k
theorem Opcode.ret (x0 x1) : Opcode.Statement (Instr.ret x0 x1) := fun r k => opcode_mk rfl r k
theorem Opcode.exit (x0) : Opcode.Statement (Instr.exit x0) := fun r k => opcode_mk rfl r k
theorem Opcode.yield_ (x0) : Opcode.Statement (Instr.yield_ x0) := fun r k => opcode_mk rfl r k
theorem Opcode.trap (x0 x1) : Opcode.Statement (Instr.trap x0 x1) := fun r k => opcode_mk rfl r k
theorem Opcode.sysc (x0 x1) : Opcode.Statement (Instr.sysc x0 x1) := fun r k => opcode_mk rfl r k
theorem Opcode.brkpt (x0 x1) : Opcode.Statement (Instr.brkpt x0 x1) := fun r k => opcode_mk rfl r k
theorem Opcode.icinv (x0) : Opcode.Statement (Instr.icinv x0) := fun r k => opcode_mk rfl r k
theorem Opcode.jenrol (x0 x1) : Opcode.Statement (Instr.jenrol x0 x1) := fun r k => opcode_mk rfl r k
theorem Opcode.jwait (x0 x1) : Opcode.Statement (Instr.jwait x0 x1) := fun r k => opcode_mk rfl r k
theorem Opcode.jstrike (x0 x1) : Opcode.Statement (Instr.jstrike x0 x1) := fun r k => opcode_mk rfl r k
theorem Opcode.hret (x0 x1) : Opcode.Statement (Instr.hret x0 x1) := fun r k => opcode_mk rfl r k
theorem Opcode.pcmin (x0 x1 x2) : Opcode.Statement (Instr.pcmin x0 x1 x2) := fun r k => opcode_mk rfl r k
theorem Opcode.pcmaj (x0 x1 x2) : Opcode.Statement (Instr.pcmaj x0 x1 x2) := fun r k => opcode_mk rfl r k
theorem Opcode.pceq (x0 x1 x2 x3) : Opcode.Statement (Instr.pceq x0 x1 x2 x3) := fun r k => opcode_mk rfl r k
theorem Opcode.iadd (x0 x1 x2 x3 x4) : Opcode.Statement (Instr.iadd x0 x1 x2 x3 x4) := fun r k => opcode_mk rfl r k
theorem Opcode.isub (x0 x1 x2 x3 x4) : Opcode.Statement (Instr.isub x0 x1 x2 x3 x4) := fun r k => opcode_mk rfl r k
theorem Opcode.imul (x0 x1 x2 x3 x4) : Opcode.Statement (Instr.imul x0 x1 x2 x3 x4) := fun r k => opcode_mk rfl r k
theorem Opcode.imulh (x0 x1 x2 x3 x4) : Opcode.Statement (Instr.imulh x0 x1 x2 x3 x4) := fun r k => opcode_mk rfl r k
theorem Opcode.imad (x0 x1 x2 x3 x4) : Opcode.Statement (Instr.imad x0 x1 x2 x3 x4) := fun r k => opcode_mk rfl r k
theorem Opcode.imin (x0 x1 x2 x3 x4) : Opcode.Statement (Instr.imin x0 x1 x2 x3 x4) := fun r k => opcode_mk rfl r k
theorem Opcode.imax (x0 x1 x2 x3 x4) : Opcode.Statement (Instr.imax x0 x1 x2 x3 x4) := fun r k => opcode_mk rfl r k
theorem Opcode.iabs (x0 x1 x2 x3) : Opcode.Statement (Instr.iabs x0 x1 x2 x3) := fun r k => opcode_mk rfl r k
theorem Opcode.ineg (x0 x1 x2 x3) : Opcode.Statement (Instr.ineg x0 x1 x2 x3) := fun r k => opcode_mk rfl r k
theorem Opcode.and (x0 x1 x2 x3 x4) : Opcode.Statement (Instr.and x0 x1 x2 x3 x4) := fun r k => opcode_mk rfl r k
theorem Opcode.or (x0 x1 x2 x3 x4) : Opcode.Statement (Instr.or x0 x1 x2 x3 x4) := fun r k => opcode_mk rfl r k
theorem Opcode.xor (x0 x1 x2 x3 x4) : Opcode.Statement (Instr.xor x0 x1 x2 x3 x4) := fun r k => opcode_mk rfl r k
theorem Opcode.andn (x0 x1 x2 x3 x4) : Opcode.Statement (Instr.andn x0 x1 x2 x3 x4) := fun r k => opcode_mk rfl r k
theorem Opcode.not (x0 x1 x2 x3) : Opcode.Statement (Instr.not x0 x1 x2 x3) := fun r k => opcode_mk rfl r k
theorem Opcode.shl (x0 x1 x2 x3 x4) : Opcode.Statement (Instr.shl x0 x1 x2 x3 x4) := fun r k => opcode_mk rfl r k
theorem Opcode.shr (x0 x1 x2 x3 x4) : Opcode.Statement (Instr.shr x0 x1 x2 x3 x4) := fun r k => opcode_mk rfl r k
theorem Opcode.sar (x0 x1 x2 x3 x4) : Opcode.Statement (Instr.sar x0 x1 x2 x3 x4) := fun r k => opcode_mk rfl r k
theorem Opcode.rotl (x0 x1 x2 x3 x4) : Opcode.Statement (Instr.rotl x0 x1 x2 x3 x4) := fun r k => opcode_mk rfl r k
theorem Opcode.popc (x0 x1 x2 x3) : Opcode.Statement (Instr.popc x0 x1 x2 x3) := fun r k => opcode_mk rfl r k
theorem Opcode.clz (x0 x1 x2 x3) : Opcode.Statement (Instr.clz x0 x1 x2 x3) := fun r k => opcode_mk rfl r k
theorem Opcode.brev (x0 x1 x2 x3) : Opcode.Statement (Instr.brev x0 x1 x2 x3) := fun r k => opcode_mk rfl r k
theorem Opcode.bfe (x0 x1 x2 x3 x4) : Opcode.Statement (Instr.bfe x0 x1 x2 x3 x4) := fun r k => opcode_mk rfl r k
theorem Opcode.bfi (x0 x1 x2 x3 x4) : Opcode.Statement (Instr.bfi x0 x1 x2 x3 x4) := fun r k => opcode_mk rfl r k
theorem Opcode.logt (x0 x1 x2 x3 x4) : Opcode.Statement (Instr.logt x0 x1 x2 x3 x4) := fun r k => opcode_mk rfl r k
theorem Opcode.mov (x0 x1 x2 x3) : Opcode.Statement (Instr.mov x0 x1 x2 x3) := fun r k => opcode_mk rfl r k
theorem Opcode.movi (x0 x1 x2) : Opcode.Statement (Instr.movi x0 x1 x2) := fun r k => opcode_mk rfl r k
theorem Opcode.sel (x0 x1 x2 x3 x4 x5) : Opcode.Statement (Instr.sel x0 x1 x2 x3 x4 x5) := fun r k => opcode_mk rfl r k
theorem Opcode.icvt (x0 x1 x2 x3 x4 x5) : Opcode.Statement (Instr.icvt x0 x1 x2 x3 x4 x5) := fun r k => opcode_mk rfl r k
theorem Opcode.isetp (x0 x1 x2 x3 x4 x5 x6) : Opcode.Statement (Instr.isetp x0 x1 x2 x3 x4 x5 x6) := fun r k => opcode_mk rfl r k
theorem Opcode.fsetp (x0 x1 x2 x3 x4 x5 x6) : Opcode.Statement (Instr.fsetp x0 x1 x2 x3 x4 x5 x6) := fun r k => opcode_mk rfl r k
theorem Opcode.plogt (x0 x1 x2 x3 x4) : Opcode.Statement (Instr.plogt x0 x1 x2 x3 x4) := fun r k => opcode_mk rfl r k
theorem Opcode.vote (x0 x1 x2 x3) : Opcode.Statement (Instr.vote x0 x1 x2 x3) := fun r k => opcode_mk rfl r k
theorem Opcode.shfl (x0 x1 x2 x3 x4 x5) : Opcode.Statement (Instr.shfl x0 x1 x2 x3 x4 x5) := fun r k => opcode_mk rfl r k
theorem Opcode.fadd (x0 x1 x2 x3 x4) : Opcode.Statement (Instr.fadd x0 x1 x2 x3 x4) := fun r k => opcode_mk rfl r k
theorem Opcode.fsub (x0 x1 x2 x3 x4) : Opcode.Statement (Instr.fsub x0 x1 x2 x3 x4) := fun r k => opcode_mk rfl r k
theorem Opcode.fmul (x0 x1 x2 x3 x4) : Opcode.Statement (Instr.fmul x0 x1 x2 x3 x4) := fun r k => opcode_mk rfl r k
theorem Opcode.ffma (x0 x1 x2 x3 x4) : Opcode.Statement (Instr.ffma x0 x1 x2 x3 x4) := fun r k => opcode_mk rfl r k
theorem Opcode.fmin (x0 x1 x2 x3 x4) : Opcode.Statement (Instr.fmin x0 x1 x2 x3 x4) := fun r k => opcode_mk rfl r k
theorem Opcode.fmax (x0 x1 x2 x3 x4) : Opcode.Statement (Instr.fmax x0 x1 x2 x3 x4) := fun r k => opcode_mk rfl r k
theorem Opcode.fdiv (x0 x1 x2 x3 x4) : Opcode.Statement (Instr.fdiv x0 x1 x2 x3 x4) := fun r k => opcode_mk rfl r k
theorem Opcode.fsqrt (x0 x1 x2 x3) : Opcode.Statement (Instr.fsqrt x0 x1 x2 x3) := fun r k => opcode_mk rfl r k
theorem Opcode.frcp (x0 x1 x2 x3) : Opcode.Statement (Instr.frcp x0 x1 x2 x3) := fun r k => opcode_mk rfl r k
theorem Opcode.frsq (x0 x1 x2 x3) : Opcode.Statement (Instr.frsq x0 x1 x2 x3) := fun r k => opcode_mk rfl r k
theorem Opcode.fexp2 (x0 x1 x2 x3) : Opcode.Statement (Instr.fexp2 x0 x1 x2 x3) := fun r k => opcode_mk rfl r k
theorem Opcode.flog2 (x0 x1 x2 x3) : Opcode.Statement (Instr.flog2 x0 x1 x2 x3) := fun r k => opcode_mk rfl r k
theorem Opcode.fsin (x0 x1 x2 x3) : Opcode.Statement (Instr.fsin x0 x1 x2 x3) := fun r k => opcode_mk rfl r k
theorem Opcode.fcos (x0 x1 x2 x3) : Opcode.Statement (Instr.fcos x0 x1 x2 x3) := fun r k => opcode_mk rfl r k
theorem Opcode.fclass (x0 x1 x2 x3) : Opcode.Statement (Instr.fclass x0 x1 x2 x3) := fun r k => opcode_mk rfl r k
theorem Opcode.frnd (x0 x1 x2 x3) : Opcode.Statement (Instr.frnd x0 x1 x2 x3) := fun r k => opcode_mk rfl r k
theorem Opcode.fabs (x0 x1 x2 x3) : Opcode.Statement (Instr.fabs x0 x1 x2 x3) := fun r k => opcode_mk rfl r k
theorem Opcode.fneg (x0 x1 x2 x3) : Opcode.Statement (Instr.fneg x0 x1 x2 x3) := fun r k => opcode_mk rfl r k
theorem Opcode.fcvt (x0 x1 x2 x3 x4 x5 x6 x7 x8 x9) : Opcode.Statement (Instr.fcvt x0 x1 x2 x3 x4 x5 x6 x7 x8 x9) := fun r k => opcode_mk rfl r k
theorem Opcode.f2i (x0 x1 x2 x3 x4 x5) : Opcode.Statement (Instr.f2i x0 x1 x2 x3 x4 x5) := fun r k => opcode_mk rfl r k
theorem Opcode.i2f (x0 x1 x2 x3 x4 x5) : Opcode.Statement (Instr.i2f x0 x1 x2 x3 x4 x5) := fun r k => opcode_mk rfl r k
theorem Opcode.pack (x0 x1 x2 x3 x4 x5 x6 x7) : Opcode.Statement (Instr.pack x0 x1 x2 x3 x4 x5 x6 x7) := fun r k => opcode_mk rfl r k
theorem Opcode.unpk (x0 x1 x2 x3 x4) : Opcode.Statement (Instr.unpk x0 x1 x2 x3 x4) := fun r k => opcode_mk rfl r k
theorem Opcode.dot4i8 (x0 x1 x2 x3 x4 x5) : Opcode.Statement (Instr.dot4i8 x0 x1 x2 x3 x4 x5) := fun r k => opcode_mk rfl r k
theorem Opcode.dot8i4 (x0 x1 x2 x3 x4 x5) : Opcode.Statement (Instr.dot8i4 x0 x1 x2 x3 x4 x5) := fun r k => opcode_mk rfl r k
theorem Opcode.dot4f8 (x0 x1 x2 x3 x4 x5 x6 x7) : Opcode.Statement (Instr.dot4f8 x0 x1 x2 x3 x4 x5 x6 x7) := fun r k => opcode_mk rfl r k
theorem Opcode.dot2bf (x0 x1 x2 x3 x4) : Opcode.Statement (Instr.dot2bf x0 x1 x2 x3 x4) := fun r k => opcode_mk rfl r k
theorem Opcode.dotb32 (x0 x1 x2 x3 x4) : Opcode.Statement (Instr.dotb32 x0 x1 x2 x3 x4) := fun r k => opcode_mk rfl r k
theorem Opcode.ld (x0 x1 x2 x3 x4) : Opcode.Statement (Instr.ld x0 x1 x2 x3 x4) := fun r k => opcode_mk rfl r k
theorem Opcode.st (x0 x1 x2 x3 x4) : Opcode.Statement (Instr.st x0 x1 x2 x3 x4) := fun r k => opcode_mk rfl r k
theorem Opcode.atom (x0 x1 x2 x3 x4 x5 x6) : Opcode.Statement (Instr.atom x0 x1 x2 x3 x4 x5 x6) := fun r k => opcode_mk rfl r k
theorem Opcode.fence (x0 x1 x2 x3) : Opcode.Statement (Instr.fence x0 x1 x2 x3) := fun r k => opcode_mk rfl r k
theorem Opcode.cpy (x0 x1 x2 x3 x4 x5 x6) : Opcode.Statement (Instr.cpy x0 x1 x2 x3 x4 x5 x6) := fun r k => opcode_mk rfl r k
theorem Opcode.cpyo (x0 x1 x2 x3 x4 x5 x6) : Opcode.Statement (Instr.cpyo x0 x1 x2 x3 x4 x5 x6) := fun r k => opcode_mk rfl r k
theorem Opcode.bulk (x0 x1 x2 x3) : Opcode.Statement (Instr.bulk x0 x1 x2 x3) := fun r k => opcode_mk rfl r k
theorem Opcode.arrinit (x0 x1 x2) : Opcode.Statement (Instr.arrinit x0 x1 x2) := fun r k => opcode_mk rfl r k
theorem Opcode.arrwait (x0 x1 x2 x3) : Opcode.Statement (Instr.arrwait x0 x1 x2 x3) := fun r k => opcode_mk rfl r k
theorem Opcode.arrtest (x0 x1 x2 x3) : Opcode.Statement (Instr.arrtest x0 x1 x2 x3) := fun r k => opcode_mk rfl r k
theorem Opcode.crpoll (x0 x1 x2) : Opcode.Statement (Instr.crpoll x0 x1 x2) := fun r k => opcode_mk rfl r k
theorem Opcode.crsleep (x0 x1) : Opcode.Statement (Instr.crsleep x0 x1) := fun r k => opcode_mk rfl r k
theorem Opcode.waitc (x0 x1 x2 x3 x4) : Opcode.Statement (Instr.waitc x0 x1 x2 x3 x4) := fun r k => opcode_mk rfl r k
theorem Opcode.waitt (x0 x1 x2) : Opcode.Statement (Instr.waitt x0 x1 x2) := fun r k => opcode_mk rfl r k
theorem Opcode.bararr (x0 x1) : Opcode.Statement (Instr.bararr x0 x1) := fun r k => opcode_mk rfl r k
theorem Opcode.barwait (x0 x1) : Opcode.Statement (Instr.barwait x0 x1) := fun r k => opcode_mk rfl r k
theorem Opcode.barsync (x0 x1) : Opcode.Statement (Instr.barsync x0 x1) := fun r k => opcode_mk rfl r k
theorem Opcode.barq (x0 x1 x2) : Opcode.Statement (Instr.barq x0 x1 x2) := fun r k => opcode_mk rfl r k
theorem Opcode.sracq (x0 x1 x2) : Opcode.Statement (Instr.sracq x0 x1 x2) := fun r k => opcode_mk rfl r k
theorem Opcode.srpost (x0 x1 x2) : Opcode.Statement (Instr.srpost x0 x1 x2) := fun r k => opcode_mk rfl r k
theorem Opcode.srwait (x0 x1 x2) : Opcode.Statement (Instr.srwait x0 x1 x2) := fun r k => opcode_mk rfl r k
theorem Opcode.srfree (x0 x1 x2) : Opcode.Statement (Instr.srfree x0 x1 x2) := fun r k => opcode_mk rfl r k
theorem Opcode.srbind (x0 x1 x2 x3 x4) : Opcode.Statement (Instr.srbind x0 x1 x2 x3 x4) := fun r k => opcode_mk rfl r k
theorem Opcode.tzero (x0 x1) : Opcode.Statement (Instr.tzero x0 x1) := fun r k => opcode_mk rfl r k
theorem Opcode.tldw (x0 x1 x2 x3 x4) : Opcode.Statement (Instr.tldw x0 x1 x2 x3 x4) := fun r k => opcode_mk rfl r k
theorem Opcode.tmma (x0 x1 x2 x3 x4 x5) : Opcode.Statement (Instr.tmma x0 x1 x2 x3 x4 x5) := fun r k => opcode_mk rfl r k
theorem Opcode.tmmas (x0 x1 x2 x3 x4 x5) : Opcode.Statement (Instr.tmmas x0 x1 x2 x3 x4 x5) := fun r k => opcode_mk rfl r k
theorem Opcode.tbin (x0 x1 x2 x3 x4 x5) : Opcode.Statement (Instr.tbin x0 x1 x2 x3 x4 x5) := fun r k => opcode_mk rfl r k
theorem Opcode.tlut (x0 x1 x2 x3 x4 x5) : Opcode.Statement (Instr.tlut x0 x1 x2 x3 x4 x5) := fun r k => opcode_mk rfl r k
theorem Opcode.tscacc (x0 x1 x2 x3) : Opcode.Statement (Instr.tscacc x0 x1 x2 x3) := fun r k => opcode_mk rfl r k
theorem Opcode.tdrain (x0 x1 x2 x3 x4 x5 x6) : Opcode.Statement (Instr.tdrain x0 x1 x2 x3 x4 x5 x6) := fun r k => opcode_mk rfl r k
theorem Opcode.tcvt (x0 x1 x2 x3 x4 x5) : Opcode.Statement (Instr.tcvt x0 x1 x2 x3 x4 x5) := fun r k => opcode_mk rfl r k
theorem Opcode.tsetph (x0 x1) : Opcode.Statement (Instr.tsetph x0 x1) := fun r k => opcode_mk rfl r k
theorem Opcode.dlaunch (x0 x1 x2) : Opcode.Statement (Instr.dlaunch x0 x1 x2) := fun r k => opcode_mk rfl r k
theorem Opcode.dlwait (x0 x1 x2) : Opcode.Statement (Instr.dlwait x0 x1 x2) := fun r k => opcode_mk rfl r k
theorem Opcode.nodeput (x0 x1 x2 x3) : Opcode.Statement (Instr.nodeput x0 x1 x2 x3) := fun r k => opcode_mk rfl r k
theorem Opcode.qclaim (x0 x1 x2 x3) : Opcode.Statement (Instr.qclaim x0 x1 x2 x3) := fun r k => opcode_mk rfl r k
theorem Opcode.qnotify (x0 x1 x2 x3) : Opcode.Statement (Instr.qnotify x0 x1 x2 x3) := fun r k => opcode_mk rfl r k
theorem Opcode.claim (x0 x1 x2) : Opcode.Statement (Instr.claim x0 x1 x2) := fun r k => opcode_mk rfl r k
theorem Opcode.claimend (x0 x1) : Opcode.Statement (Instr.claimend x0 x1) := fun r k => opcode_mk rfl r k
theorem Opcode.itemend (x0) : Opcode.Statement (Instr.itemend x0) := fun r k => opcode_mk rfl r k
theorem Opcode.clook (x0 x1 x2 x3 x4 x5) : Opcode.Statement (Instr.clook x0 x1 x2 x3 x4 x5) := fun r k => opcode_mk rfl r k
theorem Opcode.cfetch (x0 x1 x2 x3 x4 x5) : Opcode.Statement (Instr.cfetch x0 x1 x2 x3 x4 x5) := fun r k => opcode_mk rfl r k
theorem Opcode.cref (x0 x1 x2 x3) : Opcode.Statement (Instr.cref x0 x1 x2 x3) := fun r k => opcode_mk rfl r k
theorem Opcode.cunref (x0 x1 x2 x3) : Opcode.Statement (Instr.cunref x0 x1 x2 x3) := fun r k => opcode_mk rfl r k
theorem Opcode.crootcas (x0 x1 x2 x3) : Opcode.Statement (Instr.crootcas x0 x1 x2 x3) := fun r k => opcode_mk rfl r k
theorem Opcode.ccopyout (x0 x1 x2 x3) : Opcode.Statement (Instr.ccopyout x0 x1 x2 x3) := fun r k => opcode_mk rfl r k
theorem Opcode.hintSpaceWord (x0) : Opcode.Statement (Instr.hintSpaceWord x0) := fun _ k => nomatch k
theorem Opcode.writeRunm (x0 x1) : Opcode.Statement (Instr.writeRunm x0 x1) := fun _ k => nomatch k
theorem Opcode.writeParkm (x0 x1) : Opcode.Statement (Instr.writeParkm x0 x1) := fun _ k => nomatch k
theorem Opcode.writeLpc (x0 x1 x2) : Opcode.Statement (Instr.writeLpc x0 x1 x2) := fun _ k => nomatch k
theorem Opcode.writeHrun2 (x0 x1) : Opcode.Statement (Instr.writeHrun2 x0 x1) := fun _ k => nomatch k
theorem Opcode.writeSglim (x0 x1) : Opcode.Statement (Instr.writeSglim x0 x1) := fun _ k => nomatch k
theorem Opcode.writeSgq (x0 x1) : Opcode.Statement (Instr.writeSgq x0 x1) := fun _ k => nomatch k
theorem Opcode.writeDither (x0 x1) : Opcode.Statement (Instr.writeDither x0 x1) := fun _ k => nomatch k
theorem Opcode.writeFflags (x0 x1) : Opcode.Statement (Instr.writeFflags x0 x1) := fun _ k => nomatch k
theorem Opcode.readFflags (x0 x1) : Opcode.Statement (Instr.readFflags x0 x1) := fun _ k => nomatch k
theorem Opcode.writeHvec (x0 x1) : Opcode.Statement (Instr.writeHvec x0 x1) := fun _ k => nomatch k
theorem Opcode.writeSpecialRegister (x0 x1 x2) : Opcode.Statement (Instr.writeSpecialRegister x0 x1 x2) := fun _ k => nomatch k
theorem Opcode.serialSteering (x0) : Opcode.Statement (Instr.serialSteering x0) := fun _ k => nomatch k
theorem Opcode.quantumEnd (x0) : Opcode.Statement (Instr.quantumEnd x0) := fun _ k => nomatch k
theorem Opcode.handlerOverrun (x0) : Opcode.Statement (Instr.handlerOverrun x0) := fun _ k => nomatch k
theorem Opcode.waveEnd (x0) : Opcode.Statement (Instr.waveEnd x0) := fun _ k => nomatch k
theorem Opcode.loadComplete (x0 x1) : Opcode.Statement (Instr.loadComplete x0 x1) := fun _ k => nomatch k
theorem Opcode.storePerformed (x0) : Opcode.Statement (Instr.storePerformed x0) := fun _ k => nomatch k
theorem Opcode.translationWalkDone (x0 x1 x2 x3) : Opcode.Statement (Instr.translationWalkDone x0 x1 x2 x3) := fun _ k => nomatch k
theorem Opcode.pageFaultResolution (x0 x1 x2) : Opcode.Statement (Instr.pageFaultResolution x0 x1 x2) := fun _ k => nomatch k
theorem Opcode.translationInvalidation (x0 x1) : Opcode.Statement (Instr.translationInvalidation x0 x1) := fun _ k => nomatch k
theorem Opcode.invalidationComplete (x0) : Opcode.Statement (Instr.invalidationComplete x0) := fun _ k => nomatch k
theorem Opcode.copyLaneDone (x0 x1 x2 x3 x4) : Opcode.Statement (Instr.copyLaneDone x0 x1 x2 x3 x4) := fun _ k => nomatch k
theorem Opcode.copyTagFall (x0 x1) : Opcode.Statement (Instr.copyTagFall x0 x1) := fun _ k => nomatch k
theorem Opcode.arrwaitWake (x0) : Opcode.Statement (Instr.arrwaitWake x0) := fun _ k => nomatch k
theorem Opcode.crsleepWake (x0) : Opcode.Statement (Instr.crsleepWake x0) := fun _ k => nomatch k
theorem Opcode.cardRead (x0 x1) : Opcode.Statement (Instr.cardRead x0 x1) := fun _ k => nomatch k
theorem Opcode.cardStart (x0 x1) : Opcode.Statement (Instr.cardStart x0 x1) := fun _ k => nomatch k
theorem Opcode.cardDone (x0 x1) : Opcode.Statement (Instr.cardDone x0 x1) := fun _ k => nomatch k
theorem Opcode.cardPartialFault (x0) : Opcode.Statement (Instr.cardPartialFault x0) := fun _ k => nomatch k
theorem Opcode.cardResume (x0) : Opcode.Statement (Instr.cardResume x0) := fun _ k => nomatch k
theorem Opcode.cardCancel (x0) : Opcode.Statement (Instr.cardCancel x0) := fun _ k => nomatch k
theorem Opcode.barrierWake (x0) : Opcode.Statement (Instr.barrierWake x0) := fun _ k => nomatch k
theorem Opcode.ringWake (x0) : Opcode.Statement (Instr.ringWake x0) := fun _ k => nomatch k
theorem Opcode.ringBoundPost (x0 x1 x2 x3) : Opcode.Statement (Instr.ringBoundPost x0 x1 x2 x3) := fun _ k => nomatch k
theorem Opcode.tileCountFall (x0) : Opcode.Statement (Instr.tileCountFall x0) := fun _ k => nomatch k
theorem Opcode.seqContribution (x0) : Opcode.Statement (Instr.seqContribution x0) := fun _ k => nomatch k
theorem Opcode.clookFinish (x0 x1 x2) : Opcode.Statement (Instr.clookFinish x0 x1 x2) := fun _ k => nomatch k
theorem Opcode.cfetchFinish (x0 x1 x2) : Opcode.Statement (Instr.cfetchFinish x0 x1 x2) := fun _ k => nomatch k
theorem Opcode.cascade (x0) : Opcode.Statement (Instr.cascade x0) := fun _ k => nomatch k
theorem Opcode.loadCodeObject (x0 x1) : Opcode.Statement (Instr.loadCodeObject x0 x1) := fun _ k => nomatch k
theorem Opcode.kernelUnload (x0 x1) : Opcode.Statement (Instr.kernelUnload x0 x1) := fun _ k => nomatch k
theorem Opcode.kernelUnloaded (x0 x1) : Opcode.Statement (Instr.kernelUnloaded x0 x1) := fun _ k => nomatch k
theorem Opcode.gridRetire (x0) : Opcode.Statement (Instr.gridRetire x0) := fun _ k => nomatch k
theorem Opcode.gridCancel (x0) : Opcode.Statement (Instr.gridCancel x0) := fun _ k => nomatch k
theorem Opcode.dlwaitWake (x0) : Opcode.Statement (Instr.dlwaitWake x0) := fun _ k => nomatch k
theorem Opcode.batchCountdown (x0 x1) : Opcode.Statement (Instr.batchCountdown x0 x1) := fun _ k => nomatch k
theorem Opcode.gathererUnbind (x0 x1) : Opcode.Statement (Instr.gathererUnbind x0 x1) := fun _ k => nomatch k
theorem Opcode.claimWaveForm (x0 x1 x2) : Opcode.Statement (Instr.claimWaveForm x0 x1 x2) := fun _ k => nomatch k
theorem Opcode.itemRetire (x0) : Opcode.Statement (Instr.itemRetire x0) := fun _ k => nomatch k
theorem Opcode.bodyWaveForm (x0 x1 x2) : Opcode.Statement (Instr.bodyWaveForm x0 x1 x2) := fun _ k => nomatch k
theorem Opcode.reservingLaunchStart (x0 x1 x2) : Opcode.Statement (Instr.reservingLaunchStart x0 x1 x2) := fun _ k => nomatch k
theorem Opcode.dieSlotReport (x0) : Opcode.Statement (Instr.dieSlotReport x0) := fun _ k => nomatch k
theorem Opcode.pifoServe : Opcode.Statement (Instr.pifoServe) := fun _ k => nomatch k
theorem Opcode.globalDispatchBatch : Opcode.Statement (Instr.globalDispatchBatch) := fun _ k => nomatch k
theorem Opcode.coopGridPlace (x0 x1 x2) : Opcode.Statement (Instr.coopGridPlace x0 x1 x2) := fun _ k => nomatch k
theorem Opcode.blockAdmit (x0 x1 x2) : Opcode.Statement (Instr.blockAdmit x0 x1 x2) := fun _ k => nomatch k
theorem Opcode.preemptRequest (x0 x1) : Opcode.Statement (Instr.preemptRequest x0 x1) := fun _ k => nomatch k
theorem Opcode.drainBudgetExpire (x0) : Opcode.Statement (Instr.drainBudgetExpire x0) := fun _ k => nomatch k
theorem Opcode.blockSave (x0) : Opcode.Statement (Instr.blockSave x0) := fun _ k => nomatch k
theorem Opcode.blockResume (x0 x1 x2 x3) : Opcode.Statement (Instr.blockResume x0 x1 x2 x3) := fun _ k => nomatch k
theorem Opcode.blockFlush (x0) : Opcode.Statement (Instr.blockFlush x0) := fun _ k => nomatch k
theorem Opcode.blockRetire (x0) : Opcode.Statement (Instr.blockRetire x0) := fun _ k => nomatch k
theorem Opcode.sliceExpire (x0 x1) : Opcode.Statement (Instr.sliceExpire x0 x1) := fun _ k => nomatch k
theorem Opcode.queueClaimRemote (x0 x1 x2) : Opcode.Statement (Instr.queueClaimRemote x0 x1 x2) := fun _ k => nomatch k
theorem Opcode.remoteNotify (x0 x1 x2) : Opcode.Statement (Instr.remoteNotify x0 x1 x2) := fun _ k => nomatch k
theorem Opcode.slotReread (x0) : Opcode.Statement (Instr.slotReread x0) := fun _ k => nomatch k
theorem Opcode.packetTake (x0) : Opcode.Statement (Instr.packetTake x0) := fun _ k => nomatch k
theorem Opcode.launch (x0) : Opcode.Statement (Instr.launch x0) := fun _ k => nomatch k
theorem Opcode.node (x0 x1) : Opcode.Statement (Instr.node x0 x1) := fun _ k => nomatch k
theorem Opcode.copy (x0) : Opcode.Statement (Instr.copy x0) := fun _ k => nomatch k
theorem Opcode.signal (x0) : Opcode.Statement (Instr.signal x0) := fun _ k => nomatch k
theorem Opcode.wait (x0) : Opcode.Statement (Instr.wait x0) := fun _ k => nomatch k
theorem Opcode.waitSatisfied (x0) : Opcode.Statement (Instr.waitSatisfied x0) := fun _ k => nomatch k
theorem Opcode.writeSignal (x0) : Opcode.Statement (Instr.writeSignal x0) := fun _ k => nomatch k
theorem Opcode.barrier (x0) : Opcode.Statement (Instr.barrier x0) := fun _ k => nomatch k
theorem Opcode.pifoReinsert (x0 x1) : Opcode.Statement (Instr.pifoReinsert x0 x1) := fun _ k => nomatch k
theorem Opcode.rankProgramInstall (x0 x1) : Opcode.Statement (Instr.rankProgramInstall x0 x1) := fun _ k => nomatch k
theorem Opcode.queueCreate (x0 x1 x2 x3 x4) : Opcode.Statement (Instr.queueCreate x0 x1 x2 x3 x4) := fun _ k => nomatch k
theorem Opcode.queueBind (x0 x1 x2 x3 x4) : Opcode.Statement (Instr.queueBind x0 x1 x2 x3 x4) := fun _ k => nomatch k
theorem Opcode.queueOpen (x0) : Opcode.Statement (Instr.queueOpen x0) := fun _ k => nomatch k
theorem Opcode.queueDrain (x0) : Opcode.Statement (Instr.queueDrain x0) := fun _ k => nomatch k
theorem Opcode.queueClosed (x0) : Opcode.Statement (Instr.queueClosed x0) := fun _ k => nomatch k
theorem Opcode.queueForceClose (x0) : Opcode.Statement (Instr.queueForceClose x0) := fun _ k => nomatch k
theorem Opcode.queueDestroy (x0) : Opcode.Statement (Instr.queueDestroy x0) := fun _ k => nomatch k
theorem Opcode.contextCreate (x0 x1) : Opcode.Statement (Instr.contextCreate x0 x1) := fun _ k => nomatch k
theorem Opcode.makeResident (x0) : Opcode.Statement (Instr.makeResident x0) := fun _ k => nomatch k
theorem Opcode.contextEvict (x0) : Opcode.Statement (Instr.contextEvict x0) := fun _ k => nomatch k
theorem Opcode.contextEnd (x0) : Opcode.Statement (Instr.contextEnd x0) := fun _ k => nomatch k
theorem Opcode.faultRetry (x0) : Opcode.Statement (Instr.faultRetry x0) := fun _ k => nomatch k
theorem Opcode.faultContinue (x0) : Opcode.Statement (Instr.faultContinue x0) := fun _ k => nomatch k
theorem Opcode.faultRedirect (x0 x1) : Opcode.Statement (Instr.faultRedirect x0 x1) := fun _ k => nomatch k
theorem Opcode.faultEnd (x0) : Opcode.Statement (Instr.faultEnd x0) := fun _ k => nomatch k
theorem Opcode.faultLogLostClear (x0) : Opcode.Statement (Instr.faultLogLostClear x0) := fun _ k => nomatch k
theorem Opcode.heartbeat (x0) : Opcode.Statement (Instr.heartbeat x0) := fun _ k => nomatch k
theorem Opcode.freezeDispatch : Opcode.Statement (Instr.freezeDispatch) := fun _ k => nomatch k
theorem Opcode.curatorRestart (x0) : Opcode.Statement (Instr.curatorRestart x0) := fun _ k => nomatch k
theorem Opcode.debugGrant (x0 x1) : Opcode.Statement (Instr.debugGrant x0 x1) := fun _ k => nomatch k
theorem Opcode.debugAttach (x0 x1) : Opcode.Statement (Instr.debugAttach x0 x1) := fun _ k => nomatch k
theorem Opcode.debugHalt (x0) : Opcode.Statement (Instr.debugHalt x0) := fun _ k => nomatch k
theorem Opcode.haltReported (x0) : Opcode.Statement (Instr.haltReported x0) := fun _ k => nomatch k
theorem Opcode.debugStep (x0) : Opcode.Statement (Instr.debugStep x0) := fun _ k => nomatch k
theorem Opcode.debugResume (x0) : Opcode.Statement (Instr.debugResume x0) := fun _ k => nomatch k
theorem Opcode.debugStateWrite (x0 x1) : Opcode.Statement (Instr.debugStateWrite x0 x1) := fun _ k => nomatch k
theorem Opcode.breakpointSet (x0 x1 x2) : Opcode.Statement (Instr.breakpointSet x0 x1 x2) := fun _ k => nomatch k
theorem Opcode.debugRevoke (x0) : Opcode.Statement (Instr.debugRevoke x0) := fun _ k => nomatch k
theorem Opcode.linkPartnerDetect (x0) : Opcode.Statement (Instr.linkPartnerDetect x0) := fun _ k => nomatch k
theorem Opcode.linkTrained (x0 x1) : Opcode.Statement (Instr.linkTrained x0 x1) := fun _ k => nomatch k
theorem Opcode.linkTrainingTimeout (x0) : Opcode.Statement (Instr.linkTrainingTimeout x0) := fun _ k => nomatch k
theorem Opcode.spdmSessionEstablished (x0 x1) : Opcode.Statement (Instr.spdmSessionEstablished x0 x1) := fun _ k => nomatch k
theorem Opcode.authenticationFailure (x0) : Opcode.Statement (Instr.authenticationFailure x0) := fun _ k => nomatch k
theorem Opcode.tagFailureLimit (x0) : Opcode.Statement (Instr.tagFailureLimit x0) := fun _ k => nomatch k
theorem Opcode.laneLoss (x0 x1) : Opcode.Statement (Instr.laneLoss x0 x1) := fun _ k => nomatch k
theorem Opcode.lossOfSignal (x0) : Opcode.Statement (Instr.lossOfSignal x0) := fun _ k => nomatch k
theorem Opcode.retrain (x0) : Opcode.Statement (Instr.retrain x0) := fun _ k => nomatch k
theorem Opcode.retrainComplete (x0 x1 x2) : Opcode.Statement (Instr.retrainComplete x0 x1 x2) := fun _ k => nomatch k
theorem Opcode.portQuarantine (x0) : Opcode.Statement (Instr.portQuarantine x0) := fun _ k => nomatch k
theorem Opcode.portRelease (x0) : Opcode.Statement (Instr.portRelease x0) := fun _ k => nomatch k
theorem Opcode.portDisable (x0) : Opcode.Statement (Instr.portDisable x0) := fun _ k => nomatch k
theorem Opcode.keyUpdate (x0) : Opcode.Statement (Instr.keyUpdate x0) := fun _ k => nomatch k
theorem Opcode.endSession (x0) : Opcode.Statement (Instr.endSession x0) := fun _ k => nomatch k
theorem Opcode.peerPathTimeout (x0 x1 x2) : Opcode.Statement (Instr.peerPathTimeout x0 x1 x2) := fun _ k => nomatch k
theorem Opcode.inboundRequest (x0 x1 x2 x3) : Opcode.Statement (Instr.inboundRequest x0 x1 x2 x3) := fun _ k => nomatch k
theorem Opcode.exportRangeInstall (x0 x1) : Opcode.Statement (Instr.exportRangeInstall x0 x1) := fun _ k => nomatch k
theorem Opcode.collectiveGroupInstall (x0 x1 x2) : Opcode.Statement (Instr.collectiveGroupInstall x0 x1 x2) := fun _ k => nomatch k
theorem Opcode.collectiveDone (x0 x1) : Opcode.Statement (Instr.collectiveDone x0 x1) := fun _ k => nomatch k
theorem Opcode.deviceStart (x0 x1 x2 x3) : Opcode.Statement (Instr.deviceStart x0 x1 x2 x3) := fun _ k => nomatch k
theorem Opcode.startRecordClear : Opcode.Statement (Instr.startRecordClear) := fun _ k => nomatch k
theorem Opcode.islandStateSet (x0 x1) : Opcode.Statement (Instr.islandStateSet x0 x1) := fun _ k => nomatch k
theorem Opcode.islandWake (x0 x1) : Opcode.Statement (Instr.islandWake x0 x1) := fun _ k => nomatch k
theorem Opcode.powerLimitSet (x0) : Opcode.Statement (Instr.powerLimitSet x0) := fun _ k => nomatch k
theorem Opcode.lifetimeUpdate (x0 x1) : Opcode.Statement (Instr.lifetimeUpdate x0 x1) := fun _ k => nomatch k
theorem Opcode.checkpoint (x0 x1) : Opcode.Statement (Instr.checkpoint x0 x1) := fun _ k => nomatch k
theorem Opcode.journalFullCheckpoint (x0 x1) : Opcode.Statement (Instr.journalFullCheckpoint x0 x1) := fun _ k => nomatch k
theorem Opcode.replayToStop (x0 x1) : Opcode.Statement (Instr.replayToStop x0 x1) := fun _ k => nomatch k
theorem Opcode.replayStopReached (x0 x1) : Opcode.Statement (Instr.replayStopReached x0 x1) := fun _ k => nomatch k
theorem Opcode.replayContinue (x0 x1) : Opcode.Statement (Instr.replayContinue x0 x1) := fun _ k => nomatch k
theorem Opcode.samplePeriodSet (x0 x1) : Opcode.Statement (Instr.samplePeriodSet x0 x1) := fun _ k => nomatch k
theorem Opcode.stallSample (x0 x1 x2 x3 x4) : Opcode.Statement (Instr.stallSample x0 x1 x2 x3 x4) := fun _ k => nomatch k
theorem Opcode.folioTimeout (x0) : Opcode.Statement (Instr.folioTimeout x0) := fun _ k => nomatch k
theorem Opcode.folioWritten (x0) : Opcode.Statement (Instr.folioWritten x0) := fun _ k => nomatch k
theorem Opcode.cardCredit (x0 x1) : Opcode.Statement (Instr.cardCredit x0 x1) := fun _ k => nomatch k
theorem Opcode.supervisorAccess (x0) : Opcode.Statement (Instr.supervisorAccess x0) := fun _ k => nomatch k
theorem Opcode.contextDescriptorWrite (x0 x1) : Opcode.Statement (Instr.contextDescriptorWrite x0 x1) := fun _ k => nomatch k
theorem Opcode.collectionRegionCreate (x0 x1 x2 x3) : Opcode.Statement (Instr.collectionRegionCreate x0 x1 x2 x3) := fun _ k => nomatch k
theorem Opcode.supervisorNotify (x0 x1) : Opcode.Statement (Instr.supervisorNotify x0 x1) := fun _ k => nomatch k
theorem Opcode.spdmMessage (x0 x1 x2) : Opcode.Statement (Instr.spdmMessage x0 x1 x2) := fun _ k => nomatch k
theorem Opcode.powerLoss (x0 x1) : Opcode.Statement (Instr.powerLoss x0 x1) := fun _ k => nomatch k

end Sys2Proof.Laws
end

