-- ==== Sys2Proof/Tests/Slice0.lean ====
section
/-! SUPPORT. The tests: words of the spec's encodings, results the spec gives, ill-formed terms, and a witness for each statement. -/

namespace Sys2Proof.Tests

set_option Elab.async false

open Sys2Proof.Machine Sys2Proof.Claims

/-! ### What the tests are stated with -/

/-- The conditions of `Ready`, and a condition on the state, wave and context at issue, as they are evaluated. -/
def meets (i : Instr) (s : State) (p : State → Wave → WCtx → Bool) : Bool :=
  match s.waves.get s.cur with
  | none => false
  | some v =>
    match (s.begun s.cur v).wctx v.begun, i.toRaw with
    | some x, some r =>
      match Op.ofCode r.op with
      | some o =>
        decide (decodeFault (x.decode v.begun) r = none) && !v.begun.interlocked o r && p (s.begun s.cur v) v.begun x
      | none => false
    | _, _ => false

/-- The hypotheses of a statement of a wave's instruction hold at a state. -/
def Met (i : Instr) (s : State) (pre : Cond) : Prop := ∃ v x, Ready i s v x ∧ pre (s.begun s.cur v) v.begun x

theorem met_of {i : Instr} {s : State} {pre : Cond} (p : State → Wave → WCtx → Bool) (h : meets i s p = true)
    (hp : ∀ t w x, p t w x = true → pre t w x) : Met i s pre := by
  unfold meets at h
  split at h
  · cases h
  · next v hv =>
    split at h
    · next x r hx hr =>
      split at h
      · next o ho =>
        simp only [Bool.and_eq_true, decide_eq_true_eq, Bool.not_eq_true'] at h
        exact ⟨v, x, ⟨hv, hx, ⟨r, o, hr, ho, h.1.1, h.1.2⟩⟩, hp _ _ _ h.2⟩
      · cases h
    · cases h

/-- A condition that Lean decides. -/
theorem met_dec {i : Instr} {s : State} (pre : Cond) [∀ t w x, Decidable (pre t w x)]
    (h : meets i s (fun t w x => decide (pre t w x)) = true) : Met i s pre :=
  met_of _ h fun _ _ _ => of_decide_eq_true

def st : State := State.reset.placeWord 0

/-! ### Words of the spec's encodings

The digits are the fields of Table 3.1: OP, G, H, D, A, B, M. The operands and modifiers are set out from the tables named. -/

/-- Each word decodes to its instruction, and is its encoding. -/
def codes (l : List (BitVec 96 × Instr)) : Bool :=
  l.all fun p => decide ((decodeWord p.1).toOption = some p.2) && decide (encode p.2 = some p.1)

/-- The words that the spec itself spells out (R68, Table 3.10, Tables 9.8 and 18.6, and the programs). -/
theorem test_words_of_the_spec : codes [
    (0, .nop {}),
    (0x080_1_000_00006_00006_80001_02, .iadd { pred := 1 } (.lane 6) (.lane 6) (.imm 1) ⟨.s32, true⟩),
    (0x200_0_000_00004_00002_00003_00, .fadd {} (.lane 4) (.lane 2) (.lane 3) ⟨.f32, .rne, false⟩),
    (0x203_0_0c0_00008_00004_00005_84, .ffma { yld := true, reuse := 4 } (.lane 8) (.lane 4) (.lane 5) ⟨.f16x2, .rtz, false⟩),
    (0x080_0_000_00001_00001_bfffc_00, .iadd {} (.lane 1) (.lane 1) (.imm (-4)) ⟨.s32, false⟩),
    (0x101_0_000_00003_8ff00_80000_00, .movi {} (.lane 3) 0x3fc00000),
    (0x001_1_000_00000_00000_80002_00, .br { pred := 1 } 2),
    (0x440_0_000_00008_40004_0000a_d0, .cpy {} (.lane 8) (.uni 4) (.lane 10) .sz32 2 false),
    (0x602_0_000_00000_4000a_40009_20, .tmma {} 1 (.uni 10) (.uni 9) .e4m3 false)] = true := by decide +kernel

/-- Table 5.5. -/
theorem test_control_words : codes [
    (0x001_a_1f0_00000_00000_bfffe_00, .br { neg := true, pred := 2, stall := 1, yld := true, reuse := 7 } (-2)),
    (0x002_0_000_00000_0000b_00000_00, .brx {} (.lane 11)),
    (0x003_0_000_00014_00000_8000c_00, .call {} (.lane 20) (.imm 12)),
    (0x003_0_000_00014_00000_40007_00, .call {} (.lane 20) (.uni 7)),
    (0x004_0_000_00000_00014_00000_00, .ret {} (.lane 20)),
    (0x005_3_000_00000_00000_00000_00, .exit { pred := 3 }),
    (0x006_0_000_00000_00000_00000_00, .yield_ {}),
    (0x007_0_000_00000_80005_00000_00, .trap {} 5),
    (0x008_0_000_00000_8ffff_00000_00, .sysc {} 0xffff),
    (0x009_0_000_00000_80000_00000_00, .brkpt {} 0),
    (0x00a_0_000_00000_00000_00000_00, .icinv {})] = true := by decide +kernel

/-- Table 5.6. -/
theorem test_steering_words : codes [
    (0x040_0_000_40002_00000_00000_00, .jenrol {} (.uni 2)),
    (0x041_0_000_40004_00000_00000_00, .jwait {} (.uni 4)),
    (0x042_1_000_4001e_00000_00000_00, .jstrike { pred := 1 } (.uni 30)),
    (0x043_0_000_00000_40038_00000_00, .hret {} (.uni 56)),
    (0x044_0_000_40002_40004_00000_00, .pcmin {} (.uni 2) (.uni 4)),
    (0x045_0_000_40002_c0021_00000_00, .pcmaj {} (.uni 2) (.spec 0x21)),
    (0x046_0_000_40003_40004_80018_00, .pceq {} (.uni 3) (.uni 4) (.imm 24))] = true := by decide +kernel

/-- Tables 6.1 and 3.5. -/
theorem test_integer_words : codes [
    (0x080_0_000_00001_00002_00003_00, .iadd {} (.lane 1) (.lane 2) (.lane 3) ⟨.s32, false⟩),
    (0x081_0_000_00001_00002_40003_20, .isub {} (.lane 1) (.lane 2) (.uni 3) ⟨.z32, false⟩),
    (0x082_0_000_00002_00004_00006_42, .imul {} (.lane 2) (.lane 4) (.lane 6) ⟨.s64, true⟩),
    (0x083_0_000_00002_00004_00006_60, .imulh {} (.lane 2) (.lane 4) (.lane 6) ⟨.z64, false⟩),
    (0x084_0_000_00007_00002_80003_00, .imad {} (.lane 7) (.lane 2) (.imm 3) ⟨.s32, false⟩),
    (0x085_0_000_00001_00002_00003_80, .imin {} (.lane 1) (.lane 2) (.lane 3) ⟨.s16x2, false⟩),
    (0x086_0_000_00001_00002_00003_a0, .imax {} (.lane 1) (.lane 2) (.lane 3) ⟨.z16x2, false⟩),
    (0x087_0_000_00001_00002_00000_02, .iabs {} (.lane 1) (.lane 2) ⟨.s32, true⟩),
    (0x088_0_000_40001_40002_00000_00, .ineg {} (.uni 1) (.uni 2) ⟨.s32, false⟩)] = true := by decide +kernel

/-- Tables 6.3 and 3.5. -/
theorem test_logic_words : codes [
    (0x0c0_0_000_00001_00002_00003_c0, .and {} (.lane 1) (.lane 2) (.lane 3) ⟨.b32, false⟩),
    (0x0c1_0_000_00001_00002_00003_00, .or {} (.lane 1) (.lane 2) (.lane 3) ⟨.s32, false⟩),
    (0x0c2_0_000_00002_00004_00006_60, .xor {} (.lane 2) (.lane 4) (.lane 6) ⟨.z64, false⟩),
    (0x0c3_0_000_00001_00002_80001_20, .andn {} (.lane 1) (.lane 2) (.imm 1) ⟨.z32, false⟩),
    (0x0c4_0_000_00001_00002_00000_20, .not {} (.lane 1) (.lane 2) ⟨.z32, false⟩),
    (0x0c5_0_000_00001_00002_80004_20, .shl {} (.lane 1) (.lane 2) (.imm 4) ⟨.z32, false⟩),
    (0x0c6_0_000_00001_00002_80004_20, .shr {} (.lane 1) (.lane 2) (.imm 4) ⟨.z32, false⟩),
    (0x0c7_0_000_00001_00002_80004_00, .sar {} (.lane 1) (.lane 2) (.imm 4) ⟨.s32, false⟩),
    (0x0c8_0_000_00001_00002_00003_20, .rotl {} (.lane 1) (.lane 2) (.lane 3) ⟨.z32, false⟩),
    (0x0c9_0_000_00001_00002_00000_60, .popc {} (.lane 1) (.lane 2) ⟨.z64, false⟩),
    (0x0ca_0_000_00001_00002_00000_20, .clz {} (.lane 1) (.lane 2) ⟨.z32, false⟩),
    (0x0cb_0_000_00001_00002_00000_20, .brev {} (.lane 1) (.lane 2) ⟨.z32, false⟩),
    (0x0cc_0_000_00001_00002_80408_00, .bfe {} (.lane 1) (.lane 2) (.imm 0x408) ⟨.s32, false⟩),
    (0x0cd_0_000_00003_00004_8041c_20, .bfi {} (.lane 3) (.lane 4) (.imm 0x41c) ⟨.z32, false⟩),
    (0x0ce_0_000_00004_00002_00003_ac, .logt {} (.lane 4) (.lane 2) (.lane 3) 0xac)] = true := by decide +kernel

/-- Tables 6.4 to 6.6. -/
theorem test_move_words : codes [
    (0x100_0_000_00001_c0010_00000_00, .mov {} (.lane 1) (.spec 0x10) .s32),
    (0x100_0_000_c0027_80018_00000_00, .mov {} (.spec 0x27) (.imm 24) .s32),
    (0x101_0_000_00001_bffff_83ffe_00, .movi {} (.lane 1) (-2)),
    (0x102_0_000_00005_00003_80005_09, .sel {} (.lane 5) (.lane 3) (.imm 5) true 1),
    (0x103_0_000_00002_00004_00000_c2, .icvt {} (.lane 2) (.lane 4) .s64 .s8 true)] = true := by decide +kernel

/-- Tables 6.7 to 6.10, 7.6 and 7.7. -/
theorem test_predicate_and_lane_words : codes [
    (0x140_0_000_c0001_c0010_80008_28, .isetp {} (.spec 1) (.spec 0x10) (.imm 8) .z32 .lt .put),
    (0x140_0_000_c0002_00001_00003_15, .isetp {} (.spec 2) (.lane 1) (.lane 3) .s32 .ge .conj),
    (0x141_0_000_c0007_00002_00003_16, .fsetp {} (.spec 7) (.lane 2) (.lane 3) .f32 .ge .disj),
    (0x142_0_000_c0001_c0002_c0003_88, .plogt {} (.spec 1) (.spec 2) (.spec 3) 0x88),
    (0x143_0_000_c0001_c0002_00000_00, .vote {} (.spec 1) (.spec 2) .any),
    (0x143_0_000_00002_c0001_00000_03, .vote {} (.lane 2) (.spec 1) .ballot),
    (0x144_0_000_00001_00002_80001_0f, .shfl {} (.lane 1) (.lane 2) (.imm 1) .seg8 .xor)] = true := by decide +kernel

/-- Tables 7.1 and 3.6. -/
theorem test_float_words : codes [
    (0x200_0_000_00002_00004_00006_28, .fadd {} (.lane 2) (.lane 4) (.lane 6) ⟨.f64, .rdn, false⟩),
    (0x201_0_000_00001_00002_00003_02, .fsub {} (.lane 1) (.lane 2) (.lane 3) ⟨.f32, .rne, true⟩),
    (0x202_0_000_00001_00002_00003_4c, .fmul {} (.lane 1) (.lane 2) (.lane 3) ⟨.f16, .rup, false⟩),
    (0x203_0_000_00001_00002_00003_70, .ffma {} (.lane 1) (.lane 2) (.lane 3) ⟨.bf16, .rna, false⟩),
    (0x204_0_000_00001_00002_00003_a0, .fmin {} (.lane 1) (.lane 2) (.lane 3) ⟨.bf16x2, .rne, false⟩),
    (0x205_0_000_00001_00002_00003_00, .fmax {} (.lane 1) (.lane 2) (.lane 3) ⟨.f32, .rne, false⟩),
    (0x206_0_000_00001_00002_00003_04, .fdiv {} (.lane 1) (.lane 2) (.lane 3) ⟨.f32, .rtz, false⟩),
    (0x207_0_000_00001_00002_00000_00, .fsqrt {} (.lane 1) (.lane 2) ⟨.f32, .rne, false⟩),
    (0x208_0_000_00001_00002_00000_00, .frcp {} (.lane 1) (.lane 2) ⟨.f32, .rne, false⟩),
    (0x209_0_000_00001_00002_00000_00, .frsq {} (.lane 1) (.lane 2) ⟨.f32, .rne, false⟩),
    (0x20a_0_000_00001_00002_00000_00, .fexp2 {} (.lane 1) (.lane 2) ⟨.f32, .rne, false⟩),
    (0x20b_0_000_00001_00002_00000_00, .flog2 {} (.lane 1) (.lane 2) ⟨.f32, .rne, false⟩),
    (0x20c_0_000_00001_00002_00000_00, .fsin {} (.lane 1) (.lane 2) ⟨.f32, .rne, false⟩),
    (0x20d_0_000_00001_00002_00000_00, .fcos {} (.lane 1) (.lane 2) ⟨.f32, .rne, false⟩),
    (0x20e_0_000_00001_00002_00000_00, .fclass {} (.lane 1) (.lane 2) ⟨.f32, .rne, false⟩),
    (0x20f_0_000_00001_00002_00000_08, .frnd {} (.lane 1) (.lane 2) ⟨.f32, .rdn, false⟩),
    (0x210_0_000_00002_00004_00000_20, .fabs {} (.lane 2) (.lane 4) ⟨.f64, .rne, false⟩),
    (0x211_0_000_00001_00002_00000_80, .fneg {} (.lane 1) (.lane 2) ⟨.f16x2, .rne, false⟩)] = true := by decide +kernel

/-- Tables 7.8 to 7.14. -/
theorem test_conversion_and_dot_words : codes [
    (0x240_0_000_00004_00000_800c9_b0, .fcvt {} (.lane 4) (.lane 0) .e5m2 .e4m3 .rtz false false 1 3),
    (0x240_0_000_00004_00000_80005_83, .fcvt {} (.lane 4) (.lane 0) .e4m3 .f32 .sr true true 0 0),
    (0x241_0_000_00001_00002_00000_89, .f2i {} (.lane 1) (.lane 2) .s32 .f64 .rtz),
    (0x242_0_000_00001_00003_00000_b0, .i2f {} (.lane 1) (.lane 3) .f16 .z32 .rne),
    (0x243_0_000_00001_00002_00003_43, .pack {} (.lane 1) (.lane 2) (.lane 3) .e4m3x2 .rne true true),
    (0x244_0_000_00002_00003_00000_83, .unpk {} (.lane 2) (.lane 3) .e2m1 3),
    (0x280_0_000_00001_00002_00003_02, .dot4i8 {} (.lane 1) (.lane 2) (.lane 3) true false),
    (0x281_0_000_00001_00002_00003_01, .dot8i4 {} (.lane 1) (.lane 2) (.lane 3) false true),
    (0x282_0_000_00006_00004_00005_20, .dot4f8 {} (.lane 6) (.lane 4) (.lane 5) false false true .rne),
    (0x283_0_000_00006_00004_00005_04, .dot2bf {} (.lane 6) (.lane 4) (.lane 5) .rtz),
    (0x284_0_000_00006_00004_00005_01, .dotb32 {} (.lane 6) (.lane 4) (.lane 5) true)] = true := by decide +kernel

/-- Tables 9.3 to 9.7. -/
theorem test_memory_and_copy_words : codes [
    (0x400_0_000_00001_00002_80010_20, .ld {} (.lane 1) (.lane 2) (some (.imm 16)) .s8),
    (0x400_0_000_00004_00002_00000_c0, .ld {} (.lane 4) (.lane 2) none .b128),
    (0x401_0_000_00006_40002_00003_a0, .st {} (.lane 6) (.uni 2) (some (.lane 3)) .b64),
    (0x402_0_000_00006_00004_00000_94, .atom {} (.lane 6) (.lane 4) none .cas .acq false),
    (0x402_0_000_00006_00004_00000_0e, .atom {} (.lane 6) (.lane 4) none .add .ar true),
    (0x403_0_000_00000_40003_00000_03, .fence {} (.uni 3) none .full),
    (0x441_0_000_00008_40004_0000a_14, .cpyo {} (.lane 8) (.uni 4) (.lane 10) .sz4 2 true),
    (0x442_0_000_00000_40005_80080_18, .bulk {} (.uni 5) (some (.imm 128)) 3),
    (0x443_0_000_00000_40005_80020_00, .arrinit {} (.uni 5) (.imm 32)),
    (0x444_0_000_40003_40005_40006_00, .arrwait {} (.uni 3) (.uni 5) (.uni 6)),
    (0x445_0_000_40003_40005_80000_00, .arrtest {} (.uni 3) (.uni 5) (.imm 0)),
    (0x446_0_000_40004_40005_00000_00, .crpoll {} (.uni 4) (.uni 5)),
    (0x447_0_000_00000_40005_00000_00, .crsleep {} (.uni 5)),
    (0x480_0_000_00000_bf03f_8003f_00, .waitc {} 63 0 63 63),
    (0x481_0_000_00000_80002_80003_00, .waitt {} 2 3)] = true := by decide +kernel

/-- Tables 12.1, 12.4 and 12.5. -/
theorem test_barrier_and_ring_words : codes [
    (0x4c0_0_000_00000_80003_00000_00, .bararr {} 3),
    (0x4c1_0_000_00000_80003_00000_00, .barwait {} 3),
    (0x4c2_0_000_00000_80010_00000_00, .barsync {} 16),
    (0x4c3_0_000_40002_80003_00000_00, .barq {} (.uni 2) 3),
    (0x500_0_000_40008_00000_00000_04, .sracq {} (.uni 8) 4),
    (0x501_0_000_00000_40008_00000_04, .srpost {} (.uni 8) 4),
    (0x502_0_000_40008_00000_00000_07, .srwait {} (.uni 8) 7),
    (0x503_0_000_00000_80001_00000_00, .srfree {} (.imm 1) 0),
    (0x504_0_000_40008_40006_4000a_00, .srbind {} (.uni 8) (.uni 6) (.uni 10) 0)] = true := by decide +kernel

/-- Tables 18.2 to 18.4. -/
theorem test_tile_words : codes [
    (0x600_0_000_00000_00000_00000_e0, .tzero {} 7),
    (0x601_0_000_00000_4000b_40009_30, .tldw {} (.uni 11) (.uni 9) .w8 true),
    (0x603_0_000_00000_4000a_40009_76, .tmmas {} 3 (.uni 10) (.uni 9) .bf16 true),
    (0x604_0_000_00000_4000a_40009_12, .tbin {} 0 (.uni 10) (.uni 9) true true),
    (0x605_0_000_00000_4000a_40009_10, .tlut {} 0 (.uni 10) (.uni 9) true false),
    (0x606_0_000_00000_4000a_80003_20, .tscacc {} 1 (.uni 10) 3),
    (0x607_0_000_4000e_80000_40010_54, .tdrain {} (.uni 14) 2 (some (.uni 16)) .w32 .seq true),
    (0x607_0_000_4000e_80001_00000_40, .tdrain {} (.uni 14) 2 none .w16 .store false),
    (0x608_0_000_00000_00000_800c0_00, .tcvt {} 0 .bf16 .f32 .rne false),
    (0x608_0_000_00000_00000_80118_20, .tcvt {} 1 .e4m3 .s32 .rne true),
    (0x609_0_000_00000_80005_00000_00, .tsetph {} (.imm 5))] = true := by decide +kernel

/-- Tables 15.5, 21.3, 14.8 and 14.9. -/
theorem test_launch_queue_and_collection_words : codes [
    (0x800_0_000_40014_40008_00000_00, .dlaunch {} (.uni 20) (.uni 8)),
    (0x801_0_000_40016_40014_00000_00, .dlwait {} (.uni 22) (.uni 20)),
    (0x802_0_000_40003_40004_40005_00, .nodeput {} (some (.uni 3)) (.uni 4) (.uni 5)),
    (0x802_0_000_00000_40004_40005_00, .nodeput {} none (.uni 4) (.uni 5)),
    (0x803_1_000_40014_40006_80001_00, .qclaim { pred := 1 } (.uni 20) (.uni 6) (some (.imm 1))),
    (0x804_0_000_40016_40007_40015_00, .qnotify {} (some (.uni 22)) (.uni 7) (.uni 21)),
    (0x840_0_000_00000_00004_00001_00, .claim {} (.lane 4) (some (.lane 1))),
    (0x841_0_000_00000_00000_8000a_00, .claimend {} (.imm 10)),
    (0x842_0_000_00000_00000_00000_00, .itemend {}),
    (0x880_0_000_4000a_40008_00000_06, .clook {} (.uni 10) (.uni 8) 0 1 true),
    (0x881_0_000_40008_40004_4000a_28, .cfetch {} (.uni 8) (.uni 4) (some (.uni 10)) 1 2),
    (0x882_0_000_40003_40004_00000_80, .cref {} (.uni 3) (.uni 4) 4),
    (0x883_0_000_40003_40004_00000_00, .cunref {} (.uni 3) (.uni 4) 0),
    (0x884_0_000_40010_40006_40007_00, .crootcas {} (.uni 16) (.uni 6) (.uni 7)),
    (0x885_0_000_00000_40006_40007_1c, .ccopyout {} (.uni 6) (.uni 7) 7)] = true := by decide +kernel

/-- R50: a word under the guard `(!q0)` is a hint-space word, whatever else it holds. -/
theorem test_hint_space_words : codes [
    (0xfff_8_fff_fffff_fffff_fffff_ff, .hintSpaceWord (BitVec.allOnes 92)),
    (0x203_8_0c1_00008_00004_00005_87, .hintSpaceWord 0x2030c100008000040000587)] = true := by decide +kernel

/-- What a word is refused for. -/
def refusedFor (w : BitVec 96) (c : Cause) : Bool :=
  match decodeWord w with
  | .error d => decide (d = c)
  | .ok _ => false

/-- R67, R68, the worked decodings after Table 3.10, and a word for each check of Table 3.9. -/
theorem test_refused_words : (
    refusedFor (BitVec.allOnes 96) .illegalOp &&
    refusedFor 0x203_0_0c0_00008_00004_00005_87 .illegalMod &&
    refusedFor 0x203_0_0c1_00008_00004_00005_87 .illegalMod &&
    refusedFor 0x203_0_0c1_00008_00004_00005_84 .illegalHint &&
    refusedFor 0x00b_0_000_00000_00000_00000_00 .illegalOp &&
    refusedFor 0x080_0_000_80001_00002_00003_00 .illegalOperand &&
    refusedFor 0x080_0_000_00101_00002_00003_00 .illegalOperand &&
    refusedFor 0x000_0_000_00000_00000_00001_00 .illegalOperand &&
    refusedFor 0x100_0_000_00001_c0018_00000_00 .illegalOperand &&
    refusedFor 0x200_0_000_00003_00004_00006_20 .illegalOperand &&
    refusedFor 0x140_0_000_c0000_00004_00006_00 .illegalOperand &&
    refusedFor 0x080_0_000_00001_00002_00003_e0 .illegalMod &&
    refusedFor 0x080_0_000_00001_00002_00003_c2 .illegalMod &&
    refusedFor 0x200_0_000_00001_00002_00003_14 .illegalMod) = true := by decide +kernel

/-- A term that is not well-formed for each check of Table 3.9 and of WellFormed: operands, modifier, hint, an optional operand
spelled as the unused field, and a packed type in F2I, which its two-bit field cannot name. -/
theorem test_ill_formed_terms :
    (Instr.iadd {} (.imm 1) (.lane 2) (.lane 3) ⟨.s32, false⟩).wf = false ∧
    (Instr.iadd {} (.uni 1) (.lane 2) (.lane 3) ⟨.s32, false⟩).wf = false ∧
    (Instr.iadd {} (.lane 1) (.lane 2) (.lane 3) ⟨.b32, true⟩).wf = false ∧
    (Instr.fadd {} (.lane 1) (.lane 2) (.lane 3) ⟨.f32, .sr, false⟩).wf = false ∧
    (Instr.nop { chk := 1 }).wf = false ∧ (Instr.nop { neg := true }).wf = false ∧
    (Instr.ld {} (.lane 1) (.lane 2) (some (.lane 0)) .b32).wf = false ∧
    (Instr.nodeput {} (some (.lane 0)) (.uni 4) (.uni 5)).wf = false ∧
    (Instr.f2i {} (.lane 1) (.lane 2) .s32 .f16x2 .rne).wf = false ∧
    (Instr.i2f {} (.lane 1) (.lane 2) .bf16x2 .s32 .rne).wf = false ∧
    (Instr.f2i {} (.lane 1) (.lane 2) .s32 .f16 .rne).wf = true ∧
    (Instr.iadd {} (.lane 1) (.lane 2) (.lane 3) ⟨.s32, true⟩).wf = true := by decide +kernel

/-! ### Results that the spec gives -/

/-- The current wave changed. -/
def onW (s : State) (f : Wave → Wave) : State := { s with waves := s.waves.map fun (e : Nat × Wave) => (e.1, f e.2) }

/-- A register of every lane set. -/
def reg (r : Nat) (v : Word) (s : State) : State :=
  onW s fun w => { w with lanes := w.lanes.map fun (x : Lane) => { x with regs := x.regs.set r v } }

def uni (r : Nat) (v : DWord) (s : State) : State := onW s fun w => { w with k := w.k.set r v }

/-- The current wave after an instruction. -/
def after (i : Instr) (s : State) : Option Wave :=
  match exec i s with
  | .next t => t.waves.get s.cur
  | _ => none

def laneAfter (l r : Nat) (i : Instr) (s : State) : Option Word := (after i s).map fun w => (w.lane l).reg r

/-- The example of R70: s32 0x7fff_fff0 + 0x20, wrapping and saturated. -/
theorem test_iadd :
    laneAfter 0 1 (.iadd {} (.lane 1) (.lane 2) (.imm 32) ⟨.s32, false⟩) (reg 2 0x7ffffff0 st) = some 0x80000010 ∧
    laneAfter 7 1 (.iadd {} (.lane 1) (.lane 2) (.imm 32) ⟨.s32, true⟩) (reg 2 0x7ffffff0 st) = some 0x7fffffff := by
  decide +kernel

/-- The examples of R128: IMAD and IMULH. -/
theorem test_imad :
    laneAfter 0 7 (.imad {} (.lane 7) (.lane 2) (.imm 3) ⟨.s32, false⟩) (reg 7 5 (reg 2 0x40000000 st)) = some 0xc0000005 ∧
    laneAfter 0 7 (.imad {} (.lane 7) (.lane 2) (.imm 3) ⟨.s32, true⟩) (reg 7 5 (reg 2 0x40000000 st)) = some 0x7fffffff := by
  decide +kernel

theorem test_imulh :
    laneAfter 0 1 (.imulh {} (.lane 1) (.lane 2) (.lane 3) ⟨.z32, false⟩) (reg 2 0xffffffff (reg 3 0xffffffff st)) = some 0xfffffffe ∧
    laneAfter 0 1 (.imulh {} (.lane 1) (.lane 2) (.lane 3) ⟨.s32, false⟩) (reg 2 0xffffffff (reg 3 0xffffffff st)) = some 0 := by
  decide +kernel

/-- The examples of R131: BFE, signed and unsigned. -/
theorem test_bfe :
    laneAfter 0 1 (.bfe {} (.lane 1) (.lane 2) (.imm 0x408) ⟨.s32, false⟩) (reg 2 0xa50 st) = some 0xfffffffa ∧
    laneAfter 0 1 (.bfe {} (.lane 1) (.lane 2) (.imm 0x408) ⟨.z32, false⟩) (reg 2 0xa50 st) = some 0xa := by
  decide +kernel

/-- BFI's example: a field of length 4 at position 28. -/
theorem test_bfi : laneAfter 0 3 (.bfi {} (.lane 3) (.lane 4) (.imm 0x41c) ⟨.z32, false⟩) (reg 3 0x12345678 (reg 4 0xffa st)) =
    some 0xa2345678 := by decide +kernel

/-- LOGT's table 0xac: a where d is 1, and b where d is 0. -/
theorem test_logt : laneAfter 0 1 (.logt {} (.lane 1) (.lane 2) (.lane 3) 0xac) (reg 1 0xff00 (reg 2 0x1234 (reg 3 0x5678 st))) =
    some 0x1278 := by decide +kernel

/-- The examples of R136: ICVT saturated and wrapped. -/
theorem test_icvt :
    laneAfter 0 1 (.icvt {} (.lane 1) (.lane 2) .s8 .s32 true) (reg 2 300 st) = some 127 ∧
    laneAfter 0 1 (.icvt {} (.lane 1) (.lane 2) .s8 .s32 false) (reg 2 300 st) = some 44 ∧
    laneAfter 0 1 (.icvt {} (.lane 1) (.lane 2) .z8 .s32 true) (reg 2 0xfffffffb st) = some 0 := by decide +kernel

/-- F2I's example: 3.0e9 becomes the largest s32, with NV. -/
theorem test_f2i : laneAfter 0 1 (.f2i {} (.lane 1) (.lane 2) .s32 .f32 .rtz) (reg 2 0x4f32d05e st) = some 0x7fffffff ∧
    (after (.f2i {} (.lane 1) (.lane 2) .s32 .f32 .rtz) (reg 2 0x4f32d05e st)).map (fun w => w.fflags.getLsbD 4) = some true := by
  decide +kernel

/-- The example of R82: 0x3f80_c000 to bf16 with sr at phase 0; lane 0 rounds down, and the next phase rounds it up. -/
theorem test_fcvt_sr :
    laneAfter 0 1 (.fcvt {} (.lane 1) (.lane 2) .bf16 .f32 .sr false false 0 0) (reg 2 0x3f80c000 st) = some 0x3f80 ∧
    (after (.fcvt {} (.lane 1) (.lane 2) .bf16 .f32 .sr false false 0 0) (reg 2 0x3f80c000 st)).map (fun w => w.dither) = some 1 ∧
    laneAfter 0 1 (.fcvt {} (.lane 1) (.lane 2) .bf16 .f32 .sr false false 0 0)
      (onW (reg 2 0x3f80c000 st) fun w => { w with dither := 1 }) = some 0x3f81 := by decide +kernel

/-- The example of R160: 1.5 and -2.5 packed to e4m3 are 0x3c and 0xc2. -/
theorem test_pack : laneAfter 0 1 (.pack {} (.lane 1) (.lane 2) (.lane 3) .e4m3x2 .rne false false)
    (reg 2 0x3fc00000 (reg 3 0xc0200000 st)) = some 0xc23c := by decide +kernel

/-- A load and store of one word: the bytes are little-endian, and a second lane's address is its own (R176). -/
theorem test_store : (match exec (.st {} (.lane 1) (.lane 2) none .b32) (onW (reg 1 0x11223344 (reg 2 0x40000010 st)) fun w =>
      { w with run := 1 }) with
    | .next t => (List.range 4).map fun i => t.ldsRead 1 (0x10 + i)
    | _ => []) = [0x44, 0x33, 0x22, 0x11] := by decide +kernel

/-- The branch of `splitdemo` (Table 5.7): lanes 0 and 1 to the side, lanes 2 and 3 on; depth 1 at `%hvec`. -/
def splitdemo : State :=
  onW st fun w => { w with
    pc := 0x18, run := 0xf, live := 0xf, hvec := 0x60, lanes := w.lanes.mapIdx fun l x => { x with q := if l < 2 then 2 else 0 } }

theorem test_split : (after (.br { pred := 1 } 2) splitdemo).map (fun w =>
      w.run == 0xf && w.pc == 0x60 && w.hdep == 1 && w.hrun1 == 0xf && w.hpc1 == 0x18 && w.evtm == 0xf &&
        ((List.range 4).map fun l => (w.lane l).lpc0) == [0x3c, 0x3c, 0x24, 0x24]) = some true := by decide +kernel

/-- TRAP saves its place: cause TRAP with its code, PC and lanes (R116, Table 22.4), and the wave does not retire it. -/
theorem test_trap : (after (.trap {} 5) st).map (fun w =>
      w.phase == .faulted && w.pc == 0 && w.accn == 0 &&
        match w.fault with
        | some r => r.cause == .trap && r.arg == 5 && r.pc == 0 && r.lanes == 0xff
        | none => false) = some true := by decide +kernel

/-- The word at the PC is what a step runs: `iadd.sat w6, w6, 1` under q1, false in every lane, only retires. -/
theorem test_step : (match step (State.reset.withFetchWord 96 0x080_1_000_00006_00006_80001_02) with
    | .next t => (t.waves.get 1).map fun w => (w.pc, w.accn, (w.lane 0).reg 6)
    | _ => none) = some (12, 1, 0) := by decide +kernel

/-! ### Witnesses: the hypotheses of each statement hold together in a state

`st` is a placed wave of eight lanes that issues next. Each theorem names the statement whose hypotheses it meets. -/

/-- A head whose guard, q1, holds in no lane of `st`. -/
def off : Head := { pred := 1 }

/-- Handler mode at a depth. -/
def handler (n : BitVec 2) (s : State) : State := onW s fun w => { w with hdep := n }

/-- q1 true in lanes 0 and 1 only. -/
def q1in2 (s : State) : State := onW s fun w => { w with lanes := w.lanes.mapIdx fun l x => { x with q := if l < 2 then 2 else 0 } }

theorem met_all {l : List Instr} {s : State} {pre : Cond} (p : State → Wave → WCtx → Bool) (h : (l.all fun i => meets i s p) = true)
    (hp : ∀ t w x, p t w x = true → pre t w x) : ∀ i ∈ l, Met i s pre := fun i hi => met_of p (List.all_eq_true.mp h i hi) hp

theorem met_always {l : List Instr} {s : State} (h : (l.all fun i => meets i s fun _ _ _ => true) = true) :
    ∀ i ∈ l, Met i s always := met_all _ h fun _ _ _ _ => trivial

theorem met_idle {l : List Instr} {s : State} {h : Head} (e : (l.all fun i => meets i s fun _ w _ => w.guard h == 0) = true) :
    ∀ i ∈ l, Met i s fun _ w _ => w.guard h = 0 := met_all _ e fun _ _ _ a => by simpa using a

theorem all_lanes {m : Mask} {p : Nat → Bool} (h : (lanesOf m).all p = true) (l : Nat) (hl : m.getLsbD l = true) : p l = true :=
  List.all_eq_true.mp h l (List.mem_filter.mpr ⟨List.mem_range.mpr (by
    by_contra hc; rw [BitVec.getLsbD_of_ge m l (by omega)] at hl; cases hl), hl⟩)

theorem wit_IntegerResults :
    let d := Operand.lane 2; let a := Operand.lane 4; let b := Operand.lane 6
    ∀ i ∈ [Instr.iadd {} d a b ⟨.s32, false⟩, .isub {} d a b ⟨.z32, true⟩, .imul {} d a b ⟨.s64, false⟩, .imulh {} d a b ⟨.z64, false⟩,
      .imad {} d a b ⟨.s16x2, true⟩, .imin {} d a b ⟨.z16x2, false⟩, .imax {} d a b ⟨.s32, false⟩, .iabs {} d a ⟨.s32, true⟩,
      .ineg {} (.uni 1) (.uni 2) ⟨.s64, true⟩], Met i st always := met_always (by decide +kernel)

theorem wit_LogicResults :
    let d := Operand.lane 2; let a := Operand.lane 4; let b := Operand.lane 6; let m : IMod := ⟨.z64, false⟩
    ∀ i ∈ [Instr.and {} d a b m, .or {} d a b m, .xor {} d a b m, .andn {} d a b m, .not {} d a m, .shl {} d a b m, .shr {} d a b m,
      .sar {} d a b ⟨.s32, false⟩, .rotl {} d a b m, .popc {} d a m, .clz {} d a m, .brev {} d a m, .bfe {} d a b m, .bfi {} d a b m,
      .logt {} d a b 0x96], Met i st always := met_always (by decide +kernel)

/-- A tile instruction outstanding. -/
def tiling (s : State) : State := onW s fun w => { w with tiles := [.zero 0] }

theorem wit_MoveAndPredicateResults :
    (∀ i ∈ [Instr.movi {} (.lane 1) 7, .sel {} (.lane 1) (.lane 2) (.lane 3) false 1, .icvt {} (.lane 2) (.lane 3) .s64 .s8 true,
      .isetp {} (.spec 7) (.lane 2) (.lane 4) .s64 .le .disj, .plogt {} (.spec 3) (.spec 1) (.spec 0) 0x55, .vote {} (.spec 1) (.spec 2) .any,
      .vote {} (.spec 1) (.spec 2) .all, .vote {} (.spec 1) (.spec 2) .eq, .vote {} (.lane 2) (.spec 2) .ballot,
      .shfl {} (.lane 1) (.lane 2) (.lane 3) .seg8 .xor], Met i st always) ∧
    (∀ i ∈ [Instr.mov {} (.lane 1) (.spec 0x30) .s32, .mov {} (.spec 1) (.spec 0x30) .s32, .mov {} (.spec 7) (.imm 1) .s32],
      Met i st fun _ w _ => w.tiles = []) ∧
    ∀ i ∈ [Instr.mov {} (.lane 1) (.spec 0x30) .s32, .mov {} (.lane 1) (.lane 3) .s32, .mov {} (.spec 7) (.spec 0x30) .s32,
      .mov {} (.spec 1) (.lane 3) .s32], Met i (tiling st) fun _ w _ => w.tiles ≠ [] :=
  ⟨met_always (by decide +kernel), met_all (fun _ w _ => w.tiles.isEmpty) (by decide +kernel) fun _ _ _ h => by simpa using h,
    met_all (fun _ w _ => !w.tiles.isEmpty) (by decide +kernel) fun _ _ _ h => by simpa using h⟩

theorem wit_FloatResults :
    let d := Operand.lane 2; let a := Operand.lane 4; let b := Operand.lane 6; let m : FMod := ⟨.f64, .rne, true⟩; let n : FMod := ⟨.f32, .rne, false⟩
    ∀ i ∈ [Instr.fadd {} d a b m, .fsub {} d a b m, .fmul {} d a b m, .ffma {} d a b m, .fmin {} d a b m, .fmax {} d a b m, .fdiv {} d a b m,
      .fsqrt {} d a m, .frcp {} d a n, .frsq {} d a n, .fexp2 {} d a n, .flog2 {} d a n, .fsin {} d a n, .fcos {} d a n, .fclass {} d a n,
      .frnd {} d a n, .fabs {} d a n, .fneg {} d a n, .fsetp {} (.spec 1) a b .f64 .lt .conj], Met i st always := met_always (by decide +kernel)

theorem wit_ConversionAndDotResults :
    let d := Operand.lane 2; let a := Operand.lane 4; let b := Operand.lane 6
    ∀ i ∈ [Instr.fcvt {} d a .e4m3 .f32 .sr false true 0 3, .f2i {} d a .s64 .f64 .rtz, .i2f {} d a .f16 .z8 .rup,
      .pack {} d a b .e5m2x2 .rne true true, .unpk {} d a .e2m1 3, .dot4i8 {} d a b true false, .dot8i4 {} d a b false true,
      .dotb32 {} d a b false, .dotb32 {} d a b true, .dot2bf {} d a b .rtz, .dot4f8 {} d a b true false true .rne],
      Met i st always := met_always (by decide +kernel)

theorem wit_SpecialRegisterMoves :
    (∀ n ∈ [0x20, 0x23, 0x27, 0x28, 0x29, 0x2a, 0x2b, 0x2c, 0x2d, 0x30, 0x31, 0x32],
      Met (.mov {} (.spec n) (.imm 8) .s32) (handler 1 st) fun _ w _ => w.guard {} ≠ 0 ∧ w.tiles = []) ∧
    (∀ i ∈ [Instr.mov off (.spec 0x27) (.imm 8) .s32, .mov off (.spec 0x32) (.spec 0x30) .s32], Met i st fun _ w _ => w.guard off = 0 ∧ w.tiles = []) ∧
    (∀ i ∈ [Instr.mov {} (.spec 0x20) (.spec 0x30) .s32, .mov off (.spec 0x31) (.spec 0x30) .s32], Met i (tiling (handler 1 st)) fun _ w _ =>
      w.tiles ≠ []) ∧
    (Met (.mov {} (.spec 0x21) (.imm 1) .s64) (handler 2 st) fun _ w x =>
      w.guard {} ≠ 0 ∧ w.tiles = [] ∧ w.run &&& x.maskIn (readOp w x .wide ((lowestLane (w.guard {})).getD 0) (.imm 1)) ≠ 0) ∧
    (Met (.mov {} (.spec 0x21) (.imm 0) .s32) (handler 1 st) fun _ w x =>
      w.guard {} ≠ 0 ∧ w.tiles = [] ∧ w.run &&& x.maskIn (readOp w x .one ((lowestLane (w.guard {})).getD 0) (.imm 0)) = 0) := by
  refine ⟨?_, met_all (fun _ w _ => w.guard off == 0 && w.tiles.isEmpty) (by decide +kernel) fun _ _ _ h => by simpa using h,
    met_all (fun _ w _ => !w.tiles.isEmpty) (by decide +kernel) fun _ _ _ h => by simpa using h,
    met_dec _ (by decide +kernel), met_dec _ (by decide +kernel)⟩
  simp only [List.forall_mem_cons, List.not_mem_nil, IsEmpty.forall_iff, implies_true, and_true]
  exact ⟨met_dec _ (by decide +kernel), met_dec _ (by decide +kernel), met_dec _ (by decide +kernel), met_dec _ (by decide +kernel),
    met_dec _ (by decide +kernel), met_dec _ (by decide +kernel), met_dec _ (by decide +kernel), met_dec _ (by decide +kernel),
    met_dec _ (by decide +kernel), met_dec _ (by decide +kernel), met_dec _ (by decide +kernel), met_dec _ (by decide +kernel)⟩

theorem wit_IdleInstructionsRetire :
    (∀ i ∈ [Instr.nop {}, .yield_ off], Met i st always) ∧ (Met (.icinv {}) st fun _ w _ => w.guard {} ≠ 0 ∧ True) ∧
    (∀ i ∈ [Instr.icinv off], Met i st fun _ w _ => w.guard off = 0) ∧ ∃ v, st.waves.get st.cur = some v :=
  ⟨met_always (by decide +kernel), met_dec _ (by decide +kernel), met_idle (by decide +kernel), _, rfl⟩

/-- A debugger attached to the context. -/
def debugged (s : State) : State := s.updCtx 1 fun c => { c with debug := some { agent := 1, attached := true } }

theorem wit_TrapsRaiseTheirCauses :
    (∀ i ∈ [Instr.trap {} 5, .sysc {} 0xffff], Met i st fun _ w _ => w.guard {} ≠ 0) ∧
    (Met (.brkpt {} 0) st fun t w x => w.guard {} ≠ 0 ∧ t.attached x.grid.ctx = false) ∧
    (Met (.brkpt {} 0) (debugged st) fun t w x => w.guard {} ≠ 0 ∧ t.attached x.grid.ctx = true) ∧
    ∀ i ∈ [Instr.trap off 5, .sysc off 5, .brkpt off 5], Met i st fun _ w _ => w.guard off = 0 :=
  ⟨met_all (fun _ w _ => w.guard {} != 0) (by decide +kernel) (fun _ _ _ h => by simpa using h), met_dec _ (by decide +kernel),
    met_dec _ (by decide +kernel), met_idle (by decide +kernel)⟩

/-- The five cases of a branch, each in a state of its own: the lanes agree on `p`; they part at a depth below 2; at depth 2;
in serial steering; and a target is bad (of the branch `j`). -/
def BranchMet (i j : Instr) (link : Wave → Wave) (next next' : Wave → WCtx → Nat → Word) (p : Word) (sa sb sc sd se : State) : Prop :=
  let legal := fun (w : Wave) (x : WCtx) => ∀ l, w.run.getLsbD l = true → x.pcOk (next w x l) = true
  let parts := fun (w : Wave) (x : WCtx) => ∃ l k, w.run.getLsbD l = true ∧ w.run.getLsbD k = true ∧ next w x l ≠ next w x k
  (Met i sa fun _ w x => w.run ≠ 0 ∧ x.pcOk p = true ∧ ∀ l, w.run.getLsbD l = true → next w x l = p) ∧
  (Met i sb fun _ w x => legal w x ∧ parts w x ∧ w.hdep ≠ 2 ∧ (w.hdep = 0 → w.serial = false) ∧
    ∃ q, (w.retire (link w)).enterEvent x (if w.hdep = 0 then .split else .nested) w.pc (next w x) = some q) ∧
  (Met i sc fun _ w x => legal w x ∧ parts w x ∧ w.hdep = 2) ∧
  (Met i sd fun _ w x => legal w x ∧ parts w x ∧ w.hdep = 0 ∧ w.serial = true) ∧
  Met j se fun _ w x => ¬ ∀ l, w.run.getLsbD l = true → x.pcOk (next' w x l) = true

theorem branches_met {i j : Instr} {link : Wave → Wave} {next next' : Wave → WCtx → Nat → Word} {p : Word} {sa sb sc sd se : State}
    (ha : meets i sa (fun _ w x => w.run != 0 && x.pcOk p && (lanesOf w.run).all fun l => next w x l == p) = true)
    (hb : meets i sb (fun _ w x => ((lanesOf w.run).all fun l => x.pcOk (next w x l)) && w.run.getLsbD 0 && w.run.getLsbD 2 &&
      next w x 0 != next w x 2 && w.hdep != 2 && (w.hdep != 0 || !w.serial) &&
      ((w.retire (link w)).enterEvent x (if w.hdep = 0 then .split else .nested) w.pc (next w x)).isSome) = true)
    (hc : meets i sc (fun _ w x => ((lanesOf w.run).all fun l => x.pcOk (next w x l)) && w.run.getLsbD 0 && w.run.getLsbD 2 &&
      next w x 0 != next w x 2 && w.hdep == 2) = true)
    (hd : meets i sd (fun _ w x => ((lanesOf w.run).all fun l => x.pcOk (next w x l)) && w.run.getLsbD 0 && w.run.getLsbD 2 &&
      next w x 0 != next w x 2 && w.hdep == 0 && w.serial) = true)
    (he : meets j se (fun _ w x => w.run.getLsbD 0 && !x.pcOk (next' w x 0)) = true) :
    BranchMet i j link next next' p sa sb sc sd se := by
  refine ⟨met_of _ ha ?_, met_of _ hb ?_, met_of _ hc ?_, met_of _ hd ?_, met_of _ he ?_⟩
  · intro t w x h
    simp only [Bool.and_eq_true, bne_iff_ne] at h
    exact ⟨h.1.1, h.1.2, fun l hl => by simpa using all_lanes h.2 l hl⟩
  · intro t w x h
    simp only [Bool.and_eq_true, bne_iff_ne, Option.isSome_iff_exists, Bool.or_eq_true, Bool.not_eq_true'] at h
    obtain ⟨⟨⟨⟨⟨⟨h1, h2⟩, h3⟩, h4⟩, h5⟩, h6⟩, h7⟩ := h
    exact ⟨all_lanes h1, ⟨0, 2, h2, h3, h4⟩, h5, fun e => h6.resolve_left (by simp [e]), h7⟩
  · intro t w x h
    simp only [Bool.and_eq_true, bne_iff_ne, beq_iff_eq] at h
    obtain ⟨⟨⟨⟨h1, h2⟩, h3⟩, h4⟩, h5⟩ := h
    exact ⟨all_lanes h1, ⟨0, 2, h2, h3, h4⟩, h5⟩
  · intro t w x h
    simp only [Bool.and_eq_true, bne_iff_ne, beq_iff_eq] at h
    obtain ⟨⟨⟨⟨⟨h1, h2⟩, h3⟩, h4⟩, h5⟩, h6⟩ := h
    exact ⟨all_lanes h1, ⟨0, 2, h2, h3, h4⟩, h5, h6⟩
  · intro t w x h hl
    simp only [Bool.and_eq_true, Bool.not_eq_true'] at h
    rw [hl 0 h.1] at h; cases h.2

/-- Serial steering at depth 0. -/
def serial (s : State) : State := onW s fun w => { w with serial := true, quantum := 5 }

/-- w5 holds 0x30, an instruction of the text, and w6 0x31, which is none. -/
def targets (s : State) : State := reg 5 0x30 (reg 6 0x31 s)

/-- Where a guarded branch leads. -/
def taken (h : Head) (f : Wave → WCtx → Nat → Word) (w : Wave) (x : WCtx) (l : Nat) : Word :=
  if (w.guard h).getLsbD l then f w x l else w.nextPc

/-- What CALL writes first. -/
def link (d : Operand) (h : Head) (w : Wave) : Wave := w.writeD d false (w.guard h) fun _ => w.nextPc.setWidth 64

theorem wit_BranchResults_br : BranchMet (.br off 2) (.br { off with neg := true } (-5)) (fun w => w)
    (taken off fun w _ _ => w.pc + 12 + 12 * (2 : BitVec 18).signExtend 32)
    (taken { off with neg := true } fun w _ _ => w.pc + 12 + 12 * (-5 : BitVec 18).signExtend 32) 12
    st (q1in2 st) (handler 2 (q1in2 st)) (serial (q1in2 st)) st :=
  branches_met (by decide +kernel) (by decide +kernel) (by decide +kernel) (by decide +kernel) (by decide +kernel)

theorem wit_BranchResults_brx : BranchMet (.brx off (.lane 5)) (.brx {} (.lane 6)) (fun w => w)
    (taken off fun w x l => readWord w x l (.lane 5)) (taken {} fun w x l => readWord w x l (.lane 6)) 12
    st (q1in2 (targets st)) (handler 2 (q1in2 (targets st))) (serial (q1in2 (targets st))) (targets st) :=
  branches_met (by decide +kernel) (by decide +kernel) (by decide +kernel) (by decide +kernel) (by decide +kernel)

theorem wit_BranchResults_ret : BranchMet (.ret off (.lane 5)) (.ret {} (.lane 6)) (fun w => w)
    (taken off fun w x l => readWord w x l (.lane 5)) (taken {} fun w x l => readWord w x l (.lane 6)) 12
    st (handler 1 (q1in2 (targets st))) (handler 2 (q1in2 (targets st))) (serial (q1in2 (targets st))) (targets st) :=
  branches_met (by decide +kernel) (by decide +kernel) (by decide +kernel) (by decide +kernel) (by decide +kernel)

theorem wit_BranchResults_call : BranchMet (.call off (.lane 7) (.imm 2)) (.call {} (.lane 7) (.imm (-5))) (link (.lane 7) off)
    (taken off fun w _ _ => w.pc + 12 + 12 * (2 : BitVec 18).signExtend 32)
    (taken {} fun w _ _ => w.pc + 12 + 12 * (-5 : BitVec 18).signExtend 32) 12
    st (q1in2 st) (handler 2 (q1in2 st)) (serial (q1in2 st)) st :=
  branches_met (by decide +kernel) (by decide +kernel) (by decide +kernel) (by decide +kernel) (by decide +kernel)

theorem wit_BranchResults_callReg : BranchMet (.call off (.lane 7) (.lane 5)) (.call {} (.lane 7) (.lane 6)) (link (.lane 7) off)
    (taken off fun w x l => readWord w x l (.lane 5)) (taken {} fun w x l => readWord w x l (.lane 6)) 12
    st (q1in2 (targets st)) (handler 2 (q1in2 (targets st))) (serial (q1in2 (targets st))) (targets st) :=
  branches_met (by decide +kernel) (by decide +kernel) (by decide +kernel) (by decide +kernel) (by decide +kernel)

/-- The effects of EXIT, JWAIT, JENROL, JSTRIKE and CLAIMEND, as their statements have them. -/
def exits (h : Head) : Effect := fun t w _ => t.exitItems (w.leave (w.guard h)) (w.guard h)

def waits (h : Head) (r : Nat) : Effect := fun t w x =>
  let a := w.guard h &&& x.maskIn (w.uni r)
  let v := w.setLpcs 0 a fun _ => w.nextPc
  (t, { v with park := w.park ||| a, run := w.run &&& ~~~a }.setRejoin r (x.maskIn (w.uni r)) (x.maskIn (w.uni (r + 1)) ||| a)
    w.nextPc)

abbrev steer (h : Head) : Cond := fun _ w x => w.guard h ≠ 0 ∧ w.hdep = 0 ∧ x.pcOk w.nextPc = true

/-- The conditions with which the three clauses of `Empties` begin. -/
def left (pre : Cond) (f : Effect) : Cond := fun t w x =>
  pre t w x ∧ (f t w x).2.run = 0 ∧ (f t w x).2.live ≠ 0 ∧ w.hdep = 0

theorem empties_met {i : Instr} {pre : Cond} {f : Effect} (p : State → Wave → WCtx → Bool) (hp : ∀ t w x, p t w x = true → pre t w x)
    {sa sb sc : State}
    (ha : meets i sa (fun t w x => p t w x && (f t w x).2.run == 0 && (f t w x).2.live != 0 && w.hdep == 0 && w.serial) = true)
    (hb : meets i sb (fun t w x => p t w x && (f t w x).2.run == 0 && (f t w x).2.live != 0 && w.hdep == 0 && !w.serial &&
      (f t w x).2.runnable != 0 && ((w.retire (f t w x).2).enterEvent x .empty w.pc fun _ => w.nextPc).isSome) = true)
    (hc : meets i sc (fun t w x => p t w x && (f t w x).2.run == 0 && (f t w x).2.live != 0 && w.hdep == 0 && !w.serial &&
      (f t w x).2.runnable == 0) = true) :
    (Met i sa fun t w x => left pre f t w x ∧ w.serial = true) ∧
    (Met i sb fun t w x => left pre f t w x ∧ w.serial = false ∧ (f t w x).2.runnable ≠ 0 ∧
      ∃ q, (w.retire (f t w x).2).enterEvent x .empty w.pc (fun _ => w.nextPc) = some q) ∧
    Met i sc fun t w x => left pre f t w x ∧ w.serial = false ∧ (f t w x).2.runnable = 0 := by
  refine ⟨met_of _ ha ?_, met_of _ hb ?_, met_of _ hc ?_⟩
  all_goals intro t w x h; simp only [Bool.and_eq_true, beq_iff_eq, bne_iff_ne, Bool.not_eq_true', Option.isSome_iff_exists] at h
  · exact ⟨⟨hp _ _ _ h.1.1.1.1, h.1.1.1.2, h.1.1.2, h.1.2⟩, h.2⟩
  · exact ⟨⟨hp _ _ _ h.1.1.1.1.1.1, h.1.1.1.1.1.2, h.1.1.1.1.2, h.1.1.1.2⟩, h.1.1.2, h.1.2, h.2⟩
  · exact ⟨⟨hp _ _ _ h.1.1.1.1.1, h.1.1.1.1.2, h.1.1.1.2, h.1.1.2⟩, h.1.2, h.2⟩

/-- Lanes 0 to 3 in RUN and 4 to 7 live beside them, runnable at PC 24 or, in `parked`, parked. -/
def halves (s : State) : State := onW s fun w => { w with run := 0xf, lanes := w.lanes.map fun (x : Lane) => { x with lpc0 := 24 } }
def parked (s : State) : State := onW (halves s) fun w => { w with park := 0xf0 }

theorem wit_ExitAndRejoinResults_exit :
    (Met (.exit off) (q1in2 st) fun t w x => (exits off t w x).2.run ≠ 0 ∧ x.pcOk w.nextPc = true) ∧
    (Met (.exit {}) st fun t w x => (exits {} t w x).2.run = 0 ∧ (exits {} t w x).2.live = 0) ∧
    (Met (.exit {}) (handler 1 (halves st)) fun t w x =>
      (exits {} t w x).2.run = 0 ∧ (exits {} t w x).2.live ≠ 0 ∧ w.hdep ≠ 0) ∧
    (Met (.exit {}) (serial (halves st)) fun t w x => left always (exits {}) t w x ∧ w.serial = true) ∧
    (Met (.exit {}) (halves st) fun t w x => left always (exits {}) t w x ∧ w.serial = false ∧ (exits {} t w x).2.runnable ≠ 0 ∧
      ∃ q, (w.retire (exits {} t w x).2).enterEvent x .empty w.pc (fun _ => w.nextPc) = some q) ∧
    Met (.exit {}) (parked st) fun t w x => left always (exits {}) t w x ∧ w.serial = false ∧ (exits {} t w x).2.runnable = 0 :=
  ⟨met_dec _ (by decide +kernel), met_dec _ (by decide +kernel), met_dec _ (by decide +kernel),
    empties_met (fun _ _ _ => true) (fun _ _ _ _ => trivial) (by decide +kernel) (by decide +kernel) (by decide +kernel)⟩

/-- Every lane of the wave is enrolled in the rejoin register k2. -/
def enrolled (s : State) : State := uni 2 0xff s

theorem wit_ExitAndRejoinResults_rejoin :
    (Met (.jenrol {} (.uni 2)) st fun t w x => steer {} t w x ∧
      (w.setUni 2 (x.maskIn (w.uni 2) ||| w.guard {})).run ≠ 0 ∧ x.pcOk w.nextPc = true) ∧
    (Met (.jwait {} (.uni 2)) (enrolled st) fun t w x => steer {} t w x ∧ (waits {} 2 t w x).2.run ≠ 0 ∧ x.pcOk w.nextPc = true) ∧
    (Met (.jstrike off (.uni 2)) (q1in2 (enrolled st)) fun t w x => steer off t w x ∧
      (w.setRejoin 2 (x.maskIn (w.uni 2) &&& ~~~w.guard off) (x.maskIn (w.uni 3) &&& ~~~w.guard off) w.nextPc).run ≠ 0 ∧
      x.pcOk w.nextPc = true) ∧
    (Met (.jwait {} (.uni 2)) (serial (enrolled (halves st))) fun t w x => left (steer {}) (waits {} 2) t w x ∧ w.serial = true) ∧
    (Met (.jwait {} (.uni 2)) (enrolled (halves st)) fun t w x => left (steer {}) (waits {} 2) t w x ∧ w.serial = false ∧
      (waits {} 2 t w x).2.runnable ≠ 0 ∧ ∃ q, (w.retire (waits {} 2 t w x).2).enterEvent x .empty w.pc (fun _ => w.nextPc) = some q) ∧
    (Met (.jwait {} (.uni 2)) (enrolled (parked st)) fun t w x => left (steer {}) (waits {} 2) t w x ∧ w.serial = false ∧
      (waits {} 2 t w x).2.runnable = 0) ∧
    (∀ i ∈ [Instr.jenrol {} (.uni 2), .jwait {} (.uni 2), .jstrike {} (.uni 2)],
      Met i (handler 1 st) fun _ w _ => w.guard {} ≠ 0 ∧ w.hdep ≠ 0) ∧
    ∀ i ∈ [Instr.jenrol off (.uni 2), .jwait off (.uni 2), .jstrike off (.uni 2)], Met i st fun _ w _ => w.guard off = 0 := by
  have e := empties_met (i := .jwait {} (.uni 2)) (pre := steer {}) (f := waits {} 2) (sa := serial (enrolled (halves st)))
    (sb := enrolled (halves st)) (sc := enrolled (parked st))
    (fun t w x => decide (steer {} t w x)) (fun _ _ _ => of_decide_eq_true) (by decide +kernel) (by decide +kernel) (by decide +kernel)
  exact ⟨met_dec _ (by decide +kernel), met_dec _ (by decide +kernel), met_dec _ (by decide +kernel),
    e.1, e.2.1, e.2.2, met_all (fun _ w _ => w.guard {} != 0 && w.hdep != 0) (by decide +kernel) (fun _ _ _ h => by simpa using h),
    met_idle (by decide +kernel)⟩

/-- The wave stands in the last of the two words of its text. -/
def inLast (s : State) : State := onW { s with kernels := s.kernels.map fun (e : Nat × Kernel) => (e.1, { e.2 with text := e.2.text.take 24 }) }
  fun w => { w with pc := 12 }

/-- The last word of a text: instructions that would go on behind it, that wait, or whose guard holds in no lane; and those that
end the wave, go back, or leave a handler. -/
theorem wit_LastWord :
    (∀ i ∈ [Instr.nop {}, .movi {} (.lane 2) 7, .iadd {} (.lane 2) (.lane 5) (.imm 1) ⟨.s32, false⟩,
      .fadd {} (.lane 2) (.lane 5) (.lane 5) ⟨.f32, .rne, false⟩, .exit off],
      Met i (inLast (q1in2 st)) fun _ w x => x.textLen ≤ w.nextPc.toNat ∧ x.pcOk w.nextPc = false) ∧
    (Met (.exit off) (inLast (q1in2 st)) fun t w x => (exits off t w x).2.run ≠ 0 ∧ x.pcOk w.nextPc = false) ∧
    (∀ i ∈ [Instr.jenrol {} (.uni 2), .jwait {} (.uni 2), .jstrike {} (.uni 2)], Met i (inLast (enrolled st)) fun _ w x =>
      w.guard {} ≠ 0 ∧ w.hdep = 0 ∧ x.pcOk w.nextPc = false) ∧
    (∀ i ∈ [Instr.trap off 3, .icinv off, .jwait off (.uni 2), .st off (.lane 2) (.lane 5) none .b32, .bararr off 0, .itemend off],
      Met i (inLast st) fun _ w x => x.textLen ≤ w.nextPc.toNat ∧ w.guard off = 0) ∧
    (Met (.barwait {} 0) (onW (inLast st) fun w => { w with pend := 1 }) fun _ w x => x.textLen ≤ w.nextPc.toNat ∧
      w.guard {} ≠ 0 ∧ w.hdep = 0 ∧ w.pend.getLsbD 0 = true ∧ w.pphase.getLsbD 0 = (x.barrier 0).phase) ∧
    (Met (.exit {}) (inLast st) fun t w x => x.textLen ≤ w.nextPc.toNat ∧ (exits {} t w x).2.run = 0 ∧ (exits {} t w x).2.live = 0) ∧
    (Met (.br {} (-2)) (inLast st) fun _ w x => x.textLen ≤ w.nextPc.toNat ∧ w.run ≠ 0 ∧ x.pcOk 0 = true ∧
      w.pc + 12 + 12 * (-2 : BitVec 18).signExtend 32 = 0) ∧
    (Met (.hret {} (.imm 255)) (inLast (handler 1 st)) fun _ w x => x.textLen ≤ w.nextPc.toNat ∧ w.guard {} ≠ 0 ∧ w.hdep ≠ 0 ∧
      (w.handlerReturn x (x.maskIn (readUni w x (.imm 255)) &&& w.candidates)).isSome = true) ∧
    Met (.trap {} 3) (inLast st) fun _ w x => x.textLen ≤ w.nextPc.toNat ∧ w.guard {} ≠ 0 :=
  ⟨met_all (fun _ w x => decide (x.textLen ≤ w.nextPc.toNat) && !x.pcOk w.nextPc) (by decide +kernel) (fun _ _ _ h => by simpa using h),
    met_dec _ (by decide +kernel),
    met_all (fun _ w x => w.guard {} != 0 && w.hdep == 0 && !x.pcOk w.nextPc) (by decide +kernel)
      (fun _ _ _ h => by simpa [and_assoc] using h),
    met_all (fun _ w x => decide (x.textLen ≤ w.nextPc.toNat) && w.guard off == 0) (by decide +kernel) (fun _ _ _ h => by simpa using h),
    met_dec _ (by decide +kernel), met_dec _ (by decide +kernel), met_dec _ (by decide +kernel), met_dec _ (by decide +kernel),
    met_dec _ (by decide +kernel)⟩

theorem wit_HandlerInstructionResults :
    let cand := fun (a : Operand) (w : Wave) (x : WCtx) => x.maskIn (readUni w x a) &&& w.candidates
    let d := Operand.uni 2; let a := Operand.spec 0x22
    (Met (.hret {} a) (handler 1 st) fun _ w x => w.guard {} ≠ 0 ∧ w.hdep ≠ 0 ∧ (w.handlerReturn x (cand a w x)).isSome = true) ∧
    (Met (.hret {} a) (onW (handler 2 st) fun w => { w with hrun2 := 0xf }) fun _ w x =>
      w.guard {} ≠ 0 ∧ w.hdep ≠ 0 ∧ (w.handlerReturn x (cand a w x)).isSome = true) ∧
    (Met (.hret {} (.imm 0)) (handler 1 st) fun _ w x => w.guard {} ≠ 0 ∧ w.hdep ≠ 0 ∧ cand (.imm 0) w x = 0) ∧
    (∀ i ∈ [Instr.pcmin {} d a, .pcmaj {} d a, .pceq {} d a (.imm 0)], Met i (handler 1 st) fun _ w _ => w.guard {} ≠ 0 ∧ w.hdep ≠ 0) ∧
    (∀ i ∈ [Instr.pcmin off d a, .pcmaj off d a, .pceq off d a (.imm 0)], Met i st fun _ w _ => w.guard off = 0) ∧
    ∀ i ∈ [Instr.hret {} a, .pcmin {} d a, .pcmaj {} d a, .pceq {} d a (.imm 0)], Met i st fun _ w _ => w.guard {} ≠ 0 ∧ w.hdep = 0 :=
  ⟨met_dec _ (by decide +kernel), met_dec _ (by decide +kernel), met_dec _ (by decide +kernel),
    met_all (fun _ w _ => w.guard {} != 0 && w.hdep != 0) (by decide +kernel) fun _ _ _ h => by simpa using h, met_idle (by decide +kernel),
    met_all (fun _ w _ => w.guard {} != 0 && w.hdep == 0) (by decide +kernel) fun _ _ _ h => by simpa using h⟩

/-- An answer that is `ok`, of which a test holds. -/
def okAnd {ε α : Type} (r : Except ε α) (p : α → Bool) : Bool :=
  match r with
  | .ok a => p a
  | .error _ => false

/-- w2 holds an address in the block's allocation. -/
def aimed (s : State) : State := reg 2 0x40000010 s

/-- A load outstanding. -/
def loading (s : State) : State := onW s fun w => { w with loads := [{ writes := [] }] }

/-- A store of lane 0 to another core of the die, not performed yet. -/
def storing (s : State) : State := onW s fun w => { w with stores := [{ writes := [(0x400000, [1])], lanes := [0] }] }

/-- w2 holds an address in the die window. -/
def afield (s : State) : State := reg 2 0x80000010 s

/-- A body wave of a launch that checks its claims. -/
def body (s : State) : State :=
  { onW s (fun w => { w with kind := .body }) with
    kernels := s.kernels.map fun (e : Nat × Kernel) => (e.1, { e.2 with desc := { e.2.desc with reserve := some (8, 1, true) } }) }

def busy (s : State) : State :=
  onW s fun w => { w with loads := List.replicate 63 { writes := [] }, stores := List.replicate 63 { writes := [] } }

theorem wit_MemoryResults :
    let g := fun (w : Wave) => w.guard {}
    let places := fun (n : Nat) (w : Wave) (x : WCtx) => checkLanes w x (g w) { spill := true } (laneAddr w x (.lane 2) none) n n
    let atomPlaces := fun (w : Wave) (x : WCtx) => checkLanes w x (g w) {} (laneAddr w x (.lane 2) none) 4 4
    let uniPlaces := fun (w : Wave) (x : WCtx) =>
      checkLanes w x (1#64 <<< (lowestLane (g w)).getD 0) { spill := false } (laneAddr w x (.uni 2) none) 8 8
    let clear := fun (w : Wave) (x : WCtx) (r : Except (Cause × Mask × DWord) (List (Nat × Loc))) =>
      okAnd r fun ps => claimCause w x ps (laneAddr w x (.lane 2) none) 4 == none
    let odd := reg 2 0x40000011 st
    let quiet := fun (w : Wave) (x : WCtx) => fenceScope w x (g w) (.lane 2) none = 0 ∨
      w.loads = [] ∧ w.pendsWithin (fenceScope w x (g w) (.lane 2) none) = false
    let released := fun (w : Wave) (x : WCtx) => releaseWaits w x .ar (laneAddr w x (.lane 2) none) (g w) = false
    let ld := Instr.ld {} (.lane 4) (.lane 2) none .b32; let ldk := Instr.ld {} (.uni 1) (.uni 2) none .b64
    let st_ := Instr.st {} (.lane 4) (.lane 2) none .b32; let atom := Instr.atom {} (.lane 4) (.lane 2) none .cas .ar false
    let fence := Instr.fence {} (.lane 2) none .full
    (Met ld (aimed st) fun _ w x => g w ≠ 0 ∧ w.loads.length < 63 ∧ (places 4 w x).isOk = true) ∧
    (Met (.ld {} (.lane 4) (.lane 2) none .b128) st fun _ w x => g w ≠ 0 ∧ w.loads.length < 63 ∧ (places 16 w x).isOk = true) ∧
    (Met ld (busy (aimed st)) fun _ w x => g w ≠ 0 ∧ 63 ≤ w.loads.length ∧ (places 4 w x).isOk = true) ∧
    (Met ld odd fun _ w x => (places 4 w x).isOk = false) ∧
    (Met ldk (uni 2 0x40000ff8 st) fun _ w x => g w ≠ 0 ∧ w.loads.length < 63 ∧ (uniPlaces w x).isOk = true) ∧
    (Met ldk (busy (uni 2 0x40000ff8 st)) fun _ w x => g w ≠ 0 ∧ 63 ≤ w.loads.length ∧ (uniPlaces w x).isOk = true) ∧
    (Met ldk st fun _ w x => g w ≠ 0 ∧ (uniPlaces w x).isOk = false) ∧
    (Met st_ (aimed st) fun _ w x => g w ≠ 0 ∧ w.storeCount < 63 ∧ clear w x (places 4 w x) = true) ∧
    (Met st_ (busy (aimed st)) fun _ w x => g w ≠ 0 ∧ 63 ≤ w.storeCount ∧ clear w x (places 4 w x) = true) ∧
    (Met st_ odd fun _ w x => (places 4 w x).isOk = false) ∧
    (Met st_ (body (aimed st)) fun _ w x => (places 4 w x).isOk = true ∧ clear w x (places 4 w x) = false) ∧
    (Met atom (storing (aimed st)) fun _ w x => g w ≠ 0 ∧ w.loads.length < 63 ∧ released w x ∧ clear w x (atomPlaces w x) = true) ∧
    (Met atom (busy (aimed st)) fun _ w x => g w ≠ 0 ∧ 63 ≤ w.loads.length ∧ clear w x (atomPlaces w x) = true) ∧
    (Met atom (storing (afield st)) fun _ w x => g w ≠ 0 ∧ ¬ released w x ∧ clear w x (atomPlaces w x) = true) ∧
    (Met atom odd fun _ w x => (atomPlaces w x).isOk = false) ∧
    (Met atom (body (aimed st)) fun _ w x => (atomPlaces w x).isOk = true ∧ clear w x (atomPlaces w x) = false) ∧
    (∀ i ∈ [Instr.ld off (.lane 4) (.lane 2) none .b32, .st off (.lane 4) (.lane 2) none .b32,
      .atom off (.lane 4) (.lane 2) none .add .rlx false, .fence off (.lane 2) none .acq], Met i st fun _ w _ => w.guard off = 0) ∧
    (Met fence (aimed st) fun _ w x => g w ≠ 0 ∧ quiet w x) ∧
    Met fence (loading (aimed st)) fun _ w x => g w ≠ 0 ∧ ¬ quiet w x :=
  ⟨met_dec _ (by decide +kernel), met_dec _ (by decide +kernel), met_dec _ (by decide +kernel), met_dec _ (by decide +kernel), met_dec _ (by decide +kernel),
    met_dec _ (by decide +kernel), met_dec _ (by decide +kernel), met_dec _ (by decide +kernel), met_dec _ (by decide +kernel),
    met_dec _ (by decide +kernel), met_dec _ (by decide +kernel), met_dec _ (by decide +kernel), met_dec _ (by decide +kernel),
    met_dec _ (by decide +kernel), met_dec _ (by decide +kernel), met_dec _ (by decide +kernel), met_idle (by decide +kernel),
    met_dec _ (by decide +kernel), met_dec _ (by decide +kernel)⟩

/-- The core holds a translation of virtual page 0, an ordinary page under domain 1. -/
def mapped (s : State) : State :=
  s.updCore 0 0 fun c => { c with tlb := [{ ctx := 1, va := 0, size := 0x10000, pa := 0x100000, dom := 1, r := true, w := true }] }

/-- Lanes copy four bytes each from virtual address 0x100 on. -/
def copying (s : State) : State := uni 5 0x40000080 (uni 4 0x100 (reg 11 4 (aimed (mapped s))))

/-- The arrival word is not aligned. -/
def noWord (s : State) : State := onW s fun w => { w with arrw := 0x40000004 }

theorem wit_CopyIssueResults :
    let lanes := fun (w : Wave) => lanesOf (w.guard {})
    let bad := fun (w : Wave) (x : WCtx) => worstCause ((lanes w).filterMap (copyLaneCause w x (.lane 2) (.uni 4) (.lane 10) 4))
    let sound := fun (w : Wave) (x : WCtx) => w.guard {} ≠ 0 ∧
      ((lanes w).all fun l => (copyLaneCause w x (.lane 2) (.uni 4) (.lane 10) 4 l).isNone) = true
    let there := fun (kind : CopyKind) (t : State) (w : Wave) (x : WCtx) =>
      (t.translateAll w x.grid.ctx (copyVas w x (.uni 4) (.lane 10) 4 (w.guard {})) kind.need).isOk = true
    let claimed := fun (w : Wave) (x : WCtx) =>
      claimCause w x (copyPlaces w x (.lane 2) 4 (w.guard {})) (fun l => readWord w x l (.lane 2)) 4
    let card := fun (w : Wave) (x : WCtx) => checkStruct w x (structAddr w x (.uni 5) + readOpt w x 0 (some (.imm 128))) 128 128
    let cpy := Instr.cpy {} (.lane 2) (.uni 4) (.lane 10) .sz4 7 false; let cpyo := Instr.cpyo {} (.lane 2) (.uni 4) (.lane 10) .sz4 0 false
    let bulk := Instr.bulk {} (.uni 5) (some (.imm 128)) 3
    let full := onW (copying st) fun w => { w with copies := List.replicate 63 { op := 9, tag := 1, kind := .load } }
    (Met cpy (copying st) fun t w x => sound w x ∧ there .load t w x ∧ t.copyFull w .load = false ∧ claimed w x = none) ∧
    (Met cpy full fun t w x => sound w x ∧ there .load t w x ∧ t.copyFull w .load = true ∧ claimed w x = none) ∧
    (Met cpy (reg 2 1 (copying st)) fun _ w x => w.guard {} ≠ 0 ∧ bad w x ≠ none) ∧
    (Met cpy (body (copying st)) fun t w x => w.guard {} ≠ 0 ∧ sound w x ∧ there .load t w x ∧ claimed w x ≠ none) ∧
    (Met (.cpy {} (.lane 2) (.uni 4) (.lane 10) .sz4 7 true) (noWord (copying st)) fun t w x => sound w x ∧ there .load t w x ∧
      claimed w x = none ∧ arrwCause w x true = some .misaligned) ∧
    (Met (.cpyo {} (.lane 2) (.uni 4) (.lane 10) .sz4 0 true) (noWord (copying st)) fun t w x => sound w x ∧ there .store t w x ∧
      arrwCause w x true = some .misaligned) ∧
    (Met cpyo (copying st) fun t w x => sound w x ∧ there .store t w x ∧ t.copyFull w .store = false) ∧
    (Met cpyo full fun t w x => sound w x ∧ there .store t w x ∧ t.copyFull w .store = true) ∧
    (Met cpyo (reg 2 1 (copying st)) fun _ w x => w.guard {} ≠ 0 ∧ bad w x ≠ none) ∧
    (∀ i ∈ [Instr.cpy off (.lane 2) (.uni 4) (.lane 10) .sz4 7 false, .cpyo off (.lane 2) (.uni 4) (.lane 10) .sz4 0 false,
      .bulk off (.uni 5) none 3], Met i st fun _ w _ => w.guard off = 0) ∧
    (Met bulk (copying st) fun t w x => w.guard {} ≠ 0 ∧ (card w x).isOk = true ∧ t.cardsFull w = false) ∧
    (Met bulk (uni 5 0x40000001 st) fun _ w x => w.guard {} ≠ 0 ∧ (card w x).isOk = false) ∧
    Met bulk full fun t w x => w.guard {} ≠ 0 ∧ (card w x).isOk = true ∧ t.cardsFull w = true :=
  ⟨met_dec _ (by decide +kernel), met_dec _ (by decide +kernel), met_dec _ (by decide +kernel), met_dec _ (by decide +kernel),
    met_dec _ (by decide +kernel), met_dec _ (by decide +kernel), met_dec _ (by decide +kernel), met_dec _ (by decide +kernel),
    met_dec _ (by decide +kernel), met_idle (by decide +kernel), met_dec _ (by decide +kernel), met_dec _ (by decide +kernel),
    met_dec _ (by decide +kernel)⟩

theorem wit_CounterWaits :
    (Met (.waitc {} 0 0 0 0) st fun _ w _ => w.guard {} ≠ 0 ∧ w.loads.length ≤ 0 ∧ w.storeCount ≤ 0 ∧ w.copyCount ≤ 0 ∧
      w.tiles.length ≤ 0) ∧
    (Met (.waitc {} 0 63 63 63) (loading st) fun _ w _ => w.guard {} ≠ 0 ∧ ¬ w.loads.length ≤ 0) ∧
    (Met (.waitt {} 7 0) st fun _ w _ => w.guard {} ≠ 0 ∧ (w.copies.filter fun k => k.tag == 7).length ≤ 0) ∧
    (Met (.waitt {} 7 0) (onW st fun w => { w with copies := [{ op := 9, tag := 7, kind := .load }] }) fun _ w _ =>
      w.guard {} ≠ 0 ∧ ¬ (w.copies.filter fun k => k.tag == 7).length ≤ 0) ∧
    ∀ i ∈ [Instr.waitc off 0 0 0 0, .waitt off 0 0], Met i st fun _ w _ => w.guard off = 0 :=
  ⟨met_dec _ (by decide +kernel), met_dec _ (by decide +kernel), met_dec _ (by decide +kernel), met_dec _ (by decide +kernel),
    met_idle (by decide +kernel)⟩

/-- k3 points at an arrival word or a ring header at the start of the allocation, and k9 into another core's granules. -/
def pointed (s : State) : State := uni 9 0x80400000 (uni 3 0x40000000 s)

/-- A structure at a uniform register's address fails its window checks. -/
def refused (w : Wave) (x : WCtx) (k : BitVec 6) (n align : Nat) : Bool := !(checkStruct w x (structAddr w x (.uni k)) n align).isOk

theorem wit_ArrivalAndRingPolling :
    let at_ := fun (t : State) (w : Wave) (x : WCtx) =>
      (t.flushStores t.cur (t.waveDom x)).arrivalAt ((t.flushStores t.cur (t.waveDom x)).waveDom x)
        ((structBytes w x (structAddr w x (.uni 3)) 1).headD 0)
    let head := fun (t : State) (w : Wave) (x : WCtx) =>
      RingHead.ofBytes ((t.flushStores t.cur (t.waveDom x)).structRead x (structBytes w x (structAddr w x (.uni 3)) 32))
    let fits := fun (n align : Nat) (k : BitVec 6) (w : Wave) (x : WCtx) =>
      w.guard {} ≠ 0 ∧ (checkStruct w x (structAddr w x (.uni k)) n align).isOk = true
    let full := { pointed st with lds := [⟨4, 1⟩] }
    (Met (.arrinit {} (.uni 3) (.imm 1)) (pointed st) fun _ w x => fits 16 16 3 w x ∧ w.storeCount < 63 ∧
      w.ownCore (.lds ((structBytes w x (structAddr w x (.uni 3)) 1).headD 0)) = true) ∧
    (Met (.arrinit {} (.uni 9) (.imm 131071)) (pointed st) fun _ w x => fits 16 16 9 w x ∧ w.storeCount < 63 ∧
      w.ownCore (.lds ((structBytes w x (structAddr w x (.uni 9)) 1).headD 0)) = false) ∧
    (Met (.arrtest {} (.uni 1) (.uni 3) (.imm 0)) (pointed st) fun _ w x => fits 16 16 3 w x) ∧
    (Met (.arrwait {} (.uni 1) (.uni 3) (.imm 1)) (pointed st) fun t w x => fits 16 16 3 w x ∧ (at_ t w x).gen ≠ 1) ∧
    (Met (.arrwait {} (.uni 1) (.uni 3) (.imm 0)) (pointed st) fun t w x => fits 16 16 3 w x ∧ (at_ t w x).gen = 0 ∧
      (at_ t w x).fault = false) ∧
    (Met (.crpoll {} (.uni 4) (.uni 3)) (pointed st) fun t w x => fits 32 32 3 w x ∧ (head t w x).head = (head t w x).tail) ∧
    (Met (.crpoll {} (.uni 4) (.uni 3)) { full with ldsTags := [(0, 1)] } fun t w x =>
      fits 32 32 3 w x ∧ (head t w x).head ≠ (head t w x).tail) ∧
    (Met (.crsleep {} (.uni 3)) { full with ldsTags := [(0, 1)] } fun t w x => fits 32 32 3 w x ∧ (head t w x).tail ≠ (head t w x).head) ∧
    (Met (.crsleep {} (.uni 3)) (pointed st) fun t w x => fits 32 32 3 w x ∧ (head t w x).tail = (head t w x).head) ∧
    (Met (.arrinit {} (.uni 3) (.imm 1)) (busy (pointed st)) fun _ w x => fits 16 16 3 w x ∧ 63 ≤ w.storeCount) ∧
    (∀ i ∈ [Instr.arrinit {} (.uni 10) (.imm 1), .arrtest {} (.uni 1) (.uni 10) (.imm 0), .arrwait {} (.uni 1) (.uni 10) (.imm 0),
      .crpoll {} (.uni 4) (.uni 10), .crsleep {} (.uni 10)], Met i (uni 10 0x40000008 st) fun _ w x =>
        w.guard {} ≠ 0 ∧ refused w x 10 16 16 = true ∧ refused w x 10 32 32 = true) ∧
    ∀ i ∈ [Instr.arrinit off (.uni 3) (.imm 1), .arrtest off (.uni 1) (.uni 3) (.imm 0), .arrwait off (.uni 1) (.uni 3) (.imm 0),
      .crpoll off (.uni 4) (.uni 3), .crsleep off (.uni 3)], Met i st fun _ w _ => w.guard off = 0 :=
  ⟨met_dec _ (by decide +kernel), met_dec _ (by decide +kernel), met_dec _ (by decide +kernel), met_dec _ (by decide +kernel),
    met_dec _ (by decide +kernel), met_dec _ (by decide +kernel), met_dec _ (by decide +kernel), met_dec _ (by decide +kernel),
    met_dec _ (by decide +kernel), met_dec _ (by decide +kernel),
    met_all (fun _ w x => w.guard {} != 0 && refused w x 10 16 16 && refused w x 10 32 32) (by decide +kernel)
      (fun _ _ _ h => by simpa [and_assoc] using h), met_idle (by decide +kernel)⟩

/-- The wave's block, and its grid, changed. -/
def onB (s : State) (f : Block → Block) : State := s.updBlock 1 f
def onG (s : State) (f : Grid → Grid) : State := s.updGrid 1 f

theorem wit_BarrierResults :
    let there := fun (n : Nat) (x : WCtx) => n < 20 ∧ if n < 16 then n < x.block.barriers.length else n - 16 < x.grid.barriers.length
    let free := fun (n : Nat) (w : Wave) (x : WCtx) => w.guard {} ≠ 0 ∧ w.hdep = 0 ∧ w.pending n (x.barrier n) = false ∧
      w.behind (w.guard {}) = false ∧ there n x
    let many := onB st fun b => { b with barriers := List.replicate 16 { expected := 2 } }
    let waiting := onW many fun w => { w with pend := 1 }
    (∀ n ∈ [0, 15, 16, 19], Met (.bararr {} n) st fun _ w x => free n.toNat w x) ∧
    (Met (.barsync {} 19) st fun _ w x => free 19 w x ∧ (x.barrier 19).arrive.phase ≠ (x.barrier 19).phase) ∧
    (Met (.barsync {} 0) many fun _ w x => free 0 w x ∧ (x.barrier 0).arrive.phase = (x.barrier 0).phase) ∧
    (Met (.barwait {} 0) (onB waiting fun b => { b with barriers := b.barriers.set 0 { expected := 2, phase := true } }) fun _ w x =>
      w.guard {} ≠ 0 ∧ w.hdep = 0 ∧ w.pend.getLsbD 0 = true ∧ w.pphase.getLsbD 0 ≠ (x.barrier 0).phase) ∧
    (Met (.barwait {} 0) waiting fun _ w x =>
      w.guard {} ≠ 0 ∧ w.hdep = 0 ∧ w.pend.getLsbD 0 = true ∧ w.pphase.getLsbD 0 = (x.barrier 0).phase) ∧
    (Met (.barq {} (.uni 2) 19) st fun _ w _ => w.guard {} ≠ 0 ∧ w.hdep = 0) ∧
    (∀ i ∈ [Instr.bararr {} 0, .barsync {} 0], Met i waiting fun _ w x => w.guard {} ≠ 0 ∧ w.hdep = 0 ∧ w.pending 0 (x.barrier 0) = true) ∧
    (∀ i ∈ [Instr.bararr {} 0, .barsync {} 0], Met i (storing st) fun _ w x =>
      w.guard {} ≠ 0 ∧ w.hdep = 0 ∧ w.pending 0 (x.barrier 0) = false ∧ w.behind (w.guard {}) = true) ∧
    (Met (.barwait {} 0) st fun _ w _ => w.guard {} ≠ 0 ∧ w.hdep = 0 ∧ w.pend.getLsbD 0 = false) ∧
    (∀ i ∈ [Instr.bararr {} 0, .barsync {} 0, .barwait {} 0, .barq {} (.uni 2) 0], Met i (handler 1 st) fun _ w _ =>
      w.guard {} ≠ 0 ∧ w.hdep ≠ 0) ∧
    ∀ i ∈ [Instr.bararr off 0, .barsync off 0, .barwait off 0, .barq off (.uni 2) 0], Met i st fun _ w _ => w.guard off = 0 := by
  refine ⟨?_, met_dec _ (by decide +kernel), met_dec _ (by decide +kernel), met_dec _ (by decide +kernel), met_dec _ (by decide +kernel),
    met_dec _ (by decide +kernel), met_all (fun _ w x => w.guard {} != 0 && w.hdep == 0 && w.pending 0 (x.barrier 0)) (by decide +kernel)
      (fun _ _ _ h => by simpa [and_assoc] using h),
    met_all (fun _ w x => w.guard {} != 0 && w.hdep == 0 && !w.pending 0 (x.barrier 0) && w.behind (w.guard {})) (by decide +kernel)
      (fun _ _ _ h => by simpa [and_assoc] using h), met_dec _ (by decide +kernel),
    met_all (fun _ w _ => w.guard {} != 0 && w.hdep != 0) (by decide +kernel) (fun _ _ _ h => by simpa using h), met_idle (by decide +kernel)⟩
  simp only [List.forall_mem_cons, List.not_mem_nil, IsEmpty.forall_iff, implies_true, and_true]
  exact ⟨met_dec _ (by decide +kernel), met_dec _ (by decide +kernel), met_dec _ (by decide +kernel), met_dec _ (by decide +kernel)⟩

/-- A placed copy wave, which is every ring's producer, and a vector wave, its consumer. -/
def producer : State := State.reset.placeWord 0x500000000000000000000000
def consumer : State := State.reset.placeWord 0x502000000000000000000000

/-- Slot 1 of ring 0 in a state. -/
def slotIn (s : State) (z : RingSlot) : State :=
  onB s fun b => { b with rings := b.rings.map fun rs => rs.set 0 { slots := [{}, z] } }

/-- Wave 9 stands in ring 0's lists, in a wait or, in the second state, no longer in one. -/
def inLine (s : State) (q : Option Wait) : State :=
  let t := { s with waves := s.waves.flatMap fun (e : Nat × Wave) => [e, (9, { e.2 with wait := q })] }
  onB t fun b => { b with rings := b.rings.map fun rs => rs.map fun g => { g with acquirers := [9], takers := [9] } }

theorem acquirers_of {s : State} {ks : List Nat} {r : Nat} (h : s.firstWaiting ks (Wait.acquiring r) = none) :
    ∀ k ∈ ks, ∀ v, s.waves.get k = some v → ∀ p u, v.wait ≠ some (.sracq r p u) := by
  intro k hk v hv p u e
  have := List.find?_eq_none.mp h k hk
  simp [hv, e, Wait.acquiring] at this

theorem takers_of {s : State} {ks : List Nat} {r : Nat} (h : s.firstWaiting ks (Wait.taking r) = none) :
    ∀ k ∈ ks, ∀ v, s.waves.get k = some v → ∀ p u, v.wait ≠ some (.srwait r p u) := by
  intro k hk v hv p u e
  have := List.find?_eq_none.mp h k hk
  simp [hv, e, Wait.taking] at this

theorem wit_StageRingResults :
    let sl := fun (w : Wave) (x : WCtx) => (x.ring w 0).slot 1
    let ok := fun (w : Wave) => w.guard {} ≠ 0 ∧ w.hdep = 0
    let inRing := fun (w : Wave) (x : WCtx) => 1 < (x.ring w 0).slots.length
    let held := slotIn producer { state := .acquired }
    let firstA : Nat → Cond := fun r t w x =>
      ∀ k ∈ (x.ring w r).acquirers, ∀ v, t.waves.get k = some v → ∀ p u, v.wait ≠ some (.sracq r p u)
    let firstT : Cond := fun t w x => ∀ k ∈ (x.ring w 0).takers, ∀ v, t.waves.get k = some v → ∀ p u, v.wait ≠ some (.srwait 0 p u)
    let full := fun s => onB s fun b => { b with rings := [[{ slots := [{ state := .full, phase := true }, {}] }]] }
    (Met (.sracq {} (.uni 8) 7) producer fun t w x => ok w ∧ (x.ring w 7).acquirable (x.ring w 7).ap = true ∧ firstA 7 t w x) ∧
    (Met (.sracq {} (.uni 8) 0) (inLine producer none) fun t w x =>
      ok w ∧ (x.ring w 0).acquirable (x.ring w 0).ap = true ∧ firstA 0 t w x) ∧
    (Met (.sracq {} (.uni 8) 0) (onB producer fun b => { b with rings := [[{ slots := [{ state := .full }, {}] }]] }) fun _ w x =>
      ok w ∧ (x.ring w 0).acquirable (x.ring w 0).ap = false) ∧
    (Met (.sracq {} (.uni 8) 0) (inLine producer (some (.sracq 0 0 8))) fun t w x =>
      ok w ∧ (x.ring w 0).acquirable (x.ring w 0).ap = true ∧ ¬ firstA 0 t w x) ∧
    (Met (.srwait {} (.uni 8) 0) (inLine (full consumer) none) fun t w x =>
      ok w ∧ (x.ring w 0).waitable (x.ring w 0).wp = true ∧ firstT t w x) ∧
    (Met (.srwait {} (.uni 8) 0) consumer fun _ w x => ok w ∧ (x.ring w 0).waitable (x.ring w 0).wp = false) ∧
    (Met (.srwait {} (.uni 8) 0) (inLine (full consumer) (some (.srwait 0 0 8))) fun t w x =>
      ok w ∧ (x.ring w 0).waitable (x.ring w 0).wp = true ∧ ¬ firstT t w x) ∧
    (Met (.srpost {} (.imm 1) 0) held fun _ w x => ok w ∧ inRing w x ∧ (sl w x).state = .acquired ∧ (sl w x).bound = none) ∧
    (Met (.srfree {} (.imm 1) 0) (slotIn consumer { state := .taken }) fun _ w x => ok w ∧ inRing w x ∧ (sl w x).state = .taken) ∧
    (Met (.srbind {} (.uni 8) (.uni 3) (.imm 0) 0) (uni 8 1 (pointed held)) fun _ w x => ok w ∧
      (checkStruct w x (structAddr w x (.uni 3)) 16 16).isOk = true ∧ (readUni w x (.uni 8)).toNat % 8 = 1 ∧ inRing w x ∧
      (sl w x).state = .acquired ∧ (sl w x).bound = none) ∧
    (Met (.srpost {} (.imm 1) 0) (slotIn producer { state := .acquired, bound := some (0x40000000, 0) }) fun _ w x => ok w ∧
      (sl w x).bound ≠ none) ∧
    (Met (.srpost {} (.imm 7) 0) producer fun _ w x => ok w ∧ ¬ 7 < (x.ring w 0).slots.length) ∧
    (Met (.srfree {} (.imm 1) 0) consumer fun _ w x => ok w ∧ (sl w x).state ≠ .taken) ∧
    (Met (.srbind {} (.uni 8) (.uni 3) (.imm 0) 0) (uni 8 1 (pointed producer)) fun _ w x => ok w ∧
      (checkStruct w x (structAddr w x (.uni 3)) 16 16).isOk = true ∧ (sl w x).state ≠ .acquired) ∧
    (Met (.srbind {} (.uni 8) (.uni 3) (.imm 0) 0) (uni 3 0x40000008 held) fun _ w x => ok w ∧ refused w x 3 16 16 = true) ∧
    (∀ i ∈ [Instr.sracq {} (.uni 8) 0, .srpost {} (.imm 1) 0, .srbind {} (.uni 8) (.uni 3) (.imm 0) 0], Met i (handler 1 producer)
      fun _ w _ => w.guard {} ≠ 0 ∧ w.hdep ≠ 0) ∧
    (∀ i ∈ [Instr.srwait {} (.uni 8) 0, .srfree {} (.imm 1) 0], Met i (handler 1 consumer) fun _ w _ => w.guard {} ≠ 0 ∧ w.hdep ≠ 0) ∧
    (∀ i ∈ [Instr.sracq off (.uni 8) 0, .srpost off (.imm 1) 0, .srbind off (.uni 8) (.uni 3) (.imm 0) 0], Met i producer
      fun _ w _ => w.guard off = 0) ∧
    ∀ i ∈ [Instr.srwait off (.uni 8) 0, .srfree off (.imm 1) 0], Met i consumer fun _ w _ => w.guard off = 0 :=
  have e : ∀ (t : State) (w : Wave) (x : WCtx), (w.guard {} != 0 && w.hdep != 0) = true → w.guard {} ≠ 0 ∧ w.hdep ≠ 0 :=
    fun _ _ _ h => by simpa using h
  have fa : ∀ (r : Nat) (t : State) (w : Wave) (x : WCtx), (w.guard {} != 0 && w.hdep == 0 &&
      (x.ring w r).acquirable (x.ring w r).ap && (t.firstWaiting (x.ring w r).acquirers (Wait.acquiring r)).isNone) = true →
      (w.guard {} ≠ 0 ∧ w.hdep = 0) ∧ (x.ring w r).acquirable (x.ring w r).ap = true ∧
        ∀ k ∈ (x.ring w r).acquirers, ∀ v, t.waves.get k = some v → ∀ p u, v.wait ≠ some (.sracq r p u) := by
    intro r t w x h; simp only [Bool.and_eq_true, bne_iff_ne, beq_iff_eq, Option.isNone_iff_eq_none] at h
    exact ⟨h.1.1, h.1.2, acquirers_of h.2⟩
  have ft : ∀ (t : State) (w : Wave) (x : WCtx), (w.guard {} != 0 && w.hdep == 0 &&
      (x.ring w 0).waitable (x.ring w 0).wp && (t.firstWaiting (x.ring w 0).takers (Wait.taking 0)).isNone) = true →
      (w.guard {} ≠ 0 ∧ w.hdep = 0) ∧ (x.ring w 0).waitable (x.ring w 0).wp = true ∧
        ∀ k ∈ (x.ring w 0).takers, ∀ v, t.waves.get k = some v → ∀ p u, v.wait ≠ some (.srwait 0 p u) := by
    intro t w x h; simp only [Bool.and_eq_true, bne_iff_ne, beq_iff_eq, Option.isNone_iff_eq_none] at h
    exact ⟨h.1.1, h.1.2, takers_of h.2⟩
  ⟨met_of _ (by decide +kernel) (fa 7), met_of _ (by decide +kernel) (fa 0), met_dec _ (by decide +kernel),
    met_of (fun t w x => w.guard {} != 0 && w.hdep == 0 && (x.ring w 0).acquirable (x.ring w 0).ap &&
      (x.ring w 0).acquirers == [9] && decide (((t.waves.get 9).bind fun v => v.wait) = some (.sracq 0 0 8))) (by decide +kernel) (by
        intro t w x h; simp only [Bool.and_eq_true, bne_iff_ne, beq_iff_eq, decide_eq_true_eq, Option.bind_eq_some_iff] at h
        obtain ⟨⟨⟨h0, h1⟩, h2⟩, v, hv, hw⟩ := h
        exact ⟨h0, h1, fun c => c 9 (by simp [h2]) v hv 0 8 hw⟩),
    met_of _ (by decide +kernel) ft, met_dec _ (by decide +kernel),
    met_of (fun t w x => w.guard {} != 0 && w.hdep == 0 && (x.ring w 0).waitable (x.ring w 0).wp &&
      (x.ring w 0).takers == [9] && decide (((t.waves.get 9).bind fun v => v.wait) = some (.srwait 0 0 8))) (by decide +kernel) (by
        intro t w x h; simp only [Bool.and_eq_true, bne_iff_ne, beq_iff_eq, decide_eq_true_eq, Option.bind_eq_some_iff] at h
        obtain ⟨⟨⟨h0, h1⟩, h2⟩, v, hv, hw⟩ := h
        exact ⟨h0, h1, fun c => c 9 (by simp [h2]) v hv 0 8 hw⟩),
    met_dec _ (by decide +kernel), met_dec _ (by decide +kernel), met_dec _ (by decide +kernel), met_dec _ (by decide +kernel),
    met_dec _ (by decide +kernel), met_dec _ (by decide +kernel), met_dec _ (by decide +kernel), met_dec _ (by decide +kernel),
    met_all _ (by decide +kernel) e, met_all _ (by decide +kernel) e,
    met_idle (by decide +kernel), met_idle (by decide +kernel)⟩

/-- A placed matrix wave, with its operands: k10 at the allocation, k14 at the die window, k9 a slot number. -/
def sequencer : State := uni 14 0x80000000 (uni 10 0x40000000 (mapped (State.reset.placeWord 0x600000000000000000000000)))

/-- Slot 0 holds a block of a width. -/
def holding (wd : SlotWidth) (s24 : Bool) : State := onB sequencer fun b => { b with matrix := [{ desc := [(0, ⟨wd, s24⟩)] }] }

def queueFull (s : State) : State := onW s fun w => { w with tiles := List.replicate 63 (.zero 0) }

/-- An operand at a uniform register's address passes its window checks. -/
def aligned (w : Wave) (x : WCtx) (k : BitVec 6) (n align : Nat) : Bool :=
  (checkWindow w x { spill := false } (structAddr w x (.uni k)) n align).isOk

theorem wit_TileIssueResults :
    let ok := fun (w : Wave) => w.guard {} ≠ 0 ∧ w.hdep = 0 ∧ w.tiles.length < 63
    let thread := fun (w : Wave) => w.guard {} ≠ 0 ∧ w.hdep = 0
    let waits : State → Wave → WCtx → Prop := fun _ w _ => w.guard {} ≠ 0 ∧ w.hdep = 0 ∧ 63 ≤ w.tiles.length
    let fits := fun (k : BitVec 6) (n align : Nat) (w : Wave) (x : WCtx) => aligned w x k n align
    let holds := fun (wd : SlotWidth) (s : Bool) (w : Wave) (x : WCtx) =>
      (readUni w x (.uni 9)).toNat % 2 ^ 32 < 192 ∧ (x.matrix w).desc.get ((readUni w x (.uni 9)).toNat % 2 ^ 32) = some ⟨wd, s⟩
    let full := onW sequencer fun w => { w with tiles := List.replicate 62 (.zero 0) }
    (Met (.tzero {} 7) full fun _ w _ => ok w) ∧ (Met (.tcvt {} 0 .e2m1 .f64 .sr false) sequencer fun _ w _ => ok w) ∧
    (Met (.tsetph {} (.imm 63)) sequencer fun _ w _ => ok w) ∧
    (Met (.tldw {} (.uni 10) (.uni 9) .w8 false) (uni 9 191 sequencer) fun _ w x => ok w ∧ fits 10 4096 256 w x ∧
      (readUni w x (.uni 9)).toNat % 2 ^ 32 < 192) ∧
    (Met (.tmma {} 1 (.uni 10) (.uni 9) .e4m3 true) (holding .w8 false) fun _ w x => ok w ∧ fits 10 4096 256 w x ∧ holds .w8 false w x) ∧
    (Met (.tmmas {} 1 (.uni 10) (.uni 9) .bf16 true) (holding .w16 true) fun _ w x => ok w ∧ fits 10 4096 256 w x ∧ holds .w16 true w x) ∧
    (Met (.tbin {} 1 (.uni 10) (.uni 9) true false) (holding .w1 false) fun _ w x => ok w ∧ fits 10 4096 256 w x ∧ holds .w1 false w x) ∧
    (Met (.tlut {} 1 (.uni 10) (.uni 9) true false) (holding .w4 false) fun _ w x => ok w ∧ fits 10 4096 256 w x ∧ holds .w4 false w x) ∧
    (Met (.tscacc {} 1 (.uni 10) 7) sequencer fun _ w x => ok w ∧ fits 10 256 16 w x) ∧
    (Met (.tdrain {} (.uni 14) 0 none .w64 .store false) sequencer fun _ w x => ok w ∧ fits 14 131072 256 w x) ∧
    (Met (.tdrain {} (.uni 14) 1 (some (.uni 16)) .w32 .seq false) (uni 16 0x100000000 sequencer) fun _ w x =>
      ok w ∧ fits 14 65536 256 w x ∧ seqOk (readUni w x (.uni 16)) = true) ∧
    (Met (.tdrain {} (.uni 15) 1 none .w32 .add true) sequencer fun t w x => ok w ∧ (readUni w x (.uni 15)).toNat % 256 = 0 ∧
      (t.translateAll w x.grid.ctx ((pagePieces (readUni w x (.uni 15)) 65536).map fun q => (0, q.1)) .readWrite).isOk = true) ∧
    (∀ i ∈ [Instr.tzero off 7, .tldw off (.uni 10) (.uni 9) .w8 true, .tmma off 1 (.uni 10) (.uni 9) .e4m3 true,
      .tmmas off 1 (.uni 10) (.uni 9) .bf16 true, .tbin off 1 (.uni 10) (.uni 9) true false, .tlut off 1 (.uni 10) (.uni 9) true false,
      .tscacc off 1 (.uni 10) 7, .tdrain off (.uni 14) 0 none .w64 .store false, .tcvt off 0 .f16 .f32 .rne false, .tsetph off (.imm 63)],
      Met i sequencer fun _ w _ => w.guard off = 0) ∧
    (∀ i ∈ [Instr.tzero {} 7, .tldw {} (.uni 10) (.uni 9) .w8 true, .tmma {} 1 (.uni 10) (.uni 9) .e4m3 true,
      .tmmas {} 1 (.uni 10) (.uni 9) .bf16 true, .tbin {} 1 (.uni 10) (.uni 9) true false, .tlut {} 1 (.uni 10) (.uni 9) true false,
      .tscacc {} 1 (.uni 10) 7, .tdrain {} (.uni 14) 0 none .w64 .store true, .tdrain {} (.uni 14) 1 none .w32 .add false,
      .tcvt {} 0 .f16 .f32 .rne false, .tsetph {} (.imm 63)],
      Met i (handler 1 sequencer) fun _ w _ => w.guard {} ≠ 0 ∧ w.hdep ≠ 0) ∧
    (∀ i ∈ [Instr.tzero {} 7, .tcvt {} 0 .e2m1 .f64 .sr false, .tsetph {} (.imm 63)], Met i (queueFull sequencer) waits) ∧
    (Met (.tldw {} (.uni 10) (.uni 9) .w8 false) (queueFull (uni 9 191 sequencer)) fun t w x => waits t w x ∧ fits 10 4096 256 w x ∧
      (readUni w x (.uni 9)).toNat % 2 ^ 32 < 192) ∧
    (Met (.tmma {} 1 (.uni 10) (.uni 9) .e4m3 true) (queueFull (holding .w8 false)) fun t w x => waits t w x ∧ fits 10 4096 256 w x ∧
      holds .w8 false w x) ∧
    (Met (.tmmas {} 1 (.uni 10) (.uni 9) .bf16 true) (queueFull (holding .w16 true)) fun t w x => waits t w x ∧ fits 10 4096 256 w x ∧
      holds .w16 true w x) ∧
    (Met (.tbin {} 1 (.uni 10) (.uni 9) true false) (queueFull (holding .w1 false)) fun t w x => waits t w x ∧ fits 10 4096 256 w x ∧
      holds .w1 false w x) ∧
    (Met (.tlut {} 1 (.uni 10) (.uni 9) true false) (queueFull (holding .w4 false)) fun t w x => waits t w x ∧ fits 10 4096 256 w x ∧
      holds .w4 false w x) ∧
    (Met (.tscacc {} 1 (.uni 10) 7) (queueFull sequencer) fun t w x => waits t w x ∧ fits 10 256 16 w x) ∧
    (Met (.tdrain {} (.uni 14) 0 none .w64 .store false) (queueFull sequencer) fun t w x => waits t w x ∧ fits 14 131072 256 w x) ∧
    (Met (.tdrain {} (.uni 15) 1 none .w32 .add true) (queueFull sequencer) fun t w x => waits t w x ∧
      (readUni w x (.uni 15)).toNat % 256 = 0 ∧
      (t.translateAll w x.grid.ctx ((pagePieces (readUni w x (.uni 15)) 65536).map fun q => (0, q.1)) .readWrite).isOk = true) ∧
    (∀ i ∈ [Instr.tldw {} (.uni 11) (.uni 9) .w8 true, .tmma {} 1 (.uni 11) (.uni 9) .e4m3 true, .tmmas {} 1 (.uni 11) (.uni 9) .bf16 true,
      .tbin {} 1 (.uni 11) (.uni 9) true false, .tlut {} 1 (.uni 11) (.uni 9) true false, .tscacc {} 1 (.uni 11) 7,
      .tdrain {} (.uni 11) 1 none .w32 .add false], Met i (uni 11 0x40000008 sequencer) fun _ w x => thread w ∧
        (fits 11 256 16 w x = false ∧ fits 11 4096 256 w x = false ∧ fits 11 65536 256 w x = false)) ∧
    (Met (.tdrain {} (.uni 11) 1 none .w32 .store true) (uni 11 0x40000008 sequencer) fun _ w x => thread w ∧
      (readUni w x (.uni 11)).toNat % 256 ≠ 0) ∧
    (Met (.tldw {} (.uni 10) (.uni 9) .w8 false) (uni 9 192 sequencer) fun _ w x => thread w ∧ fits 10 4096 256 w x ∧
      192 ≤ (readUni w x (.uni 9)).toNat % 2 ^ 32) ∧
    (∀ i ∈ [Instr.tmma {} 1 (.uni 10) (.uni 9) .e4m3 true, .tmmas {} 1 (.uni 10) (.uni 9) .bf16 true,
      .tbin {} 1 (.uni 10) (.uni 9) true false, .tlut {} 1 (.uni 10) (.uni 9) true false], Met i sequencer fun _ w x => thread w ∧
        fits 10 4096 256 w x = true ∧ (x.matrix w).desc.get ((readUni w x (.uni 9)).toNat % 2 ^ 32) = none) ∧
    (Met (.tdrain {} (.uni 14) 1 (some (.uni 16)) .w32 .seq false) (uni 16 0x000000000 sequencer) fun _ w x =>
      thread w ∧ fits 14 65536 256 w x ∧ seqOk (readUni w x (.uni 16)) = false) ∧
    Met (.tdrain {} (.uni 15) 1 (some (.uni 16)) .w32 .seq true) (uni 16 0x000000000 sequencer) fun t w x => thread w ∧
      (readUni w x (.uni 15)).toNat % 256 = 0 ∧
      (t.translateAll w x.grid.ctx ((pagePieces (readUni w x (.uni 15)) 65536).map fun q => (0, q.1)) .readWrite).isOk = true ∧
      seqOk (readUni w x (.uni 16)) = false :=
  ⟨met_dec _ (by decide +kernel), met_dec _ (by decide +kernel), met_dec _ (by decide +kernel), met_dec _ (by decide +kernel),
    met_dec _ (by decide +kernel), met_dec _ (by decide +kernel), met_dec _ (by decide +kernel), met_dec _ (by decide +kernel),
    met_dec _ (by decide +kernel), met_dec _ (by decide +kernel), met_dec _ (by decide +kernel), met_dec _ (by decide +kernel),
    met_idle (by decide +kernel),
    met_all (fun _ w _ => w.guard {} != 0 && w.hdep != 0) (by decide +kernel) (fun _ _ _ h => by simpa using h),
    met_all (fun _ w _ => w.guard {} != 0 && w.hdep == 0 && decide (63 ≤ w.tiles.length)) (by decide +kernel)
      (fun _ _ _ h => by simpa [and_assoc] using h),
    met_dec _ (by decide +kernel), met_dec _ (by decide +kernel), met_dec _ (by decide +kernel), met_dec _ (by decide +kernel),
    met_dec _ (by decide +kernel), met_dec _ (by decide +kernel), met_dec _ (by decide +kernel), met_dec _ (by decide +kernel),
    met_all (fun _ w x => w.guard {} != 0 && w.hdep == 0 && !aligned w x 11 256 16 && !aligned w x 11 4096 256 && !aligned w x 11 65536 256)
      (by decide +kernel) (fun _ _ _ h => by simpa [and_assoc] using h),
    met_dec _ (by decide +kernel), met_dec _ (by decide +kernel),
    met_all (fun _ w x => w.guard {} != 0 && w.hdep == 0 && aligned w x 10 4096 256 &&
      decide ((x.matrix w).desc.get ((readUni w x (.uni 9)).toNat % 2 ^ 32) = none)) (by decide +kernel)
      (fun _ _ _ h => by simpa [and_assoc] using h),
    met_dec _ (by decide +kernel), met_dec _ (by decide +kernel)⟩

/-- Bytes at the start of the allocation, under the context's domain. -/
def bytesAt (s : State) (cells : List Host.Cell) : State := { s with lds := cells, ldsTags := [(0, 1)] }

/-- A launch packet for kernel 1 with one cooperative block of eight threads, at k3. -/
def packet (s : State) : State := bytesAt (pointed s) [⟨0, 1⟩, ⟨4, 1⟩, ⟨8, 1⟩, ⟨9, 1⟩, ⟨10, 8⟩, ⟨12, 1⟩]

/-- Kernel 2 is a node's, with batches of four records of 16 bytes. -/
def noded (s : State) : State :=
  { s with kernels := s.kernels.put 2 { ctx := 1, desc := { node := some (4, 16, 1000) }, text := List.replicate 24 0 } }

/-- Cells of HBM that hold bytes from an address on. -/
def hbmAt (a : Nat) (bs : List Byte) : Memory := (List.zip (List.range bs.length) bs).map fun p => ⟨a + p.1, p.2⟩
def domAt (a n dom : Nat) : Tbl Nat := (List.range n).map fun i => (a + i, dom)

/-- The page tables of context 1, whose root is at 0, map virtual page 0 on 0x100000: domain 1, readable, writable. -/
def tables : Memory :=
  hbmAt 0 (leBytes 8 0x2001) ++ hbmAt 0x2000 (leBytes 8 0x4001) ++ hbmAt 0x4000 (leBytes 8 0x4801) ++
    hbmAt 0x4800 (leBytes 8 0x4901) ++ hbmAt 0x4900 (leBytes 8 0x001000000010000f)
def tableDoms : Tbl Nat := domAt 0 8 0 ++ domAt 0x2000 8 0 ++ domAt 0x4000 8 0 ++ domAt 0x4800 8 0 ++ domAt 0x4900 8 0

/-- An open queue of the context, whose header of 64 entries is at virtual address 0x100. -/
def queued (s : State) : State :=
  { mapped s with
    queues := [(5, { phase := .opened, ctx := 1, header := 0x100 })]
    hbm := tables ++ [⟨0x100110, 5⟩, ⟨0x100114, 64⟩, ⟨0x100127, 3⟩]
    hbmDom := tableDoms ++ [(0x100110, 1), (0x100114, 1), (0x100127, 1)] }

theorem wit_LaunchAndQueueResults :
    let ok := fun (w : Wave) => w.guard {} ≠ 0 ∧ w.hdep = 0
    let judged := fun (t : State) (w : Wave) (x : WCtx) => (t.flushStores t.cur (t.waveDom x)).packetOk x.grid.ctx
      ((t.flushStores t.cur (t.waveDom x)).structRead x (structBytes w x (structAddr w x (.uni 3)) 64))
    let there := fun (w : Wave) (x : WCtx) => (checkStruct w x (structAddr w x (.uni 3)) 64 64).isOk = true
    let good := fun (t : State) (w : Wave) (x : WCtx) => ok w ∧ there w x ∧ judged t w x = true ∧ w.loads = []
    let full := fun (t : State) (w : Wave) (x : WCtx) => x.grid.depth = 8 ∨ 1024 ≤ ((t.expose w true).die w.die).pool.length
    let rung := fun (t : State) (w : Wave) (x : WCtx) => ((t.settleQueue ((structAddr w x (.uni 7)).toNat % 4096)).expose w true).queues.get
      ((structAddr w x (.uni 7)).toNat % 4096)
    let bound := fun (t : State) (w : Wave) (x : WCtx) => match rung t w x with
      | some q => q.boundTo x.grid.ctx
      | none => false
    let child := { st with grids := st.grids.put 2 { num := 9, serial := 8, ctx := 1, kernel := 1, parent := some 1, phase := .running } }
    (Met (.dlaunch {} (.uni 20) (.uni 3)) (packet st) fun t w x => good t w x ∧ ¬ full t w x) ∧
    (Met (.dlaunch {} (.uni 20) (.uni 3)) (onG (packet st) fun g => { g with depth := 8 }) fun t w x => good t w x ∧ full t w x) ∧
    (Met (.dlaunch {} (.uni 20) (.uni 3)) (pointed st) fun t w x => ok w ∧ there w x ∧ judged t w x = false) ∧
    (Met (.dlwait {} (.uni 22) (.uni 3)) (pointed st) fun t w x => ok w ∧ (t.waitStatus x (readUni w x (.uni 3))).isSome = true) ∧
    (Met (.dlwait {} (.uni 22) (.uni 3)) (uni 3 0x0000000800000009 child) fun t w x => ok w ∧
      (t.waitStatus x (readUni w x (.uni 3))).isNone = true) ∧
    (Met (.nodeput {} (some (.uni 2)) (.uni 3) (.uni 7)) (uni 7 2 (noded (pointed st))) fun t w x => ok w ∧ w.loads = [] ∧
      (match t.nodeKernel x.grid.ctx (structAddr w x (.uni 7)).toNat with
        | some k => (checkStruct w x (structAddr w x (.uni 3)) k.desc.nodeOf.2.1 16).isOk
        | none => false) = true) ∧
    (Met (.qclaim {} (.uni 20) (.uni 6) (some (.imm 64))) (uni 6 0x100 (queued st)) fun t w x => ok w ∧
      (readUni w x (.uni 6)).toNat % 64 = 0 ∧ okAnd (t.translateAll w x.grid.ctx ((lanesOf (w.guard {})).map fun l =>
        (l, readUni w x (.uni 6))) .readWrite) (fun ts => !ts.isEmpty) = true) ∧
    (Met (.qnotify {} (some (.uni 22)) (.uni 7) (.uni 8)) (uni 7 5 (queued st)) fun t w x => ok w ∧ w.loads = [] ∧
      (structAddr w x (.uni 7)).toNat < 4096 ∧ bound t w x = true) ∧
    (Met (.qnotify {} none (.uni 7) (.uni 8)) (uni 7 6 (queued st)) fun t w x => ok w ∧ bound t w x = false) ∧
    (Met (.qnotify {} none (.uni 7) (.uni 8)) (uni 7 0x1005 (queued st)) fun t w x => ok w ∧
      4096 ≤ (structAddr w x (.uni 7)).toNat ∧ bound t w x = true) ∧
    (∀ i ∈ [Instr.dlaunch off (.uni 20) (.uni 3), .dlwait off (.uni 22) (.uni 3), .nodeput off none (.uni 3) (.uni 7),
      .qclaim off (.uni 20) (.uni 6) none, .qnotify off none (.uni 7) (.uni 8)], Met i st fun _ w _ => w.guard off = 0) ∧
    (∀ i ∈ [Instr.dlaunch {} (.uni 20) (.uni 3), .dlwait {} (.uni 22) (.uni 3), .nodeput {} none (.uni 3) (.uni 7),
      .qclaim {} (.uni 20) (.uni 6) none, .qnotify {} none (.uni 7) (.uni 8)], Met i (handler 1 st) fun _ w _ =>
        w.guard {} ≠ 0 ∧ w.hdep ≠ 0) ∧
    (Met (.dlaunch {} (.uni 20) (.uni 3)) (loading (packet st)) fun t w x => ok w ∧ there w x ∧ judged t w x = true ∧ w.loads ≠ []) ∧
    (Met (.dlaunch {} (.uni 20) (.uni 10)) (uni 10 0x40000020 st) fun _ w x => ok w ∧ refused w x 10 64 64 = true) ∧
    (Met (.nodeput {} (some (.uni 2)) (.uni 3) (.uni 7)) (loading (uni 7 2 (noded (pointed st)))) fun t w x => ok w ∧ w.loads ≠ [] ∧
      (match t.nodeKernel x.grid.ctx (structAddr w x (.uni 7)).toNat with
        | some k => (checkStruct w x (structAddr w x (.uni 3)) k.desc.nodeOf.2.1 16).isOk
        | none => false) = true) ∧
    (Met (.nodeput {} none (.uni 3) (.uni 7)) (uni 7 2 (pointed st)) fun t w x => ok w ∧
      (t.nodeKernel x.grid.ctx (structAddr w x (.uni 7)).toNat).isNone = true ∧ refused w x 3 1 16 = false) ∧
    (Met (.nodeput {} none (.uni 10) (.uni 7)) (uni 10 0x40000008 (uni 7 2 (noded st))) fun t w x => ok w ∧
      t.nodeBytes x.grid.ctx (structAddr w x (.uni 7)).toNat = 16 ∧ refused w x 10 16 16 = true) ∧
    (Met (.qclaim {} (.uni 20) (.uni 6) none) (uni 6 0x120 st) fun _ w x => ok w ∧ (readUni w x (.uni 6)).toNat % 64 ≠ 0) ∧
    Met (.qnotify {} (some (.uni 22)) (.uni 7) (.uni 8)) (loading (uni 7 5 (queued st))) fun t w x => ok w ∧ w.loads ≠ [] ∧
      (structAddr w x (.uni 7)).toNat < 4096 ∧ bound t w x = true :=
  ⟨met_dec _ (by decide +kernel), met_dec _ (by decide +kernel), met_dec _ (by decide +kernel), met_dec _ (by decide +kernel),
    met_dec _ (by decide +kernel), met_dec _ (by decide +kernel), met_dec _ (by decide +kernel), met_dec _ (by decide +kernel),
    met_dec _ (by decide +kernel), met_dec _ (by decide +kernel), met_idle (by decide +kernel),
    met_all (fun _ w _ => w.guard {} != 0 && w.hdep != 0) (by decide +kernel) (fun _ _ _ h => by simpa using h),
    met_dec _ (by decide +kernel), met_dec _ (by decide +kernel), met_dec _ (by decide +kernel), met_dec _ (by decide +kernel),
    met_dec _ (by decide +kernel), met_dec _ (by decide +kernel), met_dec _ (by decide +kernel)⟩

/-- The hypotheses of a statement of an event at wave `n` hold at a state. -/
def Stands (s : State) (n : Nat) (pre : Wave → WCtx → Prop) : Prop := ∃ w x, At s n w x ∧ pre w x

theorem stands_dec {s : State} {n : Nat} (pre : Wave → WCtx → Prop) [∀ w x, Decidable (pre w x)]
    (h : (match s.waves.get n with
      | some w => match s.wctx w with
        | some x => decide (pre w x)
        | none => false
      | none => false) = true) : Stands s n pre := by
  split at h
  · next w hw =>
    split at h
    · next x hx => exact ⟨w, x, ⟨hw, hx⟩, of_decide_eq_true h⟩
    · cases h
  · cases h

/-- A wave of a reserving launch with an item in each lane. -/
def reserving (k : WaveKind) (s : State) : State :=
  let t := onW s fun w => { w with kind := k, lanes := w.lanes.mapIdx fun l x => { x with item := some { index := l } } }
  { t with
    kernels := t.kernels.map fun (e : Nat × Kernel) => (e.1, { e.2 with desc := { e.2.desc with reserve := some (8, 2, false) } })
    dies := [(0, { former := some { grid := 1, block := 1, home := 0, next := 8 } })] }

theorem wit_ReservingResults :
    let claims := fun (w : Wave) (x : WCtx) => (lanesOf (w.guard {})).all fun l =>
      (claimLane w x x.claims (laneAddr w x (.lane 2) none l) l).isOk
    let entry := fun (w : Wave) (_ : WCtx) (_ : Nat) => w.pc + 12
    let f : Former := { grid := 1, block := 1, home := 0, next := 8 }
    let ends := fun (h : Head) (t : State) (w : Wave) (x : WCtx) => w.guard h ≠ 0 ∧ w.hdep = 0 ∧ w.kind = .claim ∧
      ((t.retireFirst w).formBodies w.die).former w = some f ∧
      (lanesOf (w.guard h)).all (fun l => x.pcOk (entry w x l)) = true
    let gone := fun (h : Head) (w : Wave) => w.leave (w.guard h)
    let c := reserving .claim
    (Met (.claim {} (.lane 2) none) (aimed (c st)) fun _ w x => w.guard {} ≠ 0 ∧ w.hdep = 0 ∧ w.kind = .claim ∧ claims w x = true) ∧
    (Met (.claimend off (.imm 0)) (q1in2 (c st)) fun t w x => ends off t w x ∧ (gone off w).run ≠ 0 ∧ x.pcOk w.nextPc = true) ∧
    (Met (.claimend {} (.imm 0)) (c st) fun t w x => ends {} t w x ∧ (gone {} w).run = 0 ∧ (gone {} w).live = 0) ∧
    (Met (.claimend {} (.imm 0)) (serial (halves (c st))) fun t w x =>
      ends {} t w x ∧ (gone {} w).run = 0 ∧ (gone {} w).live ≠ 0 ∧ w.serial = true) ∧
    (Met (.claimend {} (.imm 0)) (halves (c st)) fun t w x => ends {} t w x ∧ (gone {} w).run = 0 ∧ (gone {} w).live ≠ 0 ∧
      w.serial = false ∧ (gone {} w).runnable ≠ 0 ∧
      ((w.retire (gone {} w)).enterEvent x .empty w.pc fun _ => w.nextPc).isSome = true) ∧
    (Met (.claimend {} (.imm 0)) (parked (c st)) fun t w x => ends {} t w x ∧ (gone {} w).run = 0 ∧ (gone {} w).live ≠ 0 ∧
      w.serial = false ∧ (gone {} w).runnable = 0) ∧
    (Met (.itemend {}) (reserving .body st) fun _ w _ => w.guard {} ≠ 0 ∧ w.hdep = 0 ∧ w.kind = .body) ∧
    (∀ i ∈ [Instr.claim {} (.lane 2) none, .claimend {} (.imm 0), .itemend {}], Met i st fun _ w _ =>
      w.guard {} ≠ 0 ∧ w.hdep = 0 ∧ w.kind ≠ .claim ∧ w.kind ≠ .body) ∧
    (∀ i ∈ [Instr.claim off (.lane 2) none, .claimend off (.imm 0), .itemend off], Met i st fun _ w _ => w.guard off = 0) ∧
    (∀ i ∈ [Instr.claim {} (.lane 2) none, .claimend {} (.imm 0), .itemend {}], Met i (handler 1 (c st)) fun _ w _ =>
      w.guard {} ≠ 0 ∧ w.hdep ≠ 0) ∧
    (Met (.claim {} (.lane 2) none) (reg 2 0x10 (c st)) fun _ w x => w.guard {} ≠ 0 ∧ w.hdep = 0 ∧ w.kind = .claim ∧
      (worstCause ((lanesOf (w.guard {})).filterMap fun l => match claimLane w x x.claims (laneAddr w x (.lane 2) none l) l with
        | .error k => some (l, k, (laneAddr w x (.lane 2) none l).setWidth 64)
        | .ok _ => none)).isSome = true) ∧
    (Met (.claimend {} (.imm (-5))) (c st) fun _ w x => w.guard {} ≠ 0 ∧ w.hdep = 0 ∧ w.kind = .claim ∧ (w.guard {}).getLsbD 0 = true ∧
      x.pcOk (w.pc + 12 + 12 * (-5 : BitVec 18).signExtend 32) = false) ∧
    -- the cases of a lane's claim: no item; on either side of the windows; past the allocation; a granule that is held; room; none
    Stands (c st) 1 fun w x =>
      let free := w.updLane 0 fun y => { y with item := none }
      let with_ := fun (gs : List Nat) (n : Nat) => w.updLane 0 fun y => { y with item := some { index := 0, granules := gs
                                                                                                 claims := List.replicate n 0 } }
      let at_ := fun (a : Word) => windowLoc w.die x.block x.kern.desc a 1
      let granule := fun (v : Wave) => ((at_ 0x40000000).bind fun p => claimForm v x p).getD 0 / 8
      (free.lane 0).item = none ∧ (0x3fffffff : Word).toNat < 0x40000000 ∧ 0xc0000000 ≤ (0xc0000000 : Word).toNat ∧
      at_ 0x7fffffff = none ∧ (at_ 0x40000000).isSome = true ∧
      ((with_ [granule w] 0).lane 0).item ≠ none ∧ granule (with_ [granule w] 0) ∈ [granule w] ∧
      (granule (with_ [] 2) ∉ ([] : List Nat) ∧ 2 ≤ (List.replicate 2 (0 : Nat)).length) ∧
      (granule (with_ [] 1) ∉ ([] : List Nat) ∧ (List.replicate 1 (0 : Nat)).length < 2) :=
  ⟨met_dec _ (by decide +kernel), met_dec _ (by decide +kernel), met_dec _ (by decide +kernel), met_dec _ (by decide +kernel),
    met_dec _ (by decide +kernel), met_dec _ (by decide +kernel), met_dec _ (by decide +kernel),
    met_all (fun _ w _ => w.guard {} != 0 && w.hdep == 0 && w.kind != .claim && w.kind != .body) (by decide +kernel)
      (fun _ _ _ h => by simpa [and_assoc] using h), met_idle (by decide +kernel),
    met_all (fun _ w _ => w.guard {} != 0 && w.hdep != 0) (by decide +kernel) (fun _ _ _ h => by simpa using h),
    met_dec _ (by decide +kernel), met_dec _ (by decide +kernel), stands_dec _ (by decide +kernel)⟩

/-- Domain 1 has a collection region with one line, of name 7, and its root area is the page's first half. -/
def region (s : State) : State :=
  { s with regions := [(1, { capacity := 4, rootBase := 0x100000, rootLen := 0x8000, lines := [⟨7, false, [], 1⟩] })] }

/-- The core holds a translation of virtual page 0, a collection page. -/
def collPage (s : State) : State :=
  s.updCore 0 0 fun c => { c with tlb := [{ ctx := 1, va := 0, size := 0x10000, pa := 0x100000, dom := 1, r := true, w := true, kind := 1 }] }

theorem wit_CollectionResults :
    let ok := fun (n align : Nat) (k : BitVec 6) (w : Wave) (x : WCtx) => (checkStruct w x (structAddr w x (.uni k)) n align).isOk = true
    let g := fun (w : Wave) => w.guard {} ≠ 0
    let there := fun (t : State) (x : WCtx) => t.domSlot x.grid.ctx 0 = some 1
    let name := fun (w : Wave) => w.uni 13 ++ w.uni 12
    let r := uni 12 7 (region (pointed st))
    let walk := fun (need : Need) (t : State) (w : Wave) (x : WCtx) => (readUni w x (.uni 6)).toNat % 32 = 0 ∧
      okAnd (t.translateAll w x.grid.ctx ((lanesOf (w.guard {})).map fun l => (l, readUni w x (.uni 6))) need) (fun ts => !ts.isEmpty) = true
    let rooted := { collPage r with hbm := (List.range 32).map fun i => ⟨0x100000 + i, 0⟩
                                    hbmDom := (List.range 32).map fun i => (0x100000 + i, 1) }
    (Met (.clook {} (.uni 3) (.uni 3) 0 7 true) r fun t w x => g w ∧ ok 512 16 3 w x ∧ ok 32 32 3 w x ∧ there t x ∧ w.copies.length < 63) ∧
    (Met (.cfetch {} (.uni 3) (.uni 12) (some (.uni 3)) 0 7) r fun t w x => g w ∧ ok 512 16 3 w x ∧ ok 32 32 3 w x ∧ there t x ∧
      w.copies.length < 63) ∧
    (Met (.cfetch {} (.uni 3) (.uni 12) none 0 7) r fun t w x => g w ∧ ok 512 16 3 w x ∧ there t x ∧ w.copies.length < 63) ∧
    (Met (.cref {} (.uni 2) (.uni 12) 0) r fun t w x => g w ∧ there t x ∧ (t.incr 1 (name w)).isSome = true) ∧
    (Met (.cunref {} (.uni 2) (.uni 12) 0) r fun t w x => g w ∧ there t x ∧ (t.decr 1 (name w)).isSome = true) ∧
    (Met (.crootcas {} (.uni 16) (.uni 6) (.imm 0)) rooted fun t w x => g w ∧ walk .root t w x ∧ (t.regions.get 1).isSome = true ∧
      shapeOk ((readUni w x (.imm 0)).toNat / 2 ^ 56) ((readUni w x (.imm 0)).toNat % 2 ^ 56) = true ∧
      (t.incr 1 (w.uni 19 ++ w.uni 18)).isSome = true) ∧
    (Met (.ccopyout {} (.uni 3) (.uni 6) 7) rooted fun t w x => g w ∧ ok 128 128 3 w x ∧ walk .slot t w x ∧ t.cardsFull w = false ∧
      (t.regions.get 1).isSome = true ∧ (t.incr 1 (slotName (t.memReads 1 0x100000 32))).isSome = true) ∧
    (∀ i ∈ [Instr.cref {} (.uni 2) (.uni 12) 4, .cunref {} (.uni 2) (.uni 12) 4], Met i r fun t w x =>
      g w ∧ t.domSlot x.grid.ctx 4 = none) ∧
    (Met (.cref {} (.uni 2) (.uni 12) 0) (uni 12 8 r) fun t w x => g w ∧ there t x ∧ (t.incr 1 (name w)).isNone = true) ∧
    (Met (.cunref {} (.uni 2) (.uni 12) 0) (uni 12 8 r) fun t w x => g w ∧ there t x ∧ (t.decr 1 (name w)).isNone = true) ∧
    (Met (.clook {} (.uni 3) (.uni 3) 4 7 true) r fun t w x => g w ∧ ok 512 16 3 w x ∧ ok 32 32 3 w x ∧ t.domSlot x.grid.ctx 4 = none) ∧
    (∀ o ∈ [none, some (Operand.uni 3)], Met (.cfetch {} (.uni 3) (.uni 12) o 4 7) r fun t w x => g w ∧ ok 512 16 3 w x ∧ ok 32 32 3 w x ∧
      t.domSlot x.grid.ctx 4 = none) ∧
    (Met (.crootcas {} (.uni 16) (.uni 6) (.imm 0)) { rooted with regions := [] } fun t w x => g w ∧ walk .root t w x ∧ (t.regions.get 1).isNone = true) ∧
    (Met (.crootcas {} (.uni 16) (.uni 6) (.uni 7)) (uni 7 (2 ^ 63) rooted) fun t w x => g w ∧ walk .root t w x ∧ (t.regions.get 1).isSome = true ∧
      shapeOk ((readUni w x (.uni 7)).toNat / 2 ^ 56) ((readUni w x (.uni 7)).toNat % 2 ^ 56) = false) ∧
    (Met (.crootcas {} (.uni 16) (.uni 6) (.imm 0)) (uni 18 9 rooted) fun t w x => g w ∧ walk .root t w x ∧ (t.regions.get 1).isSome = true ∧
      shapeOk ((readUni w x (.imm 0)).toNat / 2 ^ 56) ((readUni w x (.imm 0)).toNat % 2 ^ 56) = true ∧
      (t.incr 1 (w.uni 19 ++ w.uni 18)).isNone = true) ∧
    (Met (.ccopyout {} (.uni 3) (.uni 6) 7) { rooted with regions := [] } fun t w x => g w ∧ ok 128 128 3 w x ∧ walk .slot t w x ∧
      (t.regions.get 1).isNone = true) ∧
    (Met (.ccopyout {} (.uni 3) (.uni 6) 7) { rooted with hbm := rooted.hbm.map fun c => if c.1 = 0x100000 then (c.1, 9) else c }
      fun t w x => g w ∧ ok 128 128 3 w x ∧ walk .slot t w x ∧ t.cardsFull w = false ∧ (t.regions.get 1).isSome = true ∧
        (t.incr 1 (slotName (t.memReads 1 0x100000 32))).isNone = true) ∧
    ∀ i ∈ [Instr.clook off (.uni 3) (.uni 3) 0 7 true, .cfetch off (.uni 3) (.uni 12) none 0 7, .cref off (.uni 2) (.uni 12) 0,
      .cunref off (.uni 2) (.uni 12) 0, .crootcas off (.uni 16) (.uni 6) (.imm 0), .ccopyout off (.uni 3) (.uni 6) 7],
      Met i st fun _ w _ => w.guard off = 0 :=
  ⟨met_dec _ (by decide +kernel), met_dec _ (by decide +kernel), met_dec _ (by decide +kernel), met_dec _ (by decide +kernel),
    met_dec _ (by decide +kernel), met_dec _ (by decide +kernel), met_dec _ (by decide +kernel),
    met_all (fun t w x => w.guard {} != 0 && (t.domSlot x.grid.ctx 4).isNone) (by decide +kernel) (fun _ _ _ h => by simpa using h),
    met_dec _ (by decide +kernel), met_dec _ (by decide +kernel), met_dec _ (by decide +kernel), by
      simp only [List.forall_mem_cons, List.not_mem_nil, IsEmpty.forall_iff, implies_true, and_true]
      exact ⟨met_dec _ (by decide +kernel), met_dec _ (by decide +kernel)⟩,
    met_dec _ (by decide +kernel), met_dec _ (by decide +kernel), met_dec _ (by decide +kernel), met_dec _ (by decide +kernel),
    met_dec _ (by decide +kernel), met_idle (by decide +kernel)⟩

/-! #### Events -/

theorem wit_SpecialRegisterWriteEvents :
    (Stands (handler 2 st) 1 fun w x => w.hdep ≠ 0 ∧ w.run &&& x.maskIn 1 ≠ 0) ∧
    (Stands (handler 1 st) 1 fun w x => w.hdep ≠ 0 ∧ w.run &&& x.maskIn 0xff00 = 0) ∧
    (Stands st 1 fun w x => w.hdep = 0 ∧ (w.writeSpec x 0x27 12).isOk = true ∧ (w.writeSpec x 0x32 0).isOk = true) ∧
    Stands (handler 1 st) 1 fun w x => w.hdep ≠ 0 ∧ (w.writeSpec x 0x21 1).isOk = true ∧ (w.writeSpec x 0x2b 0).isOk = true :=
  ⟨stands_dec _ (by decide +kernel), stands_dec _ (by decide +kernel), stands_dec _ (by decide +kernel), stands_dec _ (by decide +kernel)⟩

/-- Lanes 4 to 7 have waited for longer than the limit. -/
def starving (s : State) : State := onW (halves s) fun w => { w with lanes := w.lanes.map fun (x : Lane) => { x with age := 0xffffffff } }

theorem wit_WaveBoundaryEvents :
    let spent := fun (s : State) => onW s fun w => { w with serial := true, quantum := 0 }
    (Stands (starving st) 1 fun w x => w.atBoundary = true ∧ w.starved = true ∧ (w.startSerial x).isSome = true) ∧
    (Stands (onW (handler 1 st) fun w => { w with handlerIssues := 0xffffffff }) 1 fun w x => w.atBoundary = true ∧ w.overrun = true ∧
      ({ w with hdep := 0, hcause := 0, passBp := false }.startSerial x).isSome = true) ∧
    (Stands (spent st) 1 fun w x => w.atBoundary = true ∧ w.quantumOver = true ∧ w.runnable ≠ 0 ∧
      (w.enterEvent x .safeguard w.pc fun _ => w.pc).isSome = true) ∧
    (Stands (onW (spent st) fun w => { w with run := 0, live := 0 }) 1 fun w _ => w.atBoundary = true ∧ w.quantumOver = true ∧
      w.runnable = 0 ∧ w.live = 0) ∧
    (Stands (onW (spent st) fun w => { w with park := 0xff, run := 0 }) 1 fun w _ => w.atBoundary = true ∧ w.quantumOver = true ∧
      w.runnable = 0 ∧ w.live ≠ 0) ∧
    (Stands (onW st fun w => { w with phase := .ending }) 1 fun w _ => w.phase = .ending ∧ w.drained = true ∧ w.retiring = []) ∧
    (let s := onW (reserving .body st) fun w => { w with retiring := [{ num := 2, items := [{ index := 0 }] }] }
     Stands s 1 fun w _ => w.saved = false ∧ w.readyPass = some { num := 2, items := [{ index := 0 }] } ∧ ((s.formBodies w.die).former w).isSome = true) ∧
    (Stands (onW st fun w => { w with saved := true }) 1 fun w _ => w.saved = true) ∧
    (Stands (onW (reserving .body st) fun w => { w with
      retiring := [{ num := 2, items := [{ index := 0 }] }], stores := [{ writes := [(0x400000, [1])], lanes := [0], holds := [2] }] })
      1 fun w _ => w.readyPass = none) ∧
    Stands st 1 fun w _ => w.starved = false ∧ w.overrun = false ∧ w.quantumOver = false :=
  ⟨stands_dec _ (by decide +kernel), stands_dec _ (by decide +kernel), stands_dec _ (by decide +kernel), stands_dec _ (by decide +kernel),
    stands_dec _ (by decide +kernel), stands_dec _ (by decide +kernel), stands_dec _ (by decide +kernel), stands_dec _ (by decide +kernel),
    stands_dec _ (by decide +kernel), stands_dec _ (by decide +kernel)⟩

theorem wit_WakeEvents :
    let waits := fun (x : Wait) => onW st fun w => { w with wait := some x }
    let lined := fun (x : Wait) (z : RingSlot) (first : List Nat) => onB (waits x) fun b => { b with
      rings := [List.replicate 8 { slots := [z, {}], acquirers := first, takers := first }] }
    let turnA := fun (s : State) (x : WCtx) => (x.ring ((s.waves.get 1).getD {}) 0).acquirable 0 &&
      s.firstWaiting (x.ring ((s.waves.get 1).getD {}) 0).acquirers (Wait.acquiring 0) == some 1
    let turnT := fun (s : State) (x : WCtx) => (x.ring ((s.waves.get 1).getD {}) 0).waitable 0 &&
      s.firstWaiting (x.ring ((s.waves.get 1).getD {}) 0).takers (Wait.taking 0) == some 1
    let wakes := fun (w : Wave) (c : WCtx) => w.wakeable = true ∧ w.nextPc.toNat < c.textLen
    let a := Wait.sracq 0 0 2; let t := Wait.srwait 0 0 2; let sent : RingSlot := { state := .full, phase := true }
    (Stands (lined a {} [9, 1]) 1 fun w x => wakes w x ∧ w.wait = some a ∧ turnA (lined a {} [9, 1]) x = true) ∧
    (Stands (lined a sent [1]) 1 fun w x => wakes w x ∧ w.wait = some a ∧ turnA (lined a sent [1]) x = false) ∧
    (Stands (lined t sent [9, 1]) 1 fun w x => wakes w x ∧ w.wait = some t ∧ turnT (lined t sent [9, 1]) x = true) ∧
    (Stands (lined t {} [1]) 1 fun w x => wakes w x ∧ w.wait = some t ∧ turnT (lined t {} [1]) x = false) ∧
    (∀ x ∈ [Wait.bar 0, .sracq 7 0 2, .srwait 0 1 2, .arrwait 0x40000000 0 2, .crsleep 0x40000000, .dlwait 0x100000009 2],
      Stands (waits x) 1 fun w c => w.wakeable = true ∧ w.nextPc.toNat < c.textLen ∧ w.wait = some x) ∧
    -- a debugger has moved the PC of a wave that waits to the last word of its text
    (Stands (inLast (waits (.bar 0))) 1 fun w x => w.wakeable = true ∧ x.textLen ≤ w.nextPc.toNat ∧ w.wait = some (.bar 0)) ∧
    Stands (onB st fun b => { b with rings := [[{ slots := [{ state := .acquired, bound := some (0x40000000, 0) }] }]] }) 1 fun w x =>
      w.wakeable = true ∧ w.nextPc.toNat < x.textLen ∧
        (((x.block.rings.getD 0 []).getD 0 {}).slot 0).bound = some (0x40000000, 0) ∧ x.block.placed = true := by
  refine ⟨stands_dec _ (by decide +kernel), stands_dec _ (by decide +kernel), stands_dec _ (by decide +kernel),
    stands_dec _ (by decide +kernel), ?_, stands_dec _ (by decide +kernel), stands_dec _ (by decide +kernel)⟩
  simp only [List.forall_mem_cons, List.not_mem_nil, IsEmpty.forall_iff, implies_true, and_true]
  exact ⟨stands_dec _ (by decide +kernel), stands_dec _ (by decide +kernel), stands_dec _ (by decide +kernel), stands_dec _ (by decide +kernel),
    stands_dec _ (by decide +kernel), stands_dec _ (by decide +kernel)⟩

/-- A copy operation, 9, whose lane 0 moves four bytes at a physical address. -/
def copied (k : CopyKind) (pa : Nat) : State :=
  let l : CopyLane := { lane := 0, local_ := 16, va := 0, pa := some (pa, 1), bytes := 4, whole := 4, data := [1, 2, 3, 4] }
  onW st fun w => { w with copies := [{ op := 9, tag := 1, kind := k, lanes := [l] }] }

theorem arrive_first {s : State} {c : Contribution} (h : s.seqs = []) (hi : c.index = 0) : ∃ t, s.arrive c = some t := by
  unfold State.arrive; simp [h, hi]

theorem wit_CompletionEvents :
    let lane := fun (w : Wave) (k : CopyKind) => match w.copyLane 9 0 with
      | some (c, l) => c.kind == k && l.pa.isSome && l.bytes == 4
      | none => false
    let peer := 2 ^ 51 + 5 * 2 ^ 40
    let queue := fun (op : TileOp) => onW sequencer fun w => { w with tiles := [op] }
    let joined := { copied .load peer with links := (List.range 22).map fun i => (i, { state := .authenticated }) }
    (Stands (loading st) 1 fun w _ => (w.loads.head?.map fun p => p.owed) = some false) ∧
    (Stands (onW st fun w => { w with loads := [{ writes := [], err := some { byte := 0, array := 3 } }] }) 1 fun w _ =>
      (w.loads.head?.any fun p => !p.owed && p.read == none && p.err.isSome) = true) ∧
    (Stands (storing st) 1 fun w _ => w.stores ≠ []) ∧
    (Stands joined 1 fun w _ => lane w .load = true ∧ joined.isPeer peer = true ∧
      (match w.copyLane 9 0 with
        | some p => p.2.unreached joined
        | none => true) = false) ∧
    (Stands (copied .store peer) 1 fun w _ => lane w .store = true ∧
      (match w.copyLane 9 0 with
        | some p => p.2.unreached (copied .store peer)
        | none => false) = true) ∧
    (Stands (copied .load 0x100000) 1 fun w _ => lane w .load = true ∧ (copied .load 0x100000).isPeer 0x100000 = false) ∧
    (Stands (copied .store 0x100000) 1 fun w _ => lane w .store = true) ∧
    (Stands (queue (.setph 63)) 1 fun w x => w.tiles = [.setph 63] ∧ w.drainWaits (queue (.setph 63)) = none ∧
      (tileEffect (queue (.setph 63)) w x (x.matrix w) (.setph 63)).isSome = true) ∧
    ∃ w x t, At (queue (.drain 0 0x80000000 .w32 .seq none 0x100000000 {})) 1 w x ∧
      w.tiles = [.drain 0 0x80000000 .w32 .seq none 0x100000000 {}] ∧
      w.drainWaits (queue (.drain 0 0x80000000 .w32 .seq none 0x100000000 {})) = none ∧
      (queue (.drain 0 0x80000000 .w32 .seq none 0x100000000 {})).arrive (drainContribution
        (queue (.drain 0 0x80000000 .w32 .seq none 0x100000000 {})) w x (x.matrix w) 0 0x80000000 none 0x100000000 {}) = some t := by
  refine ⟨stands_dec _ (by decide +kernel), stands_dec _ (by decide +kernel), stands_dec _ (by decide +kernel), stands_dec _ (by decide +kernel),
    stands_dec _ (by decide +kernel), stands_dec _ (by decide +kernel), stands_dec _ (by decide +kernel), stands_dec _ (by decide +kernel), ?_⟩
  obtain ⟨w, x, h, e⟩ : Stands (onW sequencer fun w => { w with tiles := [.drain 0 0x80000000 .w32 .seq none 0x100000000 {}] }) 1 fun w _ =>
    w.tiles = [.drain 0 0x80000000 .w32 .seq none 0x100000000 {}] := stands_dec _ (by decide +kernel)
  have dw : w.drainWaits (onW sequencer fun w => { w with tiles := [.drain 0 0x80000000 .w32 .seq none 0x100000000 {}] }) = none := by
    simp [Wave.drainWaits, e]
  obtain ⟨t, ht⟩ := arrive_first (s := onW sequencer fun w => { w with tiles := [.drain 0 0x80000000 .w32 .seq none 0x100000000 {}] })
    (c := drainContribution (onW sequencer fun w => { w with tiles := [.drain 0 0x80000000 .w32 .seq none 0x100000000 {}] }) w x
      (x.matrix w) 0 0x80000000 none 0x100000000 {}) rfl rfl
  exact ⟨w, x, t, h, e, dw, ht⟩

theorem wit_CollectionEvents :
    let copy := fun (k : CopyKind) (n : BitVec 128) => onW (region (pointed st)) fun w => { w with
      copies := [{ op := 9, tag := 1, kind := k, dom := 1, name := n, line := 0x40000000, rec_ := some 0x40000200 }] }
    let of := fun (w : Wave) (k : CopyKind) (p : PendCopy → Bool) => (w.collection 9 k).any p
    let gone := { copy .look 0 with regions := [] }
    (Stands (copy .look 0) 1 fun w _ => of w .look (fun c => c.result.isNone && ((copy .look 0).regionAt c.dom c.epoch).isSome) = true) ∧
    (Stands (onW (copy .look 0) fun w => { w with copies := w.copies.map fun c => { c with result := some (resultRecord 7 1 1) } }) 1
      fun w _ => of w .look (fun c => c.result.isSome) = true) ∧
    (Stands gone 1 fun w _ => of w .look (fun c => (gone.regionAt c.dom c.epoch).isNone) = true) ∧
    (Stands (copy .fetch 7) 1 fun w _ => of w .fetch (fun c => ((copy .fetch 7).fetchLine c).isSome && c.found.isNone && c.name == 7 &&
      ((copy .fetch 7).regionAt c.dom c.epoch).isSome) = true) ∧
    (Stands (copy .fetch 8) 1 fun w _ => of w .fetch (fun c => ((copy .fetch 8).fetchLine c).isNone && c.found.isNone) = true) ∧
    (Stands (copy .fetch 0) 1 fun w _ => of w .fetch (fun c => c.found.isNone && c.result.isNone && c.name == 0 &&
      ((copy .fetch 0).regionAt c.dom c.epoch).isSome) = true) ∧
    ({ st with cascades := [(1, 7)] } : State).cascades = [(1, 7)] ∧
    st.regions.get 1 = none ∧ (st.domain 1).live = true :=
  ⟨stands_dec _ (by decide +kernel), stands_dec _ (by decide +kernel), stands_dec _ (by decide +kernel), stands_dec _ (by decide +kernel), stands_dec _ (by decide +kernel),
    stands_dec _ (by decide +kernel), rfl, by decide +kernel, by decide +kernel⟩

/-! #### Engines, dispatch, queues -/

def walked (s : State) : State := { s with hbm := tables, hbmDom := tableDoms }

theorem wit_TranslationEvents :
    let ask : WalkReq := { core := 0, wave := 1, vas := [(0, 0x100)], need := .read }
    let one := fun (page : Nat) => (walked st).updDie 0 fun d => { d with walks := [⟨1, page, [ask]⟩] }
    let gone := fun (page : Nat) => (one page).updDie 0 fun d => { d with walks := d.walks.eraseIdx 0 }
    let inval := fun (r : Option (BitVec 64 × BitVec 64)) => { copied .load 0x100000 with invalidations := [⟨1, r⟩] }
    let hurt := (gone 0).uncorrectable { cause := .uncorrectable, ctx := 1, die := 0, flags := 2 } 4
    ((one 0).die 0).walks[0]? = some ⟨1, 0, [ask]⟩ ∧ ((gone 0).walk 1 0).isOk = true ∧
    (∀ byte ∈ [0, 39], (gone 0).walkMeets 1 0 (some byte) = true) ∧ (gone 0).walkMeets 1 0 (some 40) = false ∧
    (hurt.asks 0 ask = true) ∧
    ((walked st).updDie 0 fun d => { d with walks := [⟨1, 2 ^ 41, [ask]⟩] }).walk 1 (BitVec.ofNat 64 (2 ^ 41 * 65536)) = .error 1 ∧
    (((st.updCore 0 0 fun c => { c with stall := [⟨1, ask, 2, 0x100⟩] }).core 0 0).stall = [⟨1, ask, 2, 0x100⟩] ∧ st.frozen = false ∧
      ({ st with frozen := true, taking := some [] } : State).taking ≠ none) ∧
    ((inval none).invalidations[0]? = some ⟨1, none⟩ ∧ (inval none).copiesUnder ⟨1, none⟩ = true) ∧
    (inval (some (4, 0x1000))).copiesUnder ⟨1, some (4, 0x1000)⟩ = false := by decide +kernel

/-- A job card of the placed wave's context on its core: window addresses resolved by its block. -/
def carded (p : CardPhase) (bytes : List Byte) : State :=
  let win := (st.blocks.get 1).bind fun (b : Block) => (st.kernels.get 1).map fun (k : Kernel) => (b, k.desc)
  let c : Card := { die := 0, core := 0, ctx := 1, win := win, phase := p, bytes := bytes }
  { st with cards := [(9, c)] }

/-- The bytes of a card: kind, then the regions' descriptors, then the params. -/
def cardBytes (kind : Byte) (rs : List (Nat × Nat × Nat)) (params : List Byte) : List Byte :=
  let body := (rs.map fun r => leBytes 4 r.1 ++ leBytes 4 r.2.1 ++ leBytes 8 r.2.2).flatten
  kind :: List.replicate 31 0 ++ body ++ List.replicate (64 - body.length) 0 ++ params ++ List.replicate (32 - params.length) 0

theorem wit_CardEvents :
    let upd := fun (s : State) (f : Card → Card) => { s with cards := s.cards.upd 9 f }
    let move := cardBytes 1 [(2, 16, 0x40000000), (3, 16, 0x40000100)] []
    let out := cardBytes 1 [(0, 16, 2 ^ 57), (3, 16, 0x40000100)] []
    let line := cardBytes 4 [(3, 16, 0x40000100)] []
    let pick := cardBytes 2 [(2, 4, 0x40000000), (2, 2, 0x40000040), (3, 4, 0x40000080)] (leBytes 4 4 ++ leBytes 4 1)
    let all := cardBytes 3 [(2, 16, 0x40000000), (3, 16, 0x40000100)] (leBytes 4 4 ++ [1, 1, 0])
    let here := fun (s : State) (q : Card → Bool) => match s.cards.get 9 with
      | some c => q c
      | none => false
    let group := fun (s : State) (n : Nat) => { s with groups := [(0, { ctx := 1, members := [0, 1], pairs := n })] }
    let g : Group := { ctx := 1, members := [0, 1], pairs := 0 }
    let matched := { group (carded .read all) 1 with groups := [(0, { g with pairs := 1, compared := true })] }
    let slot := fun (s : State) => upd s fun c => { c with slot := some (1, []) }
    let other : PeerCard := ⟨1, 1, 1, 4, [0, 1]⟩
    let ready := fun (s : State) => here s fun c => c.phase == .read && !s.cardWaits 9 c
    let runs := fun (s : State) => here s fun c => c.phase == .running && c.kind != 3 && decide (c.moved < c.total)
    let moved := upd (carded .running move) fun c => { c with moved := 16 }
    (let s := (upd (carded .unread []) fun c => { c with wave := some 1 }).updCore 0 0 fun c => { c with unread := [9] }
     (s.core 0 0).unread == [9] && (s.waves.get 1).isSome && here s fun c => c.wave == some 1) = true ∧
    (ready (carded .read move) && here (carded .read move) fun c => !c.orphan (carded .read move) && c.ok (carded .read move) &&
      c.kind != 3) = true ∧
    (ready (slot (carded .read move)) && here (slot (carded .read move)) fun c => c.orphan (slot (carded .read move))) = true ∧
    (ready (carded .read []) && here (carded .read []) fun c => !c.orphan (carded .read []) && !c.ok (carded .read [])) = true ∧
    (let s := group (carded .read all) 0
     ready s && here s fun c => !c.orphan s && c.ok s && c.kind == 3 && c.group s == some g && !g.compared && g.members.length == 2 &&
      c.mismatch s g [{ other with count := 5 }] && !c.mismatch s g [other]) = true ∧
    (ready matched && here matched fun c => !c.orphan matched && c.ok matched && c.kind == 3 &&
      (c.group matched).any fun q => q.compared) = true ∧
    runs (carded .running move) = true ∧
    here moved (fun c => match (moved.cardPieces 9 ((c.total - c.moved + 4095) / 4096)).cards.get 9 with
      | some d => decide (d.total ≤ d.moved)
      | none => false) = true ∧
    here (carded .running pick) (fun c =>
      match ((carded .running pick).cardPieces 9 ((c.total - c.moved + 4095) / 4096)).cards.get 9 with
      | some d => decide (d.moved < d.total) &&
        d.byteAt ((carded .running pick).cardPieces 9 ((c.total - c.moved + 4095) / 4096)) d.moved == .bounds 0
      | none => false) = true ∧
    here (slot (carded .running line)) (fun c =>
      match ((slot (carded .running line)).cardPieces 9 ((c.total - c.moved + 4095) / 4096)).cards.get 9 with
      | some d => decide (d.moved < d.total) &&
        d.byteAt ((slot (carded .running line)).cardPieces 9 ((c.total - c.moved + 4095) / 4096)) d.moved == .gone
      | none => false) = true ∧
    (runs (carded .running out) && here (carded .running out) fun c => match c.byteAt (carded .running out) c.moved with
      | .fault _ _ _ => true
      | _ => false) = true ∧
    here (carded .faulted move) (fun c => c.phase == .faulted) = true ∧
    (let s := group (carded .running all) 1
     here s fun c => c.phase == .running && c.kind == 3 && (c.group s).isSome && c.regionFault s == none && c.regionWaits s == none &&
      c.srcs.isNone && okAnd (c.ownBytes s) fun own => own.length == 16 && own != [] &&
        ([List.replicate 16 (0 : Byte), []].set 1 own).all fun bs => bs.length == own.length) = true ∧
    (let s := upd (group (carded .running all) 1) fun c => { c with srcs := some [List.replicate 16 1, List.replicate 16 2] }
     here s fun c => c.phase == .running && c.kind == 3 && (c.group s).isSome && c.regionFault s == none && c.regionWaits s == none &&
      c.srcs.isSome && okAnd (c.ownBytes s) fun own => own != []) = true ∧
    (here (carded .read move) fun c => c.phase == .read && c.kind != 3) = true ∧
    (here (carded .read all) fun c => c.phase == .read && c.kind == 3 && !c.ok (carded .read all)) = true ∧
    (let s := group (carded .read all) 1
     here s fun c => c.phase == .read && c.kind == 3 && c.ok s) = true ∧
    -- the group has been compared: fewer members are there; all are, and one differs; members of other lengths
    (let one := { group (carded .read all) 1 with groups := [(0, { g with pairs := 1, compared := true })] }
     ready one && here one fun c => c.mismatch one g [{ other with members := [1, 0] }] && !c.mismatch one g [other]) = true ∧
    (let s := group (carded .running all) 1
     here s fun c => c.phase == .running && c.kind == 3 && c.srcs.isNone && (c.region 0).len != 3 &&
       ([[], List.replicate 3 0] : List (List Byte)).length == 2) = true ∧
    -- a collective card whose destination faults
    (let none_ := cardBytes 3 [(2, 16, 0x40000000), (1, 16, 2 ^ 57)] (leBytes 4 4 ++ [1, 1, 0])
     let s := group (carded .running none_) 1
     here s fun c => c.phase == .running && c.kind == 3 && (c.regionFault s).isSome) = true ∧
    -- a card whose record has begun to be written, as a fault and as an end
    (∀ status ∈ [2, 5], let s := upd (carded .running move) fun c => { c with verdict := some { status := status, code := 0 } }
      here s (fun c => c.verdict.isSome) = true) ∧
    (let s := (carded .unread []).updCore 0 0 fun c => { c with unread := [9, 4] }
     here s (fun c => c.phase == .unread && c.verdict.isNone) = true ∧ (s.core 0 0).unread.Nodup) := by decide +kernel

/-- A note that every check passes. -/
def goodNote : Note where
  owner := [0x48, 0x65, 0x6e, 0x61, 0x72, 0x64, 0]
  kind := 0x4b02
  desc := [2, 0, 0, 0, 0, 8, 0, 1] ++ List.replicate 48 0 ++ [0xff, 0xff, 0xff, 0xff, 1, 0, 0, 0]

theorem wit_LoaderAndGridEvents :
    let fixed : List ElfSection := fixedSections.map fun n => ⟨n, 1⟩
    let elf : Elf := { sections := [⟨[], 1⟩, ⟨textPrefix ++ [0x6b], 64⟩] ++ fixed, symbols := [[0x6b]] }
    let good : KernelImage := { note := some goodNote, name := [0x6b], place := 0x200000, text := List.replicate 12 0, data := [] }
    let ended := { onG st fun g => { g with phase := .retired } with
      kernels := st.kernels.map fun (e : Nat × Kernel) => (e.1, { e.2 with unloading := true }) }
    let hs := (ended.kernels.filter fun e => e.2.ctx == 1 && e.2.obj == 1 && e.2.unloading).map fun e => e.1
    let retiring := onG st fun g => { g with phase := .retiring }
    let batch := st.updDie 0 fun d => { d with gatherers := [{ ctx := 1, kernel := 1, grid := 1, filling := [[1]] }] }
    (noteCause elf { good with note := none } = some .loadNote ∧ noteCause { elf with sections := [] } good = some .loadNote) ∧
    (noteCause elf good = none ∧ (st.ctx 1).state.live = true ∧ isCodeObject elf [good] = true ∧
      (st.enterKernels 1 none false [good]).isSome = true) ∧
    (hs = [1] ∧ (ended.grids.all fun e => !hs.contains e.2.kernel || e.2.ended) = true) ∧
    (match retiring.grids.get 1 with
      | some g => g.phase == .retiring && (retiring.descendants 1).isEmpty
      | none => false) = true ∧
    (match (batch.die 0).gatherers[0]? with
      | some g => g.countdown == 0 && g.filling != [] && g.closed == [] && !g.unbound
      | none => false) = true := by decide +kernel

/-- Grid 3, of a second kernel, whose two blocks dispatch has begun to hand out; its context has a save pool. -/
def handing (s : State) : State :=
  { s with
    kernels := s.kernels.put 2 { ctx := 1, desc := { shared := 4096 }, text := List.replicate 24 0 }
    grids := s.grids.put 3 { ctx := 1, num := 3, serial := 3, kernel := 2, blocks := 2, threads := 8, phase := .dispatching }
    contexts := s.contexts.upd 1 fun c => { c with desc := { c.desc with poolSize := 64 } }
    queues := [(5, { phase := .opened, ctx := 1, header := 0x100 })] }

/-- An entry of queue 5 in the PIFO, with its packet's type. -/
def entry (kind : Byte) (g : Option Nat) (s : State) : State :=
  { s with pifo := [{ rank := 0, queue := 5, packet := kind :: List.replicate 63 0, grid := g }] }

/-- A LAUNCH packet for kernel 2, with one block of eight threads. -/
def launchPacket : List Byte := [1, 0, 0, 0, 2, 0, 0, 0, 0, 1, 8, 0, 1, 0, 0, 0] ++ List.replicate 48 (0 : Byte)

/-- A reserving launch, grid 3, waits in die 0's queue. -/
def launching (s : State) : State :=
  ({ handing s with kernels := (handing s).kernels.upd 2 fun k => { k with desc := { k.desc with reserve := some (20, 4, false) } } }).updDie 0
    fun d => { d with queue := [.reserving 3] }

/-- It runs, as block 4, with an admitted item. -/
def forming (s : State) : State :=
  ({ launching s with blocks := s.blocks.put 4 { grid := 3, phase := .admitted, cores := [1], alloc := [[0]], spill := [[]] } }).updDie 0
    fun d => { d with queue := [], former := some { grid := 3, block := 4, home := 1, next := 8, admitted := [{ index := 2 }, { index := 3 }] } }

theorem wit_DispatchEvents :
    let fresh := { handing st with pifo := [{ rank := 0, queue := 5, packet := launchPacket }] }
    let head := entry 1 (some 3) (handing st)
    let waiting := { (onG (handing st) id) with
      coopWaiting := some 3, grids := (handing st).grids.upd 3 fun g => { g with coop := true } }
    let queue := ((handing st).pushBlock 0 3 0)
    let at_ := queue.intake 0
    let block := st.newKey.1
    let res := (launching st).intake 0
    let isSome := fun (p : State → Option Bool) (s : State) => p s == some true
    isSome (fun s => do
      let e ← s.pifoHead
      let g ← (s.acceptLaunch e).1
      pure (e.kind == 1 && g == s.fresh && e.queue == 5)) fresh = true ∧
    isSome (fun s => do
      let e ← s.pifoHead
      let q ← s.queues.get e.queue
      pure (e.kind == 1 && e.grid.isNone && !s.packetOk q.ctx e.packet))
      (entry 1 none (handing st)) = true ∧
    isSome (fun s => do
      let e ← s.pifoHead
      let gk ← e.grid
      let g ← s.grids.get gk
      let d ← s.turnOrder.find? fun d => decide (0 < (s.die d).report)
      pure (g.phase == .dispatching && !g.coop && !s.heldByCoop g && d == 0)) head = true ∧
    isSome (fun s => do
      let g ← s.grids.get 3
      let k ← s.kernels.get g.kernel
      let ps ← s.coopPlan k.desc g
      let g' := { g with phase := .running, next := g.blocks, barriers := [], record := none }
      let shape := blockShape k.desc g.threads g.span
      let t ← (s.setGrid 3 g').placeAll 3 g' k shape 0 ps [[⟨[9], []⟩], [⟨[1], []⟩]] [0, 32768]
      pure (recordsFit (s.poolBytes g.ctx) (s.poolRecords g.ctx) (ps.map fun p => recordSize k.desc shape p.2.length) && s.coopWaiting == some 3 && !s.frozen && s.admitting g.ctx && k.desc.gridBarriers == 0 && t.blocks.length == 3)) waiting = true ∧
    isSome (fun t => do
      let b ← t.blocks.get block
      let e ← t.entryKernel (.block block)
      let shape := gridShape e.2.desc e.1 b
      let cores ← t.placement (some (.block block)) e.1.ctx (levelOf e.1.rank) 0 e.1.span e.2.desc shape
      let size := recordSize e.2.desc shape e.1.span
      pure (t.candidate 0 == some (.block block) && b.phase == .pending && t.poolRoom e.1.ctx size &&
        t.shareGranulesOk 0 cores e.2.desc shape [⟨[9], []⟩] && t.recordOk e.1.ctx 0 size)) at_ = true ∧
    isSome (fun t => do
      let g ← t.grids.get 3
      let e ← t.entryKernel (.reserving 3)
      pure (t.candidate 0 == some (.reserving 3) && t.fitsOn (some (.reserving 3)) g.ctx (levelOf g.rank) 0 47
          { granules := e.2.desc.alloc / 4096 } && t.granulesOk 0 47 (e.2.desc.alloc / 4096) 0 ⟨[767], []⟩ &&
        t.poolRoom g.ctx (launchRecordSize e.2.desc 0) && t.recordOk g.ctx 0 (launchRecordSize e.2.desc 0))) res = true ∧
    isSome (fun t => do
      let (f, b, g, k) ← t.launchOf 0
      let v ← t.growRecord f.block b g k.desc 0
      pure (t.claimDue f k.desc && t.waveFits 0 47 g k.desc [] && !v.blocks.isEmpty)) ((forming st).formBodies 0) = true ∧
    isSome (fun t => do
      let (f, b, g, k) ← t.launchOf 0
      let v ← t.growRecord f.block b g k.desc 0
      let is ← f.ready.head?
      pure (t.waveFits 0 47 g k.desc [] && is.length == 2 && !v.blocks.isEmpty))
      (((forming st).updDie 0 fun d => { d with former := d.former.map fun f => { f with next := 20 } }).formBodies 0) = true ∧
    isSome (fun s => do
      let e ← s.pifo.find? fun e => e.queue == 5
      pure (e.grid == none)) fresh = true ∧
    [(0 : BitVec 32)].all rankStepOk = true := by decide +kernel

/-- Context 1's tables, and behind them a queue's header at virtual address 0x100 and its 64 slots at 0x400: an open
queue, number 5, with the indices write, read, doorbell. -/
def served (wr rd db : Byte) (slot : List Byte) (s : State) : State :=
  let hdr := leBytes 16 0 ++ leBytes 4 5 ++ leBytes 4 64 ++ leBytes 8 0x400 ++ [wr, 0, 0, 0, rd, 0, 0, 3, db, 0, 0] ++ leBytes 21 0
  { handing s with
    hbm := tables ++ (hbmAt 0x100100 hdr ++ hbmAt 0x100400 slot).filter fun _ => true
    hbmDom := tableDoms ++ domAt 0x100100 64 1 ++ domAt 0x100400 64 1
    queues := [(5, { phase := .opened, ctx := 1, header := 0x100, session := some 3 })]
    links := [(0, { state := .authenticated, lanes := 4, session := some 3 })] }

theorem leNat_tag (t : BitVec 64) : leNat (leBytes 8 t.toNat) = t.toNat := by
  have h := t.isLt
  simp only [leNat, leBytes, List.range, List.range.loop, List.map, List.foldr, BitVec.toNat_ofNat, Nat.shiftRight_eq_div_pow]
  omega

/-- A notify's 64 bytes with a tag over the first 56. -/
def notifyBytes (nonce : Byte) (tag : List Byte → BitVec 64) : List Byte :=
  let b := leBytes 4 0 ++ leBytes 4 5 ++ [2, 0, 0] ++ leBytes 37 0 ++ nonce :: leBytes 7 0
  b ++ leBytes 8 (tag b).toNat

theorem notify_fields (tag : List Byte → BitVec 64) {b : List Byte} {n : Nat} (h : b.length = n) :
    let bs := b ++ leBytes 8 (tag b).toNat
    (∀ lo k, lo + k ≤ n → leField bs lo k = leField b lo k) ∧ leField bs n 8 = (tag (bs.take n)).toNat ∧ bs.length = n + 8 := by
  subst h
  refine ⟨fun lo k hk => ?_, ?_, by simp [leBytes]⟩
  · unfold leField
    rw [List.drop_append_of_le_length (by omega), List.take_append_of_le_length (by simp; omega)]
  · rw [List.take_left' rfl]
    unfold leField
    rw [List.drop_left' rfl, List.take_of_length_le (by simp [leBytes]), leNat_tag]

theorem wit_QueueTrafficEvents :
    let at_ := fun (s : State) (p : Queue → Bool) => match s.queues.get 5 with
      | some q => p q
      | none => false
    let full := served 64 0 0 [] st; let open_ := served 2 0 0 [] st
    let take := fun (s : State) (p : Queue → List Byte → Bool) => at_ s fun q =>
      s.served q && s.qLive q && !q.stopped && s.pifo.isEmpty && s.qRead q != s.qDoorbell q &&
      match s.translateNow q.ctx (s.slotVa q (s.qRead q)) .readWrite with
      | .ok pa dom _ => p q (s.memReads dom pa 64)
      | _ => false
    (at_ open_ fun q => !open_.qGone q) = true ∧ (at_ full fun q => !full.qGone q) = true ∧
    (at_ open_ fun q => open_.hdr q 32 8 == 3 * 2 ^ 56 + 2 && (claimOutcome (leBytes 24 (open_.hdr q 16 24)) 62).2.2 == some 64) = true ∧
    (at_ full fun q => (claimOutcome (leBytes 24 (full.hdr q 16 24)) 1).2.2 == none) = true ∧
    (at_ open_ fun q => (open_.link 0).carries 3 && q.phase != .created && q.session == some 3 && q.nonce == none && q.key == 0) = true ∧
    (∀ key, let bs := notifyBytes 1 (Config.notifyTag key)
      bs.length = 64 ∧ leField bs 4 4 = 5 ∧ leField bs 56 8 = (Config.notifyTag key (bs.take 56)).toNat ∧ leField bs 48 8 = 1 ∧
      leField bs 0 4 = 0 ∧ leField bs 11 1 = 0 ∧ leField bs 12 36 = 0) ∧
    (let bs := notifyBytes 0 fun _ => 0
     bs.length = 64 ∧ leField bs 4 4 = 5 ∧ leField bs 48 8 ≤ 0) ∧
    (take (served 2 0 1 (List.replicate 64 0) st) fun _ bs => leField bs 0 1 == 0) = true ∧
    (take (served 2 0 1 (9 :: List.replicate 63 0) st) fun q bs =>
      leField bs 0 1 != 0 && ((served 2 0 1 (9 :: List.replicate 63 0) st).packetCause q.ctx bs).isSome) = true ∧
    (take (served 2 0 1 launchPacket st) fun q bs => leField bs 0 1 != 0 && (served 2 0 1 launchPacket st).packetCause q.ctx bs == none) = true := by
  refine ⟨by decide +kernel, by decide +kernel, by decide +kernel, by decide +kernel, by decide +kernel, fun key => ?_, by decide +kernel,
    by decide +kernel, by decide +kernel, by decide +kernel⟩
  have d := notify_fields (Config.notifyTag key) (n := 56) (b := leBytes 4 0 ++ leBytes 4 5 ++ [2, 0, 0] ++ leBytes 37 0 ++ 1 :: leBytes 7 0)
  refine ⟨(d rfl).2.2, ?_, (d rfl).2.1, ?_, ?_, ?_, ?_⟩ <;> (unfold notifyBytes; rw [(d rfl).1 _ _ (by decide)]; decide)

/-- A packet: its type, then its bytes from the second on. -/
def pkt (kind : Byte) (bs : List Byte) : List Byte := kind :: bs ++ List.replicate (63 - bs.length) 0

/-- The packet alone in the PIFO. -/
def packeted (p : List Byte) : State :=
  let s := served 2 0 1 (List.replicate 64 0) st
  { s with pifo := [{ rank := 0, queue := 5, packet := p }]
           kernels := s.kernels.put 2 { ctx := 1, desc := { node := some (4, 16, 1000) }, text := List.replicate 24 0 } }

theorem wit_PacketEvents :
    let fits := fun (s : State) (kind : Nat) (p : Queue → PifoEntry → Bool) =>
      match s.queues.get 5, s.pifo.find? fun f => f.queue == 5 && f.kind == kind with
      | some q, some e => e.kind == kind && !s.frozen && s.packetCause q.ctx e.packet == none && p q e
      | _, _ => false
    let head := fun (s : State) => s.pifoHead.map (fun h => h.queue) == some 5
    let node := packeted (pkt 2 ([0, 0, 0, 0, 0, 0, 0, 0, 0, 16, 0, 2, 0, 0, 0] ++ leBytes 8 0x400))
    let copy := packeted (pkt 3 ([0, 0, 0, 3, 0, 0, 0] ++ leBytes 8 0x480))
    let signal := fun (k : Byte) => packeted (pkt k ([0, 0, 0, 1, 0, 0, 0] ++ leBytes 8 0x408))
    let write := packeted (pkt 6 ([0, 0, 0, 0, 0, 0, 0] ++ leBytes 8 0x408 ++ leBytes 8 7 ++ leBytes 8 0x410))
    let barrier := packeted (pkt 7 [])
    let late := { node with
      pifo := node.pifo.map (fun e => { e with rank := 1 }) ++ node.pifo.map fun e => { e with queue := 6, packet := pkt 4 [] }
      queues := node.queues ++ [(6, { phase := .opened, ctx := 1, header := 0x100 })] }
    (fits node 2 fun q e => node.leads e && (node.nodeOfPacket q.ctx e.packet).isSome) = true ∧
    (fits late 2 fun _ e => !late.leads e) = true ∧
    (fits copy 3 fun _ e => head copy && decide ((copy.core (leField e.packet 4 1) 0).unread.length < 16)) = true ∧
    (fits (signal 4) 4 fun _ _ => head (signal 4)) = true ∧
    (fits write 6 fun q e => head write && match write.translateNow q.ctx (packetAddr e.packet 8) .write with
      | .ok _ _ _ => true
      | _ => false) = true ∧
    (fits (packeted (pkt 5 ([0, 0, 0, 0, 0, 0, 0] ++ leBytes 8 0x408))) 5 fun q e =>
      (packeted (pkt 5 ([0, 0, 0, 0, 0, 0, 0] ++ leBytes 8 0x408))).waitHolds q.ctx e.packet) = true ∧
    (fits (packeted (pkt 5 ([0, 0, 0, 1, 0, 0, 0] ++ leBytes 8 0x408 ++ leBytes 8 77))) 5 fun q e =>
      !(packeted (pkt 5 ([0, 0, 0, 1, 0, 0, 0] ++ leBytes 8 0x408 ++ leBytes 8 77))).waitHolds q.ctx e.packet) = true ∧
    (fits barrier 7 fun q _ => q.grids.isEmpty && q.cards.isEmpty) = true := by decide +kernel

/-- Page 0 shared by the device; and the queue's header with the state byte of a destroyed queue. -/
def wide (s : State) : State := { s with hbm := s.hbm.map fun c => if c.1 = 0x4900 then (c.1, 0x4f) else c }
def dead (s : State) : State := { s with hbm := s.hbm.map fun c => if c.1 = 0x100127 then (c.1, 0) else c }

theorem wit_QueueStateEvents :
    let phase := fun (p : QueuePhase) (s : State) => { s with queues := s.queues.upd 5 fun q => { q with phase := p } }
    let is := fun (s : State) (p : Queue → Bool) => match s.queues.get 5 with
      | some q => p q
      | none => false
    let idle := served 2 1 1 [] st
    (idle.queues.get 4095 = none ∧ (idle.ctx 1).state.live = true ∧ entriesOk 65536 = true ∧
      (match (wide idle).translateNow 1 0x2000 .readWrite with
      | .ok _ _ sh => sh != 0
      | _ => false) = true ∧
      (match idle.translateNow 1 0x2000 .readWrite with
      | .ok _ _ sh => sh == 0
      | _ => false) = true) ∧
    (is idle fun q => !idle.qGone q) = true ∧ (is (dead idle) fun q => (dead idle).qGone q) = true ∧
    (let s := { phase .created idle with rankPrograms := [(0, [0])] }
     (is s fun q => q.phase == .created && q.ctx == 1) = true ∧ s.rankPrograms.get 0 ≠ none) ∧
    (∀ p, (is (phase p idle) fun q => q.phase == p) = true) ∧
    (let t := phase .draining idle
     is t fun q => q.phase == .draining && !(t.qCount q 44 (idxSub (t.qWrite q) (t.qDoorbell q))).qGone q) = true ∧
    (is (phase .draining (served 2 2 2 [] st)) fun q => q.phase == .draining &&
      (phase .draining (served 2 2 2 [] st)).qRead q == (phase .draining (served 2 2 2 [] st)).qWrite q) = true := by
  refine ⟨by decide +kernel, by decide +kernel, by decide +kernel, by decide +kernel, fun p => ?_, by decide +kernel, by decide +kernel⟩
  cases p <;> decide +kernel

/-- Block 1 in a phase, with its grid's kernel of no rings. -/
def phased (p : BlockPhase) (s : State) : State := onB (handing s) fun b => { b with phase := p }

theorem wit_PreemptionEvents :
    let on := fun (s : State) (key : Nat) (p : Block → Grid → Kernel → Bool) =>
      match s.blocks.get key with
      | none => false
      | some b => match s.grids.get b.grid with
        | none => false
        | some g => match s.kernels.get g.kernel with
          | none => false
          | some k => p b g k
    let spent := onB (phased .draining st) fun b => { b with drained := 150000 }
    let calm := fun (s : State) (key : Nat) (b : Block) => !b.ending && !s.retires key b && s.drainedBlock key && s.unstalled key b
    let away := (onW (onB (onG (phased .saved st) fun g => { g with barriers := [] }) fun b => { b with alloc := [], spill := [] }) fun w => { w with saved := true }).updDie 0
      fun d => { d with queue := [.block 1] }
    let joint := onG away fun g => { g with barriers := List.replicate 1 {} }
    let quiet := { phased .running st with waves := [] }
    (on spent 1 fun b g _ => b.phase == .draining && decide ((spent.ctx g.ctx).desc.drainBudget.toNat ≤ b.drained) &&
      !spent.retires 1 b) = true ∧
    (on (phased .saving st) 1 fun b g k => b.phase == .saving && calm (phased .saving st) 1 b &&
      (phased .saving st).bindingsPosted b k.desc ((phased .saving st).ownDom g.ctx)) = true ∧
    (on (away.reread 1) 1 fun b g k => b.phase == .saved && b.die == 0 && (away.reread 1).candidate 0 == some (.block 1) && !b.ending &&
      g.barriers == [] && k.desc.reserve.isNone && (away.reread 1).resumeCores 0 1 b g k b.cores &&
      (away.reread 1).shareGranulesOk 0 b.cores k.desc ((away.reread 1).shapeNow 1 b g k)
        [⟨[1], (List.range 8).map fun i => i + 2⟩]) = true ∧
    (on joint 1 fun b g _ => b.die == 0 && !g.barriers.isEmpty && (joint.blocks.all fun e => e.2.grid != b.grid || e.2.phase != .saving) &&
      (joint.resumeAll (joint.savedOf b.grid) [0] [⟨[1], (List.range 8).map fun i => i + 2⟩]).isSome) = true ∧
    (on (phased .flushing st) 1 fun b _ _ => b.phase == .flushing && calm (phased .flushing st) 1 b) = true ∧
    (on quiet 1 fun b g k => quiet.retirable 1 b k.desc && g.phase != .cancelled) = true ∧
    (let s := st.updDie 0 fun d => { d with slices := [(1, 3000000)] }
     (s.intake 0).waitingOther 0 1 == none && decide (0 < (s.ctx 1).desc.slice.toNat) && decide ((s.ctx 1).desc.slice.toNat ≤ (((s.die 0).slices.get 1).getD 0)) &&
      ((s.intake 0).die 0).queue.isEmpty) = true ∧
    (on (away.reread 1) 1 fun _ _ _ => (away.reread 1).resumeHead 0 1) = true ∧
    ((st.die 0).slices.get 1).getD 0 < (st.ctx 1).desc.slice.toNat := by decide +kernel

/-- Block 60, of grid 3, waits for the whole of a group of eight cores; a core of every group of die 0 holds a block, that
of the last one of a less urgent grid. -/
def crowded : State :=
  let held := fun (c : Nat) => (c + 1, { placedBlock with
    cores := [8 * c + 7], barriers := [], rings := [], matrix := [], grid := if c = 5 then 1 else 3 })
  ({ handing st with
    grids := ((handing st).grids.upd 1 fun g => { g with rank := 0xfffff }).upd 3 fun g => { g with span := 8, threads := 64 }
    kernels := (handing st).kernels.put 2 { ctx := 1, desc := { shared := 0x300000 }, text := List.replicate 24 0 }
    blocks := (List.range 6).map held
    waves := (handing st).waves.flatMap fun (e : Nat × Wave) => (List.range 6).map fun c => (c + 1, { e.2 with block := c + 1 })
    fresh := 60 }.pushBlock 0 3 0).intake 0

theorem wit_PreemptionEvents_request :
    (match crowded.entryOf 0 60, crowded.entryGrid (.block 60) with
    | some q, some gk => q == .block 60 && crowded.queueHead 0 == some q && crowded.stands 0 q && !crowded.entryFits 0 q &&
      (crowded.die 0).reserved.isEmpty && (crowded.victimSet 0 q gk).any fun vs => vs.1 == [6]
    | _, _ => false) = true ∧
    (let s := { st with coopWaiting := some 9 }
     s.entryOf 0 9 = none ∧ s.coopWaiting = some 9) := by decide +kernel

/-- A wave faulted with a cause. -/
def faulted (c : Cause) (s : State) : State := onW s fun w => { w with phase := .faulted, fault := some { cause := c, ctx := 1 } }

/-- The placed wave's context in a state. -/
def ctxIn (p : CtxState) : State := st.updCtx 1 fun c => { c with state := p }

theorem wit_ContextEvents :
    let fresh := { State.reset with startRec := { State.reset.startRec with started := true } }
    let many := { ctxIn .standby with
      contexts := (ctxIn .standby).contexts ++ (List.range 64).map fun i => (i + 2, ({ state := .resident } : Context)) }
    let empty := fun (p : CtxState) => { ctxIn p with blocks := [] }
    ((fresh.ctx 255).state = .free ∧ fresh.startRec.started = true ∧ fresh.descOk { ownDomain := 1023, shared := [1, 0xffff, 2, 0xffff] } = true) ∧
    ((ctxIn .standby).ctx 1).state = .standby ∧ (ctxIn .standby).residents < 64 ∧ ((ctxIn .created).ctx 1).state = .created ∧
    ((many.ctx 1).state = .standby ∧ 64 ≤ many.residents) ∧
    ((st.ctx 1).state = .resident ∧ st.onCompute 1 = true ∧ (empty .resident).onCompute 1 = false) ∧
    (((ctxIn .ending).ctx 1).state = .ending ∧ (ctxIn .ending).onCompute 1 = true ∧ ((empty .ending).ctx 1).state = .ending ∧
      (empty .ending).onCompute 1 = false) ∧
    ((st.ctx 1).state.live = true ∧ ((st.beginEnd 1).ctx 1).state = .ending ∧ st.poolRecords 1 = []) ∧
    (let s := { st.updCtx 1 fun c => { c with debug := some { agent := 7 } } with blocks := [] }
     (s.ctx 1).state.live = true ∧ (s.ctx 1).debug ≠ none ∧ s.onCompute 1 = false) ∧
    (State.reset.startRec.started = false ∧ (st.ctx 1).state ≠ .free ∧ fresh.descOk { ownDomain := 1024 } = false ∧
      (st.ctx 1).state ≠ .created ∧ (st.ctx 1).state ≠ .standby ∧ (fresh.ctx 0).state ≠ .resident ∧ (fresh.ctx 0).state.live = false) ∧
    -- slot 4 is free, domain 9 no context's own; slot 1 holds domain 9, which context 2 has attached too, or none beside this one
    (let shares := fun (l : List (BitVec 16)) => st.updCtx 1 fun c => { c with desc := { c.desc with shared := l } }
     let s := shares [9, 0xffff, 0xffff, 0xffff]
     let t := s.setCtx 2 { state := .standby, desc := { ownDomain := 2, shared := [0xffff, 9, 0xffff, 0xffff] } }
     ((s.ctx 1).state.live = true ∧ (s.ctx 1).desc.shared.getD 3 0 = 0xffff ∧ s.sharable 9 = true) ∧
     ((s.ctx 1).desc.shared.getD 0 0xffff = 9 ∧ s.lastAttached 1 = [9] ∧ t.lastAttached 1 = [] ∧
       (s.ctx 1).desc.attached = [9])) ∧
    st.writeDesc 1 (.slice 0) = none := by decide +kernel

theorem wit_FaultChoiceEvents :
    (∀ c ∈ [Cause.trap, .pageFault], Stands (faulted c st) 1 fun w x =>
      w.fault = some { cause := c, ctx := 1 } ∧ w.phase = .faulted ∧ (faulted c st).mayTake x.grid.ctx 1 = true ∧ x.block.ending = false ∧
        x.pcOk 12 = true ∧ x.pcOk 13 = false ∧ x.pcOk w.nextPc = true) ∧
    (let s := onW (faulted .trap st) fun w => { w with pc := 0x7ffffff4 }
     Stands s 1 fun w x => w.fault = some { cause := .trap, ctx := 1 } ∧ w.phase = .faulted ∧ s.mayTake x.grid.ctx 1 = true ∧
      x.block.ending = false ∧ x.pcOk w.nextPc = false) ∧
    -- a saved wave; and, while dispatch is frozen, one that a restarted Curator takes next, and one that it does not
    (let s := onW (phased .saved (faulted .trap st)) fun w => { w with saved := true }
     Stands s 1 fun w x => w.saved = true ∧ w.fault = some { cause := .trap, ctx := 1 } ∧ w.phase = .faulted ∧
      s.mayTake x.grid.ctx 1 = true ∧ x.block.ending = false ∧ x.pcOk 13 = false) ∧
    (let s := { faulted .trap st with frozen := true, taking := some [1] }
     Stands s 1 fun w x => w.phase = .faulted ∧ s.mayTake x.grid.ctx 1 = true ∧ x.block.ending = false) ∧
    (let s := { faulted .trap st with frozen := true }
     Stands s 1 fun _ x => s.mayTake x.grid.ctx 1 = false) ∧
    Cause.trap.trapClass = true ∧ Cause.pageFault.trapClass = false := by
  refine ⟨?_, stands_dec _ (by decide +kernel), stands_dec _ (by decide +kernel), stands_dec _ (by decide +kernel),
    stands_dec _ (by decide +kernel), rfl, rfl⟩
  simp only [List.forall_mem_cons, List.not_mem_nil, IsEmpty.forall_iff, implies_true, and_true]
  exact ⟨stands_dec _ (by decide +kernel), stands_dec _ (by decide +kernel)⟩

theorem wit_SupervisorEvents :
    let beat := fun (n : Nat) => { st with threads := [{ lastRead := some 0, unchanged := n }, {}, {}, {}] }
    let beaten := fun (n : Nat) => { beat n with threads := (beat n).threads.modify 0 fun p => { p with beat := p.beat + 1 } }
    (∀ n ∈ [2, 1], ((beat n).threads.getD 0 {}).silent = false ∧ (beat n).frozen = false ∧ (beaten n).watched 0 = some 1 ∧
      ((beaten n).threads.getD 1 {}).beat = 0 ∧ ((beat n).threads.getD 0 {}).lastRead = some 0) ∧
    (let s := { st with frozen := true, restarts := 1 }
     s.frozen = true ∧ s.restarts ≠ 0 ∧ ({ s with restarts := 0 } : State).restarts = 0) ∧
    (let s := { faulted .trap st with frozen := true, taking := some [1] }
     s.taking ≠ none ∧ s.heldIn 1 1 = true ∧ ({ st with frozen := true, taking := some [1] } : State).heldIn 1 1 = false ∧
       (st.cores.all fun e => e.2.stall.isEmpty) = true ∧
       ((st.updCore 0 0 fun c => { c with stall := [⟨1, { core := 0, wave := 1, vas := [], need := .read }, 2, 0⟩] }).cores.any fun e =>
         !e.2.stall.isEmpty) = true) ∧
    (supLds 0xcbefffff 1 = some 0xbefffff ∧ st.replayingOn (dieOf 0xbefffff) (coreOf 0xbefffff) = false ∧
      st.coreContexts (dieOf 0xbefffff) (coreOf 0xbefffff) = []) ∧
    -- a replay at one core of context 1, and a store of another one of its cores
    (let s := st.updCore 0 1 fun c => { c with replay := some { ctx := 1, replay := some {
       stop := { die := 0, core := 1, wave := 2, interval := 1, accn := 0 }, view := {}, ahead := [] } } }
     supLds 0xc0000000 1 = some 0 ∧ s.replayingOn 0 0 = false ∧ 1 ∈ s.coreContexts 0 0 ∧ s.ctxReplaying 1 = true ∧
       s.replayingDom (s.ownDom 1) = true ∧ 1 ∈ st.coreContexts 0 0 ∧ st.ctxReplaying 1 = false) ∧
    st.replayingDom 0 = false ∧ supLds 0xcc000000 1 = none ∧ supLds 0xcbefffff 2 = none := by decide +kernel

/-- A debugger is attached to the placed wave's context. -/
def watched (s : State) : State := s.updCtx 1 fun c => { c with debug := some { agent := 7, attached := true, period := some 1024 } }
def halting (s : State) : State := onW (watched s) fun w => { w with halted := true }
def sealed1 (s : State) : State := s.updCtx 1 fun c => { c with desc := { c.desc with flags := 4 } }

theorem wit_DebugEvents :
    let pre := fun (s : State) (p : Wave → WCtx → Bool) => Stands s 1 fun w x => p w x = true
    let writes := fun (s : State) (w : Wave) (x : WCtx) => [DbgWrite.laneReg 7 255 9, .spill 0 0 []].all fun wr =>
      ((s.rouseIsland w).debugPut 1 w x wr).isSome
    let last := fun s => onW s fun w => { w with atBrkpt := true, pc := 0x7ffffff4 }
    let replayed := fun (ahead : List LogStep) => (halting st).updCore 0 0 fun c => { c with replay := some { ctx := 1, replay := some {
      stop := { die := 0, core := 0, wave := 1, interval := 1, accn := 0 }, view := st.coreImage 0 0, ahead := ahead, mode := .held
      reached := true } } }
    let later : LogStep := { turn := .issue 1, counters := {}, inputs := {} }
    let away := onW (watched st) fun w => { w with saved := true }
    let right : DebugRight := { agent := 7, attached := true, period := some 1024 }
    (sealed1 st).sealedCtx 1 = true ∧
    (st.sealedCtx 1 = false ∧ (st.ctx 1).state.live = true ∧ (st.ctx 1).debug = none ∧ st.owns 1 0 = true ∧ st.owns 1 7 = false) ∧
    (((watched st).ctx 1).debug = some right ∧ (watched st).sealedCtx 1 = false ∧
      (match (watched st).kernels.get 1 with
      | some k => k.ctx == 1 && decide (1200 < k.text.length)
      | none => false) = true) ∧
    (match (watched st).sampleNext 0 0 1 with
      | some (n, w) => n == 1 && ((watched st).wctx w).isSome && ((watched st).core 0 0).replay == none
      | none => false) = true ∧
    pre (onW (halting st) fun w => { w with haltReq := true }) (fun w _ => w.halted && w.haltReq && w.loads.isEmpty) ∧
    pre st (fun _ x => !st.attached x.grid.ctx) ∧
    pre (watched st) (fun w x => (watched st).attached x.grid.ctx && w.alive && !w.halted) ∧
    pre (halting st) (fun w x => (halting st).attached x.grid.ctx && w.halted && !(halting st).replayingWave w && !w.haltReq &&
      w.phase != .faulted && !w.atBrkpt && (halting st).debuggable w x && (halting st).replayView 1 == none &&
      !(halting st).ctxReplaying x.grid.ctx && !(halting st).breakHere w x && writes (halting st) w x) ∧
    (let s := (halting st).updCtx 1 fun c => { c with debug := some { right with breakpoints := [(1, 0)] } }
     pre s fun w x => s.attached x.grid.ctx && w.halted && w.wait == none && x.grid.kernel == 1 && w.pc == 0 && s.breakHere w x) ∧
    -- a replay goes on at another core of the context
    (let s := (halting st).updCore 0 1 fun c => { c with replay := some { ctx := 1, replay := some {
       stop := { die := 0, core := 1, wave := 2, interval := 1, accn := 0 }, view := {}, ahead := [] } } }
     pre s fun w x => s.replayView 1 == none && s.ctxReplaying x.grid.ctx && !s.replayingWave w && s.attached x.grid.ctx && w.halted) ∧
    pre away (fun w x => w.saved && away.debuggable w x && !away.ctxReplaying x.grid.ctx && writes away w x) ∧
    pre (last (halting st)) (fun w x => (last (halting st)).attached x.grid.ctx && w.halted && !(last (halting st)).replayingWave w &&
      !w.haltReq && w.phase != .faulted && w.atBrkpt && !x.pcOk w.nextPc) ∧
    pre (replayed [later]) (fun w x => (replayed [later]).attached x.grid.ctx && w.halted && (replayed [later]).replayingWave w &&
      ((replayed [later]).replayView 1).isSome && ((replayed [later]).replayStep 1).isSome) ∧
    pre (replayed []) (fun _ _ => ((replayed []).replayView 1).isSome && ((replayed []).replayStep 1).isNone) ∧
    -- a replay at whose boundary the wave was not there yet
    (let s := replayed []
     let t := s.updCore 0 0 fun c => { c with replay := c.replay.map fun r => { r with replay := r.replay.map fun p =>
      { p with view := { p.view with waves := [] } } } }
     pre t fun w x => t.attached x.grid.ctx && w.halted && t.replayingWave w && (t.replayView 1).isNone) ∧
    (let s := onW (halting st) fun w => { w with atBrkpt := true }
     pre s fun w x => s.attached x.grid.ctx && w.halted && !s.replayingWave w && !w.haltReq && w.phase != .faulted && w.atBrkpt &&
       x.pcOk w.nextPc) ∧
    (let s := faulted .trap st
     pre s fun w x => !s.attached x.grid.ctx && !s.debuggable w x && w.phase == .faulted && !w.saved && !s.ctxReplaying x.grid.ctx &&
       writes s w x && !spillWrite (.laneReg 7 255 9) && spillWrite (.spill 0 0 [])) ∧
    (let s := onW (faulted .trap st) fun w => { w with saved := true }
     pre s fun w x => !s.debuggable w x && w.phase == .faulted && w.saved && !s.ctxReplaying x.grid.ctx && writes s w x) ∧
    (let f : Folio := { ctx := 1, traceId := 1, sequence := 0, records := [] }
     ({ st with staging := [f] } : State).staging = f :: [] ∧ st.archiveUp = true ∧
       ({ st with startRec := { steps := List.replicate 10 4 } } : State).archiveUp = false) :=
  ⟨by decide +kernel, by decide +kernel, by decide +kernel, by decide +kernel, stands_dec _ (by decide +kernel),
    stands_dec _ (by decide +kernel), stands_dec _ (by decide +kernel), stands_dec _ (by decide +kernel),
    stands_dec _ (by decide +kernel), stands_dec _ (by decide +kernel), stands_dec _ (by decide +kernel),
    stands_dec _ (by decide +kernel), stands_dec _ (by decide +kernel), stands_dec _ (by decide +kernel), stands_dec _ (by decide +kernel),
    stands_dec _ (by decide +kernel), stands_dec _ (by decide +kernel), stands_dec _ (by decide +kernel), by decide +kernel⟩

theorem wit_LinkEvents :
    let on := fun (p : Nat) (l : Link) => ({ st with links := [(p, l)] } : State)
    let range : ExportRange := { base := 16, length := 1, peers := BitVec.ofNat 1024 2, rd := true, wr := false, atom := false, dom := 1 }
    let s := { on 17 { state := .authenticated, lanes := 4, session := some 9 } with exports := [(255, range)] }
    ((State.reset.link 21).state = .down ∧ State.reset.startRec.steps.getD 8 0 ≠ 4) ∧
    (((on 0 { state := .training }).link 0).state = .training ∧ ((on 0 { state := .training }).link 0).before = none) ∧
    ((on 0 { state := .training, before := some .authenticated, session := some 9 }).link 0).before = some .authenticated ∧
    ((on 21 { state := .up, lanes := 4 }).link 21).state = .up ∧
    (((on 1 { state := .degraded, lanes := 2 }).link 1).state = .degraded ∧ ((on 1 { state := .degraded, lanes := 2 }).link 1).session = none) ∧
    ((s.link 17).failures ≤ 64 ∧
      64 < ((on 17 { state := .authenticated, lanes := 4, session := some 9, failures := 65 }).link 17).failures) ∧
    (s.speaks 17 = true ∧ spdmSupported 2 { offers := spdmAlgs } = true ∧ spdmSupported 2 { offers := [] } = false ∧
      spdmSupported 7 { offers := spdmAlgs, bareMutual := true } = false ∧ spdmSupported 11 { offers := [] } = true ∧
      spdmSupported 12 { offers := [] } = false) ∧
    (((s.link 17).state = .authenticated ∧ 0 < (s.link 17).lanes ∧ 3 < (s.link 17).lanes) ∧ (s.link 17).session.isSome = true ∧
      (s.link 17).state ≠ .quarantined ∧ (s.link 17).carrying = true) ∧
    ((on 3 { state := .quarantined }).link 3).state = .quarantined ∧
    (0 < range.length ∧ range.dom < 1024) ∧
    s.exportFor 1 0x10ff00 (.read 256) = some range ∧ s.exportFor 1 0x10ff01 (.read 256) = none ∧
      s.exportFor 2 0x100000 (.read 1) = none := by decide +kernel

theorem wit_DeviceEvents :
    let tried := fun (n : Nat) => { State.reset with startRec := { steps := List.replicate 10 1, inARow := n, stoppedAt := some 4 } }
    let replaying := st.updCtx 1 fun c => { c with desc := { c.desc with flags := 8 } }
    let away := fun (s : State) => { s with blocks := [] }
    let down := (List.range 6).foldl (fun (s : State) i => { s with islands := s.islands.put (18 + i) .off }) st
    let slow := { st.updDie 3 fun d => { d with queue := [.block 1] } with islands := [(23, .reduced), (28, .stopped), (31, .stopped)] }
    let ways := fun (alt main : Bool) => (List.range 10).map fun i => if i = 4 then StartStep.mk main alt else ⟨true, false⟩
    ((tried 1).startRec.started = false ∧ (tried 1).startRec.inARow < 2 ∧ (tried 1).startRec.steps = List.replicate 10 1) ∧
    -- the record after reset, with and without a failing step; one whose step 5 has failed, which then goes by its alternate or fails
    (State.reset.startRec.started = false ∧ State.reset.startRec.inARow < 2 ∧ State.reset.startRec.steps.getD 4 0 = 0 ∧
      runSteps State.reset.startRec.steps 1 (ways false true) = List.replicate 10 1 ∧
      runSteps State.reset.startRec.steps 1 (ways true false) = [1, 1, 1, 1, 2] ∧
      (let s := { State.reset with startRec := { steps := [1, 1, 1, 1, 2], inARow := 1, stoppedAt := some 5 } }
       s.startRec.started = false ∧ s.startRec.inARow < 2 ∧
       runSteps s.startRec.steps 1 (ways true false) = [1, 1, 1, 1, 3, 1, 1, 1, 1, 1] ∧
       runSteps s.startRec.steps 1 (ways false true) = [1, 1, 1, 1, 2])) ∧
    (st.startRec.started = true ∧ (tried 2).startRec.started = false ∧ 2 ≤ (tried 2).startRec.inARow) ∧
    (st.held 0 = false ∧ (let s := { st with startRec := { st.startRec with alternates := [3, 5] } }
      s.held 0 = true ∧ s.held 28 = true ∧ s.held 30 = false) ∧ (replaying.blocks.any fun e => replaying.replayIsland 0 e.1 e.2) = true ∧
      (st.blocks.any fun e => st.replayIsland 0 e.1 e.2) = false) ∧
    (st.haltedOn 23 = false ∧ (st.blocks.any fun e => st.onIsland 23 e.1 e.2) = false ∧ (st.blocks.any fun e => st.onIsland 0 e.1 e.2) = true ∧
      st.haltedOn 0 = false ∧ (onW st fun w => { w with halted := true }).haltedOn 0 = true) ∧
    (∀ k, k < 6 → down.island ((27 - 24) * 6 + k) = .off) ∧
    (islandHas 31 .stopped = true ∧ islandHas 27 .run = true ∧ islandHas 27 .reduced = false ∧ islandHas 32 .run = false) ∧
    ((slow.island 23).rank < IslandState.run.rank ∧ slow.island 23 ≠ .off ∧ (slow.die (23 / 6)).queue ≠ []) ∧
    ((slow.island 31).rank < IslandState.run.rank ∧ islandHas 31 .run = true ∧ slow.island 31 ≠ .off) ∧
    (away st).blocks = [] := by decide +kernel

/-- The placed wave's core in replay mode, with an interval that began at its image, in which the wave has retired two
instructions. -/
def journaled (f : ReplayCore → ReplayCore) : State :=
  let s := (watched st).updCtx 1 fun c => { c with desc := { c.desc with flags := 8 } }
  s.updCore 0 0 fun c => { c with replay := some (f { ctx := 1, cur := some {
    number := 1, start := s.checkpoint 0 0, seen := [(1, { ids := (0, 0, 0), first := 0, last := 2 })] } }) }

theorem areaFull_of {s : State} {r : ReplayCore} {i : Interval} (h : (s.ctx r.ctx).area = 0) (hc : r.cur = some i) (hr : i.records ≠ [])
    (he : 0 < i.entries) : s.areaFull r = true := by
  have := List.length_pos_iff.mpr hr
  simp [State.areaFull, Interval.used, h, hc, he]; omega

theorem wit_ReplayEvents :
    let stop : StopName := { die := 0, core := 0, wave := 1, interval := 1, accn := 0 }
    let has := fun (s : State) (p : ReplayCore → Bool) => match (s.core 0 0).replay with
      | some r => p r
      | none => false
    let view := st.coreImage 0 0
    (has (journaled fun r => { r with due := true }) fun r => r.due && r.cur.isSome) = true ∧
    (has (journaled id) fun r => !r.due && r.cur.isSome) = true ∧
    (let s := journaled id
     s.attached 1 = true ∧ s.replays 1 = true ∧ s.island (islandOf 0 0) = .run ∧ (has s fun r => r.ctx == 1 &&
       (r.interval? 1).any (fun q => q.1.reached stop && q.1.reached { stop with accn := 2 } && !q.1.reached { stop with accn := 3 }) &&
       r.interval? 2 == none) = true) ∧
    (let s := journaled fun r => { r with cur := r.cur.map fun i => { i with number := 2 }, prev := r.cur }
     has s fun r => (r.interval? 1).any fun q => q.1.number == 1 && q.1.reached stop) = true ∧
    (let s := journaled id
     let t := onB s fun b => { b with phase := .saving }
     let asked := fun (s : State) => ({ s with stopAsks := [(1, stop)] } : State)
     t.attached 1 = true ∧ t.replays 1 = true ∧ t.savingIn 1 = true ∧ s.savingIn 1 = false ∧ (asked s).stopAsks = [(1, stop)] ∧
       (let u := s.updCtx 1 fun c => { c with desc := { c.desc with flags := 0 } }
        (asked u).attached 1 = true ∧ u.replays 1 = false ∧ u.savingIn 1 = false) ∧
       ({ s with islands := s.islands.put 0 .reduced } : State).island (islandOf 0 0) ≠ .run) ∧
    (has (st.updCore 0 0 fun c => { c with replay := some { ctx := 1 } }) fun r => !st.attached r.ctx) = true ∧
    (let i : Interval := { number := 1, start := view, records := [0], journal := [(0, 0)] }
     let s := st.updCore 0 0 fun c => { c with replay := some { ctx := 1, cur := some i } }
     (s.core 0 0).replay = some { ctx := 1, cur := some i } ∧ s.areaFull { ctx := 1, cur := some i } = true) ∧
    (has (journaled fun r => { r with replay := some { stop := stop, view := view, ahead := [] } }) fun r => r.replay.any fun p =>
      !p.reached && p.view.stands p.stop) = true ∧
    (let later := (onW st fun w => { w with accn := 1 }).coreImage 0 0
     let e := LogStep.of view later 0 0 {} (.issue 1)
     (has (journaled fun r => { r with replay := some { stop := { stop with accn := 1 }, view := view, ahead := [e] } }) fun r =>
       r.replay.any fun p => p.mode == .toStop && p.ahead == [e] && !p.view.stands p.stop && (p.view.after 0 0 e).stands p.stop) = true ∧
     (view.waves.map fun e => e.1).Nodup ∧ (view.blocks.map fun e => e.1).Nodup ∧
     Memory.wf (some 0) (view.rerun 0 0 {} (.issue 1)).lds = true) ∧
    (has (journaled fun r => { r with replay := some { stop := stop, view := view, ahead := [], mode := .held } }) fun r =>
      r.replay.any fun p => p.mode == .held) = true ∧
    (journaled id).areaFull { ctx := 1 } = false ∧
    (let p : Replay := { stop := stop, view := view, ahead := [] }
     let s := journaled fun r => { r with replay := some p }
     s.replaysElsewhere 1 0 0 = [] ∧
       (s.updCore 0 1 fun c => { c with replay := some { ctx := 1, replay := some p } }).replaysElsewhere 1 0 0 ≠ []) :=
  ⟨by decide +kernel, by decide +kernel, by decide +kernel, by decide +kernel, by decide +kernel, by decide +kernel,
    ⟨by decide +kernel, areaFull_of (by decide +kernel) rfl (by simp) (by simp [Interval.entries])⟩, by decide +kernel,
    by decide +kernel, by decide +kernel, by simp [State.areaFull], by decide +kernel⟩

/-- A step that the core works out by itself enters the log without a value from outside, owes no entry of the journal area, and
leads from the interval's start to the boundary behind it when it is executed again (R397, R399). -/
theorem test_log_leads_from_boundary_to_boundary :
    let t := (journaled id).rerun (.issue 1)
    (match (((journaled id).kept t (.issue 1)).core 0 0).replay.bind fun r => r.cur with
    | some i => i.entries == 0 && (i.log.map fun e => (i.start.after 0 0 e).waves) == [(t.coreImage 0 0).waves] &&
        (i.seen.get 1).any fun v => v.last == 1
    | none => false) = true := by decide +kernel

/-! #### Encodings, the step, frames, values -/

/-- The instruction answers a next state at a state with a current wave. -/
def Goes (i : Instr) (s : State) : Prop := (∃ v, s.waves.get s.cur = some v) ∧ ∃ t, exec i s = .next t

def answers (o : Host.Outcome State Fault Refusal) : Bool :=
  match o with
  | .next _ => true
  | _ => false

theorem answers_of {o : Host.Outcome State Fault Refusal} (h : answers o = true) : ∃ t, o = .next t := by
  cases o with
  | next t => exact ⟨t, rfl⟩
  | fault f => cases h
  | refused r => cases h

theorem goes_all {l : List Instr} {s : State} (h : ((s.waves.get s.cur).isSome && l.all fun i => answers (exec i s)) = true) :
    ∀ i ∈ l, Goes i s := fun i hi => by
  simp only [Bool.and_eq_true, List.all_eq_true] at h
  exact ⟨Option.isSome_iff_exists.mp h.1, answers_of (h.2 i hi)⟩

theorem wit_DecodeOfEncode :
    (Instr.iadd { pred := 1 } (.lane 6) (.lane 6) (.imm 1) ⟨.s32, true⟩).wf = true ∧
    encode (.iadd { pred := 1 } (.lane 6) (.lane 6) (.imm 1) ⟨.s32, true⟩) = some 0x080100000006000068000102 := by decide +kernel

theorem wit_EncodeOfDecode :
    decodeWord 0x080100000006000068000102 = .ok (.iadd { pred := 1 } (.lane 6) (.lane 6) (.imm 1) ⟨.s32, true⟩) := by decide +kernel

theorem wit_EveryStepKeepsTheMemoryForm :
    let s := { st with lds := [⟨4, 1⟩], ldsTags := [(0, 1)] }
    s.memOk = true ∧ ∃ t, step s = .next t := ⟨by decide +kernel, answers_of (by decide +kernel)⟩

theorem wit_StepRunsTheDecodedInstruction :
    (∀ q ∈ [[], [Turn.issue 1]], let s := { st with agenda := q }
      Stands s 1 fun w x => w.due 1 = none ∧ x.pcOk w.pc = true ∧ s.readyWave = some 1 ∧
        ({ s with agenda := [] } : State).canIssue w x = true ∧ ({ s with agenda := [] } : State).atBreakpoint w x = false ∧
        (decodeBytes (({ s with agenda := [] } : State).fetch w x)).isOk = true) ∧
    (Instr.isEvent .freezeDispatch = true ∧
      ({ st with agenda := [.event .freezeDispatch] } : State).agenda = .event .freezeDispatch :: []) ∧
    (∀ mode ∈ [PrivMode.m, .s, .u], Instr.isControl .freezeDispatch = true ∧ PrivMode.may mode .freezeDispatch = (mode == .m) ∧
      PrivMode.may mode (.makeResident 1) = (mode != .u) ∧
      ({ st with agenda := [.control mode .freezeDispatch] } : State).agenda = .control mode .freezeDispatch :: [] ∧
      ({ st with agenda := [.ask mode (.readLog 1)] } : State).agenda = .ask mode (.readLog 1) :: []) ∧
    (State.reset.agenda = [] ∧ State.reset.readyWave = none) := by
  refine ⟨?_, by decide +kernel, by decide +kernel, by decide +kernel⟩
  simp only [List.forall_mem_cons, List.not_mem_nil, IsEmpty.forall_iff, implies_true, and_true]
  exact ⟨stands_dec _ (by decide +kernel), stands_dec _ (by decide +kernel)⟩

theorem wit_RegisterInstructionsFrame :
    let d := Operand.lane 2; let a := Operand.lane 4; let b := Operand.lane 6; let m : IMod := ⟨.s64, false⟩; let f : FMod := ⟨.f32, .rne, false⟩
    ∀ i ∈ [Instr.iadd {} d a b m, .isub {} d a b m, .imul {} d a b m, .imulh {} d a b m, .imad {} d a b m, .imin {} d a b m,
      .imax {} d a b m, .iabs {} d a m, .ineg {} d a m, .and {} d a b m, .or {} d a b m, .xor {} d a b m, .andn {} d a b m, .not {} d a m,
      .shl {} d a b m, .shr {} d a b m, .sar {} d a b m, .rotl {} d a b m, .brev {} d a m, .bfe {} d a b m, .bfi {} d a b m,
      .popc {} d a m, .clz {} d a m, .logt {} d a b 1, .movi {} d 7, .sel {} d a b false 1, .shfl {} d a b .segw .idx,
      .dot4i8 {} d a b true true, .dot8i4 {} d a b true true, .dotb32 {} d a b true, .fclass {} d a f, .mov {} d a .s64,
      .icvt {} d a .s64 .s8 false, .fadd {} d a b f, .fsub {} d a b f, .fmul {} d a b f, .ffma {} d a b f, .fmin {} d a b f,
      .fmax {} d a b f, .fdiv {} d a b f, .fsqrt {} d a f, .frcp {} d a f, .frsq {} d a f, .fexp2 {} d a f, .flog2 {} d a f,
      .fsin {} d a f, .fcos {} d a f, .frnd {} d a f, .fabs {} d a f, .fneg {} d a f, .fcvt {} d a .f64 .f16 .rne false false 0 0,
      .f2i {} d a .s64 .f32 .rtz, .i2f {} d a .f64 .s8 .rne, .pack {} d a b .f16x2 .rne false false, .unpk {} d a .e4m3 1,
      .dot4f8 {} d a b false false true .rne, .dot2bf {} d a b .rne, .isetp {} (.spec 1) a b .s32 .lt .conj,
      .plogt {} (.spec 1) (.spec 2) (.spec 3) 1, .vote {} (.spec 1) (.spec 2) .any, .vote {} (.spec 1) (.spec 2) .all,
      .vote {} (.spec 1) (.spec 2) .eq, .vote {} d (.spec 2) .ballot, .fsetp {} (.spec 1) a b .f32 .lt .conj], Goes i st :=
  goes_all (by decide +kernel)

theorem wit_ControlInstructionsFrame :
    let k := Operand.uni 2
    (∀ i ∈ [Instr.nop {}, .yield_ {}, .icinv {}, .trap {} 5, .sysc {} 5, .brkpt {} 5, .hintSpaceWord 0, .br {} 2, .brx {} (.lane 5),
      .ret {} (.lane 5), .exit {}, .call {} (.lane 7) (.imm 2), .jenrol {} k, .jwait {} k, .jstrike {} k, .bararr {} 0, .barsync {} 0,
      .barq {} k 0], Goes i st) ∧
    ∀ i ∈ [Instr.hret {} (.spec 0x22), .pcmin {} k (.spec 0x22), .pcmaj {} k (.spec 0x22), .pceq {} k (.spec 0x22) (.imm 0),
      .barwait {} 0], Goes i (handler 1 st) :=
  ⟨goes_all (by decide +kernel), goes_all (by decide +kernel)⟩

theorem wit_MemoryInstructionsFrame :
    let placed := fun (s : State) => (s.blocks.all fun e => e.2.placed) = true
    let beside := fun (w : Wave) (x : WCtx) (ws : Windows) (n c : Nat) => ((lanesOf (w.begun.guard {})).all fun l =>
      match checkWindow w.begun x ws (laneAddr w.begun x (.lane 2) none l) n n with
      | .ok (.lds q) => decide (c < q ∨ q + n ≤ c)
      | .ok (.spill q) => (List.range n).all fun i => decide (c ≠ w.begun.spillAddr l (q + i))
      | _ => true) = true
    let outside := fun (w : Wave) (c : Nat) => (w.stores.all fun p => p.targets.all fun q => decide (c < q.2.1 ∨ q.2.1 + q.2.2 ≤ c)) = true
    let s := storing (aimed st)
    (∀ i ∈ [Instr.ld {} (.lane 4) (.lane 2) none .b32, .st {} (.lane 4) (.lane 2) none .b32,
      .atom {} (.lane 4) (.lane 2) none .add .rlx false, .storePerformed 1], Goes i s) ∧ placed s ∧
    (Stands s 1 fun w x => w.stores ≠ [] ∧ outside w 0x3fffff ∧ outside w 0x400001 ∧ beside w x { spill := true } 4 15 ∧
      beside w x { spill := true } 4 20 ∧ beside w x {} 4 15) ∧
    Stands (reg 2 0x10 st) 1 fun w x => beside w x { spill := true } 4 15 := by
  exact ⟨goes_all (by decide +kernel), by decide +kernel, stands_dec _ (by decide +kernel), stands_dec _ (by decide +kernel)⟩

theorem wit_MemoryReadsBack :
    let s := { onB st fun b => { b with spill := [[1]] } with lds := [⟨4, 1⟩], ldsTags := [(0, 1)] }
    s.memOk = true ∧ s.inSpill 8 = false ∧ s.ldsTags.get (8 / 4096) = some 1 ∧ s.ldsTags.get (8 / 4096) ≠ some 2 ∧ s.inSpill 4096 = true ∧
      4 < hbmBytes ∧ hbmBytes ≤ 0x300000000000 := by
  decide +kernel

theorem wit_UndecodableWordsRaise :
    let bad := State.reset.placeWord 0xffffffffffffffffffffffff
    let at_ := fun (s : State) => { s with agenda := [.issue 1] }
    (∃ v x r, st.waves.get st.cur = some v ∧ (st.begun st.cur v).wctx v.begun = some x ∧ (Instr.iadd {} (.lane 2) (.lane 5) (.imm 1) ⟨.s64, false⟩).toRaw = some r ∧
      (decodeFault (x.decode v.begun) r).isSome = true) ∧
    (Stands (at_ bad) 1 fun w x => w.due 1 = none ∧ x.pcOk w.pc = true ∧ bad.canIssue w x = true ∧ bad.atBreakpoint w x = false ∧
      (decodeBytes (bad.fetch w x)).isOk = false) ∧
    Stands (at_ (onW st fun w => { w with pc := 7 })) 1 fun w x => w.due 1 = none ∧ x.pcOk w.pc = false ∧ st.canIssue w x = true := by
  refine ⟨?_, stands_dec _ (by decide +kernel), stands_dec _ (by decide +kernel)⟩
  obtain ⟨v, hv⟩ : ∃ v, st.waves.get st.cur = some v := ⟨_, rfl⟩
  obtain ⟨x, hx⟩ : ∃ x, (st.begun st.cur v).wctx v.begun = some x := by cases hv; exact ⟨_, rfl⟩
  obtain ⟨r, hr⟩ : ∃ r, (Instr.iadd {} (.lane 2) (.lane 5) (.imm 1) ⟨.s64, false⟩).toRaw = some r := ⟨_, rfl⟩
  refine ⟨v, x, r, hv, hx, hr, ?_⟩
  cases hv; cases hx; cases hr
  decide +kernel

theorem wit_HandlerEntryAndReturn :
    let to12 := fun (s : State) => onW s fun w => { w with hvec := 12 }
    (∀ e ∈ [Event.split, .empty, .nested, .safeguard], Stands (to12 (halves st)) 1 fun w x =>
      (w.enterEvent x e w.pc fun _ => w.pc).isSome = true ∧ w.hvec ≠ 0xffffffff ∧ w.hdep = 0) ∧
    (Stands (to12 (handler 1 st)) 1 fun w x => (w.enterEvent x .nested w.pc fun _ => w.pc).isSome = true ∧ w.hvec ≠ 0xffffffff ∧ w.hdep = 1) ∧
    (Stands (halves st) 1 fun w x => (w.enterEvent x .split w.pc fun _ => w.pc).isSome = true ∧ w.hvec = 0xffffffff) ∧
    (Stands (handler 1 st) 1 fun w x => (w.handlerReturn x 0xff).isSome = true ∧ w.hdep = 1) ∧
    Stands (handler 2 st) 1 fun w x => (w.handlerReturn x 0xff).isSome = true ∧ w.hdep = 2 := by
  refine ⟨?_, stands_dec _ (by decide +kernel), stands_dec _ (by decide +kernel), stands_dec _ (by decide +kernel),
    stands_dec _ (by decide +kernel)⟩
  simp only [List.forall_mem_cons, List.not_mem_nil, IsEmpty.forall_iff, implies_true, and_true]
  exact ⟨stands_dec _ (by decide +kernel), stands_dec _ (by decide +kernel), stands_dec _ (by decide +kernel), stands_dec _ (by decide +kernel)⟩

theorem wit_DefaultPolicyIsPcminThenHret :
    Stands (onW (halves st) fun w => { w with hvec := 12 }) 1 fun w x => w.hdep = 0 ∧ w.hvec ≠ 0xffffffff ∧
      ({ w with hvec := 0xffffffff }.enterEvent x .split w.pc fun _ => w.pc).isSome = true ∧
      (match w.enterEvent x .split w.pc fun _ => w.pc with
      | some q => match q.lowestGroup 0 q.candidates with
        | some (g, _) => (q.handlerReturn x (g &&& q.candidates)).isSome
        | none => false
      | none => false) = true := stands_dec _ (by decide +kernel)

theorem wit_RetirementCountsAndAges :
    (Stands (halves st) 1 fun w _ => w.hdep = 0 ∧ w.serial = false ∧ w.live.getLsbD 63 = false ∧ w.runnable ≠ 0 ∧ w.oldest.isSome = true) ∧
    (Stands (serial (onW (halves st) fun w => { w with run := 1 })) 1 fun w _ => w.hdep = 0 ∧ w.serial = true ∧
      w.live.getLsbD 0 = true ∧ w.run.getLsbD 0 = true ∧ w.live.getLsbD 7 = true ∧ w.run.getLsbD 7 = false ∧ w.park.getLsbD 7 = false) ∧
    Stands (handler 2 st) 1 fun w _ => w.hdep ≠ 0 :=
  ⟨stands_dec _ (by decide +kernel), stands_dec _ (by decide +kernel), stands_dec _ (by decide +kernel)⟩

theorem wit_IntegersWrapOrSaturate :
    (elems .s16x2 0x80007fff)[1]? = some (-32768) ∧ (elems .s64 5)[0]? = some 5 ∧
    (let r := { Raw.ofWord 0x080100000006000068000102 with m := 0xc2 }
     Op.ofCode r.op = some .iadd ∧ Op.iadd.levelTwo = false ∧ operandsOk {} .iadd r = true ∧ mHi r.m = IType.b32.code ∧
       r.m.getLsbD 1 = true) := by decide +kernel

theorem wit_GuardedWrites :
    Stands (q1in2 st) 1 fun w _ => 7 < w.lanes.length ∧ 255 < (w.lane 7).regs.length ∧ (w.guard {}).getLsbD 7 = true ∧
      (w.guard off).getLsbD 7 = false ∧ 63 < w.k.length ∧ (lowestLane (w.guard {})).isSome = true := stands_dec _ (by decide +kernel)

theorem wit_TakingACause :
    let full := st.updCtx 1 fun c => { c with log := List.replicate 256 { cause := .trap } }
    (st.ctx 1).log.length < 256 ∧ 256 ≤ (full.ctx 1).log.length ∧ (st.blocks.get 1).isSome = true ∧
    ((phased .draining st).blocks.get 1).any (fun b => b.phase == .draining) = true := by decide +kernel

theorem wit_FloatSignBits :
    ∀ i ∈ [Instr.fabs {} (.lane 2) (.lane 4) ⟨.f16x2, .rne, false⟩, .fneg {} (.lane 2) (.lane 4) ⟨.f64, .rne, false⟩],
      Met i st always := met_always (by decide +kernel)

end Sys2Proof.Tests
end

