-- ==== Sys2Proof/Proofs/Encoding.lean ====
section
/-! SUPPORT. Words in memory: the bytes of an instruction word, the fields that they make, and the word that they give
back (R47). -/

namespace Sys2Proof.Proofs

open Sys2Proof.Machine

/-! ### Adjacent fields of a bit vector -/

/-- Two adjacent fields put together: the lower one is the remainder by its width, the upper one the quotient. -/
theorem toNat_extractLsb'_add {v : Nat} (w : BitVec v) (lo m n : Nat) :
    (w.extractLsb' lo (m + n)).toNat = (w.extractLsb' lo m).toNat + 2 ^ m * (w.extractLsb' (lo + m) n).toNat := by
  simp only [BitVec.extractLsb'_toNat, Nat.shiftRight_add, Nat.shiftRight_eq_div_pow _ m]
  rw [Nat.pow_add, Nat.mod_mul]

/-! ### Numbers and words as lists of bytes -/

@[simp] theorem leNat_nil : leNat [] = 0 := rfl

@[simp] theorem leNat_cons (b : Byte) (bs : List Byte) : leNat (b :: bs) = b.toNat + 256 * leNat bs := rfl

@[simp] theorem wordOfBytes_nil : wordOfBytes [] = 0 := rfl

@[simp] theorem wordOfBytes_cons (b : Byte) (bs : List Byte) :
    wordOfBytes (b :: bs) = (wordOfBytes bs <<< 8) ||| b.setWidth 96 := rfl

/-- A byte put below a shifted word meets none of the word's bits, so that joining them adds them. -/
theorem shiftLeft_or_byte (w : BitVec 96) (b : Byte) : (w <<< 8) ||| b.setWidth 96 = b.setWidth 96 + 256#96 * w := by
  have disjoint : (w <<< 8) &&& b.setWidth 96 = 0 := by
    ext i hi
    by_cases below : i < 8
    · simp [below]
    · simp [BitVec.getLsbD_of_ge b i (Nat.le_of_not_lt below)]
  rw [← BitVec.add_eq_or_of_and_eq_zero _ _ disjoint, BitVec.shiftLeft_eq_mul_twoPow, BitVec.mul_comm, BitVec.add_comm]
  rfl

/-- `wordOfBytes` is the number that the bytes hold, as a word. -/
theorem wordOfBytes_eq_ofNat_leNat (bs : List Byte) : wordOfBytes bs = BitVec.ofNat 96 (leNat bs) := by
  induction bs with
  | nil => rfl
  | cons b bs ih =>
    rw [wordOfBytes_cons, ih, shiftLeft_or_byte, leNat_cons, BitVec.ofNat_add, BitVec.ofNat_mul, BitVec.ofNat_toNat]

/-- Bytes that are adjacent fields of a bit vector, in rising order, hold the number of the field that they cover. -/
theorem leNat_map_extractLsb' {v : Nat} (w : BitVec v) (lo n : Nat) :
    leNat ((List.range n).map fun i => w.extractLsb' (lo + 8 * i) 8) = (w.extractLsb' lo (8 * n)).toNat := by
  induction n generalizing lo with
  | zero => simp [Nat.mod_one]
  | succ n ih =>
    have tail : (fun i => w.extractLsb' (lo + 8 * i) 8) ∘ Nat.succ = fun i => w.extractLsb' (lo + 8 + 8 * i) 8 := by
      funext i
      exact congrArg (w.extractLsb' · 8) (by omega)
    rw [List.range_succ_eq_map, List.map_cons, List.map_map, tail, leNat_cons, ih, Nat.mul_zero, Nat.add_zero,
      Nat.mul_succ, Nat.add_comm (8 * n), toNat_extractLsb'_add]
    rfl

/-! ### The bytes of an instruction word (R47) -/

@[simp] theorem length_bytesOfWord (w : BitVec 96) : (bytesOfWord w).length = 12 := by simp [bytesOfWord]

theorem getElem?_bytesOfWord (w : BitVec 96) {k : Nat} (h : k < 12) :
    (bytesOfWord w)[k]? = some (w.extractLsb' (8 * k) 8) := by
  simp [bytesOfWord, h]

theorem take_drop_bytesOfWord (w : BitVec 96) {lo n : Nat} (h : lo + n ≤ 12) :
    ((bytesOfWord w).drop lo).take n = (List.range n).map fun i => w.extractLsb' (8 * lo + 8 * i) 8 := by
  refine List.ext_getElem (by simp; omega) fun k _ hk => ?_
  simp [bytesOfWord, Nat.mul_add]

/-- A field of whole bytes of a word in memory is the field of its bits. -/
theorem leField_bytesOfWord (w : BitVec 96) {lo n : Nat} (h : lo + n ≤ 12) :
    leField (bytesOfWord w) lo n = (w.extractLsb' (8 * lo) (8 * n)).toNat := by
  rw [leField, take_drop_bytesOfWord w h, leNat_map_extractLsb']

theorem leNat_bytesOfWord (w : BitVec 96) : leNat (bytesOfWord w) = w.toNat := by
  have whole : leField (bytesOfWord w) 0 12 = leNat (bytesOfWord w) := by
    rw [leField, List.drop_zero, List.take_of_length_le (length_bytesOfWord w).le]
  rw [← whole, leField_bytesOfWord w (by decide)]
  exact congrArg BitVec.toNat (BitVec.extractLsb'_eq_self (x := w))

@[simp] theorem wordOfBytes_bytesOfWord (w : BitVec 96) : wordOfBytes (bytesOfWord w) = w := by
  rw [wordOfBytes_eq_ofNat_leNat, leNat_bytesOfWord, BitVec.ofNat_toNat, BitVec.setWidth_eq]

/-- OP is its class, bits [95:90], times 64 plus its function, bits [89:84]. -/
theorem op_ofWord_toNat (w : BitVec 96) :
    (Raw.ofWord w).op.toNat = (w.extractLsb' 90 6).toNat * 64 + (w.extractLsb' 84 6).toNat := by
  have classAbove := toNat_extractLsb'_add w 84 6 6
  calc (Raw.ofWord w).op.toNat = (w.extractLsb' 84 6).toNat + 64 * (w.extractLsb' 90 6).toNat := classAbove
    _ = _ := by omega

/-- Settles O44: every clause says what a byte, or a field of whole bytes, of a word in memory holds, or splits OP in two. -/
theorem wordsAreLittleEndian : Obligations.WordsAreLittleEndian := by
  unfold Obligations.WordsAreLittleEndian
  intro w
  exact ⟨length_bytesOfWord w, getElem?_bytesOfWord w (k := 0) (by decide), getElem?_bytesOfWord w (k := 11) (by decide),
    fun _ => getElem?_bytesOfWord w, leField_bytesOfWord w (lo := 0) (n := 4) (by decide),
    leField_bytesOfWord w (lo := 4) (n := 4) (by decide), leField_bytesOfWord w (lo := 8) (n := 4) (by decide),
    op_ofWord_toNat w, wordOfBytes_bytesOfWord w⟩

end Sys2Proof.Proofs
end

/-! SUPPORT. Integer results (R70, R127): the value of a fitted element, the elements of a result, and why no operation
takes `b32` with saturate. -/

namespace Sys2Proof.Proofs

open Sys2Proof.Machine

/-! ### The value of an element lies in the range of its type -/

theorem minInt_le_intOf (signed : Bool) {n : Nat} (v : BitVec n) : minInt signed n ≤ intOf signed v := by
  cases signed with
  | true => simpa [minInt, intOf] using v.le_toInt
  | false => simp [minInt, intOf]

theorem intOf_le_maxInt (signed : Bool) {n : Nat} (v : BitVec n) : intOf signed v ≤ maxInt signed n := by
  cases signed with
  | true => simpa [maxInt, intOf] using v.toInt_le
  | false =>
    have bound : (v.toNat : Int) < (2 ^ n : Nat) := Int.ofNat_lt.mpr v.isLt
    simp only [maxInt, intOf, Bool.false_eq_true, if_false]
    omega

theorem minInt_le_maxInt (signed : Bool) (n : Nat) : minInt signed n ≤ maxInt signed n :=
  (minInt_le_intOf signed (0 : BitVec n)).trans (intOf_le_maxInt signed 0)

/-! ### What fitting a value to an element gives (R70) -/

theorem intOf_ofInt_emod (signed : Bool) (n : Nat) (x : Int) :
    intOf signed (BitVec.ofInt n x) % (2 ^ n : Nat) = x % (2 ^ n : Nat) := by
  cases signed with
  | true => simp only [intOf, if_true, BitVec.toInt_ofInt, Int.bmod_emod]
  | false =>
    have low : 0 ≤ x % (2 ^ n : Nat) := Int.emod_nonneg x (by positivity)
    simp only [intOf, Bool.false_eq_true, if_false, BitVec.toNat_ofInt, Int.toNat_of_nonneg low, Int.emod_emod]

theorem intOf_ofInt_of_inRange (signed : Bool) {n : Nat} {x : Int} (width : 0 < n) (low : minInt signed n ≤ x)
    (high : x ≤ maxInt signed n) : intOf signed (BitVec.ofInt n x) = x := by
  cases signed with
  | true =>
    simp only [minInt, maxInt, if_true, Nat.cast_pow, Nat.cast_ofNat] at low high
    exact BitVec.toInt_ofInt_eq_self width low (Int.lt_of_le_sub_one high)
  | false =>
    simp only [minInt, maxInt, Bool.false_eq_true, if_false] at low high
    simp only [intOf, Bool.false_eq_true, if_false, BitVec.toNat_ofInt, Int.emod_eq_of_lt low (Int.lt_of_le_sub_one high),
      Int.toNat_of_nonneg low]

/-- The value of the `n`-bit element that `fitInt` makes of an exact value. -/
def fitValue (signed sat : Bool) (n : Nat) (x : Int) : Int := intOf signed (fitInt signed sat n x)

theorem fitValue_wrap_emod (signed : Bool) (n : Nat) (x : Int) :
    fitValue signed false n x % (2 ^ n : Nat) = x % (2 ^ n : Nat) := intOf_ofInt_emod signed n x

theorem fitValue_saturate (signed : Bool) {n : Nat} (x : Int) (width : 0 < n) :
    fitValue signed true n x = max (minInt signed n) (min (maxInt signed n) x) :=
  intOf_ofInt_of_inRange signed width (le_max_left _ _) (max_le (minInt_le_maxInt signed n) (min_le_left _ _))

/-! ### The elements of a result (R127) -/

theorem elemBits_pos (t : IType) : 0 < elemBits t := by cases t <;> decide

theorem length_elems (t : IType) (a b : DWord) : (elems t a).length = (elems t b).length := by
  unfold elems
  cases shapeOf t <;> simp

theorem extractLsb'_lower_append (u v : BitVec 16) : ((u ++ v : BitVec 32).setWidth 64).extractLsb' 0 16 = v := by
  ext i hi
  have bit : (u ++ v : BitVec 32).getLsbD i = _ := BitVec.getLsbD_append
  simp [bit, hi, hi.trans (by decide : 16 < 64)]

theorem extractLsb'_upper_append (u v : BitVec 16) : ((u ++ v : BitVec 32).setWidth 64).extractLsb' 16 16 = u := by
  ext i hi
  have bit : (u ++ v : BitVec 32).getLsbD (16 + i) = _ := BitVec.getLsbD_append
  have inWord : 16 + i < 64 := by omega
  simp [bit, inWord, BitVec.getLsbD_eq_getElem hi]

/-- Elements put together are read back fitted, as many of them as the type has. -/
theorem elems_unelems (t : IType) (sat : Bool) (es : List Int) (v : DWord) (h : es.length = (elems t v).length) :
    elems t (unelems t sat es) = es.map (fitValue (signedType t) sat (elemBits t)) := by
  unfold elems at h ⊢
  unfold unelems elemBits
  cases shape : shapeOf t with
  | one =>
    rw [shape] at h
    obtain ⟨x, rfl⟩ := List.length_eq_one_iff.mp h
    simp [fitValue]
  | wide =>
    rw [shape] at h
    obtain ⟨x, rfl⟩ := List.length_eq_one_iff.mp h
    simp [fitValue]
  | packed =>
    rw [shape] at h
    obtain ⟨x, y, rfl⟩ := List.length_eq_two.mp h
    simp [fitValue, extractLsb'_lower_append, extractLsb'_upper_append]

/-- Element by element, a result is the fitted value of the operation on the elements of its operands. -/
theorem getElem?_elems_intOp (m : IMod) (f : Int → Int → Int → Int) {a b d : DWord} {k : Nat} {p q r : Int}
    (ha : (elems m.ty a)[k]? = some p) (hb : (elems m.ty b)[k]? = some q) (hd : (elems m.ty d)[k]? = some r) :
    (elems m.ty (intOp m f a b d))[k]? = some (fitValue (signedType m.ty) m.sat (elemBits m.ty) (f p q r)) := by
  rw [intOp, elems_unelems m.ty m.sat _ a (by simp [length_elems m.ty b a, length_elems m.ty d a])]
  have operands : ((elems m.ty a).zip ((elems m.ty b).zip (elems m.ty d)))[k]? = some (p, q, r) :=
    List.getElem?_zip_eq_some.mpr ⟨ha, List.getElem?_zip_eq_some.mpr ⟨hb, hd⟩⟩
  simp only [List.getElem?_map, operands, Option.map_some]

/-! ### No operation takes `b32` with saturate (Table 3.5, Table 3.9) -/

theorem iModOk_b32_of_packed {m : BitVec 8} (sat : Bool) (b32 : mHi m = IType.b32.code) : iModOk m sat true = false := by
  simp [iModOk, b32, IType.code]

theorem iModOk_saturate_of_wrapOnly {m : BitVec 8} (packed : Bool) (sat : m.getLsbD 1 = true) :
    iModOk m false packed = false := by
  simp [iModOk, sat]

/-- The operations of the integer class 0x02. -/
def integerOps : List Op := [.iadd, .isub, .imul, .imulh, .imad, .imin, .imax, .iabs, .ineg]

/-- The operations of the logic class 0x03 that have an integer type. -/
def logicOps : List Op :=
  [.and, .or, .xor, .andn, .not, .shl, .shr, .sar, .rotl, .popc, .clz, .brev, .bfe, .bfi]

/-- Every operation of the integer class takes the packed types (R127). -/
theorem iModOk_of_modOk_integer (c : DecodeCtx) (r : Raw) {o : Op} (ho : o ∈ integerOps) :
    ∃ sat, modOk c o r = true → iModOk r.m sat true = true := by
  fin_cases ho
  exacts [⟨true, id⟩, ⟨true, id⟩, ⟨true, id⟩, ⟨false, id⟩, ⟨true, id⟩, ⟨false, id⟩, ⟨false, id⟩,
    ⟨true, fun h => (Bool.and_eq_true_iff.mp h).1⟩, ⟨true, id⟩]

/-- The logic class takes neither saturate nor the packed types. -/
theorem modOk_logic (c : DecodeCtx) (r : Raw) {o : Op} (ho : o ∈ logicOps) : modOk c o r = iModOk r.m false false := by
  fin_cases ho <;> rfl

theorem modOk_b32_saturate (c : DecodeCtx) {r : Raw} {o : Op} (ho : o ∈ integerOps ++ logicOps)
    (b32 : mHi r.m = IType.b32.code) (sat : r.m.getLsbD 1 = true) : modOk c o r = false := by
  obtain integer | logic := List.mem_append.mp ho
  · obtain ⟨allowed, ok⟩ := iModOk_of_modOk_integer c r integer
    exact Bool.eq_false_iff.mpr fun h => by simpa [iModOk_b32_of_packed allowed b32] using ok h
  · rw [modOk_logic c r logic, iModOk_saturate_of_wrapOnly false sat]

/-- Check 3 of Table 3.9 raises ILLEGAL_MOD where the checks before it pass. -/
theorem decodeFault_of_modOk_false {c : DecodeCtx} {r : Raw} {o : Op} (op : Op.ofCode r.op = some o)
    (level : o.levelTwo = true → c.levelTwo = true) (operands : operandsOk c o r = true) (mod : modOk c o r = false) :
    decodeFault c r = some .illegalMod := by
  have assigned : (o.levelTwo && !c.levelTwo) = false := by simpa using level
  simp [decodeFault, op, assigned, operands, mod]

/-- Settles O58: an element of a result is the fitted value, whose remainder (wrap) and clamp (saturate) are known; `b32`
with saturate passes the modifier check of neither class. -/
theorem integersWrapOrSaturate : Obligations.IntegersWrapOrSaturate := by
  unfold Obligations.IntegersWrapOrSaturate
  intro m f a b d k
  refine ⟨fun p q r ha hb hd => ⟨_, getElem?_elems_intOp m f ha hb hd, minInt_le_intOf _ _, intOf_le_maxInt _ _, ?wrap,
    ?saturate⟩, by decide, by decide, fun c r o op level ho operands b32 sat =>
      decodeFault_of_modOk_false op level operands (modOk_b32_saturate c ho b32 sat)⟩
  case wrap =>
    intro sat
    rw [sat, fitValue_wrap_emod]
  case saturate =>
    intro sat
    have ends := minInt_le_maxInt (signedType m.ty) (elemBits m.ty)
    rw [sat, fitValue_saturate _ _ (elemBits_pos m.ty)]
    omega

end Sys2Proof.Proofs

/-! SUPPORT. Results that only move bits within the elements of a float (R72, R152): what an instruction with a finished meaning
comes to, the bits of a result put together from codes, and the sign bits. -/

namespace Sys2Proof.Proofs

open Sys2Proof.Machine Sys2Proof.Claims

/-! ### An instruction whose meaning is done -/

/-- The end of a meaning that is done is the continuation that the statements name (R95). -/
theorem finish_done_eq_onward (u : State → Wave → WCtx → State) (t : State) (w : Wave) (x : WCtx) :
    t.finish t.cur w x (.done (u t w x)) =
      onward u (fun t w x => (u t w x).updWave t.cur fun q => (w.retire q).goto w.nextPc) t w x := by
  simp only [State.finish, onward, decide_eq_true_eq]

theorem runs_of_done {i : Instr} {body : State → Wave → WCtx → Res} {pre : Cond} {u : State → Wave → WCtx → State}
    (meaning : ∀ s, exec i s = issue i s body) (done : ∀ t w x, pre t w x → body t w x = .done (u t w x)) :
    Runs i pre u := by
  intro s v x ⟨wave, ctx, r, o, raw, op, passes, free⟩ holds
  rw [meaning, issue_of body wave ctx raw op passes free, done _ _ _ holds]
  exact congrArg Host.Outcome.next (finish_done_eq_onward u (s.begun s.cur v) v.begun x)

/-- An operation of the ALU writes its result to D and does nothing else. -/
theorem puts_of_alu {i : Instr} {h : Head} {d : Operand} {wide : Bool} {f : Wave → WCtx → Nat → DWord}
    (meaning : ∀ s, exec i s = issue i s fun t w x => alu t w h d wide (f w x)) : Puts i h d wide f :=
  runs_of_done meaning fun _ _ _ _ => rfl

/-! ### Operations on codes that set no flag -/

/-- Results without a flag leave `%fflags` as it is. -/
theorem aluF_of_no_flags (s : State) (w : Wave) (h : Head) (d : Operand) (wide : Bool) {f : Nat → DWord × FlagSet}
    (unflagged : ∀ l, (f l).2 = 0) : aluF s w h d wide f = alu s w h d wide fun l => (f l).1 := by
  have kept : ∀ (lanes : List Nat) (g : FlagSet), lanes.foldl (fun a l => a ||| (f l).2) g = g := fun lanes g =>
    List.foldl_fixed' (fun l => by rw [unflagged l]; exact BitVec.or_zero) lanes
  simp only [aluF, alu, kept]

/-- The result of an operation on the code of each element of a value, which sets no flag. -/
def mapCodes (t : FType) (g : Nat → Nat) (v : DWord) : DWord × FlagSet :=
  fJoin ((fElems t).map fun pos => (pos, ⟨g (fCode t v pos), 0⟩))

/-- A value has one element, or two of 16 bits (R72). -/
theorem fElems_cases (t : FType) : fElems t = [0] ∨ fElems t = [0, 16] ∧ (fmtOf t).bits = 16 := by
  cases t with
  | f32 | f64 | f16 | bf16 => exact .inl rfl
  | f16x2 | bf16x2 => exact .inr ⟨rfl, rfl⟩

theorem mapCodes_flags (t : FType) (g : Nat → Nat) (v : DWord) : (mapCodes t g v).2 = 0 := by
  obtain elems | ⟨elems, -⟩ := fElems_cases t <;> simp [mapCodes, fJoin, elems]

theorem codeRes_no_flags (h : Head) (d a : Operand) (m : FMod) (g : Nat → Nat) (s : State) (w : Wave) (x : WCtx) :
    codeRes h d a a m (fun p _ => ⟨g p, 0⟩) s w x =
      alu s w h d (fWide m.ty) fun l => (mapCodes m.ty g (fRead w x m.ty l a)).1 :=
  aluF_of_no_flags s w h d (fWide m.ty) fun l => mapCodes_flags m.ty g (fRead w x m.ty l a)

/-! ### The bits of a result -/

/-- An operation whose result has `n` bits, each of them made of the operand's bit at the same place. -/
def Bitwise (n : Nat) (g : Nat → Nat) (φ : Nat → Bool → Bool) : Prop :=
  ∀ p j, (g p).testBit j = (decide (j < n) && φ j (p.testBit j))

theorem Bitwise.lt {n : Nat} {g : Nat → Nat} {φ : Nat → Bool → Bool} (hg : Bitwise n g φ) (p : Nat) : g p < 2 ^ n :=
  Nat.lt_pow_two_of_testBit _ fun j hj => by rw [hg, decide_eq_false (Nat.not_lt.mpr hj), Bool.false_and]

theorem testBit_fCode (t : FType) (v : DWord) (pos j : Nat) :
    (fCode t v pos).testBit j = (decide (j < (fmtOf t).bits) && v.getLsbD (pos + j)) := by
  rw [fCode, Nat.testBit_mod_two_pow, Nat.testBit_div_two_pow, BitVec.testBit_toNat, Nat.add_comm]

theorem Bitwise.testBit_apply_fCode {t : FType} {g : Nat → Nat} {φ : Nat → Bool → Bool} (hg : Bitwise (fmtOf t).bits g φ)
    (v : DWord) (pos j : Nat) :
    (g (fCode t v pos)).testBit j = (decide (j < (fmtOf t).bits) && φ j (v.getLsbD (pos + j))) := by
  rw [hg, testBit_fCode]
  by_cases inside : j < (fmtOf t).bits <;> simp [inside]

/-- Number of bits that the elements of a type cover. -/
def coveredBits (t : FType) : Nat := (fmtOf t).bits * (fElems t).length

/-- A bitwise operation on every code is bitwise on the value: a bit's place is its place in its own element. -/
theorem getLsbD_mapCodes {t : FType} {g : Nat → Nat} {φ : Nat → Bool → Bool} (hg : Bitwise (fmtOf t).bits g φ) (v : DWord)
    {i : Nat} (hi : i < 64) :
    (mapCodes t g v).1.getLsbD i = (decide (i < coveredBits t) && φ (i % (fmtOf t).bits) (v.getLsbD i)) := by
  obtain elems | ⟨elems, bits⟩ := fElems_cases t
  · have one : (mapCodes t g v).1 = BitVec.ofNat 64 (g (fCode t v 0)) := by simp [mapCodes, fJoin, elems]
    rw [one, BitVec.getLsbD_ofNat, decide_eq_true hi, Bool.true_and, hg.testBit_apply_fCode, Nat.zero_add, coveredBits, elems]
    by_cases inside : i < (fmtOf t).bits <;> simp [inside, Nat.mod_eq_of_lt]
  · have two : (mapCodes t g v).1 = BitVec.ofNat 64 (2 ^ 16 * g (fCode t v 16) + g (fCode t v 0)) := by
      simp [mapCodes, fJoin, elems, Nat.mul_comm, Nat.add_comm]
    have small : g (fCode t v 0) < 2 ^ 16 := bits ▸ hg.lt (fCode t v 0)
    rw [two, BitVec.getLsbD_ofNat, decide_eq_true hi, Bool.true_and, Nat.testBit_two_pow_mul_add _ small, hg.testBit_apply_fCode,
      hg.testBit_apply_fCode, coveredBits, elems, bits]
    by_cases low : i < 16
    · have inside : i < 32 := by omega
      simp [low, inside, Nat.mod_eq_of_lt]
    · have upper : 16 + (i - 16) = i := by omega
      by_cases inside : i < 32
      · have place : i % 16 = i - 16 := by omega
        have element : i - 16 < 16 := by omega
        simp [low, inside, place, element, upper]
      · have outside : ¬ i - 16 < 16 := by omega
        simp [low, inside, outside]

/-! ### Sign bits (R152) -/

/-- The sign bits of the elements of a type. -/
def signBits : FType → DWord
  | .f32 => 0x80000000
  | .f64 => 0x8000000000000000
  | .f16 | .bf16 => 0x8000
  | .f16x2 | .bf16x2 => 0x80008000

/-- The bits of the elements of a type. -/
def elementBits : FType → DWord
  | .f64 => BitVec.allOnes 64
  | .f16 | .bf16 => 0xffff
  | _ => 0xffffffff

theorem getLsbD_elementBits (t : FType) {i : Nat} (hi : i < 64) : (elementBits t).getLsbD i = decide (i < coveredBits t) := by
  revert i
  cases t <;> decide

theorem getLsbD_signBits (t : FType) {i : Nat} (hi : i < 64) :
    (signBits t).getLsbD i = decide (i < coveredBits t ∧ i % (fmtOf t).bits = (fmtOf t).bits - 1) := by
  revert i
  cases t <;> decide

theorem bitwise_clearSign (n : Nat) : Bitwise (n + 1) (fun p => p % 2 ^ n) fun j b => b && decide (j ≠ n) := by
  intro p j
  rw [Nat.testBit_mod_two_pow]
  by_cases below : j < n
  · simp [below, Nat.lt_succ_of_lt below, below.ne]
  · by_cases sign : j = n
    · simp [sign]
    · have outside : ¬ j < n + 1 := by omega
      simp [below, outside]

theorem bitwise_flipSign (n : Nat) :
    Bitwise (n + 1) (fun p => (p + 2 ^ n) % 2 ^ (n + 1)) fun j b => b ^^ decide (j = n) := by
  intro p j
  rw [Nat.testBit_mod_two_pow, Nat.add_comm p]
  by_cases below : j < n
  · simp [Nat.testBit_two_pow_add_gt below, below.ne]
  · by_cases sign : j = n
    · simp [sign, Nat.testBit_two_pow_add_eq]
    · have outside : ¬ j < n + 1 := by omega
      simp [outside]

theorem mapCodes_clearSign (t : FType) (v : DWord) :
    (mapCodes t (fun p => p % 2 ^ ((fmtOf t).bits - 1)) v).1 = v &&& elementBits t &&& ~~~signBits t := by
  refine BitVec.eq_of_getLsbD_eq fun i hi => ?_
  rw [getLsbD_mapCodes (bitwise_clearSign ((fmtOf t).bits - 1)) v hi]
  simp only [BitVec.getLsbD_and, BitVec.getLsbD_not, getLsbD_elementBits t hi, getLsbD_signBits t hi, hi]
  by_cases inside : i < coveredBits t <;> simp [inside]

theorem mapCodes_flipSign (t : FType) (v : DWord) :
    (mapCodes t (fun p => (p + 2 ^ ((fmtOf t).bits - 1)) % 2 ^ (fmtOf t).bits) v).1 = (v ^^^ signBits t) &&& elementBits t := by
  have flip : Bitwise (fmtOf t).bits (fun p => (p + 2 ^ ((fmtOf t).bits - 1)) % 2 ^ (fmtOf t).bits) _ :=
    bitwise_flipSign ((fmtOf t).bits - 1)
  refine BitVec.eq_of_getLsbD_eq fun i hi => ?_
  rw [getLsbD_mapCodes flip v hi]
  simp only [BitVec.getLsbD_and, BitVec.getLsbD_xor, getLsbD_elementBits t hi, getLsbD_signBits t hi]
  by_cases inside : i < coveredBits t <;> simp [inside]

theorem exec_fabs (h : Head) (d a : Operand) (m : FMod) (s : State) :
    exec (.fabs h d a m) s = issue (.fabs h d a m) s fun t w x =>
      alu t w h d (fWide m.ty) fun l => fRead w x m.ty l a &&& elementBits m.ty &&& ~~~signBits m.ty := by
  simp only [← mapCodes_clearSign, ← codeRes_no_flags]
  rfl

theorem exec_fneg (h : Head) (d a : Operand) (m : FMod) (s : State) :
    exec (.fneg h d a m) s = issue (.fneg h d a m) s fun t w x =>
      alu t w h d (fWide m.ty) fun l => (fRead w x m.ty l a ^^^ signBits m.ty) &&& elementBits m.ty := by
  simp only [← mapCodes_flipSign, ← codeRes_no_flags]
  rfl

/-- Settles O59: on the code of each element FABS clears the top bit and FNEG flips it, so that on the whole value they do so at
the sign bits and nowhere else; no element gives a flag. -/
theorem floatSignBits : Obligations.FloatSignBits := by
  unfold Obligations.FloatSignBits
  intro h d a m
  exact ⟨puts_of_alu (exec_fabs h d a m), puts_of_alu (exec_fneg h d a m)⟩

end Sys2Proof.Proofs

/-! SUPPORT. The decoder and the encoder (R46, R47, R67): a well-formed instruction is read back from its word, and a word that
passes the checks is the word of the instruction that it stands for. -/

namespace Sys2Proof.Proofs

open Sys2Proof.Machine

/-! ### Fields put together and taken apart -/

@[simp] theorem ofCode_code (o : Op) : Op.ofCode o.code = some o := by cases o <;> rfl

theorem code_of_ofCode {c : BitVec 12} {o : Op} (h : Op.ofCode c = some o) : o.code = c := by
  simpa using List.find?_some h

theorem ofBool_getLsbD {n : Nat} (w : BitVec n) (k : Nat) : BitVec.ofBool (w.getLsbD k) = w.extractLsb' k 1 := by
  refine BitVec.eq_of_getLsbD_eq fun i hi => ?_
  obtain rfl : i = 0 := by omega
  rw [BitVec.getLsbD_ofBool, BitVec.getLsbD_extractLsb']
  simp

/-- Two adjacent fields put together are one field. -/
theorem extractLsb'_append_adjacent {n : Nat} (w : BitVec n) (lo k len : Nat) :
    w.extractLsb' (lo + len) k ++ w.extractLsb' lo len = w.extractLsb' lo (k + len) :=
  BitVec.extractLsb'_append_extractLsb'_eq_extractLsb' rfl

theorem ofWord_toWord (r : Raw) : Raw.ofWord r.toWord = r := by
  simp (disch := decide) only [Raw.ofWord, Raw.toWord, BitVec.extractLsb'_append_eq_of_le,
    BitVec.extractLsb'_append_eq_of_add_le, BitVec.getLsbD_append, BitVec.getLsbD_ofBool, Nat.reduceSub, Nat.reduceLT, if_false,
    if_true, decide_true, Bool.true_and, BitVec.extractLsb'_eq_self]

theorem toWord_ofWord (w : BitVec 96) : (Raw.ofWord w).toWord = w := by
  simp only [Raw.ofWord, Raw.toWord, ofBool_getLsbD]
  rw [extractLsb'_append_adjacent w 83 12 1, extractLsb'_append_adjacent w 80 _ 3, extractLsb'_append_adjacent w 68 _ 12,
    extractLsb'_append_adjacent w 48 _ 20, extractLsb'_append_adjacent w 28 _ 20, extractLsb'_append_adjacent w 8 _ 20,
    extractLsb'_append_adjacent w 0 _ 8]
  exact BitVec.extractLsb'_eq_self

/-! ### The hint space (R50) -/

/-- The word that `encode` makes of the bits of a hint-space word. -/
def hintWord (b : BitVec 92) : BitVec 96 := b.extractLsb' 80 12 ++ 0b1000#4 ++ b.extractLsb' 0 80

theorem inHintSpace_hintWord (b : BitVec 92) : (Raw.ofWord (hintWord b)).inHintSpace = true := by
  have sign : (hintWord b).getLsbD 83 = true := by
    simp only [hintWord, BitVec.getLsbD_append]
    rfl
  have pred : (hintWord b).extractLsb' 80 3 = 0 := by
    simp (disch := decide) only [hintWord, BitVec.extractLsb'_append_eq_of_le, BitVec.extractLsb'_append_eq_of_add_le]
    rfl
  simp only [Raw.inHintSpace, Raw.ofWord, sign, pred]
  rfl

theorem hintBits_hintWord (b : BitVec 92) : hintBits (hintWord b) = b := by
  simp (disch := decide) only [hintBits, hintWord, BitVec.extractLsb'_append_eq_of_le, BitVec.extractLsb'_append_eq_of_add_le,
    Nat.reduceSub, BitVec.extractLsb'_eq_self]
  exact (extractLsb'_append_adjacent b 0 12 80).trans BitVec.extractLsb'_eq_self

theorem hintWord_hintBits {w : BitVec 96} (h : (Raw.ofWord w).inHintSpace = true) : hintWord (hintBits w) = w := by
  obtain ⟨sign, pred⟩ : w.getLsbD 83 = true ∧ w.extractLsb' 80 3 = 0 := by simpa [Raw.inHintSpace, Raw.ofWord] using h
  have guard : 0b1000#4 = w.extractLsb' 80 4 := by
    calc 0b1000#4 = BitVec.ofBool (w.getLsbD 83) ++ w.extractLsb' 80 3 := by rw [sign, pred]; rfl
      _ = w.extractLsb' 80 4 := by rw [ofBool_getLsbD]; exact extractLsb'_append_adjacent w 80 1 3
  simp (disch := decide) only [hintBits, hintWord, BitVec.extractLsb'_append_eq_of_le, BitVec.extractLsb'_append_eq_of_add_le,
    Nat.reduceSub, BitVec.extractLsb'_eq_self, guard]
  rw [extractLsb'_append_adjacent w 80 12 4, extractLsb'_append_adjacent w 0 16 80]
  exact BitVec.extractLsb'_eq_self

/-! ### Guards, hints and operands -/

@[simp] theorem head_mkRaw (h : Head) (o : Op) (d a b : BitVec 20) (m : BitVec 8) : (mkRaw h o d a b m).head = h := by
  simp (disch := decide) only [Raw.head, mkRaw, Head.hint, BitVec.extractLsb'_append_eq_of_le,
    BitVec.extractLsb'_append_eq_of_add_le, BitVec.getLsbD_append, BitVec.getLsbD_ofBool, Nat.reduceSub, Nat.reduceLT, if_false,
    if_true, decide_true, Bool.true_and, BitVec.extractLsb'_eq_self]

theorem hint_head (r : Raw) : r.head.hint = r.hint := by
  simp only [Raw.head, Head.hint, ofBool_getLsbD]
  rw [extractLsb'_append_adjacent r.hint 7 4 1, extractLsb'_append_adjacent r.hint 4 _ 3, extractLsb'_append_adjacent r.hint 2 _ 2,
    extractLsb'_append_adjacent r.hint 0 _ 2]
  exact BitVec.extractLsb'_eq_self

@[simp] theorem dec_enc (o : Operand) : Operand.dec o.enc = o := by
  cases o with
  | lane n | uni n | spec n | imm v =>
    simp (disch := decide) only [Operand.dec, Operand.enc, BitVec.extractLsb'_append_eq_of_le,
      BitVec.extractLsb'_append_eq_of_add_le, Nat.reduceSub, BitVec.extractLsb'_eq_self, BitVec.reduceToNat]

@[simp] theorem immOf_immField (v : BitVec 18) : immOf (immField v) = v := BitVec.extractLsb'_append_eq_right

/-- A field of an immediate's bits is one of the immediate. -/
theorem extractLsb'_immField (v : BitVec 18) {lo n : Nat} (inside : lo + n ≤ 18) :
    (immField v).extractLsb' lo n = v.extractLsb' lo n := BitVec.extractLsb'_append_eq_of_add_le inside

theorem getLsbD_immField (v : BitVec 18) {k : Nat} (inside : k < 18) : (immField v).getLsbD k = v.getLsbD k := by
  have bit : (immField v).getLsbD k = _ := BitVec.getLsbD_append
  rw [bit, if_pos inside]

theorem enc_eq_zero {o : Operand} (h : o.enc = 0) : o = .lane 0 := by
  rw [← dec_enc o, h]
  rfl

/-- An optional operand that is spelled in one way is read back. -/
theorem decOpt_encOpt {o : Option Operand} (ok : optOk o = true) : Operand.decOpt (Operand.encOpt o) = o := by
  cases o with
  | none => rfl
  | some q =>
    have used : q.enc ≠ 0 := fun h => by simp [optOk, enc_eq_zero h] at ok
    rw [Operand.encOpt, Operand.decOpt, if_neg used, dec_enc]

/-! ### Codes of the modifiers -/

@[simp] theorem iType_ofCode_code (t : IType) : IType.ofCode t.code = t := by cases t <;> rfl
@[simp] theorem fType_ofCode_code (t : FType) : FType.ofCode t.code = t := by cases t <;> rfl
@[simp] theorem fFmt_ofCode_code (t : FFmt) : FFmt.ofCode t.code = t := by cases t <;> rfl
@[simp] theorem rnd_ofCode_code (t : Rnd) : Rnd.ofCode t.code = t := by cases t <;> rfl
@[simp] theorem cType_ofCode_code (t : CType) : CType.ofCode t.code = t := by cases t <;> rfl
@[simp] theorem iCmp_ofCode_code (t : ICmp) : ICmp.ofCode t.code = t := by cases t <;> rfl
@[simp] theorem fCmp_ofCode_code (t : FCmp) : FCmp.ofCode t.code = t := by cases t <;> rfl
@[simp] theorem comb_ofCode_code (t : Comb) : Comb.ofCode t.code = t := by cases t <;> rfl
@[simp] theorem voteMode_ofCode_code (t : VoteMode) : VoteMode.ofCode t.code = t := by cases t <;> rfl
@[simp] theorem shflMode_ofCode_code (t : ShflMode) : ShflMode.ofCode t.code = t := by cases t <;> rfl
@[simp] theorem seg_ofCode_code (t : Seg) : Seg.ofCode t.code = t := by cases t <;> rfl
@[simp] theorem packType_ofCode_code (t : PackType) : PackType.ofCode t.code = t := by cases t <;> rfl
@[simp] theorem unpkType_ofCode_code (t : UnpkType) : UnpkType.ofCode t.code = t := by cases t <;> rfl
@[simp] theorem memType_ofCode_code (t : MemType) : MemType.ofCode t.code = t := by cases t <;> rfl
@[simp] theorem atomOp_ofCode_code (t : AtomOp) : AtomOp.ofCode t.code = t := by cases t <;> rfl
@[simp] theorem atomOrd_ofCode_code (t : AtomOrd) : AtomOrd.ofCode t.code = t := by cases t <;> rfl
@[simp] theorem fenceKind_ofCode_code (t : FenceKind) : FenceKind.ofCode t.code = t := by cases t <;> rfl
@[simp] theorem cpySize_ofCode_code (t : CpySize) : CpySize.ofCode t.code = t := by cases t <;> rfl
@[simp] theorem slotWidth_ofCode_code (t : SlotWidth) : SlotWidth.ofCode t.code = t := by cases t <;> rfl
@[simp] theorem tileFmt_ofCode_code (t : TileFmt) : TileFmt.ofCode t.code = t := by cases t <;> rfl
@[simp] theorem drainWidth_ofCode_code (t : DrainWidth) : DrainWidth.ofCode t.code = t := by cases t <;> rfl
@[simp] theorem drainMode_ofCode_code (t : DrainMode) : DrainMode.ofCode t.code = t := by cases t <;> rfl
@[simp] theorem tcvtSrc_ofCode_code (t : TcvtSrc) : TcvtSrc.ofCode t.code = t := by cases t <;> rfl

@[simp] theorem iModOf_enc (m : IMod) : iModOf m.enc = m := by
  obtain ⟨ty, sat⟩ := m
  cases ty <;> cases sat <;> rfl

@[simp] theorem fModOf_enc (m : FMod) : fModOf m.enc = m := by
  obtain ⟨ty, rnd, ftz⟩ := m
  cases ty <;> cases rnd <;> cases ftz <;> rfl

/-- A float type that is not packed has a code of two bits. -/
theorem fType_ofCode_code_low {t : FType} (unpacked : (t != .f16x2 && t != .bf16x2) = true) :
    FType.ofCode (0#1 ++ t.code.extractLsb' 0 2) = t := by
  cases t <;> simp_all <;> rfl

theorem fType_ofCode_low_unpacked : ∀ c : BitVec 2,
    (FType.ofCode (0#1 ++ c) != .f16x2 && FType.ofCode (0#1 ++ c) != .bf16x2) = true := by decide

/-! ### An instruction is read back from its fields -/

/-- The fields of an instruction are read as the instruction itself. -/
def ReadBack (i : Instr) : Prop := ∀ r o, i.toRaw = some r → Op.ofCode r.op = some o → r.build o = i

theorem readBack_of_fields {i : Instr} {h : Head} {o : Op} {d a b : BitVec 20} {m : BitVec 8}
    (fields : i.toRaw = some (mkRaw h o d a b m)) (back : (mkRaw h o d a b m).build o = i) : ReadBack i := by
  intro r q hr hq
  obtain rfl := Option.some.inj (fields.symm.trans hr)
  obtain rfl := Option.some.inj ((ofCode_code o).symm.trans hq)
  exact back

theorem readBack_of_event {i : Instr} (event : i.toRaw = none) : ReadBack i := fun r _ fields => by
  rw [event] at fields
  cases fields

section
variable (h : Head) (o : Op) (d a b : BitVec 20) (m : BitVec 8)
@[simp] theorem d_mkRaw : (mkRaw h o d a b m).d = d := rfl
@[simp] theorem a_mkRaw : (mkRaw h o d a b m).a = a := rfl
@[simp] theorem b_mkRaw : (mkRaw h o d a b m).b = b := rfl
@[simp] theorem m_mkRaw : (mkRaw h o d a b m).m = m := rfl
end

/-- Every operand, immediate and modifier of a word stands at its place, and is read from there. -/
theorem readBack {i : Instr} (opts : i.optsOk = true) (unpacked : i.floatOk = true) : ReadBack i := by
  cases i
  all_goals first
    | exact readBack_of_event rfl
    | refine readBack_of_fields rfl ?_
  all_goals
    simp (disch := decide) only [Raw.build, head_mkRaw, d_mkRaw, a_mkRaw, b_mkRaw, m_mkRaw, dec_enc, immOf_immField,
      extractLsb'_immField, getLsbD_immField, iModOf_enc, fModOf_enc, mHi, mMid, mLo, BitVec.extractLsb'_append_eq_of_le,
      BitVec.extractLsb'_append_eq_of_add_le, BitVec.getLsbD_append, BitVec.getLsbD_ofBool, Nat.reduceSub, Nat.reduceLT,
      if_false, if_true, decide_true, Bool.true_and, BitVec.extractLsb'_eq_self, iType_ofCode_code, fType_ofCode_code,
      fFmt_ofCode_code, rnd_ofCode_code, cType_ofCode_code, iCmp_ofCode_code, fCmp_ofCode_code, comb_ofCode_code,
      voteMode_ofCode_code, shflMode_ofCode_code, seg_ofCode_code, packType_ofCode_code, unpkType_ofCode_code,
      memType_ofCode_code, atomOp_ofCode_code, atomOrd_ofCode_code, fenceKind_ofCode_code, cpySize_ofCode_code,
      slotWidth_ofCode_code, tileFmt_ofCode_code, drainWidth_ofCode_code, drainMode_ofCode_code, tcvtSrc_ofCode_code]
  case f2i | i2f => rw [fType_ofCode_code_low unpacked]
  case movi v =>
    rw [extractLsb'_append_adjacent v 0 18 14]
    exact congrArg _ BitVec.extractLsb'_eq_self
  all_goals rw [decOpt_encOpt opts]

theorem encode_eq_map {i : Instr} (h : ∀ b, i ≠ .hintSpaceWord b) : encode i = i.toRaw.map Raw.toWord := by
  cases i with
  | hintSpaceWord b => exact absurd rfl (h b)
  | _ => rfl

/-- Settles O42: a hint-space word gives its bits back; any other instruction is read back field by field from its word. -/
theorem decodeOfEncode : Obligations.DecodeOfEncode := by
  intro i w wf word
  by_cases hint : ∃ b, i = .hintSpaceWord b
  · obtain ⟨b, rfl⟩ := hint
    obtain rfl : hintWord b = w := Option.some.inj word
    rw [decodeWord, if_pos (inHintSpace_hintWord b), hintBits_hintWord]
  · rw [encode_eq_map (not_exists.mp hint), Option.map_eq_some_iff] at word
    obtain ⟨r, fields, rfl⟩ := word
    obtain ⟨⟨⟨checks, outside⟩, opts⟩, unpacked⟩ : ((decodeFault {} r = none ∧ r.inHintSpace = false) ∧ i.optsOk = true) ∧
        i.floatOk = true := by simpa [Instr.wf, fields] using wf
    cases op : Op.ofCode r.op with
    | none => simp [decodeFault, op] at checks
    | some o =>
      simp only [decodeWord, ofWord_toWord, outside, checks, op, readBack opts unpacked r o fields op, Bool.false_eq_true, if_false]

/-! ### Fields that pass the checks are those of an operand (R53, R54) -/

theorem eq_of_two_bits : ∀ c : BitVec 2, c = 0#2 ∨ c = 1#2 ∨ c = 2#2 ∨ c = 3#2 := by decide

/-- A field that obeys a rule is the field of the operand that it is read as. -/
theorem enc_dec {regs : Nat} {rule : FieldRule} {f : BitVec 20} (ok : fieldOk regs rule f = true) : (Operand.dec f).enc = f := by
  have byte : f.extractLsb' 18 2 ++ f.extractLsb' 8 10 ++ f.extractLsb' 0 8 = f := by
    rw [extractLsb'_append_adjacent f 8 2 10, extractLsb'_append_adjacent f 0 12 8]
    exact BitVec.extractLsb'_eq_self
  have six : f.extractLsb' 18 2 ++ f.extractLsb' 6 12 ++ f.extractLsb' 0 6 = f := by
    rw [extractLsb'_append_adjacent f 6 2 12, extractLsb'_append_adjacent f 0 14 6]
    exact BitVec.extractLsb'_eq_self
  have immediate : f.extractLsb' 18 2 ++ f.extractLsb' 0 18 = f :=
    (extractLsb'_append_adjacent f 0 2 18).trans BitVec.extractLsb'_eq_self
  unfold fieldOk at ok
  split at ok
  · next unused =>
    obtain ⟨-, rfl⟩ : rule.opt = true ∧ f = 0 := by simpa using unused
    rfl
  · obtain cls | cls | cls | cls := eq_of_two_bits (f.extractLsb' 18 2) <;>
      simp only [cls, BitVec.reduceToNat, Operand.dec, Operand.enc, Bool.and_eq_true, beq_iff_eq] at ok ⊢
    · obtain ⟨⟨⟨-, reserved⟩, -⟩, -⟩ := ok
      rw [cls, show f.extractLsb' 8 10 = 0#10 from reserved] at byte
      exact byte
    · obtain ⟨⟨⟨-, reserved⟩, -⟩, -⟩ := ok
      rw [cls, show f.extractLsb' 6 12 = 0#12 from reserved] at six
      exact six
    · rw [cls] at immediate
      exact immediate
    · obtain ⟨⟨reserved, -⟩, -⟩ := ok
      rw [cls, show f.extractLsb' 8 10 = 0#10 from reserved] at byte
      exact byte

theorem encOpt_decOpt {regs : Nat} {rule : FieldRule} {f : BitVec 20} (ok : fieldOk regs rule f = true) :
    Operand.encOpt (Operand.decOpt f) = f := by
  unfold Operand.decOpt
  split
  · next unused => exact unused.symm
  · exact enc_dec ok

theorem optOk_decOpt {regs : Nat} {rule : FieldRule} {f : BitVec 20} (ok : fieldOk regs rule f = true) :
    optOk (Operand.decOpt f) = true := by
  unfold Operand.decOpt
  split
  · rfl
  · next used =>
    have other : Operand.dec f ≠ .lane 0 := fun h => used (by rw [← enc_dec ok, h]; rfl)
    simpa [optOk] using other

theorem eq_zero_of_unused {regs : Nat} {f : BitVec 20} (ok : fieldOk regs .unused f = true) : 0 = f := by
  unfold fieldOk at ok
  split at ok
  · next unused => exact (by simpa [FieldRule.unused] using unused : f = 0).symm
  · obtain cls | cls | cls | cls := eq_of_two_bits (f.extractLsb' 18 2) <;>
      simp [cls, FieldRule.unused] at ok

theorem class_of_imms {regs : Nat} {f : BitVec 20} (ok : fieldOk regs .imms f = true) : f.extractLsb' 18 2 = 2#2 := by
  unfold fieldOk at ok
  obtain cls | cls | cls | cls := eq_of_two_bits (f.extractLsb' 18 2) <;> simp_all [FieldRule.imms]

/-- A field that may only hold an immediate is the field of that immediate. -/
theorem immField_of_imms {regs : Nat} {f : BitVec 20} {v : BitVec 18} (ok : fieldOk regs .imms f = true) (value : v = immOf f) :
    immField v = f := by
  have immediate : f.extractLsb' 18 2 ++ f.extractLsb' 0 18 = f :=
    (extractLsb'_append_adjacent f 0 2 18).trans BitVec.extractLsb'_eq_self
  rw [class_of_imms ok] at immediate
  rw [value]
  exact immediate

/-- An immediate whose upper bits are reserved is its lower bits. -/
theorem zero_append_extractLsb' {f : BitVec 20} {n k : Nat} (reserved : f.extractLsb' n k = 0#k) :
    0#k ++ f.extractLsb' 0 n = f.extractLsb' 0 (k + n) := by
  have join := extractLsb'_append_adjacent f 0 k n
  rwa [Nat.zero_add, reserved] at join

/-- An immediate below a power of two has no bit from there on. -/
theorem reserved_of_immOutside {regs : Nat} {f : BitVec 20} (n k : Nat) (ok : fieldOk regs .imms f = true)
    (inside : (!immOutside f 0 (2 ^ n - 1)) = true) (width : k + n = 18) : f.extractLsb' n k = 0#k := by
  have bound : (immOf f).toNat < 2 ^ n := by
    have top : ¬ 2 ^ n - 1 < (immOf f).toNat := by simpa [immOutside, class_of_imms ok] using inside
    have := Nat.two_pow_pos n
    omega
  have field : f.extractLsb' n k = (immOf f).extractLsb' n k := by
    rw [immOf, BitVec.extractLsb'_extractLsb'_of_le (by omega)]
  rw [field]
  refine BitVec.eq_of_toNat_eq ?_
  rw [BitVec.extractLsb'_toNat, Nat.shiftRight_eq_div_pow, Nat.div_eq_of_lt bound, Nat.zero_mod, BitVec.toNat_ofNat, Nat.zero_mod]

/-! ### Modifiers that pass the checks are those that they are read as (R63) -/

section
variable {m : BitVec 8}

theorem enc_iModOf {sat packed : Bool} : iModOk m sat packed = true → (iModOf m).enc = m := by
  revert m sat packed; decide

theorem enc_fModOf {rnd ftz f64 : Bool} : fModOk m rnd ftz f64 = true → (fModOf m).enc = m := by
  revert m rnd ftz f64; decide

theorem m_of_mov : (m.extractLsb' 0 5 == 0 && (decide ((mHi m).toNat ≤ 3) || mHi m == 6)) = true →
    (IType.ofCode (mHi m)).code ++ 0#5 = m := by revert m; decide

theorem m_of_sel : (m.extractLsb' 4 4 == 0) = true → 0#4 ++ bit (m.getLsbD 3) ++ m.extractLsb' 0 3 = m := by revert m; decide

theorem m_of_icvt : (!m.getLsbD 0) = true →
    (CType.ofCode (mHi m)).code ++ (CType.ofCode (mMid m)).code ++ bit (m.getLsbD 1) ++ 0#1 = m := by revert m; decide

theorem m_of_isetp : (decide ((mHi m).toNat ≤ 3) && decide ((mMid m).toNat ≤ 5) && mLo m != 3) = true →
    (IType.ofCode (mHi m)).code ++ (ICmp.ofCode (mMid m)).code ++ (Comb.ofCode (mLo m)).code = m := by revert m; decide

theorem m_of_fsetp : (decide ((mHi m).toNat ≤ 3) && mLo m != 3) = true →
    (FType.ofCode (mHi m)).code ++ (FCmp.ofCode (mMid m)).code ++ (Comb.ofCode (mLo m)).code = m := by revert m; decide

theorem m_of_vote : (m.extractLsb' 2 6 == 0) = true → 0#6 ++ (VoteMode.ofCode (mLo m)).code = m := by revert m; decide

theorem m_of_shfl : (mHi m == 0 && decide ((mMid m).toNat ≤ 5)) = true →
    0#3 ++ (Seg.ofCode (mMid m)).code ++ (ShflMode.ofCode (mLo m)).code = m := by revert m; decide

theorem m_of_fcvt :
    (FFmt.ofCode (mHi m)).code ++ (FFmt.ofCode (mMid m)).code ++ bit (m.getLsbD 1) ++ bit (m.getLsbD 0) = m := by
  revert m; decide

theorem m_of_f2i : decide ((m.extractLsb' 0 3).toNat ≤ 4) = true →
    (CType.ofCode (mHi m)).code ++ (FType.ofCode (0#1 ++ m.extractLsb' 3 2)).code.extractLsb' 0 2 ++
      (Rnd.ofCode (m.extractLsb' 0 3)).code = m := by revert m; decide

theorem m_of_pack : (decide ((mHi m).toNat ≤ 3) && decide ((mMid m).toNat ≤ 4) &&
    (!m.getLsbD 0 || decide (2 ≤ (mHi m).toNat))) = true →
    (PackType.ofCode (mHi m)).code ++ (Rnd.ofCode (mMid m)).code ++ bit (m.getLsbD 1) ++ bit (m.getLsbD 0) = m := by
  revert m; decide

theorem m_of_unpk : (decide ((mHi m).toNat ≤ 5) && mMid m == 0) = true →
    (UnpkType.ofCode (mHi m)).code ++ 0#3 ++ mLo m = m := by revert m; decide

theorem m_of_dotInt : (m.extractLsb' 2 6 == 0) = true → 0#6 ++ bit (m.getLsbD 1) ++ bit (m.getLsbD 0) = m := by
  revert m; decide

theorem m_of_dot4f8 : (mLo m == 0 && decide ((mMid m).toNat ≤ 4)) = true →
    bit (m.getLsbD 7) ++ bit (m.getLsbD 6) ++ bit (m.getLsbD 5) ++ (Rnd.ofCode (mMid m)).code ++ 0#2 = m := by
  revert m; decide

theorem m_of_dot2bf : (mHi m == 0 && mLo m == 0 && decide ((mMid m).toNat ≤ 4)) = true →
    0#3 ++ (Rnd.ofCode (mMid m)).code ++ 0#2 = m := by revert m; decide

theorem m_of_dotb32 : (m.extractLsb' 1 7 == 0) = true → 0#7 ++ bit (m.getLsbD 0) = m := by revert m; decide

theorem m_of_ld : (m.extractLsb' 0 5 == 0 && mHi m != 7) = true → (MemType.ofCode (mHi m)).code ++ 0#5 = m := by
  revert m; decide

theorem m_of_atom : (!m.getLsbD 0 && decide ((m.extractLsb' 4 4).toNat ≤ 10)) = true →
    (AtomOp.ofCode (m.extractLsb' 4 4)).code ++ (AtomOrd.ofCode (m.extractLsb' 2 2)).code ++ bit (m.getLsbD 1) ++ 0#1 = m := by
  revert m; decide

theorem m_of_fence : (m.extractLsb' 2 6 == 0 && mLo m != 0) = true → 0#6 ++ (FenceKind.ofCode (mLo m)).code = m := by
  revert m; decide

theorem m_of_cpy : (mLo m == 0) = true →
    (CpySize.ofCode (m.extractLsb' 6 2)).code ++ m.extractLsb' 3 3 ++ bit (m.getLsbD 2) ++ 0#2 = m := by revert m; decide

theorem m_of_bulk : (m.extractLsb' 6 2 == 0 && m.extractLsb' 0 3 == 0) = true → 0#2 ++ m.extractLsb' 3 3 ++ 0#3 = m := by
  revert m; decide

theorem m_of_ring : (m.extractLsb' 3 5 == 0) = true → 0#5 ++ m.extractLsb' 0 3 = m := by revert m; decide

theorem m_of_number : (m.extractLsb' 0 5 == 0) = true → mHi m ++ 0#5 = m := by revert m; decide

theorem m_of_tldw : (m.extractLsb' 0 4 == 0 && decide ((mHi m).toNat ≤ 4)) = true →
    (SlotWidth.ofCode (mHi m)).code ++ bit (m.getLsbD 4) ++ 0#4 = m := by revert m; decide

theorem m_of_tmma : (!m.getLsbD 0) = true →
    mHi m ++ (TileFmt.ofCode (mMid m)).code ++ bit (m.getLsbD 1) ++ 0#1 = m := by revert m; decide

theorem m_of_tbin : (m.extractLsb' 2 2 == 0 && !m.getLsbD 0) = true →
    mHi m ++ bit (m.getLsbD 4) ++ 0#2 ++ bit (m.getLsbD 1) ++ 0#1 = m := by revert m; decide

theorem m_of_tdrain : (mLo m == 0 && m.extractLsb' 3 2 != 3) = true →
    mHi m ++ (DrainMode.ofCode (m.extractLsb' 3 2)).code ++ bit (m.getLsbD 2) ++ 0#2 = m := by revert m; decide

theorem m_of_clook : (!m.getLsbD 0) = true → mHi m ++ mMid m ++ bit (m.getLsbD 1) ++ 0#1 = m := by revert m; decide

theorem m_of_cfetch : (mLo m == 0) = true → mHi m ++ mMid m ++ 0#2 = m := by revert m; decide

theorem m_of_ccopyout : (mHi m == 0 && mLo m == 0) = true → 0#3 ++ mMid m ++ 0#2 = m := by revert m; decide

end

theorem rnd_code_ofCode : ∀ {c : BitVec 3}, c.toNat ≤ 5 → (Rnd.ofCode c).code = c := by decide
theorem fFmt_code_ofCode : ∀ c : BitVec 3, (FFmt.ofCode c).code = c := by decide
theorem drainWidth_code_ofCode : ∀ {c : BitVec 3}, c.toNat ≤ 4 → (DrainWidth.ofCode c).code = c := by decide
theorem tcvtSrc_code_ofCode : ∀ {c : BitVec 2}, c ≠ 3 → (TcvtSrc.ofCode c).code = c := by decide

/-! ### A word that passes the checks is the word of its instruction -/

/-- What check 2 says of each field, and beside the classes. -/
theorem fields_of_operandsOk {c : DecodeCtx} {o : Op} {r : Raw} (ok : operandsOk c o r = true) :
    fieldOk c.regs (fieldRules o r.m).1 r.d = true ∧ fieldOk c.regs (fieldRules o r.m).2.1 r.a = true ∧
      fieldOk c.regs (fieldRules o r.m).2.2 r.b = true ∧ operandExtra c o r = true := by
  simp only [operandsOk, Bool.and_eq_true] at ok
  obtain ⟨⟨⟨⟨hd, ha⟩, hb⟩, -⟩, extra⟩ := ok
  exact ⟨hd, ha, hb, extra⟩

theorem some_mkRaw {r : Raw} {o : Op} {d a b : BitVec 20} {m : BitVec 8} (op : o.code = r.op) (hd : d = r.d) (ha : a = r.a)
    (hb : b = r.b) (hm : m = r.m) : some (mkRaw r.head o d a b m) = some r := by
  subst hd ha hb hm
  rw [mkRaw, op, hint_head]
  rfl

/-- The fields of an instruction that a word is read as are those of the word. -/
theorem toRaw_build {r : Raw} {o : Op} (op : o.code = r.op) (operands : operandsOk {} o r = true) (mod : modOk {} o r = true) :
    (r.build o).toRaw = some r := by
  obtain ⟨dOk, aOk, bOk, extra⟩ := fields_of_operandsOk operands
  cases o with
  | nop | exit | yield_ | icinv | itemend =>
    exact some_mkRaw op (eq_zero_of_unused dOk) (eq_zero_of_unused aOk) (eq_zero_of_unused bOk) (beq_iff_eq.mp mod).symm
  | tzero => exact some_mkRaw op (eq_zero_of_unused dOk) (eq_zero_of_unused aOk) (eq_zero_of_unused bOk) (m_of_number mod)
  | br => exact some_mkRaw op (eq_zero_of_unused dOk) (eq_zero_of_unused aOk) (immField_of_imms bOk rfl) (beq_iff_eq.mp mod).symm
  | brx | ret | hret | crsleep | tsetph =>
    exact some_mkRaw op (eq_zero_of_unused dOk) (enc_dec aOk) (eq_zero_of_unused bOk) (beq_iff_eq.mp mod).symm
  | call => exact some_mkRaw op (enc_dec dOk) (eq_zero_of_unused aOk) (enc_dec bOk) (beq_iff_eq.mp mod).symm
  | trap | sysc | brkpt | bararr | barwait | barsync =>
    exact some_mkRaw op (eq_zero_of_unused dOk) (immField_of_imms aOk rfl) (eq_zero_of_unused bOk) (beq_iff_eq.mp mod).symm
  | jenrol | jwait | jstrike =>
    exact some_mkRaw op (enc_dec dOk) (eq_zero_of_unused aOk) (eq_zero_of_unused bOk) (beq_iff_eq.mp mod).symm
  | pcmin | pcmaj | crpoll | dlaunch | dlwait =>
    exact some_mkRaw op (enc_dec dOk) (enc_dec aOk) (eq_zero_of_unused bOk) (beq_iff_eq.mp mod).symm
  | pceq | arrwait | arrtest | crootcas =>
    exact some_mkRaw op (enc_dec dOk) (enc_dec aOk) (enc_dec bOk) (beq_iff_eq.mp mod).symm
  | iadd | isub | imul | imulh | imad | imin | imax | and | or | xor | andn | shl | shr | sar | rotl | bfe | bfi =>
    exact some_mkRaw op (enc_dec dOk) (enc_dec aOk) (enc_dec bOk) (enc_iModOf mod)
  | ineg | not | popc | clz | brev =>
    exact some_mkRaw op (enc_dec dOk) (enc_dec aOk) (eq_zero_of_unused bOk) (enc_iModOf mod)
  | iabs =>
    exact some_mkRaw op (enc_dec dOk) (enc_dec aOk) (eq_zero_of_unused bOk) (enc_iModOf (Bool.and_eq_true_iff.mp mod).1)
  | logt | plogt => exact some_mkRaw op (enc_dec dOk) (enc_dec aOk) (enc_dec bOk) rfl
  | mov => exact some_mkRaw op (enc_dec dOk) (enc_dec aOk) (eq_zero_of_unused bOk) (m_of_mov mod)
  | movi =>
    refine some_mkRaw op (enc_dec dOk) (immField_of_imms aOk BitVec.extractLsb'_append_eq_left)
      (immField_of_imms bOk ?_) (beq_iff_eq.mp mod).symm
    rw [BitVec.extractLsb'_append_eq_right]
    exact zero_append_extractLsb' (beq_iff_eq.mp extra)
  | sel => exact some_mkRaw op (enc_dec dOk) (enc_dec aOk) (enc_dec bOk) (m_of_sel mod)
  | icvt => exact some_mkRaw op (enc_dec dOk) (enc_dec aOk) (eq_zero_of_unused bOk) (m_of_icvt mod)
  | isetp => exact some_mkRaw op (enc_dec dOk) (enc_dec aOk) (enc_dec bOk) (m_of_isetp mod)
  | fsetp => exact some_mkRaw op (enc_dec dOk) (enc_dec aOk) (enc_dec bOk) (m_of_fsetp mod)
  | vote => exact some_mkRaw op (enc_dec dOk) (enc_dec aOk) (eq_zero_of_unused bOk) (m_of_vote mod)
  | shfl => exact some_mkRaw op (enc_dec dOk) (enc_dec aOk) (enc_dec bOk) (m_of_shfl mod)
  | fadd | fsub | fmul | ffma | fmin | fmax | fdiv =>
    exact some_mkRaw op (enc_dec dOk) (enc_dec aOk) (enc_dec bOk) (enc_fModOf mod)
  | fsqrt | frcp | frsq | fexp2 | flog2 | fsin | fcos | fclass | frnd | fabs | fneg =>
    exact some_mkRaw op (enc_dec dOk) (enc_dec aOk) (eq_zero_of_unused bOk) (enc_fModOf mod)
  | fcvt =>
    refine some_mkRaw op (enc_dec dOk) (enc_dec aOk) (immField_of_imms bOk ?_) m_of_fcvt
    simp only [modOk, Bool.and_eq_true, decide_eq_true_eq] at mod
    obtain ⟨⟨⟨⟨⟨rnd, -⟩, -⟩, -⟩, -⟩, -⟩ := mod
    have reserved : r.b.extractLsb' 9 9 = 0#9 := beq_iff_eq.mp extra
    rw [rnd_code_ofCode rnd, ← reserved, extractLsb'_append_adjacent r.b 6 9 3, extractLsb'_append_adjacent r.b 3 12 3,
      extractLsb'_append_adjacent r.b 0 15 3]
    rfl
  | f2i | i2f => exact some_mkRaw op (enc_dec dOk) (enc_dec aOk) (eq_zero_of_unused bOk) (m_of_f2i mod)
  | pack => exact some_mkRaw op (enc_dec dOk) (enc_dec aOk) (enc_dec bOk) (m_of_pack mod)
  | unpk =>
    have layout := (Bool.and_eq_true_iff.mp (Bool.and_eq_true_iff.mp mod).1).1
    exact some_mkRaw op (enc_dec dOk) (enc_dec aOk) (eq_zero_of_unused bOk) (m_of_unpk layout)
  | dot4i8 | dot8i4 => exact some_mkRaw op (enc_dec dOk) (enc_dec aOk) (enc_dec bOk) (m_of_dotInt mod)
  | dot4f8 => exact some_mkRaw op (enc_dec dOk) (enc_dec aOk) (enc_dec bOk) (m_of_dot4f8 mod)
  | dot2bf => exact some_mkRaw op (enc_dec dOk) (enc_dec aOk) (enc_dec bOk) (m_of_dot2bf mod)
  | dotb32 => exact some_mkRaw op (enc_dec dOk) (enc_dec aOk) (enc_dec bOk) (m_of_dotb32 mod)
  | ld => exact some_mkRaw op (enc_dec dOk) (enc_dec aOk) (encOpt_decOpt bOk) (m_of_ld mod)
  | st =>
    have layout := (Bool.and_eq_true_iff.mp (Bool.and_eq_true_iff.mp mod).1).1
    exact some_mkRaw op (enc_dec dOk) (enc_dec aOk) (encOpt_decOpt bOk) (m_of_ld layout)
  | atom =>
    exact some_mkRaw op (enc_dec dOk) (enc_dec aOk) (encOpt_decOpt bOk) (m_of_atom (Bool.and_eq_true_iff.mp mod).1)
  | fence => exact some_mkRaw op (eq_zero_of_unused dOk) (enc_dec aOk) (encOpt_decOpt bOk) (m_of_fence mod)
  | cpy | cpyo => exact some_mkRaw op (enc_dec dOk) (enc_dec aOk) (enc_dec bOk) (m_of_cpy mod)
  | bulk => exact some_mkRaw op (eq_zero_of_unused dOk) (enc_dec aOk) (encOpt_decOpt bOk) (m_of_bulk mod)
  | arrinit => exact some_mkRaw op (eq_zero_of_unused dOk) (enc_dec aOk) (enc_dec bOk) (beq_iff_eq.mp mod).symm
  | waitc =>
    refine some_mkRaw op (eq_zero_of_unused dOk) (immField_of_imms aOk ?_) (immField_of_imms bOk ?_) (beq_iff_eq.mp mod).symm
    · rw [extractLsb'_append_adjacent r.a 6 6 6, extractLsb'_append_adjacent r.a 0 12 6]
      rfl
    · exact zero_append_extractLsb' (beq_iff_eq.mp extra)
  | waitt =>
    obtain ⟨tag, count⟩ := Bool.and_eq_true_iff.mp extra
    exact some_mkRaw op (eq_zero_of_unused dOk)
      (immField_of_imms aOk (zero_append_extractLsb' (reserved_of_immOutside 3 15 aOk tag rfl)))
      (immField_of_imms bOk (zero_append_extractLsb' (reserved_of_immOutside 6 12 bOk count rfl))) (beq_iff_eq.mp mod).symm
  | barq => exact some_mkRaw op (enc_dec dOk) (immField_of_imms aOk rfl) (eq_zero_of_unused bOk) (beq_iff_eq.mp mod).symm
  | sracq | srwait =>
    exact some_mkRaw op (enc_dec dOk) (eq_zero_of_unused aOk) (eq_zero_of_unused bOk)
      (m_of_ring (Bool.and_eq_true_iff.mp mod).1)
  | srpost | srfree =>
    exact some_mkRaw op (eq_zero_of_unused dOk) (enc_dec aOk) (eq_zero_of_unused bOk)
      (m_of_ring (Bool.and_eq_true_iff.mp mod).1)
  | srbind =>
    exact some_mkRaw op (enc_dec dOk) (enc_dec aOk) (enc_dec bOk) (m_of_ring (Bool.and_eq_true_iff.mp mod).1)
  | tldw =>
    have layout := (Bool.and_eq_true_iff.mp (Bool.and_eq_true_iff.mp mod).1).1
    exact some_mkRaw op (eq_zero_of_unused dOk) (enc_dec aOk) (enc_dec bOk) (m_of_tldw layout)
  | tmma =>
    have layout := (Bool.and_eq_true_iff.mp (Bool.and_eq_true_iff.mp mod).1).1
    exact some_mkRaw op (eq_zero_of_unused dOk) (enc_dec aOk) (enc_dec bOk) (m_of_tmma layout)
  | tmmas =>
    exact some_mkRaw op (eq_zero_of_unused dOk) (enc_dec aOk) (enc_dec bOk) (m_of_tmma (Bool.and_eq_true_iff.mp mod).1)
  | tbin | tlut => exact some_mkRaw op (eq_zero_of_unused dOk) (enc_dec aOk) (enc_dec bOk) (m_of_tbin mod)
  | tscacc =>
    exact some_mkRaw op (eq_zero_of_unused dOk) (enc_dec aOk) (immField_of_imms bOk rfl) (m_of_number mod)
  | tdrain =>
    simp only [modOk, Bool.and_eq_true, decide_eq_true_eq] at mod
    obtain ⟨⟨⟨⟨⟨low, width⟩, mode⟩, -⟩, -⟩, -⟩ := mod
    refine some_mkRaw op (enc_dec dOk) (immField_of_imms aOk ?_) (encOpt_decOpt bOk)
      (m_of_tdrain (Bool.and_eq_true_iff.mpr ⟨low, mode⟩))
    rw [drainWidth_code_ofCode width]
    exact zero_append_extractLsb' (beq_iff_eq.mp extra)
  | tcvt =>
    simp only [modOk, Bool.and_eq_true, decide_eq_true_eq, bne_iff_ne] at mod
    obtain ⟨⟨⟨⟨⟨⟨⟨low, -⟩, -⟩, source⟩, rnd⟩, -⟩, -⟩, -⟩ := mod
    refine some_mkRaw op (eq_zero_of_unused dOk) (eq_zero_of_unused aOk) (immField_of_imms bOk ?_) (m_of_number low)
    have reserved : r.b.extractLsb' 9 9 = 0#9 := beq_iff_eq.mp extra
    rw [rnd_code_ofCode rnd, fFmt_code_ofCode, tcvtSrc_code_ofCode source, ← reserved, bit, ofBool_getLsbD,
      extractLsb'_append_adjacent r.b 6 9 3, extractLsb'_append_adjacent r.b 4 12 2, extractLsb'_append_adjacent r.b 3 14 1,
      extractLsb'_append_adjacent r.b 0 15 3]
    rfl
  | nodeput | qnotify =>
    exact some_mkRaw op (encOpt_decOpt dOk) (enc_dec aOk) (enc_dec bOk) (beq_iff_eq.mp mod).symm
  | qclaim => exact some_mkRaw op (enc_dec dOk) (enc_dec aOk) (encOpt_decOpt bOk) (beq_iff_eq.mp mod).symm
  | claim =>
    exact some_mkRaw op (eq_zero_of_unused dOk) (enc_dec aOk) (encOpt_decOpt bOk) (beq_iff_eq.mp mod).symm
  | claimend =>
    exact some_mkRaw op (eq_zero_of_unused dOk) (eq_zero_of_unused aOk) (enc_dec bOk) (beq_iff_eq.mp mod).symm
  | clook =>
    exact some_mkRaw op (enc_dec dOk) (enc_dec aOk) (eq_zero_of_unused bOk) (m_of_clook (Bool.and_eq_true_iff.mp mod).2)
  | cfetch =>
    exact some_mkRaw op (enc_dec dOk) (enc_dec aOk) (encOpt_decOpt bOk) (m_of_cfetch (Bool.and_eq_true_iff.mp mod).2)
  | cref | cunref =>
    exact some_mkRaw op (enc_dec dOk) (enc_dec aOk) (eq_zero_of_unused bOk) (m_of_number (Bool.and_eq_true_iff.mp mod).2)
  | ccopyout => exact some_mkRaw op (eq_zero_of_unused dOk) (enc_dec aOk) (enc_dec bOk) (m_of_ccopyout mod)

theorem decodeFault_eq_none {r : Raw} {o : Op} (op : Op.ofCode r.op = some o) (checks : decodeFault {} r = none) :
    operandsOk {} o r = true ∧ modOk {} o r = true := by
  simp only [decodeFault, op] at checks
  split_ifs at checks with level operands mod hint role
  exact ⟨by simpa using operands, by simpa using mod⟩

theorem optsOk_build {r : Raw} {o : Op} (operands : operandsOk {} o r = true) : (r.build o).optsOk = true := by
  obtain ⟨dOk, -, bOk, -⟩ := fields_of_operandsOk operands
  cases o with
  | ld | st | atom | fence | bulk | tdrain | qclaim | claim | cfetch => exact optOk_decOpt bOk
  | nodeput | qnotify => exact optOk_decOpt dOk
  | _ => rfl

theorem floatOk_build (r : Raw) (o : Op) : (r.build o).floatOk = true := by
  cases o with
  | f2i | i2f => exact fType_ofCode_low_unpacked _
  | _ => rfl

theorem encode_build {r : Raw} {o : Op} (fields : (r.build o).toRaw = some r) : encode (r.build o) = some r.toWord := by
  rw [encode_eq_map fun b hint => (by rw [hint] at fields; cases fields), fields, Option.map_some]

/-- Settles O43: a field that obeys its rule is the field of the operand that it is read as, and so with the modifiers. -/
theorem encodeOfDecode : Obligations.EncodeOfDecode := by
  intro i w decoded
  simp only [decodeWord] at decoded
  split at decoded
  · next hint =>
    obtain rfl := Except.ok.inj decoded
    exact ⟨congrArg some (hintWord_hintBits hint), rfl⟩
  · next outside =>
    split at decoded
    · next o checks op =>
      obtain rfl := Except.ok.inj decoded
      obtain ⟨operands, mod⟩ := decodeFault_eq_none op checks
      have fields := toRaw_build (code_of_ofCode op) operands mod
      refine ⟨(encode_build fields).trans (congrArg some (toWord_ofWord w)), ?_⟩
      simp only [Instr.wf, fields, checks, Bool.eq_false_iff.mpr outside, optsOk_build operands, floatOk_build,
        Option.isNone_none, Bool.not_false, Bool.and_self]
    · cases decoded
    · cases decoded

end Sys2Proof.Proofs

/-! SUPPORT. What each instruction keeps of the memories' canonical form: one rule for each shape in which an instruction
gives its meaning, then the instructions of the waves, by the rule of their shape. -/

namespace Sys2Proof.Proofs

open Sys2Proof.Machine

/-- An instruction keeps the memories in canonical form. -/
def KeepsForm (i : Instr) : Prop := ∀ s t : State, s.memOk = true → exec i s = .next t → t.memOk = true

/-- A state with the memories of one in canonical form. -/
theorem memOk_same {s t : State} (hs : s.memOk = true) (h : t.mem = s.mem) : t.memOk = true :=
  State.memOk_keep h hs

/-! ### Shapes of meanings -/

theorem keepsForm_of_issue {i : Instr} {body : State → Wave → WCtx → Res} (meaning : ∀ s, exec i s = issue i s body)
    (hb : ∀ u w x, u.memOk = true → (body u w x).memOk) : KeepsForm i := fun s _ hs ht =>
  issue_memOk hb hs (meaning s ▸ ht)

/-- An instruction that answers one next state in every state. -/
theorem keepsForm_of_next {i : Instr} {f : State → State} (meaning : ∀ s, exec i s = .next (f s))
    (hf : ∀ s, s.memOk = true → (f s).memOk = true) : KeepsForm i := fun s _ hs ht => by
  rw [meaning] at ht; cases ht; exact hf s hs

theorem keepsForm_of_onWave {i : Instr} {n : Nat} {f : State → Wave → WCtx → State} (meaning : ∀ s, exec i s = onWave s n (f s))
    (hf : ∀ s w x, s.memOk = true → (f s w x).memOk = true) : KeepsForm i := fun s _ hs ht =>
  onWave_memOk (fun w x => hf s w x hs) hs (meaning s ▸ ht)

theorem keepsForm_of_inHandler {i : Instr} {n : Nat} {f : State → Wave → WCtx → State}
    (meaning : ∀ s, exec i s = inHandler s n (f s)) (hf : ∀ s w x, s.memOk = true → (f s w x).memOk = true) : KeepsForm i :=
  keepsForm_of_onWave meaning fun s w x hs => ite_memOk (memOk_same hs (by simp)) (hf s w x hs)

theorem keepsForm_of_onGoing {i : Instr} {k : Nat} {f : State → Card → State} (meaning : ∀ s, exec i s = onGoing s k (f s))
    (hf : ∀ s c, s.memOk = true → (f s c).memOk = true) : KeepsForm i := fun s _ hs ht =>
  onGoing_memOk (fun c => hf s c hs) hs (meaning s ▸ ht)

theorem keepsForm_of_onEnding {i : Instr} {k : Nat} {f : State → Card → State} (meaning : ∀ s, exec i s = onEnding s k (f s))
    (hf : ∀ s c, s.memOk = true → (f s c).memOk = true) : KeepsForm i := fun s _ hs ht =>
  onEnding_memOk (fun c => hf s c hs) hs (meaning s ▸ ht)

theorem keepsForm_of_withEntry {i : Instr} {n k : Nat} {f : State → PifoEntry → Queue → State}
    (meaning : ∀ s, exec i s = withEntry s n k (f s)) (hf : ∀ s e q, s.memOk = true → (f s e q).memOk = true) : KeepsForm i :=
  fun s _ hs ht => withEntry_memOk (fun e q => hf s e q hs) hs (meaning s ▸ ht)

theorem keepsForm_of_withHead {i : Instr} {n k : Nat} {f : State → PifoEntry → Queue → State}
    (meaning : ∀ s, exec i s = withHead s n k (f s)) (hf : ∀ s e q, s.memOk = true → (f s e q).memOk = true) : KeepsForm i :=
  fun s _ hs ht => withHead_memOk (fun e q => hf s e q hs) hs (meaning s ▸ ht)

theorem keepsForm_of_onFaulted {i : Instr} {n : Nat} {f : State → Wave → WCtx → FaultRec → State}
    (meaning : ∀ s, exec i s = onFaulted n s (f s)) (hf : ∀ s w x r, s.memOk = true → (f s w x r).memOk = true) : KeepsForm i :=
  fun s _ hs ht => onFaulted_memOk (fun w x r => hf s w x r hs) hs (meaning s ▸ ht)

theorem keepsForm_of_onDebugged {i : Instr} {n : Nat} {f : State → Wave → WCtx → State}
    (meaning : ∀ s, exec i s = onDebugged n s (f s)) (hf : ∀ s w x, s.memOk = true → (f s w x).memOk = true) : KeepsForm i :=
  fun s _ hs ht => onDebugged_memOk (fun w x => hf s w x hs) hs (meaning s ▸ ht)

theorem keepsForm_of_onPort {i : Instr} {p : Nat} {f : State → Link → Link} (meaning : ∀ s, exec i s = onPort p s (f s)) :
    KeepsForm i :=
  fun s _ hs ht => onPort_memOk hs (meaning s ▸ ht)

theorem keepsForm_of_moveQueue {i : Instr} {n : Nat} {ok : Queue → Bool} {p : QueuePhase} {f : Queue → Queue}
    (meaning : ∀ s, exec i s = moveQueue s n ok p f) : KeepsForm i :=
  fun s _ hs ht => moveQueue_memOk hs (meaning s ▸ ht)

/-! ### What the shared bodies leave -/

theorem iteRes_memOk {p : Prop} [Decidable p] {q r : Res} (hq : q.memOk) (hr : r.memOk) : (if p then q else r).memOk := by
  split
  · exact hq
  · exact hr

section Bodies

variable {s : State} (w : Wave) (x : WCtx) (h : Head) (hs : s.memOk = true)
include hs

theorem branchRes_memOk (w' : Wave) (target : Nat → Word) : (branchRes h s w x w' target).memOk := by
  unfold branchRes branchEnd
  dsimp only
  repeat' (split)
  all_goals first | exact True.intro | exact hs

theorem settle_memOk (w' : Wave) (g : Mask) : (settle s w x w' g).memOk := by
  unfold settle
  dsimp only
  repeat' (split)
  all_goals first | exact True.intro | exact hs

theorem rejoinRes_memOk (d : Operand) (f : (Mask → Mask) → Mask → Wave → Nat → Wave) : (rejoinRes h d f s w x).memOk := by
  refine once_memOk hs fun g => ?_
  repeat' split
  · trivial
  · trivial
  · exact settle_memOk w x hs _ g

theorem movRes_memOk (d a : Operand) (ty : IType) : (movRes h d a ty s w x).memOk := by
  unfold movRes movSpec
  dsimp only
  repeat' (split)
  all_goals first | exact True.intro | exact hs

theorem voteRes_memOk (d a : Operand) (mode : VoteMode) : (voteRes h d a mode s w).memOk := by
  cases mode <;> exact memOk_same hs (by simp)

theorem ldRes_memOk (d a : Operand) (b : Option Operand) (ty : MemType) : (ldRes h d a b ty s w x).memOk := by
  unfold ldRes
  dsimp only
  split
  · trivial
  · split
    · exact hs
    · split
      · exact hs
      · exact ldAt_memOk _ _ _ _ _ _ _ hs

theorem stRes_memOk (d a : Operand) (b : Option Operand) (ty : MemType) : (stRes h d a b ty s w x).memOk := by
  unfold stRes
  dsimp only
  split
  · trivial
  · split
    · exact Res.exposing_memOk _ _ hs trivial
    · split
      · exact hs
      · split
        · exact hs
        · exact stAt_memOk _ _ _ _ _ _ (memOk_same hs (by simp))

theorem atomRes_memOk (d a : Operand) (b : Option Operand) (op : AtomOp) (ord : AtomOrd) (w64 : Bool) :
    (atomRes h d a b op ord w64 s w x).memOk := by
  unfold atomRes
  dsimp only
  split
  · trivial
  · split
    · exact Res.exposing_memOk _ _ hs trivial
    · split
      · exact hs
      · split
        · exact hs
        · exact atomAt_memOk _ _ _ _ _ _ _ _ (memOk_same hs (by simp))

theorem fenceRes_memOk (a : Operand) (b : Option Operand) (k : FenceKind) : (fenceRes h a b k s w x).memOk :=
  once_memOk hs fun _ => iteRes_memOk hs hs

/-- The wave's stores done, nothing else changes in memory. -/
theorem flushed_memOk : (s.flushStores s.cur (s.waveDom x)).memOk = true := State.flushStores_memOk _ _ _ hs

theorem copyAt_memOk (kind : CopyKind) (a b : Operand) (size : CpySize) (tag : BitVec 3) (arr : Bool)
    (ps : List (Nat × Loc)) (ts : List (Nat × Nat × Nat)) : (copyAt kind a b size tag arr s w x ps ts).memOk = true :=
  memOk_same (flushed_memOk x hs) (by simp [copyAt])

theorem copyRes_memOk (kind : CopyKind) (d a b : Operand) (size : CpySize) (tag : BitVec 3) (arr : Bool) :
    (copyRes kind h d a b size tag arr s w x).memOk := by
  unfold copyRes
  dsimp only
  split
  · exact hs
  · split
    · exact Res.exposing_memOk _ _ hs trivial
    · refine Res.exposing_memOk _ _ hs ?_
      split
      · next e => exact State.translateAll_memOk hs e
      · repeat' split
        · trivial
        · trivial
        · exact hs
        · exact copyAt_memOk w x hs ..

theorem onceAt_memOk (a : Word) (n align : Nat) {f : State → Mask → Res}
    (hf : ∀ (u : State) (g : Mask), u.memOk = true → (f u g).memOk) : (onceAt s w x h a n align f).memOk := by
  refine once_memOk hs fun g => ?_
  split
  · trivial
  · exact hf _ g (flushed_memOk x hs)

theorem slotRes_memOk (ring : BitVec 3) (o : Operand) (ok : RingSlot → Bool) (f : RingSlot → RingSlot) :
    (slotRes h ring o ok f s w x).memOk := by
  refine barrierOnce_memOk hs fun g => ?_
  dsimp only
  split
  · exact memOk_same (flushed_memOk x hs) (by simp)
  · trivial

theorem tileOnce_exposing_memOk {w : Wave} {h : Head} {f : Mask → Res} {b : Bool} (hf : ∀ g, (f g).memOk) :
    (tileOnce s w h f b).memOk :=
  once_memOk hs fun _ => iteRes_memOk (Res.exposing_memOk _ _ hs trivial) (hf _)

theorem launchOnce_exposing_memOk {w : Wave} {h : Head} {f : Mask → Res} {b : Bool} (hf : ∀ g, (f g).memOk) :
    (launchOnce s w h f b).memOk :=
  once_memOk hs fun _ => iteRes_memOk (Res.exposing_memOk _ _ hs trivial) (hf _)

theorem mmaRes_memOk (n : BitVec 3) (a b : Operand) (fmt : TileFmt) (acc sparse : Bool) :
    (mmaRes h n a b fmt acc sparse s w x).memOk :=
  tileOnce_memOk hs fun _ => tileAt_memOk (withSlot_memOk (tileQueue_memOk hs))

theorem claimRes_memOk (d : Operand) (n pa dom : Nat) : (claimRes h d n pa dom s).memOk := by
  unfold claimRes
  dsimp only
  refine State.memOk_keep (State.updWave_mem _ _ _) ?_
  split
  · exact State.memWrites_memOk _ _ _ _ hs
  · exact hs

theorem notifyDone_memOk (d : Option Operand) (status : Nat) (doorbell : BitVec 24) : (notifyDone h d status doorbell s).memOk :=
  memOk_same hs (by simp)

theorem reserving_memOk (kind : WaveKind) {f : Mask → Res} (hf : ∀ g, (f g).memOk) : (reserving s w h kind f).memOk := by
  unfold reserving
  dsimp only
  repeat' split
  · exact hs
  · trivial
  · trivial
  · exact hf _

omit hs in
theorem withStruct_memOk (g : Mask) (a : Word) (n align : Nat) {f : Res} (hf : f.memOk) : (withStruct w x g a n align f).memOk := by
  unfold withStruct
  split
  · trivial
  · exact hf

omit hs in
theorem withRegion_memOk (g : Mask) (dom : BitVec 3) {f : Nat → Res} (hf : ∀ n, (f n).memOk) : (withRegion s x g dom f).memOk := by
  unfold withRegion
  split
  · trivial
  · exact hf _

theorem pendCollection_memOk (c : PendCopy) : (pendCollection c s w x).memOk := by
  unfold pendCollection
  dsimp only
  split
  · exact hs
  · exact memOk_same (s := (s.expose w (c.kind == .look)).flushStores s.cur (s.waveDom x))
      (State.flushStores_memOk _ _ _ (memOk_same hs (by simp))) (by simp)

theorem handCard_memOk (tag : Nat) (a : Word) (slot : Option (Nat × List Byte)) : (handCard tag a slot s w x).memOk = true :=
  memOk_same hs rfl

theorem exitItems_memOk (w' : Wave) (g : Mask) : (s.exitItems w' g).1.memOk = true := memOk_same hs (by simp)

theorem assistRes_memOk (a : Operand) (f : Mask → Wave → Wave) : (assistRes h a f s w x).memOk :=
  once_memOk hs fun _ => iteRes_memOk trivial hs

theorem rootCas_memOk (d : Operand) (shape : DWord) (pa dom : Nat) (g : Mask) : (rootCas h d shape pa dom s w x g).memOk := by
  unfold rootCas
  dsimp only
  split
  · trivial
  · split
    · trivial
    · split
      · trivial
      · next r hr =>
        have hr' : ((r.2.flushStores s.cur (s.waveDom x)).expose w true).memOk = true :=
          State.memOk_keep (State.expose_mem _ _ _) (State.flushStores_memOk _ _ _ (State.memOk_keep (State.incr_mem hr) hs))
        refine State.memOk_keep (State.updWave_mem _ _ _) (ite_memOk ?_ (memOk_same hr' (by simp)))
        exact State.memOk_keep (State.unref_mem _ _ _) (State.memWrites_memOk _ _ _ _ hr')

theorem copyOut_memOk (tag : BitVec 3) (addr : Word) (pa dom : Nat) (g : Mask) : (copyOut tag addr pa dom s w x g).memOk := by
  unfold copyOut
  dsimp only
  split
  · trivial
  · split
    · exact hs
    · split
      · trivial
      · next r hr =>
        exact handCard_memOk _ _ (State.memOk_keep (State.expose_mem _ _ _) (State.flushStores_memOk _ _ _ (State.memOk_keep (State.incr_mem hr) hs))) ..

/-- The pages of an access that acts once are translated, and it goes on with the first. -/
theorem translated_memOk {c : Nat} {vas : List (Nat × DWord)} {need : Need} {f : Nat × Nat × Nat → Res} (hf : ∀ t, (f t).memOk) :
    (match s.translateAll w c vas need with | .error r => r | .ok [] => .stall s | .ok (t :: _) => f t).memOk := by
  split
  · next e => exact State.translateAll_memOk hs e
  · exact hs
  · exact hf _

end Bodies

/-! ### Instructions with a body of several steps -/

theorem keepsForm_hret {h : Head} {a : Operand} : KeepsForm (.hret h a) := by
  refine keepsForm_of_issue (fun _ => execHret.eq_def ..) fun _ w x hs => once_memOk hs fun g => ?_
  repeat' (split)
  all_goals first | exact True.intro | exact hs

theorem keepsForm_exit {h : Head} : KeepsForm (.exit h) :=
  keepsForm_of_issue (fun _ => execExit.eq_def ..) fun _ w x hs => settle_memOk w x (exitItems_memOk hs ..) ..

theorem keepsForm_bulk {h : Head} {a : Operand} {b : Option Operand} {tag : BitVec 3} : KeepsForm (.bulk h a b tag) := by
  refine keepsForm_of_issue (fun _ => execBulk.eq_def ..) fun _ w x hs => once_memOk hs fun g => ?_
  split
  · trivial
  · exact iteRes_memOk hs (handCard_memOk w x (memOk_same (flushed_memOk x hs) (by simp)) ..)

theorem keepsForm_arrinit {h : Head} {a b : Operand} : KeepsForm (.arrinit h a b) := by
  refine keepsForm_of_issue (fun _ => execArrinit.eq_def ..) fun s w x hs => once_memOk hs fun g => ?_
  dsimp only
  split
  · trivial
  · split
    · exact hs
    · split
      · refine State.memOk_keep (State.updWave_mem _ _ _) (foldl_memOk (fun _ _ hu => ?_) _ _ (flushed_memOk x hs))
        exact State.ldsWrites_memOk _ _ _ _ hu
      · exact hs

theorem keepsForm_arrwait {h : Head} {d a b : Operand} : KeepsForm (.arrwait h d a b) :=
  keepsForm_of_issue (fun _ => execArrwait.eq_def ..) fun _ w x hs => onceAt_memOk w x h hs _ _ _ fun u _ hu =>
    iteRes_memOk (memOk_same hu (by simp)) (memOk_same hu (by simp))

theorem keepsForm_arrtest {h : Head} {d a b : Operand} : KeepsForm (.arrtest h d a b) :=
  keepsForm_of_issue (fun _ => execArrtest.eq_def ..) fun _ w x hs => onceAt_memOk w x h hs _ _ _ fun _ _ hu => memOk_same hu (by simp)

theorem keepsForm_crpoll {h : Head} {d a : Operand} : KeepsForm (.crpoll h d a) :=
  keepsForm_of_issue (fun _ => execCrpoll.eq_def ..) fun _ w x hs => onceAt_memOk w x h hs _ _ _ fun u _ hu =>
    iteRes_memOk (memOk_same hu (by simp)) (State.memOk_keep (State.updWave_mem _ _ _) (State.ldsWrites_memOk _ u _ _ hu))

theorem keepsForm_crsleep {h : Head} {a : Operand} : KeepsForm (.crsleep h a) :=
  keepsForm_of_issue (fun _ => execCrsleep.eq_def ..) fun _ w x hs => onceAt_memOk w x h hs _ _ _ fun u _ hu =>
    iteRes_memOk hu (memOk_same hu (by simp))

theorem keepsForm_srbind {h : Head} {d a b : Operand} {ring : BitVec 3} : KeepsForm (.srbind h d a b ring) := by
  refine keepsForm_of_issue (fun _ => execSrbind.eq_def ..) fun _ w x hs => barrierOnce_memOk hs fun g => ?_
  dsimp only
  split
  · trivial
  · exact iteRes_memOk (memOk_same (flushed_memOk x hs) (by simp)) trivial

theorem keepsForm_tdrain {h : Head} {d : Operand} {n : BitVec 3} {b : Option Operand} {wd : DrainWidth} {mode : DrainMode}
    {hbm : Bool} : KeepsForm (.tdrain h d n b wd mode hbm) := by
  refine keepsForm_of_issue (fun _ => execTdrain.eq_def ..) fun s w x hs => tileOnce_exposing_memOk hs fun g => ?_
  dsimp only
  split
  · refine Res.exposing_memOk _ _ hs (iteRes_memOk trivial ?_)
    split
    · next e => exact State.translateAll_memOk hs e
    · exact drainAt_memOk hs
  · exact tileAt_memOk (Res.exposing_memOk _ _ hs (drainAt_memOk hs))

theorem keepsForm_dlaunch {h : Head} {d a : Operand} : KeepsForm (.dlaunch h d a) := by
  refine keepsForm_of_issue (fun _ => execDlaunch.eq_def ..) fun s w x hs => launchOnce_exposing_memOk hs fun g => ?_
  have hf := flushed_memOk x hs
  dsimp only
  split
  · trivial
  · refine iteRes_memOk (Res.exposing_memOk _ _ hs trivial) (iteRes_memOk hf (iteRes_memOk ?_ ?_))
    · exact memOk_same hf (by simp)
    · exact memOk_same hf (by simp)

theorem keepsForm_dlwait {h : Head} {d a : Operand} : KeepsForm (.dlwait h d a) := by
  refine keepsForm_of_issue (fun _ => execDlwait.eq_def ..) fun s w x hs => launchOnce_exposing_memOk hs fun g => ?_
  dsimp only
  split <;> exact hs

theorem keepsForm_nodeput {h : Head} {d : Option Operand} {a b : Operand} : KeepsForm (.nodeput h d a b) := by
  refine keepsForm_of_issue (fun _ => execNodeput.eq_def ..) fun s w x hs => launchOnce_exposing_memOk hs fun g => ?_
  have hf := flushed_memOk x hs
  dsimp only
  split
  · trivial
  · split
    · exact Res.exposing_memOk _ _ hs trivial
    · exact iteRes_memOk hf (memOk_same hf (by simp))

theorem keepsForm_qclaim {h : Head} {d a : Operand} {b : Option Operand} : KeepsForm (.qclaim h d a b) :=
  keepsForm_of_issue (fun _ => execQclaim.eq_def ..) fun _ w _ hs => launchOnce_exposing_memOk hs fun _ =>
    iteRes_memOk trivial (translated_memOk w hs fun _ => claimRes_memOk h hs ..)

theorem keepsForm_qnotify {h : Head} {d : Option Operand} {a b : Operand} : KeepsForm (.qnotify h d a b) := by
  refine keepsForm_of_issue (fun _ => execQnotify.eq_def ..) fun s w x hs => launchOnce_exposing_memOk hs fun g => ?_
  have ht : ∀ n, ((s.settleQueue n).expose w true).memOk = true := fun n => memOk_same hs (by simp)
  dsimp only
  split
  · exact notifyDone_memOk h (State.dropNotify_memOk _ _ (ht _)) ..
  · refine iteRes_memOk (notifyDone_memOk h (State.memOk_keep (State.rouse_mem _ _) (ht _)) ..) (iteRes_memOk (flushed_memOk x hs) ?_)
    exact notifyDone_memOk h (State.notifyQueue_memOk _ _ _ _ (State.flushStores_memOk _ _ _ (ht _))) ..

theorem keepsForm_claim {h : Head} {a : Operand} {b : Option Operand} : KeepsForm (.claim h a b) := by
  refine keepsForm_of_issue (fun _ => execClaim.eq_def ..) fun _ w x hs => reserving_memOk w h hs _ fun g => ?_
  dsimp only
  split
  · trivial
  · exact hs

theorem keepsForm_claimend {h : Head} {b : Operand} : KeepsForm (.claimend h b) := by
  refine keepsForm_of_issue (fun _ => execClaimend.eq_def ..) fun s w x hs => reserving_memOk w h hs _ fun g => ?_
  refine iteRes_memOk trivial ?_
  dsimp only
  split
  · trivial
  · exact settle_memOk w x (memOk_same hs (by simp)) ..

theorem keepsForm_itemend {h : Head} : KeepsForm (.itemend h) :=
  keepsForm_of_issue (fun _ => execItemend.eq_def ..) fun _ w _ hs => reserving_memOk w h hs _ fun _ =>
    State.memOk_keep (State.setWave_mem _ _ _) (exitItems_memOk hs ..)

theorem keepsForm_clook {h : Head} {d a : Operand} {dom tag : BitVec 3} {node : Bool} : KeepsForm (.clook h d a dom tag node) :=
  keepsForm_of_issue (fun _ => execClook.eq_def ..) fun _ w x hs => once_memOk hs fun _ =>
    withStruct_memOk w x _ _ _ _ (withStruct_memOk w x _ _ _ _ (Res.exposing_memOk _ _ hs
      (withRegion_memOk x _ _ fun _ => pendCollection_memOk w x hs _)))

theorem keepsForm_cfetch {h : Head} {d a : Operand} {b : Option Operand} {dom tag : BitVec 3} : KeepsForm (.cfetch h d a b dom tag) := by
  refine keepsForm_of_issue (fun _ => execCfetch.eq_def ..) fun s w x hs => once_memOk hs fun _ => ?_
  have hn : ∀ (g : Mask) (c : Nat → PendCopy), (withRegion s x g dom fun n => pendCollection (c n) s w x).memOk :=
    fun g c => withRegion_memOk x _ _ fun _ => pendCollection_memOk w x hs _
  refine withStruct_memOk w x _ _ _ _ ?_
  split
  · exact withStruct_memOk w x _ _ _ _ (hn _ _)
  · exact hn _ _

theorem keepsForm_cref {h : Head} {d a : Operand} {dom : BitVec 3} : KeepsForm (.cref h d a dom) :=
  keepsForm_of_issue (fun _ => execCref.eq_def ..) fun s w x hs => once_memOk hs fun _ =>
    Res.exposing_memOk _ _ hs (withRegion_memOk x _ _ fun _ => by
      split
      · trivial
      · next hr => exact memOk_same (State.memOk_keep (State.incr_mem hr) hs) (by simp))

theorem keepsForm_cunref {h : Head} {d a : Operand} {dom : BitVec 3} : KeepsForm (.cunref h d a dom) :=
  keepsForm_of_issue (fun _ => execCunref.eq_def ..) fun s w x hs => once_memOk hs fun _ =>
    Res.exposing_memOk _ _ hs (withRegion_memOk x _ _ fun _ => by
      split
      · trivial
      · next hr => exact memOk_same (State.memOk_keep (State.decr_mem hr) hs) (by simp))

theorem keepsForm_crootcas {h : Head} {d a b : Operand} : KeepsForm (.crootcas h d a b) :=
  keepsForm_of_issue (fun _ => execCrootcas.eq_def ..) fun _ w x hs => once_memOk hs fun _ =>
    Res.exposing_memOk _ _ hs (iteRes_memOk trivial (translated_memOk w hs fun _ => rootCas_memOk w x h hs ..))

theorem keepsForm_ccopyout {h : Head} {a b : Operand} {tag : BitVec 3} : KeepsForm (.ccopyout h a b tag) :=
  keepsForm_of_issue (fun _ => execCcopyout.eq_def ..) fun _ w x hs => once_memOk hs fun _ =>
    withStruct_memOk w x _ _ _ _ (Res.exposing_memOk _ _ hs
      (iteRes_memOk trivial (translated_memOk w hs fun _ => copyOut_memOk w x hs ..)))

end Sys2Proof.Proofs

/-! SUPPORT. What each event of the device keeps of the memories' canonical form, the events whose effect takes several
steps, and every instruction and event. -/

namespace Sys2Proof.Proofs

open Sys2Proof.Machine

/-- Whatever next state an outcome answers, its memories are in canonical form. -/
def AnswersOk (o : Host.Outcome State Fault Refusal) : Prop := ∀ t, o = .next t → t.memOk = true

theorem answersOk_next {s : State} (hs : s.memOk = true) : AnswersOk (.next s) := fun _ ht => by
  cases ht; exact hs

theorem answersOk_fault {f : Fault} : AnswersOk (.fault f) := fun _ ht => by cases ht

theorem answersOk_ite {p : Prop} [Decidable p] {a b : Host.Outcome State Fault Refusal} (ha : AnswersOk a) (hb : AnswersOk b) :
    AnswersOk (if p then a else b) := by
  split
  · exact ha
  · exact hb

theorem keepsForm_of_answersOk {i : Instr} {f : State → Host.Outcome State Fault Refusal} (meaning : ∀ s, exec i s = f s)
    (hf : ∀ s, s.memOk = true → AnswersOk (f s)) : KeepsForm i := fun s t hs ht => hf s hs t (meaning s ▸ ht)

/-! ### Events of the waves -/

theorem keepsForm_hintSpaceWord {b : BitVec 92} : KeepsForm (.hintSpaceWord b) := by
  refine keepsForm_of_answersOk (execHintSpaceWord.eq_def b) fun s hs => ?_
  split
  · exact answersOk_fault
  · exact answersOk_next (memOk_same hs (by simp))

theorem keepsForm_writeRunm {n : Nat} {v : BitVec 64} : KeepsForm (.writeRunm n v) := by
  refine keepsForm_of_inHandler (fun _ => execWriteRunm.eq_def ..) fun s w x hs => ?_
  split <;> exact memOk_same hs (by simp)

theorem keepsForm_readFflags {n : Nat} {d : Operand} : KeepsForm (.readFflags n d) :=
  keepsForm_of_onWave (fun _ => execReadFflags.eq_def ..) fun _ _ _ hs => ite_memOk hs hs

theorem keepsForm_writeSpecialRegister {n : Nat} {no : BitVec 8} {v : BitVec 64} : KeepsForm (.writeSpecialRegister n no v) := by
  refine keepsForm_of_onWave (fun _ => execWriteSpecialRegister.eq_def ..) fun s w x hs => ?_
  have hput : ∀ r : Except Cause Wave, (match r with
      | .ok w' => s.setWave n w'
      | .error c => s.deliver n w x c w.run 0 0).memOk = true := fun r => by
    cases r <;> exact memOk_same hs (by simp)
  dsimp only
  split
  · exact hput _
  · exact ite_memOk (memOk_same hs (by simp)) (hput _)
  · exact memOk_same hs (by simp)

theorem keepsForm_serialSteering {n : Nat} : KeepsForm (.serialSteering n) :=
  keepsForm_of_onWave (fun _ => execSerialSteering.eq_def ..) fun _ _ _ hs => ite_memOk (memOk_same hs (by simp)) hs

theorem keepsForm_quantumEnd {n : Nat} : KeepsForm (.quantumEnd n) := by
  refine keepsForm_of_onWave (fun _ => execQuantumEnd.eq_def ..) fun s w x hs => ?_
  repeat' (split)
  all_goals exact memOk_same hs (by simp)

theorem keepsForm_handlerOverrun {n : Nat} : KeepsForm (.handlerOverrun n) :=
  keepsForm_of_onWave (fun _ => execHandlerOverrun.eq_def ..) fun _ _ _ hs => ite_memOk (memOk_same hs (by simp)) hs

theorem keepsForm_waveEnd {n : Nat} : KeepsForm (.waveEnd n) :=
  keepsForm_of_onWave (fun _ => execWaveEnd.eq_def ..) fun s w x hs =>
    ite_memOk (State.memOk_keep (State.leaveBarriers_mem s w x) hs) hs

theorem keepsForm_loadComplete {n : Nat} {err : Option MemError} : KeepsForm (.loadComplete n err) := by
  refine keepsForm_of_onWave (fun _ => execLoadComplete.eq_def ..) fun s w x hs => ?_
  split
  · exact hs
  · exact ite_memOk hs (memOk_same hs (by simp))

theorem keepsForm_storePerformed {n : Nat} : KeepsForm (.storePerformed n) := by
  refine keepsForm_of_onWave (fun _ => execStorePerformed.eq_def ..) fun s w x hs => ?_
  split
  · exact hs
  · exact State.performAtoms_memOk _ _ _ _ (State.memOk_keep (State.updWave_mem _ _ _) (State.perform_memOk _ _ _ _ hs))

theorem keepsForm_copyLaneDone {n op lane : Nat} {peer : List Byte} {err : Option MemError} :
    KeepsForm (.copyLaneDone n op lane peer err) := by
  refine keepsForm_of_onWave (fun _ => execCopyLaneDone.eq_def ..) fun s w x hs => ?_
  have hl : ∀ c l bs, (s.landLane n x c l bs).memOk = true := fun c l bs => State.landLane_memOk _ _ _ _ _ _ hs
  split
  · exact hs
  · refine ite_memOk hs ?_
    split
    · exact ite_memOk (ite_memOk (hl ..) hs) (State.memOk_keep (State.waveError_mem ..) (hl ..))
    · exact hl ..
    · exact State.memOk_keep (State.waveError_mem ..) (hl ..)

theorem keepsForm_peerPathTimeout {n op lane : Nat} : KeepsForm (.peerPathTimeout n op lane) := by
  refine keepsForm_of_onWave (fun _ => execPeerPathTimeout.eq_def ..) fun s w x hs => ?_
  split
  · exact hs
  · split
    · exact hs
    · exact ite_memOk (State.memOk_keep (State.notice_mem ..) (State.landLane_memOk _ _ _ _ _ _ hs)) hs

/-! A wave that waits wakes, or stays as it is. -/

theorem keepsForm_arrwaitWake {n : Nat} : KeepsForm (.arrwaitWake n) := by
  refine keepsForm_of_onWave (fun _ => execArrwaitWake.eq_def ..) fun s w x hs => ?_
  split
  · exact ite_memOk (State.wake_memOk _ _ _ hs) hs
  · exact hs

theorem keepsForm_crsleepWake {n : Nat} : KeepsForm (.crsleepWake n) := by
  refine keepsForm_of_onWave (fun _ => execCrsleepWake.eq_def ..) fun s w x hs => ?_
  split
  · exact ite_memOk (State.wake_memOk _ _ _ hs) hs
  · exact hs

theorem keepsForm_barrierWake {n : Nat} : KeepsForm (.barrierWake n) := by
  refine keepsForm_of_onWave (fun _ => execBarrierWake.eq_def ..) fun s w x hs => ?_
  split
  · exact ite_memOk (State.wake_memOk _ _ _ hs) hs
  · exact hs

theorem keepsForm_ringWake {n : Nat} : KeepsForm (.ringWake n) := by
  refine keepsForm_of_onWave (fun _ => execRingWake.eq_def ..) fun s w x hs => ?_
  split
  · exact ite_memOk (State.wake_memOk _ _ _ (memOk_same hs (by simp))) hs
  · exact ite_memOk (State.wake_memOk _ _ _ (memOk_same hs (by simp))) hs
  · exact hs

theorem keepsForm_dlwaitWake {n : Nat} : KeepsForm (.dlwaitWake n) := by
  refine keepsForm_of_onWave (fun _ => execDlwaitWake.eq_def ..) fun s w x hs => ?_
  split
  · split
    · exact ite_memOk (State.wake_memOk _ _ _ hs) hs
    · exact hs
  · exact hs

theorem keepsForm_tileCountFall {f : TileFall} : KeepsForm (.tileCountFall f) := by
  refine keepsForm_of_onWave (fun _ => execTileCountFall.eq_def ..) fun s w x hs => ?_
  split
  · exact hs
  · refine ite_memOk hs ?_
    split
    · exact hs
    · next r =>
      exact State.memOk_keep ((State.waveError_mem ..).trans ((State.updWave_mem ..).trans (State.updMatrix_mem ..)))
        (tileEffect_memOk hs r)

theorem keepsForm_seqContribution {n : Nat} : KeepsForm (.seqContribution n) := by
  refine keepsForm_of_onWave (fun _ => execSeqContribution.eq_def ..) fun s w x hs => ?_
  split
  · refine ite_memOk hs ?_
    split
    · next h => exact State.memOk_keep (State.updWave_mem ..) (State.arrive_memOk hs h)
    · exact hs
  · exact hs

theorem structPutOpt_memOk {s : State} {w : Wave} {x : WCtx} {o : Option Word} {bs : List Byte} {l : List Nat} (hs : s.memOk = true) :
    (match o with | some a => s.structPut w x a bs l | none => s).memOk = true := by
  split
  · exact State.structPut_memOk _ _ _ _ _ _ hs
  · exact hs

theorem lookMade_mem (s : State) (w : Wave) (x : WCtx) (c : PendCopy) (err : Option MemError) : (s.lookMade w x c err).2.mem = s.mem := by
  unfold State.lookMade
  dsimp only
  split
  · rfl
  · split
    · exact State.lookLine_mem ..
    · rfl

theorem keepsForm_clookFinish {n op : Nat} {err : Option MemError} : KeepsForm (.clookFinish n op err) := by
  refine keepsForm_of_onWave (fun _ => execClookFinish.eq_def ..) fun s w x hs => ?_
  split
  · exact hs
  · exact State.memOk_keep ((State.waveError_mem ..).trans (State.updWave_mem ..))
      (structPutOpt_memOk (State.memOk_keep (lookMade_mem s w x _ err) hs))

theorem keepsForm_cfetchFinish {n op : Nat} {err : Option MemError} : KeepsForm (.cfetchFinish n op err) := by
  refine keepsForm_of_onWave (fun _ => execCfetchFinish.eq_def ..) fun s w x hs => ?_
  split
  · exact hs
  · refine State.memOk_keep ((State.waveError_mem ..).trans (State.updWave_mem ..)) (structPutOpt_memOk ?_)
    split
    · exact State.structPut_memOk _ _ _ _ _ _ hs
    · exact hs

theorem keepsForm_itemRetire {n : Nat} : KeepsForm (.itemRetire n) := by
  refine keepsForm_of_onWave (fun _ => execItemRetire.eq_def ..) fun s w x hs => ?_
  split <;> exact memOk_same hs (by simp)

theorem keepsForm_cascade {d : Nat} : KeepsForm (.cascade d) :=
  keepsForm_of_next (fun _ => execCascade.eq_def ..) fun _ hs => memOk_same hs (by simp)

theorem keepsForm_gridCancel {g : Nat} : KeepsForm (.gridCancel g) :=
  keepsForm_of_next (fun _ => execGridCancel.eq_def ..) fun _ hs => memOk_same hs (by simp)

theorem keepsForm_gathererUnbind {d i : Nat} : KeepsForm (.gathererUnbind d i) :=
  keepsForm_of_next (fun _ => execGathererUnbind.eq_def ..) fun _ hs => memOk_same hs (by simp)

theorem keepsForm_folioTimeout {c : Nat} : KeepsForm (.folioTimeout c) :=
  keepsForm_of_next (fun _ => execFolioTimeout.eq_def ..) fun _ hs => memOk_same hs (by simp)

theorem keepsForm_faultRetry {n : Nat} : KeepsForm (.faultRetry n) :=
  keepsForm_of_onFaulted (fun _ => execFaultRetry.eq_def ..) fun _ _ _ _ hs => State.resumeFault_memOk _ _ _ _ _ hs

theorem keepsForm_faultContinue {n : Nat} : KeepsForm (.faultContinue n) :=
  keepsForm_of_onFaulted (fun _ => execFaultContinue.eq_def ..) fun _ _ _ _ hs =>
    ite_memOk (State.resumeFault_memOk _ _ _ _ _ hs) (State.badTarget_memOk _ _ _ _ _ hs)

theorem keepsForm_faultRedirect {n : Nat} {pc : BitVec 32} : KeepsForm (.faultRedirect n pc) :=
  keepsForm_of_onFaulted (fun _ => execFaultRedirect.eq_def ..) fun _ _ _ _ hs =>
    ite_memOk (State.resumeFault_memOk _ _ _ _ _ hs) (State.badTarget_memOk _ _ _ _ _ hs)

theorem keepsForm_debugHalt {n : Nat} : KeepsForm (.debugHalt n) :=
  keepsForm_of_onDebugged (fun _ => execDebugHalt.eq_def ..) fun _ _ _ hs => ite_memOk hs hs

theorem keepsForm_haltReported {n : Nat} : KeepsForm (.haltReported n) :=
  keepsForm_of_onWave (fun _ => execHaltReported.eq_def ..) fun _ _ _ hs => ite_memOk hs hs

theorem keepsForm_debugResume {n : Nat} : KeepsForm (.debugResume n) :=
  keepsForm_of_onDebugged (fun _ => execDebugResume.eq_def ..) fun _ _ _ hs =>
    ite_memOk hs (ite_memOk (memOk_same hs (by simp)) hs)

theorem keepsForm_debugStep {n : Nat} : KeepsForm (.debugStep n) := by
  refine keepsForm_of_answersOk (fun _ => execDebugStep.eq_def ..) fun s hs => ?_
  split
  · refine answersOk_next ?_
    cases h : s.replayStep n with
    | none => exact hs
    | some t => exact State.memOk_keep (State.replayStep_mem h) hs
  · intro t ht
    refine onDebugged_memOk (fun w x => ?_) hs ht
    refine ite_memOk hs ?_
    have hw : (s.rouseIsland w).memOk = true := memOk_same hs (by simp)
    exact ite_memOk (State.memOk_keep (State.pastBrkpt_mem ..) hw) hw

theorem keepsForm_debugStateWrite {n : Nat} {wr : DbgWrite} : KeepsForm (.debugStateWrite n wr) := by
  refine keepsForm_of_answersOk (fun _ => execDebugStateWrite.eq_def ..) fun s hs => ?_
  split
  · exact answersOk_next hs
  · intro t ht
    refine onWave_memOk (fun w x => ?_) hs ht
    refine ite_memOk hs (ite_memOk hs ?_)
    split
    · exact hs
    · next h =>
      have hw := State.debugPut_memOk (memOk_same hs (by simp)) h
      exact State.rewritten_memOk _ _ (ite_memOk (State.memOk_keep (State.updCtx_mem ..) hw) hw)

theorem keepsForm_linkPartnerDetect {p : Nat} : KeepsForm (.linkPartnerDetect p) :=
  keepsForm_of_onPort fun _ => execLinkPartnerDetect.eq_def ..

/-! ### Cards -/

theorem keepsForm_cardRead {d c : Nat} : KeepsForm (.cardRead d c) := by
  refine keepsForm_of_answersOk (fun _ => execCardRead.eq_def ..) fun s hs => ?_
  split
  · exact answersOk_next hs
  · intro t ht
    refine onCard_memOk (fun c => ite_memOk hs ?_) hs ht
    dsimp only
    split <;> exact memOk_same hs (by simp)

theorem keepsForm_cardStart {k : Nat} {os : List PeerCard} : KeepsForm (.cardStart k os) := by
  refine keepsForm_of_onEnding (fun _ => execCardStart.eq_def ..) fun s c hs => ite_memOk hs ?_
  have hp : (s.pairing c os).memOk = true := memOk_same hs (by simp)
  split
  · exact State.endCard_memOk _ _ _ _ _ hp
  · split
    · exact ite_memOk hs (State.memOk_keep (State.setCard_mem ..) hp)
    · exact hs

theorem keepsForm_cardDone {k : Nat} {err : Option MemError} : KeepsForm (.cardDone k err) := by
  refine keepsForm_of_onEnding (fun _ => execCardDone.eq_def ..) fun s c hs => ite_memOk hs ?_
  have h1 := State.cardPieces_memOk ((c.total - c.moved + 4095) / 4096) s k hs
  dsimp only
  split
  · exact h1
  · refine ite_memOk (State.endCard_memOk _ _ _ _ _ (Card.damaged_memOk _ _ _ h1)) ?_
    split
    · exact State.endCard_memOk _ _ _ _ _ h1
    · exact State.endCard_memOk _ _ _ _ _ h1
    · exact h1

theorem keepsForm_cardPartialFault {k : Nat} : KeepsForm (.cardPartialFault k) := by
  refine keepsForm_of_onEnding (fun _ => execCardPartialFault.eq_def ..) fun s c hs => ?_
  split
  · exact State.stopCard_memOk _ _ _ _ _ _ hs
  · exact hs

theorem keepsForm_cardResume {k : Nat} : KeepsForm (.cardResume k) :=
  keepsForm_of_onGoing (fun _ => execCardResume.eq_def ..) fun _ _ hs => ite_memOk hs hs

theorem keepsForm_cardCancel {k : Nat} : KeepsForm (.cardCancel k) := by
  refine keepsForm_of_onEnding (fun _ => execCardCancel.eq_def ..) fun s c hs => ?_
  split
  · exact State.endCard_memOk _ _ _ _ _ (ite_memOk hs hs)
  · exact State.endCard_memOk _ _ _ _ _ hs
  · exact State.endCard_memOk _ _ _ _ _ hs
  · exact hs

theorem keepsForm_cardCredit {k n : Nat} : KeepsForm (.cardCredit k n) :=
  keepsForm_of_onGoing (fun _ => execCardCredit.eq_def ..) fun _ _ hs => ite_memOk (State.cardPiece_memOk _ _ _ hs) hs

theorem keepsForm_collectiveDone {k : Nat} {r : Contributions} : KeepsForm (.collectiveDone k r) := by
  refine keepsForm_of_onEnding (fun _ => execCollectiveDone.eq_def ..) fun s c hs =>
    ite_memOk (State.endCard_memOk _ _ _ _ _ hs) ?_
  split
  · exact hs
  · next h => exact State.endCard_memOk _ _ _ _ _ (Card.finish_memOk _ _ _ _ (State.memOk_keep (Card.sources_mem h) hs))

end Sys2Proof.Proofs

/-! SUPPORT. What the events of dispatch, the queues, the contexts and the device keep of the memories' canonical form. -/

namespace Sys2Proof.Proofs

open Sys2Proof.Machine

/-! ### Events that change no byte of memory, whatever they come to -/

theorem keepsForm_pageFaultResolution {die core resolved} : KeepsForm (.pageFaultResolution die core resolved) := by
  refine keepsForm_of_answersOk (fun _ => execPageFaultResolution.eq_def ..) fun s hs => ?_
  dsimp only
  repeat' (split)
  all_goals exact answersOk_next (memOk_same hs (by simp))

theorem keepsForm_invalidationComplete {idx} : KeepsForm (.invalidationComplete idx) := by
  refine keepsForm_of_answersOk (fun _ => execInvalidationComplete.eq_def ..) fun s hs => ?_
  repeat' (split)
  all_goals exact answersOk_next hs

theorem keepsForm_ringBoundPost {block partner ring slot} : KeepsForm (.ringBoundPost block partner ring slot) := by
  refine keepsForm_of_answersOk (fun _ => execRingBoundPost.eq_def ..) fun s hs => ?_
  dsimp only
  repeat' (split)
  all_goals exact answersOk_next hs

theorem keepsForm_kernelUnloaded {ctx obj} : KeepsForm (.kernelUnloaded ctx obj) := by
  refine keepsForm_of_answersOk (fun _ => execKernelUnloaded.eq_def ..) fun s hs => ?_
  dsimp only
  repeat' (split)
  all_goals exact answersOk_next hs

theorem keepsForm_gridRetire {grid} : KeepsForm (.gridRetire grid) := by
  refine keepsForm_of_answersOk (fun _ => execGridRetire.eq_def ..) fun s hs => ?_
  dsimp only
  repeat' (split)
  all_goals exact answersOk_next hs

theorem keepsForm_batchCountdown {die gatherer} : KeepsForm (.batchCountdown die gatherer) := by
  refine keepsForm_of_answersOk (fun _ => execBatchCountdown.eq_def ..) fun s hs => ?_
  repeat' (split)
  all_goals exact answersOk_next (memOk_same hs (by simp))

theorem keepsForm_reservingLaunchStart {die home p} : KeepsForm (.reservingLaunchStart die home p) := by
  refine keepsForm_of_answersOk (fun _ => execReservingLaunchStart.eq_def ..) fun s hs => ?_
  dsimp only
  repeat' (split)
  all_goals exact answersOk_next (memOk_same hs (by simp))

theorem keepsForm_dieSlotReport {die} : KeepsForm (.dieSlotReport die) :=
  keepsForm_of_next (fun _ => execDieSlotReport.eq_def ..) fun _ hs => memOk_same hs (by simp)

theorem keepsForm_drainBudgetExpire {block} : KeepsForm (.drainBudgetExpire block) := by
  refine keepsForm_of_answersOk (fun _ => execDrainBudgetExpire.eq_def ..) fun s hs => ?_
  repeat' (split)
  all_goals exact answersOk_next hs

theorem keepsForm_blockFlush {block} : KeepsForm (.blockFlush block) := by
  refine keepsForm_of_answersOk (fun _ => execBlockFlush.eq_def ..) fun s hs => ?_
  repeat' (split)
  all_goals exact answersOk_next hs

theorem keepsForm_pifoReinsert {q rank} : KeepsForm (.pifoReinsert q rank) := by
  refine keepsForm_of_answersOk (fun _ => execPifoReinsert.eq_def ..) fun s hs => ?_
  repeat' (split)
  all_goals exact answersOk_next hs

theorem keepsForm_rankProgramInstall {idx steps} : KeepsForm (.rankProgramInstall idx steps) := by
  refine keepsForm_of_answersOk (fun _ => execRankProgramInstall.eq_def ..) fun s hs => ?_
  repeat' (split)
  all_goals exact answersOk_next hs

theorem keepsForm_makeResident {ctx} : KeepsForm (.makeResident ctx) := by
  refine keepsForm_of_answersOk (fun _ => execMakeResident.eq_def ..) fun s hs => ?_
  repeat' (split)
  all_goals exact answersOk_next hs

theorem keepsForm_contextEvict {ctx} : KeepsForm (.contextEvict ctx) := by
  refine keepsForm_of_answersOk (fun _ => execContextEvict.eq_def ..) fun s hs => ?_
  repeat' (split)
  all_goals exact answersOk_next hs

theorem keepsForm_faultLogLostClear {ctx} : KeepsForm (.faultLogLostClear ctx) :=
  keepsForm_of_next (fun _ => execFaultLogLostClear.eq_def ..) fun _ hs => hs

theorem keepsForm_heartbeat {cluster} : KeepsForm (.heartbeat cluster) := by
  refine keepsForm_of_answersOk (fun _ => execHeartbeat.eq_def ..) fun s hs => ?_
  dsimp only
  repeat' (split)
  all_goals exact answersOk_next hs

theorem keepsForm_debugGrant {ask agent} : KeepsForm (.debugGrant ask agent) := by
  refine keepsForm_of_answersOk (fun _ => execDebugGrant.eq_def ..) fun s hs => ?_
  dsimp only
  repeat' (split)
  all_goals exact answersOk_next hs

theorem keepsForm_debugAttach {ctx agent} : KeepsForm (.debugAttach ctx agent) := by
  refine keepsForm_of_answersOk (fun _ => execDebugAttach.eq_def ..) fun s hs => ?_
  repeat' (split)
  all_goals exact answersOk_next hs

theorem keepsForm_breakpointSet {ctx kernel pc} : KeepsForm (.breakpointSet ctx kernel pc) := by
  refine keepsForm_of_answersOk (fun _ => execBreakpointSet.eq_def ..) fun s hs => ?_
  repeat' (split)
  all_goals exact answersOk_next hs

theorem keepsForm_debugRevoke {ask} : KeepsForm (.debugRevoke ask) := by
  refine keepsForm_of_answersOk (fun _ => execDebugRevoke.eq_def ..) fun s hs => ?_
  repeat' (split)
  all_goals exact answersOk_next (memOk_same hs (by simp))

theorem keepsForm_retrain {port} : KeepsForm (.retrain port) := by
  refine keepsForm_of_answersOk (fun _ => execRetrain.eq_def ..) fun s hs => ?_
  repeat' (split)
  all_goals exact answersOk_next hs

theorem keepsForm_exportRangeInstall {idx range} : KeepsForm (.exportRangeInstall idx range) := by
  refine keepsForm_of_answersOk (fun _ => execExportRangeInstall.eq_def ..) fun s hs => ?_
  repeat' (split)
  all_goals exact answersOk_next hs

theorem keepsForm_collectiveGroupInstall {group ctx members} : KeepsForm (.collectiveGroupInstall group ctx members) := by
  refine keepsForm_of_answersOk (fun _ => execCollectiveGroupInstall.eq_def ..) fun s hs => ?_
  repeat' (split)
  all_goals exact answersOk_next hs

theorem keepsForm_powerLimitSet {watts} : KeepsForm (.powerLimitSet watts) := by
  refine keepsForm_of_answersOk (fun _ => execPowerLimitSet.eq_def ..) fun s hs => ?_
  repeat' (split)
  all_goals exact answersOk_next hs

theorem keepsForm_checkpoint {die core} : KeepsForm (.checkpoint die core) := by
  refine keepsForm_of_answersOk (fun _ => execCheckpoint.eq_def ..) fun s hs => ?_
  repeat' (split)
  all_goals exact answersOk_next (memOk_same hs (by simp))

theorem keepsForm_journalFullCheckpoint {die core} : KeepsForm (.journalFullCheckpoint die core) := by
  refine keepsForm_of_answersOk (fun _ => execJournalFullCheckpoint.eq_def ..) fun s hs => ?_
  repeat' (split)
  all_goals exact answersOk_next (memOk_same hs (by simp))

theorem keepsForm_replayStopReached {die core} : KeepsForm (.replayStopReached die core) := by
  refine keepsForm_of_answersOk (fun _ => execReplayStopReached.eq_def ..) fun s hs => ?_
  repeat' (split)
  all_goals exact answersOk_next (memOk_same hs (by simp))

theorem keepsForm_replayContinue {die core} : KeepsForm (.replayContinue die core) := by
  refine keepsForm_of_answersOk (fun _ => execReplayContinue.eq_def ..) fun s hs => ?_
  repeat' (split)
  all_goals exact answersOk_next hs

theorem keepsForm_samplePeriodSet {ctx period} : KeepsForm (.samplePeriodSet ctx period) := by
  refine keepsForm_of_answersOk (fun _ => execSamplePeriodSet.eq_def ..) fun s hs => ?_
  repeat' (split)
  all_goals exact answersOk_next hs

theorem keepsForm_stallSample {die core ctx held reason} : KeepsForm (.stallSample die core ctx held reason) := by
  refine keepsForm_of_answersOk (fun _ => execStallSample.eq_def ..) fun s hs => ?_
  repeat' (split)
  all_goals exact answersOk_next (memOk_same hs (by simp))

theorem keepsForm_folioWritten {ok} : KeepsForm (.folioWritten ok) := by
  refine keepsForm_of_answersOk (fun _ => execFolioWritten.eq_def ..) fun s hs => ?_
  repeat' (split)
  all_goals exact answersOk_next hs

theorem keepsForm_spdmMessage {port code m} : KeepsForm (.spdmMessage port code m) := by
  refine keepsForm_of_answersOk (fun _ => execSpdmMessage.eq_def ..) fun s hs => ?_
  repeat' (split)
  all_goals exact answersOk_next hs

/-! ### The others -/

theorem walkError_mem (s : State) (die c : Nat) (va : DWord) (e : Option Nat) : (s.walkError die c va e).mem = s.mem := by
  unfold State.walkError
  split
  · exact State.uncorrectable_mem ..
  · rfl

theorem growRecord_mem {s t : State} {key : Nat} {b : Block} {g : Grid} {k : KernelDesc} {rec : Nat}
    (h : s.growRecord key b g k rec = some t) : t.mem = s.mem := by
  obtain ⟨-, e⟩ := Option.ite_none_right_eq_some.mp h
  cases e
  exact State.setBlock_mem ..

theorem keepsForm_islandWake {i st} : KeepsForm (.islandWake i st) :=
  keepsForm_of_answersOk (fun _ => execIslandWake.eq_def ..) fun _ hs =>
    answersOk_ite (answersOk_next hs) (answersOk_ite
      (answersOk_ite (answersOk_next hs) (answersOk_next (State.memOk_keep (State.setCoreIsland_mem ..) hs))) (answersOk_next hs))

theorem keepsForm_translationWalkDone {die idx evict memErr} : KeepsForm (.translationWalkDone die idx evict memErr) := by
  refine keepsForm_of_answersOk (fun _ => execTranslationWalkDone.eq_def ..) fun s hs => ?_
  split
  · exact answersOk_next hs
  · have hw : ∀ (k : WalkReq → State → State) (l : List WalkReq) (u : State), (∀ q s, (k q s).mem = s.mem) → u.memOk = true →
        (l.foldl (fun s q => k q s) u).memOk = true := fun k l u hk hu =>
      foldl_memOk (fun _ q hu => State.memOk_keep (hk q _) hu) _ _ hu
    dsimp only
    split
    · exact answersOk_next (hw (fun q s => s.updCore die q.core fun c => c.fill _ evict) _ _ (fun _ _ => rfl) (State.memOk_keep (walkError_mem ..) hs))
    · exact answersOk_next (hw (fun q s => s.requestFault die _ _ _ q) _ _ (fun _ _ => State.requestFault_mem ..)
        (State.memOk_keep (walkError_mem ..) hs))

theorem keepsForm_loadCodeObject {ctx o} : KeepsForm (.loadCodeObject ctx o) := by
  refine keepsForm_of_answersOk (fun _ => execLoadCodeObject.eq_def ..) fun s hs => ?_
  dsimp only
  split
  · exact answersOk_next hs
  · split
    · exact answersOk_next hs
    · next h =>
      split at h
      · exact answersOk_next (State.memOk_keep (State.report_mem ..) (State.enterKernels_memOk _ hs h))
      · cases h

theorem keepsForm_kernelUnload {ctx obj} : KeepsForm (.kernelUnload ctx obj) :=
  keepsForm_of_next (fun _ => execKernelUnload.eq_def ..) fun _ hs => State.memOk_keep (State.unbindAll_mem ..) hs

theorem keepsForm_claimWaveForm {die core p} : KeepsForm (.claimWaveForm die core p) := by
  refine keepsForm_of_answersOk (fun _ => execClaimWaveForm.eq_def ..) fun s hs => ?_
  have hb : (s.formBodies die).memOk = true := memOk_same hs (by simp)
  dsimp only
  split
  · exact answersOk_next hb
  · split
    · exact answersOk_next hb
    · next h =>
      split at h
      · exact answersOk_next (State.memOk_keep ((State.replayAdmit_mem ..).trans ((State.setFormer_mem ..).trans (State.addWave_mem ..)))
        (State.memOk_keep (growRecord_mem h) hb))
      · cases h

theorem keepsForm_bodyWaveForm {die core p} : KeepsForm (.bodyWaveForm die core p) := by
  refine keepsForm_of_answersOk (fun _ => execBodyWaveForm.eq_def ..) fun s hs => ?_
  have hb : (s.formBodies die).memOk = true := memOk_same hs (by simp)
  dsimp only
  split
  · exact answersOk_next hb
  · split
    · split
      · exact answersOk_next hb
      · next h =>
        split at h
        · exact answersOk_next (State.memOk_keep ((State.replayAdmit_mem ..).trans ((State.setFormer_mem ..).trans (State.addWave_mem ..)))
        (State.memOk_keep (growRecord_mem h) hb))
        · cases h
    · exact answersOk_next hb

theorem keepsForm_pifoServe : KeepsForm .pifoServe := by
  refine keepsForm_of_answersOk (fun _ => execPifoServe.eq_def ..) fun s hs => ?_
  split
  · exact answersOk_next hs
  · next e _ =>
    have he := State.acceptLaunch_memOk s e hs
    split
    · split
      · next h => rw [h] at he; exact answersOk_next (State.memOk_keep (State.serveGrid_mem ..) he)
      · next h => rw [h] at he; exact answersOk_next he
    · exact answersOk_next hs

theorem keepsForm_launch {q} : KeepsForm (.launch q) := by
  refine keepsForm_of_answersOk (fun _ => execLaunch.eq_def ..) fun s hs => ?_
  split
  · exact answersOk_next (ite_memOk (State.acceptLaunch_memOk _ _ hs) hs)
  · exact answersOk_next hs

theorem keepsForm_globalDispatchBatch : KeepsForm .globalDispatchBatch := by
  refine keepsForm_of_answersOk (fun _ => execGlobalDispatchBatch.eq_def ..) fun s hs => ?_
  repeat' (split)
  iterate 5 exact answersOk_next hs
  next d _ =>
    have hp : ∀ g n k, (s.pushBlocks d g n k).memOk = true := fun g n k => State.memOk_keep (State.pushBlocks_mem ..) hs
    exact answersOk_next (ite_memOk (hp ..) (hp ..))

theorem keepsForm_coopGridPlace {gk gr recs} : KeepsForm (.coopGridPlace gk gr recs) := by
  refine keepsForm_of_answersOk (fun _ => execCoopGridPlace.eq_def ..) fun s hs => ?_
  split
  · exact answersOk_next hs
  · split
    · exact answersOk_next hs
    · refine answersOk_ite (answersOk_next hs) ?_
      split
      · exact answersOk_next hs
      · refine answersOk_ite (answersOk_ite (answersOk_next hs) (answersOk_next (State.memOk_keep (State.gridNotice_mem ..) hs)))
          (answersOk_ite (answersOk_next hs) ?_)
        split
        · exact answersOk_next hs
        · next h =>
          refine answersOk_next (State.memOk_keep (State.leavePifo_mem ..) (State.placeAll_memOk _ ?_ h))
          exact State.memOk_keep (State.setGrid_mem ..) hs

theorem keepsForm_blockAdmit {die gr rec} : KeepsForm (.blockAdmit die gr rec) := by
  refine keepsForm_of_answersOk (fun _ => execBlockAdmit.eq_def ..) fun s hs => ?_
  have hi : (s.intake die).memOk = true := memOk_same hs (by simp)
  dsimp only
  split
  · split
    · refine answersOk_ite (answersOk_next hi) ?_
      split
      · exact answersOk_next hi
      · refine answersOk_ite (answersOk_ite (answersOk_next hi) (answersOk_next (memOk_same hs (by simp)))) (answersOk_ite ?_ (answersOk_next hi))
        exact answersOk_next (State.memOk_keep (State.batchPlaced_mem ..) (State.placeBlock_memOk _ _ _ _ _ _ _ _ _ hi))
    · exact answersOk_next hi
  · exact answersOk_next hi

theorem selectBlocks_memOk (l : List Nat) {s : State} (hs : s.memOk = true) : (l.foldl State.selectBlock s).memOk = true :=
  foldl_memOk (fun _ _ hu => State.memOk_keep (State.selectBlock_mem ..) hu) _ _ hs

theorem keepsForm_preemptRequest {die key} : KeepsForm (.preemptRequest die key) := by
  refine keepsForm_of_answersOk (fun _ => execPreemptRequest.eq_def ..) fun s hs => ?_
  have hi : (s.intake die).memOk = true := memOk_same hs (by simp)
  dsimp only
  split
  · split
    · exact answersOk_next hi
    · refine answersOk_ite (answersOk_next hi) ?_
      split
      · exact answersOk_next hi
      · exact answersOk_next (State.memOk_keep (State.reserve_mem ..) (selectBlocks_memOk _ hi))
  · exact answersOk_next (ite_memOk (selectBlocks_memOk _ hi) hi)

theorem keepsForm_sliceExpire {die ctx} : KeepsForm (.sliceExpire die ctx) := by
  refine keepsForm_of_answersOk (fun _ => execSliceExpire.eq_def ..) fun s hs => ?_
  have hi : (s.intake die).memOk = true := memOk_same hs (by simp)
  refine answersOk_ite (answersOk_next hs) ?_
  dsimp only
  split
  · exact answersOk_next hi
  · refine answersOk_ite (answersOk_next hi) (answersOk_next ?_)
    split <;> exact selectBlocks_memOk _ hi

theorem keepsForm_blockSave {key} : KeepsForm (.blockSave key) := by
  refine keepsForm_of_answersOk (fun _ => execBlockSave.eq_def ..) fun s hs => ?_
  split
  · next b g k _ _ =>
    refine answersOk_ite (answersOk_next hs) (answersOk_next ?_)
    have hf : (s.formBodies b.die).memOk = true := memOk_same hs (by simp)
    have hp : ∀ (r : Option (Nat × Nat)) (u : State) (f : State → State) (c a : Nat) (bs : List Byte), u.memOk = true →
        (∀ t, (f t).mem = t.mem) →
        (match r with | some r => f (u.poolWrites c (a + r.1) bs) | none => u).memOk = true := fun r u f c a bs hu hf => by
      split
      · exact State.memOk_keep (hf _) (State.poolWrites_memOk _ _ _ _ hu)
      · exact hu
    refine State.memOk_keep ((State.dropSlices_mem ..).trans ((State.closeIntervals_mem ..).trans (State.discardText_mem ..))) ?_
    exact hp _ _ (fun t => t.updGrid b.grid fun g => { g with written := g.saveBytes }) _ _ _ (hp _ _ id _ _ _ hf fun _ => rfl) fun _ => rfl
  · exact answersOk_next hs

theorem keepsForm_blockResume {die key cores gr} : KeepsForm (.blockResume die key cores gr) := by
  refine keepsForm_of_answersOk (fun _ => execBlockResume.eq_def ..) fun s hs => ?_
  split
  · refine answersOk_ite (answersOk_next hs) ?_
    dsimp only
    split
    · next h =>
      split at h
      · exact answersOk_next (State.resumeOne_memOk hs h)
      · split at h
        · cases h
        · exact answersOk_next (State.resumeAll_memOk _ hs h)
    · exact answersOk_next hs
  · exact answersOk_next hs

theorem keepsForm_blockRetire {key} : KeepsForm (.blockRetire key) := by
  refine keepsForm_of_answersOk (fun _ => execBlockRetire.eq_def ..) fun s hs => ?_
  split
  · have he : (s.endWaves key).memOk = true := memOk_same hs (by simp)
    refine answersOk_ite (answersOk_next hs) (answersOk_next (State.memOk_keep (State.dropSlices_mem ..) (ite_memOk he ?_)))
    exact State.memOk_keep (State.nodeSettle_mem ..) he
  · exact answersOk_next hs

/-! ### Queues -/

theorem settled_memOk {s : State} (n : Nat) (hs : s.memOk = true) : (s.settleQueue n).memOk = true := memOk_same hs (by simp)

theorem keepsForm_queueClaimRemote {qn e n} : KeepsForm (.queueClaimRemote qn e n) := by
  refine keepsForm_of_answersOk (fun _ => execQueueClaimRemote.eq_def ..) fun s hs => ?_
  have hq := settled_memOk qn hs
  dsimp only
  split
  · exact answersOk_next hq
  · refine answersOk_ite (answersOk_next hq) ?_
    split
    · exact answersOk_next (State.setHdr_memOk _ _ _ _ _ hq)
    · exact answersOk_next hq

theorem keepsForm_remoteNotify {port session bytes} : KeepsForm (.remoteNotify port session bytes) := by
  refine keepsForm_of_answersOk (fun _ => execRemoteNotify.eq_def ..) fun s hs => answersOk_ite (answersOk_next hs) ?_
  have hq := fun n => settled_memOk n hs
  dsimp only
  split
  · exact answersOk_next (hq _)
  · next q _ =>
    have hc := State.qCount_memOk _ q 44 1 (hq (leField bytes 4 4))
    refine answersOk_ite (answersOk_next (State.memOk_keep (State.notifyFailed_mem ..) hc)) (answersOk_ite (answersOk_next hc)
      (answersOk_ite (answersOk_next (State.memOk_keep (State.rouse_mem ..) hc)) ?_))
    have hn := State.notifyQueue_memOk _ (leField bytes 4 4) q (leField bytes 8 3) (hq (leField bytes 4 4))
    exact answersOk_next (ite_memOk hn hn)

theorem keepsForm_packetTake {qn} : KeepsForm (.packetTake qn) := by
  refine keepsForm_of_answersOk (fun _ => execPacketTake.eq_def ..) fun s hs => ?_
  have hq := settled_memOk qn hs
  dsimp only
  split
  · exact answersOk_next hq
  · refine answersOk_ite (answersOk_next hq) ?_
    split
    · refine answersOk_ite (answersOk_next hq) ?_
      have ht := fun q a b c d e f => State.memWrites_memOk _ d e f (State.setHdr_memOk _ q a b c hq)
      split
      · exact answersOk_next (State.refusePacket_memOk _ _ _ (ht ..))
      · exact answersOk_next (ht ..)
    · exact answersOk_next hq

theorem keepsForm_signal {qn} : KeepsForm (.signal qn) :=
  keepsForm_of_withHead (fun _ => execSignal.eq_def ..) fun _ _ _ hs =>
    State.memOk_keep (State.dropEntry_mem ..) (State.signal_memOk _ _ _ _ _ hs)

theorem keepsForm_node {qn die} : KeepsForm (.node qn die) := by
  refine keepsForm_of_withHead (fun _ => execNode.eq_def ..) fun s e q hs => ?_
  split
  · exact ite_memOk (State.memOk_keep ((State.dropEntry_mem ..).trans (State.nodePut_mem ..)) hs) hs
  · exact hs

theorem keepsForm_copy {qn} : KeepsForm (.copy qn) :=
  keepsForm_of_withHead (fun _ => execCopy.eq_def ..) fun _ _ _ hs => ite_memOk hs (State.memOk_keep (State.dropEntry_mem ..) hs)

theorem keepsForm_wait {qn} : KeepsForm (.wait qn) := by
  refine keepsForm_of_withEntry (fun _ => execWait.eq_def ..) fun s e q hs => ?_
  have hd : (s.dropEntry qn).memOk = true := memOk_same hs (by simp)
  split
  · exact State.refusePacket_memOk _ _ _ hd
  · exact ite_memOk hd hs

theorem keepsForm_waitSatisfied {qn} : KeepsForm (.waitSatisfied qn) :=
  keepsForm_of_withEntry (fun _ => execWaitSatisfied.eq_def ..) fun _ _ _ hs => ite_memOk (memOk_same hs (by simp)) hs

theorem keepsForm_barrier {qn} : KeepsForm (.barrier qn) :=
  keepsForm_of_withEntry (fun _ => execBarrier.eq_def ..) fun _ _ _ hs =>
    ite_memOk (State.memOk_keep (State.dropEntry_mem ..) hs) hs

theorem keepsForm_writeSignal {qn} : KeepsForm (.writeSignal qn) := by
  refine keepsForm_of_withHead (fun _ => execWriteSignal.eq_def ..) fun s e q hs =>
    State.memOk_keep (State.dropEntry_mem ..) (State.signal_memOk _ _ _ _ _ ?_)
  split
  · exact State.memWrites_memOk _ _ _ _ hs
  · exact hs

theorem keepsForm_queueCreate {qn ctx hdr entries base} : KeepsForm (.queueCreate qn ctx hdr entries base) := by
  refine keepsForm_of_answersOk (fun _ => execQueueCreate.eq_def ..) fun s hs => ?_
  have hq := settled_memOk qn hs
  refine answersOk_ite (answersOk_next hq) ?_
  split
  · exact answersOk_next hq
  · exact answersOk_next (State.memOk_keep (State.setQueue_mem ..) (State.memWrites_memOk _ _ _ _ hq))
  · exact answersOk_next hq

theorem keepsForm_queueBind {qn ctx program base session} : KeepsForm (.queueBind qn ctx program base session) :=
  fun _ _ hs ht => moveQueue_memOk hs ht

theorem keepsForm_queueClosed {qn} : KeepsForm (.queueClosed qn) := by
  refine keepsForm_of_answersOk (fun _ => execQueueClosed.eq_def ..) fun s hs => ?_
  split
  · exact answersOk_next hs
  · exact answersOk_ite (fun _ ht => moveQueue_memOk hs ht) (answersOk_next hs)

theorem keepsForm_queueForceClose {qn} : KeepsForm (.queueForceClose qn) := by
  refine keepsForm_of_answersOk (fun _ => execQueueForceClose.eq_def ..) fun s hs => ?_
  have hq := settled_memOk qn hs
  dsimp only
  split
  · exact answersOk_next hq
  · exact fun _ ht => moveQueue_memOk (ite_memOk (State.qCount_memOk _ _ _ _ hq) hq) ht

theorem keepsForm_queueDestroy {qn} : KeepsForm (.queueDestroy qn) := by
  refine keepsForm_of_answersOk (fun _ => execQueueDestroy.eq_def ..) fun s hs => ?_
  have hq := settled_memOk qn hs
  dsimp only
  split
  · exact answersOk_next hq
  · exact answersOk_ite (answersOk_next (State.destroyQueue_memOk _ _ hq)) (answersOk_next hq)

theorem keepsForm_supervisorNotify {qn idx} : KeepsForm (.supervisorNotify qn idx) := by
  refine keepsForm_of_answersOk (fun _ => execSupervisorNotify.eq_def ..) fun s hs => ?_
  have hq := settled_memOk qn hs
  dsimp only
  split
  · exact answersOk_next hq
  · exact answersOk_ite (answersOk_next (State.memOk_keep (State.rouse_mem ..) (State.qCount_memOk _ _ _ _ hq)))
      (answersOk_next (State.notifyQueue_memOk _ _ _ _ hq))

/-! ### Contexts and the device -/

theorem keepsForm_contextCreate {ctx desc} : KeepsForm (.contextCreate ctx desc) :=
  keepsForm_of_answersOk (fun _ => execContextCreate.eq_def ..) fun _ hs => answersOk_ite (answersOk_next
    (foldl_memOk (fun _ _ hu => State.memOk_keep (State.keyed_mem ..) hu) _ _ hs)) (answersOk_next hs)

theorem keepsForm_contextEnd {ctx} : KeepsForm (.contextEnd ctx) :=
  keepsForm_of_answersOk (fun _ => execContextEnd.eq_def ..) fun _ hs =>
    answersOk_ite (answersOk_next hs) (answersOk_next (State.endContext_memOk _ _ hs))

theorem keepsForm_contextDescriptorWrite {ctx wr} : KeepsForm (.contextDescriptorWrite ctx wr) := by
  refine keepsForm_of_answersOk (fun _ => execContextDescriptorWrite.eq_def ..) fun s hs => ?_
  split
  · next h =>
    split at h
    · exact answersOk_next (State.writeDesc_memOk hs h)
    · cases h
  · exact answersOk_next hs

theorem keepsForm_curatorRestart {ok} : KeepsForm (.curatorRestart ok) :=
  keepsForm_of_answersOk (fun _ => execCuratorRestart.eq_def ..) fun s hs =>
    answersOk_ite (answersOk_next hs) (answersOk_ite
      (answersOk_next (State.memOk_keep (State.thaw_mem _) (State.memOk_keep (State.takeHeld_mem _)
        (State.memOk_keep (State.reattach_mem s) hs))))
      (answersOk_ite (answersOk_next hs) (answersOk_next
        (foldl_memOk (fun _ _ hu => State.endContext_memOk _ _ hu) (s.contexts.map fun (e : Nat × Context) => e.1) s hs))))

theorem keepsForm_inboundRequest {port peer pa req} : KeepsForm (.inboundRequest port peer pa req) := by
  refine keepsForm_of_answersOk (fun _ => execInboundRequest.eq_def ..) fun s hs => answersOk_ite (answersOk_next hs) ?_
  split
  · exact answersOk_next (State.serveRequest_memOk _ _ _ _ _ hs)
  · exact answersOk_next hs

theorem keepsForm_deviceStart {steps invalid powerLimit deviceNo} : KeepsForm (.deviceStart steps invalid powerLimit deviceNo) := by
  refine keepsForm_of_answersOk (fun _ => execDeviceStart.eq_def ..) fun s hs =>
    answersOk_ite (answersOk_next hs) (answersOk_ite (answersOk_next hs) ?_)
  have hc : ∀ (l : List Nat) (u : State), u.memOk = true → (l.foldl (fun c k => c.count (.startFail k) 1) u).memOk = true :=
    fun l u hu => foldl_memOk (fun v _ hv => State.memOk_keep (State.count_mem v _ _) hv) l u hu
  exact answersOk_ite (answersOk_next (hc _ _ (State.cold_memOk s))) (answersOk_next (hc _ _ (State.cold_memOk s)))

theorem keepsForm_powerLoss {during landed} : KeepsForm (.powerLoss during landed) :=
  keepsForm_of_next (fun _ => execPowerLoss.eq_def ..) fun _ _ => State.cold_memOk _

theorem keepsForm_islandStateSet {i st} : KeepsForm (.islandStateSet i st) := by
  refine keepsForm_of_answersOk (fun _ => execIslandStateSet.eq_def ..) fun s hs => answersOk_ite (answersOk_next hs) ?_
  have hc : (s.setCoreIsland i st).memOk = true := memOk_same hs (by simp)
  refine answersOk_ite (answersOk_ite (answersOk_next hs) (answersOk_ite (answersOk_next hs) (answersOk_ite (answersOk_next hs)
    (answersOk_ite (answersOk_next hs) (answersOk_next hc))))) (answersOk_ite (answersOk_ite ?_ (answersOk_next hs)) (answersOk_next hs))
  exact answersOk_next (State.sramOff_memOk _ _ hs)

theorem keepsForm_replayToStop {ctx stop} : KeepsForm (.replayToStop ctx stop) := by
  refine keepsForm_of_answersOk (fun _ => execReplayToStop.eq_def ..) fun s hs => answersOk_ite (answersOk_next hs) (answersOk_next ?_)
  have ht : ∀ bs, (s.traceRecord ctx bs).memOk = true := fun _ => memOk_same hs (by simp)
  exact ite_memOk (ht _) (State.memOk_keep (State.judgeStop_mem ..) (ht _))

theorem keepsForm_supervisorAccess {a} : KeepsForm (.supervisorAccess a) := by
  refine keepsForm_of_answersOk (fun _ => execSupervisorAccess.eq_def ..) fun s hs => ?_
  cases a with
  | readLds addr n dom => dsimp only; split <;> exact answersOk_next hs
  | writeLds addr bs dom =>
    dsimp only
    split
    · exact answersOk_ite (answersOk_next hs) (answersOk_next (State.ldsWrites_memOk _ _ _ _ hs))
    · exact answersOk_next hs
  | readContext ctx => exact answersOk_next hs
  | readHbm pa n dom => exact answersOk_next hs
  | writeHbm pa bs dom => exact answersOk_ite (answersOk_next hs) (answersOk_next (State.memWrites_memOk _ _ _ _ hs))

theorem keepsForm_collectionRegionCreate {dom capacity rootBase rootLen} :
    KeepsForm (.collectionRegionCreate dom capacity rootBase rootLen) :=
  keepsForm_of_answersOk (fun _ => execCollectionRegionCreate.eq_def ..) fun _ hs =>
    answersOk_ite (answersOk_next hs) (answersOk_next (State.hbmWrites_memOk _ _ _ _ hs))

end Sys2Proof.Proofs

/-! SUPPORT. Every instruction and event keeps the memories' canonical form, and so does every turn and every step (O46). -/

namespace Sys2Proof.Proofs

open Sys2Proof.Machine

/-- Every instruction and event keeps the memories in canonical form. -/
theorem keepsForm (i : Instr) : KeepsForm i := by
  cases i with
  | nop => exact keepsForm_of_issue (fun _ => execNop.eq_def ..) fun _ _ _ hs => hs
  | br => exact keepsForm_of_issue (fun _ => execBr.eq_def ..) fun _ w x hs => branchRes_memOk w x _ hs ..
  | brx => exact keepsForm_of_issue (fun _ => execBrx.eq_def ..) fun _ w x hs => branchRes_memOk w x _ hs ..
  | call => exact keepsForm_of_issue (fun _ => execCall.eq_def ..) fun _ w x hs => branchRes_memOk w x _ hs ..
  | ret => exact keepsForm_of_issue (fun _ => execRet.eq_def ..) fun _ w x hs => branchRes_memOk w x _ hs ..
  | exit => exact keepsForm_exit
  | yield_ => exact keepsForm_of_issue (fun _ => execYield.eq_def ..) fun _ _ _ hs => hs
  | trap => exact keepsForm_of_issue (fun _ => execTrap.eq_def ..) fun _ _ _ hs => once_memOk hs fun _ => trivial
  | sysc => exact keepsForm_of_issue (fun _ => execSysc.eq_def ..) fun _ _ _ hs => once_memOk hs fun _ => trivial
  | brkpt => exact keepsForm_of_issue (fun _ => execBrkpt.eq_def ..) fun _ _ _ hs => once_memOk hs fun _ => iteRes_memOk hs trivial
  | icinv => exact keepsForm_of_issue (fun _ => execIcinv.eq_def ..) fun _ _ _ hs => once_memOk hs fun _ => hs
  | jenrol => exact keepsForm_of_issue (fun _ => execJenrol.eq_def ..) fun _ w x hs => rejoinRes_memOk w x _ hs ..
  | jwait => exact keepsForm_of_issue (fun _ => execJwait.eq_def ..) fun _ w x hs => rejoinRes_memOk w x _ hs ..
  | jstrike => exact keepsForm_of_issue (fun _ => execJstrike.eq_def ..) fun _ w x hs => rejoinRes_memOk w x _ hs ..
  | hret => exact keepsForm_hret
  | pcmin => exact keepsForm_of_issue (fun _ => execPcmin.eq_def ..) fun _ w x hs => assistRes_memOk w x _ hs ..
  | pcmaj => exact keepsForm_of_issue (fun _ => execPcmaj.eq_def ..) fun _ w x hs => assistRes_memOk w x _ hs ..
  | pceq => exact keepsForm_of_issue (fun _ => execPceq.eq_def ..) fun _ w x hs => assistRes_memOk w x _ hs ..
  | iadd => exact keepsForm_of_issue (fun _ => execIadd.eq_def ..) fun _ _ _ hs => hs
  | isub => exact keepsForm_of_issue (fun _ => execIsub.eq_def ..) fun _ _ _ hs => hs
  | imul => exact keepsForm_of_issue (fun _ => execImul.eq_def ..) fun _ _ _ hs => hs
  | imulh => exact keepsForm_of_issue (fun _ => execImulh.eq_def ..) fun _ _ _ hs => hs
  | imad => exact keepsForm_of_issue (fun _ => execImad.eq_def ..) fun _ _ _ hs => hs
  | imin => exact keepsForm_of_issue (fun _ => execImin.eq_def ..) fun _ _ _ hs => hs
  | imax => exact keepsForm_of_issue (fun _ => execImax.eq_def ..) fun _ _ _ hs => hs
  | iabs => exact keepsForm_of_issue (fun _ => execIabs.eq_def ..) fun _ _ _ hs => hs
  | ineg => exact keepsForm_of_issue (fun _ => execIneg.eq_def ..) fun _ _ _ hs => hs
  | and => exact keepsForm_of_issue (fun _ => execAnd.eq_def ..) fun _ _ _ hs => hs
  | or => exact keepsForm_of_issue (fun _ => execOr.eq_def ..) fun _ _ _ hs => hs
  | xor => exact keepsForm_of_issue (fun _ => execXor.eq_def ..) fun _ _ _ hs => hs
  | andn => exact keepsForm_of_issue (fun _ => execAndn.eq_def ..) fun _ _ _ hs => hs
  | not => exact keepsForm_of_issue (fun _ => execNot.eq_def ..) fun _ _ _ hs => hs
  | shl => exact keepsForm_of_issue (fun _ => execShl.eq_def ..) fun _ _ _ hs => hs
  | shr => exact keepsForm_of_issue (fun _ => execShr.eq_def ..) fun _ _ _ hs => hs
  | sar => exact keepsForm_of_issue (fun _ => execSar.eq_def ..) fun _ _ _ hs => hs
  | rotl => exact keepsForm_of_issue (fun _ => execRotl.eq_def ..) fun _ _ _ hs => hs
  | popc => exact keepsForm_of_issue (fun _ => execPopc.eq_def ..) fun _ _ _ hs => hs
  | clz => exact keepsForm_of_issue (fun _ => execClz.eq_def ..) fun _ _ _ hs => hs
  | brev => exact keepsForm_of_issue (fun _ => execBrev.eq_def ..) fun _ _ _ hs => hs
  | bfe => exact keepsForm_of_issue (fun _ => execBfe.eq_def ..) fun _ _ _ hs => hs
  | bfi => exact keepsForm_of_issue (fun _ => execBfi.eq_def ..) fun _ _ _ hs => hs
  | logt => exact keepsForm_of_issue (fun _ => execLogt.eq_def ..) fun _ _ _ hs => hs
  | mov => exact keepsForm_of_issue (fun _ => execMov.eq_def ..) fun _ w x hs => movRes_memOk w x _ hs ..
  | movi => exact keepsForm_of_issue (fun _ => execMovi.eq_def ..) fun _ _ _ hs => hs
  | sel => exact keepsForm_of_issue (fun _ => execSel.eq_def ..) fun _ _ _ hs => hs
  | icvt => exact keepsForm_of_issue (fun _ => execIcvt.eq_def ..) fun _ _ _ hs => hs
  | isetp => exact keepsForm_of_issue (fun _ => execIsetp.eq_def ..) fun _ _ _ hs => hs
  | fsetp => exact keepsForm_of_issue (fun _ => execFsetp.eq_def ..) fun _ _ _ hs => hs
  | plogt => exact keepsForm_of_issue (fun _ => execPlogt.eq_def ..) fun _ _ _ hs => hs
  | vote => exact keepsForm_of_issue (fun _ => execVote.eq_def ..) fun _ w _ hs => voteRes_memOk w _ hs ..
  | shfl => exact keepsForm_of_issue (fun _ => execShfl.eq_def ..) fun _ _ _ hs => hs
  | fadd => exact keepsForm_of_issue (fun _ => execFadd.eq_def ..) fun _ _ _ hs => hs
  | fsub => exact keepsForm_of_issue (fun _ => execFsub.eq_def ..) fun _ _ _ hs => hs
  | fmul => exact keepsForm_of_issue (fun _ => execFmul.eq_def ..) fun _ _ _ hs => hs
  | ffma => exact keepsForm_of_issue (fun _ => execFfma.eq_def ..) fun _ _ _ hs => hs
  | fmin => exact keepsForm_of_issue (fun _ => execFmin.eq_def ..) fun _ _ _ hs => hs
  | fmax => exact keepsForm_of_issue (fun _ => execFmax.eq_def ..) fun _ _ _ hs => hs
  | fdiv => exact keepsForm_of_issue (fun _ => execFdiv.eq_def ..) fun _ _ _ hs => hs
  | fsqrt => exact keepsForm_of_issue (fun _ => execFsqrt.eq_def ..) fun _ _ _ hs => hs
  | frcp => exact keepsForm_of_issue (fun _ => execFrcp.eq_def ..) fun _ _ _ hs => hs
  | frsq => exact keepsForm_of_issue (fun _ => execFrsq.eq_def ..) fun _ _ _ hs => hs
  | fexp2 => exact keepsForm_of_issue (fun _ => execFexp2.eq_def ..) fun _ _ _ hs => hs
  | flog2 => exact keepsForm_of_issue (fun _ => execFlog2.eq_def ..) fun _ _ _ hs => hs
  | fsin => exact keepsForm_of_issue (fun _ => execFsin.eq_def ..) fun _ _ _ hs => hs
  | fcos => exact keepsForm_of_issue (fun _ => execFcos.eq_def ..) fun _ _ _ hs => hs
  | fclass => exact keepsForm_of_issue (fun _ => execFclass.eq_def ..) fun _ _ _ hs => hs
  | frnd => exact keepsForm_of_issue (fun _ => execFrnd.eq_def ..) fun _ _ _ hs => hs
  | fabs => exact keepsForm_of_issue (fun _ => execFabs.eq_def ..) fun _ _ _ hs => hs
  | fneg => exact keepsForm_of_issue (fun _ => execFneg.eq_def ..) fun _ _ _ hs => hs
  | fcvt => exact keepsForm_of_issue (fun _ => execFcvt.eq_def ..) fun _ _ _ hs => hs
  | f2i => exact keepsForm_of_issue (fun _ => execF2i.eq_def ..) fun _ _ _ hs => hs
  | i2f => exact keepsForm_of_issue (fun _ => execI2f.eq_def ..) fun _ _ _ hs => hs
  | pack => exact keepsForm_of_issue (fun _ => execPack.eq_def ..) fun _ _ _ hs => hs
  | unpk => exact keepsForm_of_issue (fun _ => execUnpk.eq_def ..) fun _ _ _ hs => hs
  | dot4i8 => exact keepsForm_of_issue (fun _ => execDot4i8.eq_def ..) fun _ _ _ hs => hs
  | dot8i4 => exact keepsForm_of_issue (fun _ => execDot8i4.eq_def ..) fun _ _ _ hs => hs
  | dot4f8 => exact keepsForm_of_issue (fun _ => execDot4f8.eq_def ..) fun _ _ _ hs => hs
  | dot2bf => exact keepsForm_of_issue (fun _ => execDot2bf.eq_def ..) fun _ _ _ hs => hs
  | dotb32 => exact keepsForm_of_issue (fun _ => execDotb32.eq_def ..) fun _ _ _ hs => hs
  | ld => exact keepsForm_of_issue (fun _ => execLd.eq_def ..) fun _ w x hs => ldRes_memOk w x _ hs ..
  | st => exact keepsForm_of_issue (fun _ => execSt.eq_def ..) fun _ w x hs => stRes_memOk w x _ hs ..
  | atom => exact keepsForm_of_issue (fun _ => execAtom.eq_def ..) fun _ w x hs => atomRes_memOk w x _ hs ..
  | fence => exact keepsForm_of_issue (fun _ => execFence.eq_def ..) fun _ w x hs => fenceRes_memOk w x _ hs ..
  | cpy => exact keepsForm_of_issue (fun _ => execCpy.eq_def ..) fun _ w x hs => copyRes_memOk w x _ hs ..
  | cpyo => exact keepsForm_of_issue (fun _ => execCpyo.eq_def ..) fun _ w x hs => copyRes_memOk w x _ hs ..
  | bulk => exact keepsForm_bulk
  | arrinit => exact keepsForm_arrinit
  | arrwait => exact keepsForm_arrwait
  | arrtest => exact keepsForm_arrtest
  | crpoll => exact keepsForm_crpoll
  | crsleep => exact keepsForm_crsleep
  | waitc => exact keepsForm_of_issue (fun _ => execWaitc.eq_def ..) fun _ _ _ hs => once_memOk hs fun _ => iteRes_memOk hs hs
  | waitt => exact keepsForm_of_issue (fun _ => execWaitt.eq_def ..) fun _ _ _ hs => once_memOk hs fun _ => iteRes_memOk hs hs
  | bararr => exact keepsForm_of_issue (fun _ => execBararr.eq_def ..) fun _ _ _ hs => barrierOnce_memOk hs fun _ => arriveRes_memOk hs fun _ hu => hu
  | barwait => exact keepsForm_of_issue (fun _ => execBarwait.eq_def ..) fun _ _ _ hs => barrierOnce_memOk hs fun _ => iteRes_memOk (waitRes_memOk hs) trivial
  | barsync => exact keepsForm_of_issue (fun _ => execBarsync.eq_def ..) fun _ _ _ hs => barrierOnce_memOk hs fun _ => arriveRes_memOk hs fun _ hu => waitRes_memOk hu
  | barq => exact keepsForm_of_issue (fun _ => execBarq.eq_def ..) fun _ _ _ hs => barrierOnce_memOk hs fun _ => hs
  | sracq => exact keepsForm_of_issue (fun _ => execSracq.eq_def ..) fun _ _ _ hs => barrierOnce_memOk hs fun _ => iteRes_memOk hs hs
  | srpost => exact keepsForm_of_issue (fun _ => execSrpost.eq_def ..) fun _ w x hs => slotRes_memOk w x _ hs ..
  | srwait => exact keepsForm_of_issue (fun _ => execSrwait.eq_def ..) fun _ _ _ hs => barrierOnce_memOk hs fun _ => iteRes_memOk hs hs
  | srfree => exact keepsForm_of_issue (fun _ => execSrfree.eq_def ..) fun _ w x hs => slotRes_memOk w x _ hs ..
  | srbind => exact keepsForm_srbind
  | tzero => exact keepsForm_of_issue (fun _ => execTzero.eq_def ..) fun _ _ _ hs => tileOnce_memOk hs fun _ => tileQueue_memOk hs
  | tldw => exact keepsForm_of_issue (fun _ => execTldw.eq_def ..) fun _ _ _ hs => tileOnce_memOk hs fun _ => tileAt_memOk (iteRes_memOk (tileQueue_memOk hs) trivial)
  | tmma => exact keepsForm_of_issue (fun _ => execTmma.eq_def ..) fun _ w x hs => mmaRes_memOk w x _ hs ..
  | tmmas => exact keepsForm_of_issue (fun _ => execTmmas.eq_def ..) fun _ w x hs => mmaRes_memOk w x _ hs ..
  | tbin => exact keepsForm_of_issue (fun _ => execTbin.eq_def ..) fun _ _ _ hs => tileOnce_memOk hs fun _ => tileAt_memOk (withSlot_memOk (tileQueue_memOk hs))
  | tlut => exact keepsForm_of_issue (fun _ => execTlut.eq_def ..) fun _ _ _ hs => tileOnce_memOk hs fun _ => tileAt_memOk (withSlot_memOk (tileQueue_memOk hs))
  | tscacc => exact keepsForm_of_issue (fun _ => execTscacc.eq_def ..) fun _ _ _ hs => tileOnce_memOk hs fun _ => tileAt_memOk (tileQueue_memOk hs)
  | tdrain => exact keepsForm_tdrain
  | tcvt => exact keepsForm_of_issue (fun _ => execTcvt.eq_def ..) fun _ _ _ hs => tileOnce_memOk hs fun _ => tileQueue_memOk hs
  | tsetph => exact keepsForm_of_issue (fun _ => execTsetph.eq_def ..) fun _ _ _ hs => tileOnce_memOk hs fun _ => tileQueue_memOk hs
  | dlaunch => exact keepsForm_dlaunch
  | dlwait => exact keepsForm_dlwait
  | nodeput => exact keepsForm_nodeput
  | qclaim => exact keepsForm_qclaim
  | qnotify => exact keepsForm_qnotify
  | claim => exact keepsForm_claim
  | claimend => exact keepsForm_claimend
  | itemend => exact keepsForm_itemend
  | clook => exact keepsForm_clook
  | cfetch => exact keepsForm_cfetch
  | cref => exact keepsForm_cref
  | cunref => exact keepsForm_cunref
  | crootcas => exact keepsForm_crootcas
  | ccopyout => exact keepsForm_ccopyout
  | hintSpaceWord => exact keepsForm_hintSpaceWord
  | writeRunm => exact keepsForm_writeRunm
  | writeParkm => exact keepsForm_of_inHandler (fun _ => execWriteParkm.eq_def ..) fun _ _ _ hs => hs
  | writeLpc => exact keepsForm_of_inHandler (fun _ => execWriteLpc.eq_def ..) fun _ _ _ hs => hs
  | writeHrun2 => exact keepsForm_of_inHandler (fun _ => execWriteHrun2.eq_def ..) fun _ _ _ hs => hs
  | writeSglim => exact keepsForm_of_onWave (fun _ => execWriteSglim.eq_def ..) fun _ _ _ hs => hs
  | writeSgq => exact keepsForm_of_onWave (fun _ => execWriteSgq.eq_def ..) fun _ _ _ hs => hs
  | writeDither => exact keepsForm_of_onWave (fun _ => execWriteDither.eq_def ..) fun _ _ _ hs => hs
  | writeFflags => exact keepsForm_of_onWave (fun _ => execWriteFflags.eq_def ..) fun _ _ _ hs => hs
  | readFflags => exact keepsForm_readFflags
  | writeHvec => exact keepsForm_of_onWave (fun _ => execWriteHvec.eq_def ..) fun _ _ _ hs => hs
  | writeSpecialRegister => exact keepsForm_writeSpecialRegister
  | serialSteering => exact keepsForm_serialSteering
  | quantumEnd => exact keepsForm_quantumEnd
  | handlerOverrun => exact keepsForm_handlerOverrun
  | waveEnd => exact keepsForm_waveEnd
  | loadComplete => exact keepsForm_loadComplete
  | storePerformed => exact keepsForm_storePerformed
  | translationWalkDone => exact keepsForm_translationWalkDone
  | pageFaultResolution => exact keepsForm_pageFaultResolution
  | translationInvalidation => exact keepsForm_of_next (fun _ => execTranslationInvalidation.eq_def ..) fun _ hs => hs
  | invalidationComplete => exact keepsForm_invalidationComplete
  | copyLaneDone => exact keepsForm_copyLaneDone
  | copyTagFall => exact keepsForm_of_onWave (fun _ => execCopyTagFall.eq_def ..) fun _ _ _ hs => hs
  | arrwaitWake => exact keepsForm_arrwaitWake
  | crsleepWake => exact keepsForm_crsleepWake
  | cardRead => exact keepsForm_cardRead
  | cardStart => exact keepsForm_cardStart
  | cardDone => exact keepsForm_cardDone
  | cardPartialFault => exact keepsForm_cardPartialFault
  | cardResume => exact keepsForm_cardResume
  | cardCancel => exact keepsForm_cardCancel
  | barrierWake => exact keepsForm_barrierWake
  | ringWake => exact keepsForm_ringWake
  | ringBoundPost => exact keepsForm_ringBoundPost
  | tileCountFall => exact keepsForm_tileCountFall
  | seqContribution => exact keepsForm_seqContribution
  | clookFinish => exact keepsForm_clookFinish
  | cfetchFinish => exact keepsForm_cfetchFinish
  | cascade => exact keepsForm_cascade
  | loadCodeObject => exact keepsForm_loadCodeObject
  | kernelUnload => exact keepsForm_kernelUnload
  | kernelUnloaded => exact keepsForm_kernelUnloaded
  | gridRetire => exact keepsForm_gridRetire
  | gridCancel => exact keepsForm_gridCancel
  | dlwaitWake => exact keepsForm_dlwaitWake
  | batchCountdown => exact keepsForm_batchCountdown
  | gathererUnbind => exact keepsForm_gathererUnbind
  | claimWaveForm => exact keepsForm_claimWaveForm
  | itemRetire => exact keepsForm_itemRetire
  | bodyWaveForm => exact keepsForm_bodyWaveForm
  | reservingLaunchStart => exact keepsForm_reservingLaunchStart
  | dieSlotReport => exact keepsForm_dieSlotReport
  | pifoServe => exact keepsForm_pifoServe
  | globalDispatchBatch => exact keepsForm_globalDispatchBatch
  | coopGridPlace => exact keepsForm_coopGridPlace
  | blockAdmit => exact keepsForm_blockAdmit
  | preemptRequest => exact keepsForm_preemptRequest
  | drainBudgetExpire => exact keepsForm_drainBudgetExpire
  | blockSave => exact keepsForm_blockSave
  | blockResume => exact keepsForm_blockResume
  | blockFlush => exact keepsForm_blockFlush
  | blockRetire => exact keepsForm_blockRetire
  | sliceExpire => exact keepsForm_sliceExpire
  | queueClaimRemote => exact keepsForm_queueClaimRemote
  | remoteNotify => exact keepsForm_remoteNotify
  | slotReread => exact keepsForm_of_next (fun _ => execSlotReread.eq_def ..) fun _ hs => hs
  | packetTake => exact keepsForm_packetTake
  | launch => exact keepsForm_launch
  | node => exact keepsForm_node
  | copy => exact keepsForm_copy
  | signal => exact keepsForm_signal
  | wait => exact keepsForm_wait
  | waitSatisfied => exact keepsForm_waitSatisfied
  | writeSignal => exact keepsForm_writeSignal
  | barrier => exact keepsForm_barrier
  | pifoReinsert => exact keepsForm_pifoReinsert
  | rankProgramInstall => exact keepsForm_rankProgramInstall
  | queueCreate => exact keepsForm_queueCreate
  | queueBind => exact keepsForm_queueBind
  | queueOpen => exact keepsForm_of_moveQueue (fun _ => execQueueOpen.eq_def ..)
  | queueDrain => exact keepsForm_of_moveQueue (fun _ => execQueueDrain.eq_def ..)
  | queueClosed => exact keepsForm_queueClosed
  | queueForceClose => exact keepsForm_queueForceClose
  | queueDestroy => exact keepsForm_queueDestroy
  | contextCreate => exact keepsForm_contextCreate
  | makeResident => exact keepsForm_makeResident
  | contextEvict => exact keepsForm_contextEvict
  | contextEnd => exact keepsForm_contextEnd
  | faultRetry => exact keepsForm_faultRetry
  | faultContinue => exact keepsForm_faultContinue
  | faultRedirect => exact keepsForm_faultRedirect
  | faultEnd => exact keepsForm_of_onFaulted (fun _ => execFaultEnd.eq_def ..) fun _ _ _ _ hs => hs
  | faultLogLostClear => exact keepsForm_faultLogLostClear
  | heartbeat => exact keepsForm_heartbeat
  | freezeDispatch => exact keepsForm_of_next (fun _ => execFreezeDispatch.eq_def ..) fun _ hs => hs
  | curatorRestart => exact keepsForm_curatorRestart
  | debugGrant => exact keepsForm_debugGrant
  | debugAttach => exact keepsForm_debugAttach
  | debugHalt => exact keepsForm_debugHalt
  | haltReported => exact keepsForm_haltReported
  | debugStep => exact keepsForm_debugStep
  | debugResume => exact keepsForm_debugResume
  | debugStateWrite => exact keepsForm_debugStateWrite
  | breakpointSet => exact keepsForm_breakpointSet
  | debugRevoke => exact keepsForm_debugRevoke
  | linkPartnerDetect => exact keepsForm_linkPartnerDetect
  | linkTrained => exact keepsForm_of_onPort (fun _ => execLinkTrained.eq_def ..)
  | linkTrainingTimeout => exact keepsForm_of_onPort (fun _ => execLinkTrainingTimeout.eq_def ..)
  | spdmSessionEstablished => exact keepsForm_of_onPort (fun _ => execSpdmSessionEstablished.eq_def ..)
  | authenticationFailure => exact keepsForm_of_onPort (fun _ => execAuthenticationFailure.eq_def ..)
  | tagFailureLimit => exact keepsForm_of_onPort (fun _ => execTagFailureLimit.eq_def ..)
  | laneLoss => exact keepsForm_of_onPort (fun _ => execLaneLoss.eq_def ..)
  | lossOfSignal => exact keepsForm_of_onPort (fun _ => execLossOfSignal.eq_def ..)
  | retrain => exact keepsForm_retrain
  | retrainComplete => exact keepsForm_of_onPort (fun _ => execRetrainComplete.eq_def ..)
  | portQuarantine => exact keepsForm_of_onPort (fun _ => execPortQuarantine.eq_def ..)
  | portRelease => exact keepsForm_of_onPort (fun _ => execPortRelease.eq_def ..)
  | portDisable => exact keepsForm_of_onPort (fun _ => execPortDisable.eq_def ..)
  | keyUpdate => exact keepsForm_of_onPort (fun _ => execKeyUpdate.eq_def ..)
  | endSession => exact keepsForm_of_onPort (fun _ => execEndSession.eq_def ..)
  | peerPathTimeout => exact keepsForm_peerPathTimeout
  | inboundRequest => exact keepsForm_inboundRequest
  | exportRangeInstall => exact keepsForm_exportRangeInstall
  | collectiveGroupInstall => exact keepsForm_collectiveGroupInstall
  | collectiveDone => exact keepsForm_collectiveDone
  | deviceStart => exact keepsForm_deviceStart
  | startRecordClear => exact keepsForm_of_next (fun _ => execStartRecordClear.eq_def ..) fun _ hs => hs
  | islandStateSet => exact keepsForm_islandStateSet
  | islandWake => exact keepsForm_islandWake
  | powerLimitSet => exact keepsForm_powerLimitSet
  | lifetimeUpdate => exact keepsForm_of_next (fun _ => execLifetimeUpdate.eq_def ..) fun _ hs => hs
  | checkpoint => exact keepsForm_checkpoint
  | journalFullCheckpoint => exact keepsForm_journalFullCheckpoint
  | replayToStop => exact keepsForm_replayToStop
  | replayStopReached => exact keepsForm_replayStopReached
  | replayContinue => exact keepsForm_replayContinue
  | samplePeriodSet => exact keepsForm_samplePeriodSet
  | stallSample => exact keepsForm_stallSample
  | folioTimeout => exact keepsForm_folioTimeout
  | folioWritten => exact keepsForm_folioWritten
  | cardCredit => exact keepsForm_cardCredit
  | supervisorAccess => exact keepsForm_supervisorAccess
  | contextDescriptorWrite => exact keepsForm_contextDescriptorWrite
  | collectionRegionCreate => exact keepsForm_collectionRegionCreate
  | supervisorNotify => exact keepsForm_supervisorNotify
  | spdmMessage => exact keepsForm_spdmMessage
  | powerLoss => exact keepsForm_powerLoss

/-! ### The turns that are no instruction -/

theorem fetchSome_memOk {s : State} (n op : Nat) (offs : List Nat) (hs : s.memOk = true) : (s.fetchSome n op offs).memOk = true := by
  unfold State.fetchSome
  split
  · exact hs
  · split
    · refine ite_memOk hs (State.memOk_keep (State.updWave_mem ..) (structPutOpt_memOk ?_))
      split
      · exact State.structPut_memOk _ _ _ _ _ _ hs
      · exact hs
    · exact hs

theorem lookRead_mem (s : State) (n op : Nat) (offs : List Nat) : (s.lookRead n op offs).mem = s.mem := by
  unfold State.lookRead
  split
  · rfl
  · split
    · exact State.updWave_mem ..
    · rfl

theorem lookLand_memOk {s : State} (n op : Nat) (err : Option MemError) (offs : List Nat) (hs : s.memOk = true) :
    (s.lookLand n op err offs).memOk = true := by
  unfold State.lookLand
  split
  · exact hs
  · split
    · exact State.memOk_keep ((State.waveError_mem ..).trans (State.updWave_mem ..))
        (structPutOpt_memOk (State.memOk_keep (lookMade_mem ..) hs))
    · exact hs

theorem collectiveRead_mem (s : State) (key : Nat) (offs : List Nat) : (s.collectiveRead key offs).mem = s.mem := by
  unfold State.collectiveRead
  split
  · rfl
  · split
    · rfl
    · dsimp only
      split
      · exact State.setCard_mem ..
      · rfl

/-- A fold over a state and something else keeps the memories in form where each step does. -/
theorem foldl_pair_memOk {α β : Type} {f : State × β → α → State × β} (hf : ∀ r a, r.1.memOk = true → (f r a).1.memOk = true)
    (l : List α) : ∀ r : State × β, r.1.memOk = true → (l.foldl f r).1.memOk = true := by
  induction l with
  | nil => intro r hr; exact hr
  | cons a l ih => intro r hr; exact ih _ (hf r a hr)

theorem collectiveLand_memOk {s : State} (key : Nat) (r : Contributions) (elems : List (Nat × Nat)) (hs : s.memOk = true) :
    (s.collectiveLand key r elems).memOk = true := by
  unfold State.collectiveLand
  split
  · exact hs
  · split
    · exact hs
    · next h =>
      refine State.memOk_keep (State.setCard_mem ..) (foldl_pair_memOk (fun r e hr => ?_) _ _ (State.memOk_keep (Card.sources_mem h) hs))
      refine foldl_pair_memOk (fun q i hq => ?_) _ _ hr
      rw [apply_ite Prod.fst]
      exact ite_memOk (Card.putResult_memOk _ _ _ _ hq) hq

theorem seqDamage_mem (s : State) (n : Nat) (e : MemError) : (s.seqDamage n e).mem = s.mem := by
  unfold State.seqDamage
  split
  · rfl
  · split
    · split
      · exact (State.waveError_mem ..).trans (State.updMatrix_mem ..)
      · rfl
    · rfl

/-! ### Turns and steps -/

/-- The memories of the state in which a turn's instruction runs, or to which the turn comes, are in canonical form. -/
def Act.memOk : Act → Prop
  | .run _ s | .set s | .again _ _ s => s.memOk = true

theorem waveTurn_memOk {s : State} (n : Nat) (hs : s.memOk = true) : Act.memOk (s.waveTurn n) := by
  unfold State.waveTurn
  split
  · exact hs
  · split
    · exact hs
    · split
      · exact hs
      · split
        · exact hs
        · split
          · exact memOk_same hs (by simp)
          · split
            · exact memOk_same hs (by simp)
            · dsimp only
              have ht : ∀ w x, ({ s with cur := n }.holdText w x).memOk = true := fun w x => State.memOk_keep (State.holdText_mem ..) hs
              split
              · exact ht ..
              · exact State.memOk_keep ((State.deliver_mem ..).trans (State.begun_mem ..)) (ht ..)

theorem asked_memOk {s : State} (a : Ask) (hs : s.memOk = true) : (s.asked a).memOk = true := by
  cases a with
  | readWave n => exact memOk_same hs (State.debugRead_mem s n)
  | readLog c => exact memOk_same hs (State.readLog_mem s c)
  | assignQueue q c => exact memOk_same hs (State.assignQueue_mem s q c)
  | readLifetime => exact hs

theorem doTurn_memOk {s : State} (t : Turn) (hs : s.memOk = true) : Act.memOk (s.doTurn t) := by
  cases t with
  | issue n => exact waveTurn_memOk n hs
  | event e => simp only [State.doTurn]; split <;> exact hs
  | landSome w op lane offs => exact fetchSome_memOk _ _ _ (State.landSome_memOk _ _ _ _ _ hs)
  | control mode e =>
    simp only [State.doTurn]
    repeat' (split)
    all_goals exact hs
  | ask mode a => exact ite_memOk hs (asked_memOk a hs)
  | lookRead w op offs => exact State.memOk_keep (lookRead_mem ..) hs
  | lookLand w op err offs => exact lookLand_memOk _ _ _ _ hs
  | cardRecord c how offs => exact State.cardRecord_memOk _ _ _ _ hs
  | collectiveRead c offs => exact State.memOk_keep (collectiveRead_mem ..) hs
  | collectiveLand c r elems => exact collectiveLand_memOk _ _ _ hs
  | cardWalkError c i level => exact State.cardWalkError_memOk _ _ _ _ hs
  | seqError w e => exact State.memOk_keep (seqDamage_mem ..) hs
  | tileWrite w offs => exact State.tileWriteSome_memOk _ _ _ hs
  | readLifetime | atomError | replay => exact hs
  | _ => exact memOk_same hs (by simp)

theorem turn_memOk {s : State} (hs : s.memOk = true) : Act.memOk s.turn := by
  unfold State.turn
  split
  · exact hs
  · exact doTurn_memOk _ hs

/-- Settles O46: every turn comes to a state with the memories in canonical form, every instruction and event keeps them so,
and so does what a step records behind it. -/
theorem everyStepKeepsTheMemoryForm : Obligations.EveryStepKeepsTheMemoryForm := by
  intro s t hs ht
  have hturn := turn_memOk hs
  unfold step at ht
  cases hact : s.turn with
  | set u =>
    rw [hact] at ht hturn
    cases ht
    exact State.recorded_memOk _ _ hturn
  | again die core u =>
    rw [hact] at ht hturn
    cases ht
    exact State.recorded_memOk _ _ (memOk_same hturn (by simp))
  | run i u =>
    rw [hact] at ht hturn
    dsimp only at ht
    split at ht
    · next hrun => cases ht; exact State.settled_memOk _ _ _ _ (keepsForm i _ _ hturn hrun)
    · cases ht
    · cases ht

end Sys2Proof.Proofs

/-! SUPPORT. How an instruction of a wave ends, by what its body answers: it retires, holds the wave, raises its cause, or says
itself where the wave goes on. And the instructions that give registers and predicates their results (O1 to O5). -/

namespace Sys2Proof.Proofs

open Sys2Proof.Machine Sys2Proof.Claims

/-! ### What a body answers, and how the instruction ends -/

/-- An instruction ends in what its body comes to. -/
theorem ends_of_issue {i : Instr} {body : State → Wave → WCtx → Res} {pre : Cond} {u : State → Wave → WCtx → State}
    (meaning : ∀ s, exec i s = issue i s body) (comes : ∀ t w x, pre t w x → t.finish t.cur w x (body t w x) = u t w x) :
    Ends i pre u := by
  intro s v x ⟨wave, ctx, r, o, raw, op, passes, free⟩ holds
  rw [meaning, issue_of body wave ctx raw op passes free]
  exact congrArg Host.Outcome.next (comes (s.begun s.cur v) v.begun x holds)

/-- It holds the wave. -/
theorem ends_of_stall {i : Instr} {body : State → Wave → WCtx → Res} {pre : Cond} {u : State → Wave → WCtx → State}
    (meaning : ∀ s, exec i s = issue i s body) (stall : ∀ t w x, pre t w x → body t w x = .stall (u t w x)) : Ends i pre u :=
  ends_of_issue meaning fun t w x hp => by rw [stall t w x hp]; rfl

/-- It says itself where the wave goes on. -/
theorem ends_of_over {i : Instr} {body : State → Wave → WCtx → Res} {pre : Cond} {u : State → Wave → WCtx → State}
    (meaning : ∀ s, exec i s = issue i s body) (goes : ∀ t w x, pre t w x → body t w x = .over (u t w x)) : Ends i pre u :=
  ends_of_issue meaning fun t w x hp => by rw [goes t w x hp]; rfl

/-- It raises a cause. -/
theorem ends_of_cause {i : Instr} {body : State → Wave → WCtx → Res} {pre : Cond} {c : Cause} {m : State → Wave → WCtx → Mask}
    {a : State → Wave → WCtx → DWord} {g : State → Wave → WCtx → Word} (meaning : ∀ s, exec i s = issue i s body)
    (cause : ∀ t w x, pre t w x → body t w x = .cause c (m t w x) (a t w x) (g t w x)) :
    Ends i pre fun t w x => t.deliver t.cur w x c (m t w x) (a t w x) (g t w x) :=
  ends_of_issue meaning fun t w x hp => by rw [cause t w x hp]; rfl

/-- It waits, and will go on behind the wait (R95). -/
theorem ends_of_wait {i : Instr} {body : State → Wave → WCtx → Res} {pre : Cond} {u : State → Wave → WCtx → State}
    (meaning : ∀ s, exec i s = issue i s body) (wait : ∀ t w x, pre t w x → body t w x = .wait (u t w x)) :
    Ends i pre (onward u u) :=
  ends_of_issue meaning fun t w x hp => by rw [wait t w x hp]; simp only [State.finish, onward, decide_eq_true_eq]

/-! ### Instructions that act once -/

theorem once_of_none {s : State} {w : Wave} {h : Head} (f : Mask → Res) (hg : w.guard h = 0) : once s w h f = .done s := by
  rw [once, if_pos hg]

theorem once_of_some {s : State} {w : Wave} {h : Head} (f : Mask → Res) (hg : w.guard h ≠ 0) : once s w h f = f (w.guard h) := by
  rw [once, if_neg hg]

/-- Where the guard holds in no lane, an instruction that acts once only retires (R49). -/
theorem idle_of_once {i : Instr} {h : Head} {f : State → Wave → WCtx → Mask → Res}
    (meaning : ∀ s, exec i s = issue i s fun t w x => once t w h (f t w x)) : Runs i (fun _ w _ => w.guard h = 0) fun t _ _ => t :=
  runs_of_done meaning fun _ _ _ hg => once_of_none _ hg

/-- An instruction that acts once, and where its guard holds in some lane has an effect and retires. -/
theorem acts_of_once {i : Instr} {h : Head} {f : State → Wave → WCtx → Mask → Res} {pre : Cond}
    {u : State → Wave → WCtx → State} (meaning : ∀ s, exec i s = issue i s fun t w x => once t w h (f t w x))
    (done : ∀ t w x, pre t w x → f t w x (w.guard h) = .done (u t w x)) : Acts i h pre u :=
  ⟨runs_of_done meaning fun t w x ⟨hg, hp⟩ => (once_of_some _ hg).trans (done t w x hp), idle_of_once meaning⟩

/-- One whose guard holds in some lane and that does not retire. -/
theorem stops_of_once {i : Instr} {h : Head} {f : State → Wave → WCtx → Mask → Res} {pre : Cond}
    {u : State → Wave → WCtx → State} (meaning : ∀ s, exec i s = issue i s fun t w x => once t w h (f t w x))
    (comes : ∀ t w x, pre t w x → t.finish t.cur w x (f t w x (w.guard h)) = u t w x) : Stops i h pre u :=
  ends_of_issue meaning fun t w x ⟨hg, hp⟩ => by rw [once_of_some _ hg, comes t w x hp]

theorem stalls_of_once {i : Instr} {h : Head} {f : State → Wave → WCtx → Mask → Res} {pre : Cond}
    {u : State → Wave → WCtx → State} (meaning : ∀ s, exec i s = issue i s fun t w x => once t w h (f t w x))
    (stall : ∀ t w x, pre t w x → f t w x (w.guard h) = .stall (u t w x)) : Stops i h pre u :=
  stops_of_once meaning fun t w x hp => by rw [stall t w x hp]; rfl

theorem waits_of_once {i : Instr} {h : Head} {f : State → Wave → WCtx → Mask → Res} {pre : Cond}
    {u : State → Wave → WCtx → State} (meaning : ∀ s, exec i s = issue i s fun t w x => once t w h (f t w x))
    (wait : ∀ t w x, pre t w x → f t w x (w.guard h) = .wait (u t w x)) : Waits i h pre u := by
  unfold Waits Stops
  exact ends_of_wait meaning fun t w x ⟨hg, hp⟩ => (once_of_some _ hg).trans (wait t w x hp)

theorem raises_of_once {i : Instr} {h : Head} {f : State → Wave → WCtx → Mask → Res} {pre : Cond} {c : Cause} {arg : Word}
    (meaning : ∀ s, exec i s = issue i s fun t w x => once t w h (f t w x))
    (cause : ∀ t w x, pre t w x → f t w x (w.guard h) = .cause c (w.guard h) 0 arg) : Raises i h pre c arg :=
  stops_of_once meaning fun t w x hp => by rw [cause t w x hp]; rfl

/-! ### Results in registers and predicates -/

theorem putsF_of_aluF {i : Instr} {h : Head} {d : Operand} {wide : Bool} {f : Wave → WCtx → Nat → DWord × BitVec 5}
    (meaning : ∀ s, exec i s = issue i s fun t w x => aluF t w h d wide (f w x)) : PutsF i h d wide f :=
  runs_of_done meaning fun _ _ _ _ => rfl

theorem sets_of_done {i : Instr} {f : State → Wave → WCtx → Wave}
    (meaning : ∀ s, exec i s = issue i s fun t w x => .done (t.setWave t.cur (f t w x))) : Sets i always f :=
  runs_of_done meaning fun _ _ _ _ => rfl

theorem int2_of_intRes {i : Instr} {h : Head} {d a b : Operand} {m : IMod} {f : Int → Int → Int → Int}
    (meaning : ∀ s, exec i s = issue i s (intRes h d a b m f)) : Int2 i h d a b m f := puts_of_alu meaning

theorem int1_of_intRes1 {i : Instr} {h : Head} {d a : Operand} {m : IMod} {f : Int → Int}
    (meaning : ∀ s, exec i s = issue i s (intRes1 h d a m f)) : Int1 i h d a m f := puts_of_alu meaning

theorem logic2_of_logicRes {i : Instr} {h : Head} {d a b : Operand} {m : IMod} {f : DWord → DWord → DWord}
    (meaning : ∀ s, exec i s = issue i s (logicRes h d a b m f)) : Logic2 i h d a b m f := puts_of_alu meaning

theorem shift_of_countRes {i : Instr} {h : Head} {d a b : Operand} {m : IMod} {f : DWord → Nat → DWord → DWord}
    (meaning : ∀ s, exec i s = issue i s (countRes h d a b m f)) : Shift i h d a b m f := puts_of_alu meaning

/-- A logic instruction of one source whose result has the width of its type. -/
theorem logic1_of_logicRes1 {i : Instr} {h : Head} {d a : Operand} {m : IMod} {f : DWord → DWord}
    (meaning : ∀ s, exec i s = issue i s (logicRes1 h d a m false f)) : Logic1 i h d a m (wideType m.ty) f :=
  runs_of_done meaning fun _ _ _ _ => by rw [logicRes1, Bool.not_false, Bool.and_true]; rfl

/-- One whose result is a word. -/
theorem logic1_of_narrow {i : Instr} {h : Head} {d a : Operand} {m : IMod} {f : DWord → DWord}
    (meaning : ∀ s, exec i s = issue i s (logicRes1 h d a m true f)) : Logic1 i h d a m false f :=
  runs_of_done meaning fun _ _ _ _ => by rw [logicRes1, Bool.not_true, Bool.and_false]; rfl

theorem float3_of_floatRes {i : Instr} {h : Head} {d a b : Operand} {m : FMod} {f : Machine.Num → Machine.Num → Machine.Num → FRes}
    (meaning : ∀ s, exec i s = issue i s (floatRes h d a b m f)) : Float3 i h d a b m f := putsF_of_aluF meaning

theorem float1_of_floatRes1 {i : Instr} {h : Head} {d a : Operand} {m : FMod} {f : Machine.Num → FRes}
    (meaning : ∀ s, exec i s = issue i s (floatRes1 h d a m f)) : Float1 i h d a m f := putsF_of_aluF meaning

theorem codes_of_codeRes {i : Instr} {h : Head} {d a b : Operand} {m : FMod} {f : Nat → Nat → FRes}
    (meaning : ∀ s, exec i s = issue i s (codeRes h d a b m f)) : Codes i h d a b m f := putsF_of_aluF meaning

/-- Settles O1: each integer instruction gives D, in its guarded lanes, the exact result fitted to the type. -/
theorem integerResults : Obligations.IntegerResults := fun _ _ _ _ _ =>
  ⟨int2_of_intRes fun _ => execIadd.eq_def .., int2_of_intRes fun _ => execIsub.eq_def ..,
    int2_of_intRes fun _ => execImul.eq_def .., int2_of_intRes fun _ => execImulh.eq_def ..,
    int2_of_intRes fun _ => execImad.eq_def .., int2_of_intRes fun _ => execImin.eq_def ..,
    int2_of_intRes fun _ => execImax.eq_def .., int1_of_intRes1 fun _ => execIabs.eq_def ..,
    int1_of_intRes1 fun _ => execIneg.eq_def ..⟩

/-- Settles O2: each logic instruction gives D its result at the width of its type; counts of bits are words. -/
theorem logicResults : Obligations.LogicResults := fun _ _ _ _ _ _ =>
  ⟨logic2_of_logicRes fun _ => execAnd.eq_def .., logic2_of_logicRes fun _ => execOr.eq_def ..,
    logic2_of_logicRes fun _ => execXor.eq_def .., logic2_of_logicRes fun _ => execAndn.eq_def ..,
    logic1_of_logicRes1 fun _ => execNot.eq_def .., shift_of_countRes fun _ => execShl.eq_def ..,
    shift_of_countRes fun _ => execShr.eq_def .., shift_of_countRes fun _ => execSar.eq_def ..,
    shift_of_countRes fun _ => execRotl.eq_def .., logic1_of_narrow fun _ => execPopc.eq_def ..,
    logic1_of_narrow fun _ => execClz.eq_def .., logic1_of_logicRes1 fun _ => execBrev.eq_def ..,
    shift_of_countRes fun _ => execBfe.eq_def .., shift_of_countRes fun _ => execBfi.eq_def ..,
    puts_of_alu fun _ => execLogt.eq_def ..⟩

/-- Settles O4: each float instruction gives D its result element by element, and its flags enter `%fflags`. -/
theorem floatResults : Obligations.FloatResults := fun _ _ _ _ _ _ _ =>
  ⟨float3_of_floatRes fun _ => execFadd.eq_def .., float3_of_floatRes fun _ => execFsub.eq_def ..,
    float3_of_floatRes fun _ => execFmul.eq_def .., float3_of_floatRes fun _ => execFfma.eq_def ..,
    codes_of_codeRes fun _ => execFmin.eq_def .., codes_of_codeRes fun _ => execFmax.eq_def ..,
    float3_of_floatRes fun _ => execFdiv.eq_def .., float1_of_floatRes1 fun _ => execFsqrt.eq_def ..,
    float1_of_floatRes1 fun _ => execFrcp.eq_def .., float1_of_floatRes1 fun _ => execFrsq.eq_def ..,
    float1_of_floatRes1 fun _ => execFexp2.eq_def .., float1_of_floatRes1 fun _ => execFlog2.eq_def ..,
    float1_of_floatRes1 fun _ => execFsin.eq_def .., float1_of_floatRes1 fun _ => execFcos.eq_def ..,
    puts_of_alu fun _ => execFclass.eq_def .., float1_of_floatRes1 fun _ => execFrnd.eq_def ..,
    codes_of_codeRes fun _ => execFabs.eq_def .., codes_of_codeRes fun _ => execFneg.eq_def ..,
    sets_of_done fun _ => execFsetp.eq_def ..⟩

end Sys2Proof.Proofs

/-! SUPPORT. Moves, predicates, conversions, dot products and moves to special registers (O3, O5, O6); the instructions that only
retire, trap or wait for a counter (O7, O8, O14). -/

namespace Sys2Proof.Proofs

open Sys2Proof.Machine Sys2Proof.Claims

/-! ### Moves -/

theorem flagsPending_eq_false {w : Wave} {a : Operand} (h : a ≠ .spec 0x30 ∨ w.tiles = []) : flagsPending w a = false := by
  rw [flagsPending, Bool.and_eq_false_iff]
  rcases h with h | h
  · exact .inl (beq_eq_false_iff_ne.mpr h)
  · exact .inr (by rw [h]; rfl)

theorem flagsPending_of_tiles {w : Wave} (h : w.tiles ≠ []) : flagsPending w (.spec 0x30) = true := by
  cases hw : w.tiles with
  | nil => exact absurd hw h
  | cons _ _ => simp [flagsPending, hw]

theorem movRes_of_pending {h : Head} {d : Operand} {ty : IType} {s : State} {w : Wave} {x : WCtx} (hw : w.tiles ≠ []) :
    movRes h d (.spec 0x30) ty s w x = .stall s := by
  rw [movRes, if_pos (flagsPending_of_tiles hw)]

/-- A move to a register writes its D. -/
theorem movRes_register {h : Head} {d a : Operand} {ty : IType} {s : State} {w : Wave} {x : WCtx}
    (hw : a ≠ .spec 0x30 ∨ w.tiles = []) (hd : ∀ n, d ≠ .spec n) :
    movRes h d a ty s w x = alu s w h d (wideType ty) fun l => readOp w x (shapeOf ty) l a := by
  rw [movRes, flagsPending_eq_false hw]
  cases d with
  | spec n => exact absurd rfl (hd n)
  | _ => rfl

/-- A move to a predicate writes it. -/
theorem movRes_predicate {h : Head} {n : BitVec 8} {a : Operand} {ty : IType} {s : State} {w : Wave} {x : WCtx}
    (hw : a ≠ .spec 0x30 ∨ w.tiles = []) (hn : n.toNat < 8) :
    movRes h (.spec n) a ty s w x = .done (s.setWave s.cur (w.writePred n.toNat (w.guard h) fun l => readWord w x l a != 0)) := by
  rw [movRes, flagsPending_eq_false hw]
  exact if_pos hn

/-- A move to a special register writes that. -/
theorem movRes_special {h : Head} {n : BitVec 8} {a : Operand} {ty : IType} {s : State} {w : Wave} {x : WCtx}
    (hw : a ≠ .spec 0x30 ∨ w.tiles = []) (hn : 8 ≤ n.toNat) :
    movRes h (.spec n) a ty s w x = movSpec h n a (wideType ty) s w x := by
  rw [movRes, flagsPending_eq_false hw]
  exact if_neg (Nat.not_lt.mpr hn)

/-- Settles O3: moves, selects, width changes, comparisons, votes and shuffles each write their D as the body says; a MOV from
`%fflags` waits for the wave's tiles. -/
theorem moveAndPredicateResults : Obligations.MoveAndPredicateResults := by
  intro h d a b ty v neg p dt st sat c k t seg mode
  refine ⟨fun hd => ?_, fun n _ hn => ?_, ?_, ?_, ?_, ?_, ?_, ?_, ⟨?_, ?_, ?_, ?_⟩, ?_⟩
  · exact runs_of_done (fun _ => execMov.eq_def ..) fun t w x hw => movRes_register hw hd
  · exact runs_of_done (fun _ => execMov.eq_def ..) fun t w x hw => movRes_predicate hw (by omega)
  · exact ends_of_stall (fun _ => execMov.eq_def ..) fun t w x hw => movRes_of_pending hw
  · exact puts_of_alu fun _ => execMovi.eq_def ..
  · exact puts_of_alu fun _ => execSel.eq_def ..
  · exact puts_of_alu fun _ => execIcvt.eq_def ..
  · exact sets_of_done fun _ => execIsetp.eq_def ..
  · refine runs_of_done (fun _ => execPlogt.eq_def ..) fun t w x _ => ?_
    have hbit : ∀ (q : Bool) n, (if q then n else 0) = n * q.toNat := fun q n => by cases q <;> simp
    simp only [hbit, Nat.one_mul]
  · exact sets_of_done fun _ => execVote.eq_def ..
  · exact sets_of_done fun _ => execVote.eq_def ..
  · exact sets_of_done fun _ => execVote.eq_def ..
  · exact puts_of_alu fun _ => execVote.eq_def ..
  · exact puts_of_alu fun _ => execShfl.eq_def ..

/-! ### Conversions and dot products -/

/-- Settles O5: conversions and dot products write their D and flags as their bodies say; where some lane of an FCVT.sr computes,
`%dither` has advanced first. -/
theorem conversionAndDotResults : Obligations.ConversionAndDotResults := by
  intro h d a b dt st rnd ftz ovf se de it ft pt hi ut g sa sb sc
  refine ⟨?_, ?_, ?_, ?_, ?_, ⟨?_, ?_, ?_, ?_⟩, ?_, ?_⟩
  · refine runs_of_done (fun _ => execFcvt.eq_def ..) fun t w x _ => ?_
    unfold fcvtRes
    dsimp only
    split <;> rfl
  · exact putsF_of_aluF fun _ => execF2i.eq_def ..
  · exact putsF_of_aluF fun _ => execI2f.eq_def ..
  · exact putsF_of_aluF fun _ => execPack.eq_def ..
  · exact putsF_of_aluF fun _ => execUnpk.eq_def ..
  · exact puts_of_alu fun _ => execDot4i8.eq_def ..
  · exact puts_of_alu fun _ => execDot8i4.eq_def ..
  · exact puts_of_alu fun _ => execDotb32.eq_def ..
  · exact puts_of_alu fun _ => execDotb32.eq_def ..
  · exact putsF_of_aluF fun _ => execDot2bf.eq_def ..
  · refine runs_of_done (fun _ => execDot4f8.eq_def ..) fun t w x _ => ?_
    cases sa <;> cases sb <;> rfl

/-! ### Moves to special registers -/

/-- The value of an operand that a move to a special register reads. -/
theorem readWith_eq_readOp (w : Wave) (x : WCtx) (wide : Bool) (l : Nat) (a : Operand) :
    readWith w x wide (immShape (if wide then .wide else .one)) l a = readOp w x (if wide then .wide else .one) l a := by
  cases wide <;> rfl

theorem movSpec_lpc (h : Head) (a : Operand) (wide : Bool) (s : State) (w : Wave) (x : WCtx) :
    movSpec h 0x20 a wide s w x = .done (s.setWave s.cur (w.writeLpc (w.guard h) fun l =>
      (readOp w x (if wide then .wide else .one) l a).setWidth 32)) := by
  unfold movSpec
  dsimp only
  rw [if_pos rfl]
  simp only [readWith_eq_readOp]

theorem movSpec_of_none {h : Head} {n : BitVec 8} {a : Operand} {wide : Bool} {s : State} {w : Wave} {x : WCtx} (hn : n ≠ 0x20)
    (hg : w.guard h = 0) : movSpec h n a wide s w x = .done s := by
  unfold movSpec
  dsimp only
  rw [if_neg hn, hg, lowestLane_zero]

/-- The value that a move to a special register writes, once: that of the lowest guarded lane. -/
def specValue (h : Head) (a : Operand) (wide : Bool) (w : Wave) (x : WCtx) : DWord :=
  readOp w x (if wide then .wide else .one) ((lowestLane (w.guard h)).getD 0) a

theorem movSpec_of_ok {h : Head} {n : BitVec 8} {a : Operand} {wide : Bool} {s : State} {w w' : Wave} {x : WCtx} (hn : n ≠ 0x20)
    (hg : w.guard h ≠ 0) (hw : w.writeSpec x n (specValue h a wide w x) = .ok w') :
    movSpec h n a wide s w x = .done (s.setWave s.cur w') := by
  obtain ⟨l, hl, -⟩ := lowestLane_some hg
  rw [specValue, hl, Option.getD_some, ← readWith_eq_readOp] at hw
  simp only [movSpec, if_neg hn, hl, hw]

theorem movSpec_of_error {h : Head} {n : BitVec 8} {a : Operand} {wide : Bool} {s : State} {w : Wave} {x : WCtx} {c : Cause}
    (hn : n ≠ 0x20) (hg : w.guard h ≠ 0) (hw : w.writeSpec x n (specValue h a wide w x) = .error c) :
    movSpec h n a wide s w x = onceCause (w.guard h) c 0 := by
  obtain ⟨l, hl, -⟩ := lowestLane_some hg
  rw [specValue, hl, Option.getD_some, ← readWith_eq_readOp] at hw
  simp only [movSpec, if_neg hn, hl, hw]

/-- A MOV to a special register from 8 on but `%lpc` has the effect of the register's write. -/
theorem runs_of_writeSpec {h : Head} {n : BitVec 8} {a : Operand} {ty : IType} {p : Wave → WCtx → Prop} {f : Wave → WCtx → Wave}
    (hn : 8 ≤ n.toNat) (hl : n ≠ 0x20)
    (writes : ∀ w x, p w x → w.writeSpec x n (specValue h a (wideType ty) w x) = .ok (f w x)) :
    Runs (.mov h (.spec n) a ty) (fun _ w x => w.guard h ≠ 0 ∧ (a ≠ .spec 0x30 ∨ w.tiles = []) ∧ p w x) fun t w x =>
      t.setWave t.cur (f w x) :=
  runs_of_done (fun _ => execMov.eq_def ..) fun t w x ⟨hg, hw, hp⟩ => by
    rw [movRes_special hw hn, movSpec_of_ok hl hg (writes w x hp)]

/-- Settles O6: each writable special register by its write's rule; the others by the cases of the guard. -/
theorem specialRegisterMoves : Obligations.SpecialRegisterMoves := by
  intro h a ty
  refine ⟨?_, fun n hn hl => ?_, fun n => ?_, ?_, ?_, ?_, ?_, ?_, ?_, ?_, ?_, ?_, ?_, ?_, ?_, ?_⟩
  · exact runs_of_done (fun _ => execMov.eq_def ..) fun t w x hw => (movRes_special hw (by decide)).trans (movSpec_lpc ..)
  · exact runs_of_done (fun _ => execMov.eq_def ..) fun t w x ⟨hg, hw⟩ => (movRes_special hw hn).trans (movSpec_of_none hl hg)
  · exact ends_of_stall (fun _ => execMov.eq_def ..) fun t w x hw => movRes_of_pending hw
  · exact runs_of_writeSpec (by decide) (by decide) fun w x hp => if_neg hp
  · exact runs_of_writeSpec (by decide) (by decide) fun w x _ => rfl
  · exact runs_of_writeSpec (by decide) (by decide) fun w x _ => rfl
  · exact runs_of_writeSpec (by decide) (by decide) fun w x _ => rfl
  · exact runs_of_writeSpec (by decide) (by decide) fun w x _ => rfl
  · exact runs_of_writeSpec (by decide) (by decide) fun w x _ => rfl
  · exact runs_of_writeSpec (by decide) (by decide) fun w x _ => rfl
  · exact runs_of_writeSpec (by decide) (by decide) fun w x _ => rfl
  · exact runs_of_writeSpec (by decide) (by decide) fun w x _ => rfl
  · exact runs_of_writeSpec (by decide) (by decide) fun w x _ => rfl
  · exact runs_of_writeSpec (by decide) (by decide) fun w x _ => rfl
  · exact runs_of_writeSpec (by decide) (by decide) fun w x _ => rfl
  · refine ends_of_cause (fun _ => execMov.eq_def ..) fun t w x ⟨hg, hw, hp⟩ => ?_
    have hr : w.writeSpec x 0x21 (specValue h a (wideType ty) w x) = .error .steerEmpty := if_pos hp
    exact (movRes_special hw (by decide)).trans (movSpec_of_error (by decide) hg hr)

/-! ### Instructions that only retire, trap, or wait for a counter -/

/-- Settles O7: a word of the hint space is not even checked. -/
theorem idleInstructionsRetire : Obligations.IdleInstructionsRetire := by
  intro h bits
  refine ⟨?_, ?_, ?_, fun s v hv => ?_⟩
  · exact runs_of_done (fun _ => execNop.eq_def ..) fun _ _ _ _ => rfl
  · exact runs_of_done (fun _ => execYield.eq_def ..) fun _ _ _ _ => rfl
  · exact acts_of_once (fun _ => execIcinv.eq_def ..) fun _ _ _ _ => rfl
  · exact (execHintSpaceWord.eq_def bits s).trans (by rw [hv])

/-- Settles O8. -/
theorem trapsRaiseTheirCauses : Obligations.TrapsRaiseTheirCauses := by
  intro h c
  refine ⟨?_, ?_, ?_, ?_, ?_, ?_, ?_⟩
  · exact raises_of_once (fun _ => execTrap.eq_def ..) fun _ _ _ _ => rfl
  · exact raises_of_once (fun _ => execSysc.eq_def ..) fun _ _ _ _ => rfl
  · exact raises_of_once (fun _ => execBrkpt.eq_def ..) fun t w x ht => by rw [ht]; rfl
  · exact stops_of_once (fun _ => execBrkpt.eq_def ..) fun t w x ht => by rw [ht]; rfl
  · exact idle_of_once fun _ => execTrap.eq_def ..
  · exact idle_of_once fun _ => execSysc.eq_def ..
  · exact idle_of_once fun _ => execBrkpt.eq_def ..

/-- Settles O14: the two conditions of each wait are each other's negation. -/
theorem counterWaits : Obligations.CounterWaits := by
  intro h l st c t tag n
  refine ⟨?_, ?_, ?_, ?_⟩
  · refine acts_of_once (fun _ => execWaitc.eq_def ..) fun s w x ⟨hl, hs, hc, ht⟩ => ?_
    simp only [hl, hs, hc, ht, decide_true, Bool.and_true, if_true]
    rfl
  · refine stalls_of_once (fun _ => execWaitc.eq_def ..) fun s w x hlow => if_neg fun hb => hlow ?_
    simp only [Bool.and_eq_true, decide_eq_true_eq] at hb
    obtain ⟨⟨⟨hl, hs⟩, hc⟩, ht⟩ := hb
    exact ⟨hl, hs, hc, ht⟩
  · exact acts_of_once (fun _ => execWaitt.eq_def ..) fun s w x hf => if_pos hf
  · exact stalls_of_once (fun _ => execWaitt.eq_def ..) fun s w x hf => if_neg hf

end Sys2Proof.Proofs

/-! SUPPORT. Where control instructions lead: branches, exits, rejoin instructions and the handler's (O9 to O11). -/

namespace Sys2Proof.Proofs

open Sys2Proof.Machine Sys2Proof.Claims

/-! ### Branches -/

section Branch

variable {s : State} {w w' : Wave} {x : WCtx} {next : Nat → Word}

/-- The lanes of RUN whose target is no place in the text. -/
def badLanes (w : Wave) (x : WCtx) (next : Nat → Word) : Mask := maskOf fun l => w.run.getLsbD l && !x.pcOk (next l)

theorem badLanes_eq_zero (legal : ∀ l, w.run.getLsbD l = true → x.pcOk (next l) = true) : badLanes w x next = 0 :=
  maskOf_eq_zero fun l _ => by
    cases hl : w.run.getLsbD l
    · rfl
    · rw [legal l hl]; rfl

theorem badLanes_ne_zero (illegal : ¬ ∀ l, w.run.getLsbD l = true → x.pcOk (next l) = true) : badLanes w x next ≠ 0 := by
  obtain ⟨l, hl⟩ := not_forall.mp illegal
  obtain ⟨hr, hp⟩ := Classical.not_imp.mp hl
  exact maskOf_ne_zero (BitVec.lt_of_getLsbD hr) (by rw [hr, Bool.eq_false_iff.mpr hp]; rfl)

theorem branchEnd_of_illegal (illegal : ¬ ∀ l, w.run.getLsbD l = true → x.pcOk (next l) = true) :
    branchEnd s w x w' next = .cause .pcRange (badLanes w x next) 0 0 := if_pos (badLanes_ne_zero illegal)

/-- Lanes that agree on a place in the text go there. -/
theorem branchEnd_of_agree {p : Word} (hr : w.run ≠ 0) (hp : x.pcOk p = true) (agree : ∀ l, w.run.getLsbD l = true → next l = p) :
    branchEnd s w x w' next = .over (s.setWave s.cur ((w.retire w').goto p)) := by
  obtain ⟨l0, hl0, hrun⟩ := lowestLane_some hr
  have hbad := badLanes_eq_zero (w := w) (x := x) fun l hl => (congrArg x.pcOk (agree l hl)).trans hp
  have hall : ((lanesOf w.run).all fun l => next l == p) = true := by
    rw [List.all_eq_true]
    intro l hl
    rw [agree l (mem_lanesOf.mp hl).2, beq_self_eq_true]
  unfold badLanes at hbad
  simp only [branchEnd, hbad, ne_eq, not_true_eq_false, if_false, hl0, hall, if_true, agree l0 hrun]

/-- Lanes that part have a lowest one with which not all agree. -/
theorem lowest_of_parts (parts : ∃ l k, w.run.getLsbD l = true ∧ w.run.getLsbD k = true ∧ next l ≠ next k) :
    ∃ l0, lowestLane w.run = some l0 ∧ ((lanesOf w.run).all fun l => next l == next l0) = false := by
  obtain ⟨l, k, hl, hk, hne⟩ := parts
  have hr : w.run ≠ 0 := fun h0 => by rw [h0, noLane] at hl; cases hl
  obtain ⟨l0, hl0, -⟩ := lowestLane_some hr
  refine ⟨l0, hl0, ?_⟩
  rw [Bool.eq_false_iff, ne_eq, List.all_eq_true]
  intro h
  have at_ : ∀ i, w.run.getLsbD i = true → next i = next l0 := fun i hi =>
    eq_of_beq (h i (mem_lanesOf.mpr ⟨BitVec.lt_of_getLsbD hi, hi⟩))
  exact hne ((at_ l hl).trans (at_ k hk).symm)

variable (legal : ∀ l, w.run.getLsbD l = true → x.pcOk (next l) = true)
  (parts : ∃ l k, w.run.getLsbD l = true ∧ w.run.getLsbD k = true ∧ next l ≠ next k)
include legal parts

/-- At depth 2 lanes may not part. -/
theorem branchEnd_of_nest (hd : w.hdep = 2) : branchEnd s w x w' next = .cause .steerNest w.run 0 0 := by
  obtain ⟨l0, hl0, hall⟩ := lowest_of_parts parts
  have hbad := badLanes_eq_zero legal
  unfold badLanes at hbad
  simp only [branchEnd, hbad, ne_eq, not_true_eq_false, if_false, hl0, hall, Bool.false_eq_true, hd, if_true]

/-- In serial steering the chosen lane's group goes on. -/
theorem branchEnd_of_serial (hd : w.hdep = 0) (hs : w.serial = true) :
    branchEnd s w x w' next = .over (s.setWave s.cur { (w.retire w').setLpcs 0 w.run next with
      run := maskOf fun l => w.run.getLsbD l && next l == next w.chosen
      pc := next w.chosen }) := by
  obtain ⟨l0, hl0, hall⟩ := lowest_of_parts parts
  have hbad := badLanes_eq_zero legal
  unfold badLanes at hbad
  simp only [branchEnd, hbad, ne_eq, not_true_eq_false, if_false, hl0, hall, Bool.false_eq_true, hd, hs]
  rfl

/-- Else the steering event is entered. -/
theorem branchEnd_of_event {q : Wave} (hd : w.hdep ≠ 2) (hs : w.hdep = 0 → w.serial = false)
    (hq : (w.retire w').enterEvent x (if w.hdep = 0 then .split else .nested) w.pc next = some q) :
    branchEnd s w x w' next = .over (s.setWave s.cur q) := by
  obtain ⟨l0, hl0, hall⟩ := lowest_of_parts parts
  have hbad := badLanes_eq_zero legal
  have hserial : (decide (w.hdep = 0) && w.serial) = false := by
    rw [Bool.and_eq_false_imp, decide_eq_true_eq]
    exact hs
  unfold badLanes at hbad
  simp only [branchEnd, hbad, ne_eq, not_true_eq_false, if_false, hl0, hall, Bool.false_eq_true, hd, hserial, hq]

end Branch

/-- An instruction whose body is the end of a branch leads where a branch does. -/
theorem branches_of_branchEnd {i : Instr} {link : Wave → Wave} {next : Wave → WCtx → Nat → Word}
    (meaning : ∀ s, exec i s = issue i s fun t w x => branchEnd t w x (link w) (next w x)) : Branches i link next := by
  refine ⟨fun p => ?_, fun q => ?_, ?_, ?_, ?_⟩
  · exact ends_of_over meaning fun t w x ⟨hr, hp, agree⟩ => branchEnd_of_agree hr hp agree
  · exact ends_of_over meaning fun t w x ⟨legal, parts, hd, hs, hq⟩ => branchEnd_of_event legal parts hd hs hq
  · exact ends_of_cause meaning fun t w x ⟨legal, parts, hd⟩ => branchEnd_of_nest legal parts hd
  · exact ends_of_over meaning fun t w x ⟨legal, parts, hd, hs⟩ => branchEnd_of_serial legal parts hd hs
  · exact ends_of_cause meaning fun t w x illegal => branchEnd_of_illegal illegal

/-- Settles O9: each of the five is a branch, by its target and by what it writes before. -/
theorem branchResults : Obligations.BranchResults := by
  intro h d a c
  refine ⟨?_, ?_, ?_, ?_, fun ha => ?_⟩
  · exact branches_of_branchEnd fun _ => execBr.eq_def ..
  · exact branches_of_branchEnd fun _ => execBrx.eq_def ..
  · exact branches_of_branchEnd fun _ => execRet.eq_def ..
  · exact branches_of_branchEnd fun _ => execCall.eq_def ..
  · cases a with
    | imm k => exact absurd rfl (ha k)
    | _ => exact branches_of_branchEnd fun _ => execCall.eq_def ..

/-! ### Exits and rejoin instructions -/

section Settle

variable {i : Instr} {h : Head} {body : State → Wave → WCtx → Res} {pre : Cond} {f : Effect}
  (meaning : ∀ s, exec i s = issue i s body)
  (leads : ∀ t w x, pre t w x → body t w x = settle (f t w x).1 w x (f t w x).2 (w.guard h))
include meaning leads

theorem goesOn_of_settle : GoesOn i pre f :=
  ends_of_over meaning fun t w x ⟨hp, hr, hn⟩ => by
    rw [leads t w x hp]
    simp only [settle, hr, ne_eq, not_false_eq_true, hn, if_true]
    rfl

theorem runsOut_of_settle : RunsOut i pre f :=
  ends_of_cause meaning fun t w x ⟨hp, hr, hn⟩ => by
    rw [leads t w x hp]
    simp only [settle, hr, ne_eq, not_false_eq_true, hn, if_true, if_false, Bool.false_eq_true]

theorem leavesNone_of_settle : LeavesNone i pre f :=
  ends_of_over meaning fun t w x ⟨hp, hr, hl⟩ => by
    rw [leads t w x hp]
    simp only [settle, hr, hl, ne_eq, not_true_eq_false, if_true, if_false]
    rfl

theorem empties_of_settle : Empties i pre f := by
  refine ⟨?_, fun q => ?_, ?_⟩
  · refine ends_of_over meaning fun t w x ⟨⟨hp, hr, hl, hd⟩, hs⟩ => ?_
    rw [leads t w x hp]
    simp only [settle, hr, hl, hd, hs, ne_eq, not_true_eq_false, if_true, if_false]
    rfl
  · refine ends_of_over meaning fun t w x ⟨⟨hp, hr, hl, hd⟩, hs, hn, hq⟩ => ?_
    rw [leads t w x hp]
    simp only [settle, hr, hl, hd, hs, hn, hq, ne_eq, not_true_eq_false, if_false, Bool.false_eq_true]
    rfl
  · refine ends_of_cause meaning fun t w x ⟨⟨hp, hr, hl, hd⟩, hs, hn⟩ => ?_
    rw [leads t w x hp]
    simp only [settle, hr, hl, hd, hs, hn, ne_eq, not_true_eq_false, if_true, if_false, Bool.false_eq_true]

end Settle

/-- A rejoin instruction outside a handler with a word behind it settles with its effect. -/
theorem rejoinRes_of_steer {h : Head} {d : Operand} {f : (Mask → Mask) → Mask → Wave → Nat → Wave} {t : State} {w : Wave} {x : WCtx}
    (hp : w.guard h ≠ 0 ∧ w.hdep = 0 ∧ x.pcOk w.nextPc = true) :
    rejoinRes h d f t w x = settle t w x (f x.maskIn (w.guard h) w (rejoinNo d)) (w.guard h) := by
  obtain ⟨hg, hd, hn⟩ := hp
  rw [rejoinRes, once_of_some _ hg, if_neg (not_not.mpr hd), hn]
  rfl

/-- What raises a cause at a rejoin instruction, and what makes it idle. -/
theorem refusals_of_rejoinRes {i : Instr} {h : Head} {d : Operand} {f : (Mask → Mask) → Mask → Wave → Nat → Wave}
    (meaning : ∀ s, exec i s = issue i s (rejoinRes h d f)) :
    Raises i h (fun _ w _ => w.hdep ≠ 0) .steerMode 0 ∧ (Runs i (fun _ w _ => w.guard h = 0) fun t _ _ => t) ∧
      Stops i h (fun _ w x => w.hdep = 0 ∧ x.pcOk w.nextPc = false) fun t w x => t.deliver t.cur w x .pcRange w.run 0 0 := by
  refine ⟨?_, idle_of_once meaning, ?_⟩
  · exact raises_of_once meaning fun t w x hd => if_pos hd
  · exact stops_of_once meaning fun t w x ⟨hd, hn⟩ => by rw [if_neg (not_not.mpr hd), hn]; rfl

/-- Settles O10: an EXIT, and a rejoin instruction at depth 0 with a word behind it, settle with their effect on the masks. -/
theorem exitAndRejoinResults : Obligations.ExitAndRejoinResults := by
  intro h d
  refine ⟨?_, ?_, ?_, ?_, ?_, ?_, ?_, ?_, ?_, ?_⟩
  · exact goesOn_of_settle (h := h) (fun _ => execExit.eq_def ..) fun _ _ _ _ => rfl
  · exact runsOut_of_settle (h := h) (fun _ => execExit.eq_def ..) fun _ _ _ _ => rfl
  · exact empties_of_settle (h := h) (fun _ => execExit.eq_def ..) fun _ _ _ _ => rfl
  · exact leavesNone_of_settle (h := h) (fun _ => execExit.eq_def ..) fun _ _ _ _ => rfl
  · refine ends_of_cause (fun _ => execExit.eq_def ..) fun t w x ⟨hr, hl, hd⟩ => ?_
    simp only [settle, hr, hl, hd, ne_eq, not_true_eq_false, not_false_eq_true, if_true, if_false]
  · exact goesOn_of_settle (h := h) (fun _ => execJenrol.eq_def ..) fun _ _ _ hp => rejoinRes_of_steer hp
  · exact goesOn_of_settle (h := h) (fun _ => execJwait.eq_def ..) fun _ _ _ hp => rejoinRes_of_steer hp
  · exact empties_of_settle (h := h) (fun _ => execJwait.eq_def ..) fun _ _ _ hp => rejoinRes_of_steer hp
  · exact goesOn_of_settle (h := h) (fun _ => execJstrike.eq_def ..) fun _ _ _ hp => rejoinRes_of_steer hp
  · simp only [List.forall_mem_cons, List.not_mem_nil, false_implies, implies_true, and_true]
    exact ⟨refusals_of_rejoinRes fun _ => execJenrol.eq_def .., refusals_of_rejoinRes fun _ => execJwait.eq_def ..,
      refusals_of_rejoinRes fun _ => execJstrike.eq_def ..⟩

/-! ### Handlers -/

/-- Settles O11: within a handler HRET returns and the assists answer; at depth 0 each raises STEER_MODE. -/
theorem handlerInstructionResults : Obligations.HandlerInstructionResults := by
  intro h d a b
  refine ⟨fun q => ?_, ?_, ?_, ?_, ?_, ?_⟩
  · refine stops_of_once (fun _ => execHret.eq_def ..) fun t w x ⟨hd, hq⟩ => ?_
    have hc : candOf w x a ≠ 0 := fun hc => by
      change w.handlerReturn x (candOf w x a) = some q at hq
      rw [hc] at hq; cases hq
    have hq' : w.handlerReturn x (candOf w x a) = some q := hq
    rw [if_neg hd, if_neg hc, hq']
    rfl
  · exact raises_of_once (fun _ => execHret.eq_def ..) fun t w x ⟨hd, hc⟩ => (if_neg hd).trans (if_pos hc)
  · exact acts_of_once (fun _ => execPcmin.eq_def ..) fun t w x hd => if_neg hd
  · exact acts_of_once (fun _ => execPcmaj.eq_def ..) fun t w x hd => if_neg hd
  · exact acts_of_once (fun _ => execPceq.eq_def ..) fun t w x hd => if_neg hd
  · simp only [List.forall_mem_cons, List.not_mem_nil, false_implies, implies_true, and_true]
    exact ⟨raises_of_once (fun _ => execHret.eq_def ..) fun t w x hd => if_pos hd,
      raises_of_once (fun _ => execPcmin.eq_def ..) fun t w x hd => if_pos hd,
      raises_of_once (fun _ => execPcmaj.eq_def ..) fun t w x hd => if_pos hd,
      raises_of_once (fun _ => execPceq.eq_def ..) fun t w x hd => if_pos hd⟩

end Sys2Proof.Proofs

/-! SUPPORT. Memory accesses and copies at issue (O12, O13): their checks lane by lane, what they raise, and when they wait. -/

namespace Sys2Proof.Proofs

open Sys2Proof.Machine Sys2Proof.Claims

/-! ### Causes in an exposed block -/

/-- A cause raised by an instruction that exposes its block where a condition holds (R308). -/
theorem finish_exposing (t : State) (n : Nat) (w : Wave) (x : WCtx) (c : Cause) (m : Mask) (a : DWord) (g : Word) (b : Bool) :
    t.finish n w x ((Res.cause c m a g).exposing t w b) = (t.expose w b).deliver n w x c m a g := by
  cases b <;> rfl

theorem exposing_done (u s : State) (w : Wave) (b : Bool) : (Res.done u).exposing s w b = .done u := rfl
theorem exposing_stall (u s : State) (w : Wave) (b : Bool) : (Res.stall u).exposing s w b = .stall u := rfl

/-! ### Lanes without a cause -/

theorem lanesOf_zero : lanesOf 0 = [] := by decide

theorem checkLanes_zero (w : Wave) (x : WCtx) (ws : Windows) (addr : Nat → Word) (n align : Nat) :
    checkLanes w x 0 ws addr n align = .ok [] := by
  simp only [checkLanes, lanesOf_zero, List.map_nil, List.filterMap_nil, worstCause]

theorem claimCause_nil (w : Wave) (x : WCtx) (addr : Nat → Word) (n : Nat) : claimCause w x [] addr n = none := rfl

/-! ### Loads -/

section Load

variable {h : Head} {a : Operand} {b : Option Operand} {ty : MemType} {s : State} {w : Wave} {x : WCtx} {ps : List (Nat × Loc)}
  {c : Cause × Mask × DWord}

/-- A load into lane registers checks every guarded lane. -/
theorem ldRes_lanes {d : Operand} (hd : ∀ r, d ≠ .uni r) : ldRes h d a b ty s w x =
    match checkLanes w x (w.guard h) { spill := true } (laneAddr w x a b) (memBytes ty) (memBytes ty) with
    | .error c => .cause c.1 c.2.1 c.2.2 0
    | .ok ps => if w.guard h = 0 then .done s else if 63 ≤ w.loads.length then .stall s else .done (ldAt d ty s w x (w.guard h) ps) := by
  cases d with
  | uni r => exact absurd rfl (hd r)
  | _ => rfl

/-- A load into a uniform register checks the lowest guarded lane, without the spill window. -/
theorem ldRes_uni {r : BitVec 6} (hg : w.guard h ≠ 0) : ldRes h (.uni r) a b ty s w x =
    match checkLanes w x (1#64 <<< (lowestLane (w.guard h)).getD 0) { spill := false } (laneAddr w x a b) (memBytes ty) (memBytes ty) with
    | .error c => .cause c.1 (w.guard h) c.2.2 0
    | .ok ps => if w.guard h = 0 then .done s else if 63 ≤ w.loads.length then .stall s else
      .done (ldAt (.uni r) ty s w x (w.guard h) ps) := by
  obtain ⟨l, hl, -⟩ := lowestLane_some hg
  rw [ldRes, hl]
  rfl

theorem ldRes_idle (d : Operand) (hg : w.guard h = 0) : ldRes h d a b ty s w x = .done s := by
  unfold ldRes
  cases d <;> simp only [hg, lowestLane_zero, checkLanes_zero, if_true, Bool.false_eq_true, if_false]

end Load


/-! ### Stores and atomics -/

section Store

variable {h : Head} {d a : Operand} {b : Option Operand} {s : State} {w : Wave} {x : WCtx} {ps : List (Nat × Loc)}
  {c : Cause × Mask × DWord}

theorem stRes_idle (ty : MemType) (hg : w.guard h = 0) : stRes h d a b ty s w x = .done s := by
  simp only [stRes, hg, checkLanes_zero, claimCause_nil, if_true]

theorem atomRes_idle (op : AtomOp) (ord : AtomOrd) (w64 : Bool) (hg : w.guard h = 0) :
    atomRes h d a b op ord w64 s w x = .done s := by
  simp only [atomRes, hg, checkLanes_zero, claimCause_nil, if_true]

end Store

/-- The scope of a fence holds nothing older that it waits for. -/
theorem fence_quiet_iff {w : Wave} {scope : Nat} {k : FenceKind} :
    (scope = 0 ∨ (k ≠ .rel → w.loads = []) ∧ (k ≠ .acq → w.pendsWithin scope = false)) ↔
      (scope ≠ 0 && match k with
        | .acq => !w.loads.isEmpty
        | .rel => w.pendsWithin scope
        | .full => !w.loads.isEmpty || w.pendsWithin scope) = false := by
  cases k <;> simp <;> tauto

/-- Settles O12: each access by what its checks answer, in the order in which the model makes them. -/
theorem memoryResults : Obligations.MemoryResults := by
  intro h d a b ty op ord w64 k ps c
  dsimp only
  refine ⟨fun hd => ⟨?_, ?_, ?_⟩, fun r => ⟨?_, ?_, ?_⟩, ?_, ?_, ?_, ?_, ?_, ?_, ?_, ?_, ?_, ?_, ?_⟩
  · refine runs_of_done (fun _ => execLd.eq_def ..) fun t w x ⟨hg, hl, hp⟩ => ?_
    rw [ldRes_lanes hd, hp]
    exact (if_neg hg).trans (if_neg (Nat.not_le.mpr hl))
  · refine ends_of_stall (fun _ => execLd.eq_def ..) fun t w x ⟨hg, hl, hp⟩ => ?_
    rw [ldRes_lanes hd, hp]
    exact (if_neg hg).trans (if_pos hl)
  · refine ends_of_cause (fun _ => execLd.eq_def ..) fun t w x hp => ?_
    rw [ldRes_lanes hd, hp]
  · refine runs_of_done (fun _ => execLd.eq_def ..) fun t w x ⟨hg, hl, hp⟩ => ?_
    rw [ldRes_uni hg, hp]
    exact (if_neg hg).trans (if_neg (Nat.not_le.mpr hl))
  · refine ends_of_stall (fun _ => execLd.eq_def ..) fun t w x ⟨hg, hl, hp⟩ => ?_
    rw [ldRes_uni hg, hp]
    exact (if_neg hg).trans (if_pos hl)
  · refine ends_of_cause (fun _ => execLd.eq_def ..) fun t w x ⟨hg, hp⟩ => ?_
    rw [ldRes_uni hg, hp]
  · refine runs_of_done (fun _ => execSt.eq_def ..) fun t w x ⟨hg, hl, hp, hc⟩ => ?_
    simp only [stRes, hp, hc, if_neg hg, if_neg (Nat.not_le.mpr hl)]
  · refine ends_of_stall (fun _ => execSt.eq_def ..) fun t w x ⟨hg, hl, hp, hc⟩ => ?_
    simp only [stRes, hp, hc, if_neg hg, if_pos hl]
  · refine ends_of_cause (fun _ => execSt.eq_def ..) fun t w x hp => ?_
    simp only [stRes, hp]
  · refine ends_of_issue (fun _ => execSt.eq_def ..) fun t w x ⟨hp, hc⟩ => ?_
    simp only [stRes, hp, hc, finish_exposing, State.expose_cur]
  · refine runs_of_done (fun _ => execAtom.eq_def ..) fun t w x ⟨hg, hl, hr, hp, hc⟩ => ?_
    simp only [atomRes, hp, hc, if_neg hg, hr, Bool.or_false, decide_eq_true_eq, if_neg (Nat.not_le.mpr hl)]
  · refine ends_of_stall (fun _ => execAtom.eq_def ..) fun t w x ⟨hg, hl, hp, hc⟩ => ?_
    simp only [Bool.not_eq_false] at hl
    simp only [atomRes, hp, hc, if_neg hg, Bool.or_eq_true, decide_eq_true_eq, if_pos hl]
  · refine ends_of_cause (fun _ => execAtom.eq_def ..) fun t w x hp => ?_
    simp only [atomRes, hp]
  · refine ends_of_issue (fun _ => execAtom.eq_def ..) fun t w x ⟨hp, hc⟩ => ?_
    simp only [atomRes, hp, hc, finish_exposing, State.expose_cur]
  · simp only [List.forall_mem_cons, List.not_mem_nil, false_implies, implies_true, and_true]
    exact ⟨runs_of_done (fun _ => execLd.eq_def ..) fun t w x hg => ldRes_idle d hg,
      runs_of_done (fun _ => execSt.eq_def ..) fun t w x hg => stRes_idle ty hg,
      runs_of_done (fun _ => execAtom.eq_def ..) fun t w x hg => atomRes_idle op ord w64 hg⟩
  · refine acts_of_once (fun _ => execFence.eq_def ..) fun t w x hq => ?_
    exact if_neg (Bool.eq_false_iff.mp (fence_quiet_iff.mp hq))
  · refine stalls_of_once (fun _ => execFence.eq_def ..) fun t w x hq => ?_
    exact if_pos (Bool.not_eq_false _ ▸ fun hn => hq (fence_quiet_iff.mpr hn))

/-! ### Copies -/

/-- The lanes of a copy all pass. -/
theorem worstCause_of_sound {w : Wave} {x : WCtx} {d a b : Operand} {n : Nat} {g : Mask}
    (sound : ∀ l, g.getLsbD l = true → copyLaneCause w x d a b n l = none) :
    worstCause ((lanesOf g).filterMap (copyLaneCause w x d a b n)) = none := by
  rw [List.filterMap_eq_nil_iff.mpr fun l hl => sound l (mem_lanesOf.mp hl).2]
  rfl

/-- Settles O13: each copy by what its lanes' checks, its pages, its claims and its arrival word answer, in this order. -/
theorem copyIssueResults : Obligations.CopyIssueResults := by
  intro h d a b c size tag arr ts e
  dsimp only
  refine ⟨?_, ?_, ?_, fun k => ?_, ?_, ?_, ?_, fun k => ?_, ?_, ?_, fun x' => ?_, ?_⟩
  · refine runs_of_done (fun _ => execCpy.eq_def ..) fun t w x ⟨⟨hg, hs⟩, ht, hc, hw, hf⟩ => ?_
    simp only [copyRes, if_neg hg, worstCause_of_sound hs, ht, hc, hw, hf, if_true, Bool.false_eq_true, if_false, exposing_done]
  · refine ends_of_stall (fun _ => execCpy.eq_def ..) fun t w x ⟨⟨hg, hs⟩, ht, hc, hw, hf⟩ => ?_
    simp only [copyRes, if_neg hg, worstCause_of_sound hs, ht, hc, hw, hf, if_true, exposing_stall]
  · refine ends_of_issue (fun _ => execCpy.eq_def ..) fun t w x ⟨hg, hbad⟩ => ?_
    rcases hbad with hb | ⟨⟨-, hs⟩, ht, hc⟩
    · simp only [copyRes, if_neg hg, hb, finish_exposing]
      rfl
    · simp only [copyRes, if_neg hg, worstCause_of_sound hs, ht, hc, if_true, finish_exposing]
      rfl
  · refine ends_of_issue (fun _ => execCpy.eq_def ..) fun t w x ⟨⟨hg, hs⟩, ht, hc, hk⟩ => ?_
    simp only [copyRes, if_neg hg, worstCause_of_sound hs, ht, hc, hk, if_true, finish_exposing]
    rfl
  · refine runs_of_done (fun _ => execCpyo.eq_def ..) fun t w x ⟨⟨hg, hs⟩, ht, hw, hf⟩ => ?_
    simp only [copyRes, if_neg hg, worstCause_of_sound hs, ht, hw, hf, reduceCtorEq, Bool.false_eq_true, if_false, exposing_done]
  · refine ends_of_stall (fun _ => execCpyo.eq_def ..) fun t w x ⟨⟨hg, hs⟩, ht, hw, hf⟩ => ?_
    simp only [copyRes, if_neg hg, worstCause_of_sound hs, ht, hw, hf, reduceCtorEq, if_true, if_false, exposing_stall]
  · refine ends_of_issue (fun _ => execCpyo.eq_def ..) fun t w x ⟨hg, hb⟩ => ?_
    simp only [copyRes, if_neg hg, hb, finish_exposing, beq_self_eq_true, Bool.true_and, State.expose_cur]
  · refine ends_of_issue (fun _ => execCpyo.eq_def ..) fun t w x ⟨⟨hg, hs⟩, ht, hk⟩ => ?_
    simp only [copyRes, if_neg hg, worstCause_of_sound hs, ht, hk, reduceCtorEq, if_false, finish_exposing]
    rfl
  · simp only [List.forall_mem_cons, List.not_mem_nil, false_implies, implies_true, and_true]
    exact ⟨runs_of_done (fun _ => execCpy.eq_def ..) fun t w x hg => if_pos hg,
      runs_of_done (fun _ => execCpyo.eq_def ..) fun t w x hg => if_pos hg⟩
  · refine acts_of_once (fun _ => execBulk.eq_def ..) fun t w x ⟨hs, hf⟩ => ?_
    rw [hs, hf]
    rfl
  · refine stops_of_once (fun _ => execBulk.eq_def ..) fun t w x hs => ?_
    rw [hs]
    rfl
  · refine stalls_of_once (fun _ => execBulk.eq_def ..) fun t w x ⟨hs, hf⟩ => ?_
    rw [hs, hf]
    rfl

end Sys2Proof.Proofs

/-! SUPPORT. Arrival words and completion rings, barriers and stage rings (O15, O16, O17): what they find decides whether they act, wait or raise. -/

namespace Sys2Proof.Proofs

open Sys2Proof.Machine Sys2Proof.Claims

/-! ### Instructions that act once at a structure -/

section OnceAt

variable {i : Instr} {h : Head} {f : State → Wave → WCtx → State → Mask → Res} {pre : Cond} {u : State → Wave → WCtx → State}
  {addr : Wave → WCtx → Word} {n align : Nat}

theorem onceAt_none {t : State} {w : Wave} {x : WCtx} {a : Word} (g : State → Mask → Res) (hg : w.guard h = 0) :
    onceAt t w x h a n align g = .done t := once_of_none _ hg

theorem onceAt_some {t : State} {w : Wave} {x : WCtx} {a : Word} (g : State → Mask → Res) (hg : w.guard h ≠ 0)
    (ok : checkStruct w x a n align = .ok ()) :
    onceAt t w x h a n align g = g (t.flushStores t.cur (t.waveDom x)) (w.guard h) := by
  rw [onceAt, once_of_some _ hg, ok]

theorem acts_of_onceAt (meaning : ∀ s, exec i s = issue i s fun t w x => onceAt t w x h (addr w x) n align (f t w x))
    (ok : ∀ t w x, pre t w x → structOk n align addr t w x)
    (done : ∀ t w x, pre t w x → f t w x (t.flushStores t.cur (t.waveDom x)) (w.guard h) = .done (u t w x)) : Acts i h pre u :=
  ⟨runs_of_done meaning fun t w x ⟨hg, hp⟩ => (onceAt_some _ hg (ok t w x hp)).trans (done t w x hp),
    runs_of_done meaning fun _ _ _ hg => onceAt_none _ hg⟩

theorem waits_of_onceAt (meaning : ∀ s, exec i s = issue i s fun t w x => onceAt t w x h (addr w x) n align (f t w x))
    (ok : ∀ t w x, pre t w x → structOk n align addr t w x)
    (wait : ∀ t w x, pre t w x → f t w x (t.flushStores t.cur (t.waveDom x)) (w.guard h) = .wait (u t w x)) : Waits i h pre u := by
  unfold Waits Stops
  exact ends_of_wait meaning fun t w x ⟨hg, hp⟩ => (onceAt_some _ hg (ok t w x hp)).trans (wait t w x hp)

/-- A cause of the window checks, raised for the guarded lanes with the address. -/
theorem outside_of_once {f : State → Wave → WCtx → Mask → Res} (meaning : ∀ s, exec i s = issue i s fun t w x => once t w h (f t w x))
    (fails : ∀ t w x c, pre t w x → checkStruct w x (addr w x) n align = .error c →
      f t w x (w.guard h) = onceCause (w.guard h) c ((addr w x).setWidth 64)) : Outside i h pre n align addr :=
  fun _ => stops_of_once meaning fun t w x ⟨hp, hc⟩ => by rw [fails t w x _ hp hc]; rfl

theorem outside_of_onceAt (meaning : ∀ s, exec i s = issue i s fun t w x => onceAt t w x h (addr w x) n align (f t w x)) :
    Outside i h pre n align addr :=
  outside_of_once meaning fun t w x c _ hc => by rw [hc]

end OnceAt

/-- An arrival word is ready where its generation is another one or it has faulted (R195, R197). -/
theorem ready_iff {v : Arrival} {gen : Nat} : v.ready gen = true ↔ v.gen ≠ gen ∨ v.fault = true := by
  rw [Arrival.ready, Bool.or_eq_true, bne_iff_ne]

theorem not_ready_of {v : Arrival} {gen : Nat} (hg : v.gen = gen) (hf : v.fault = false) : ¬ v.ready gen = true := by
  rw [ready_iff]
  exact not_or.mpr ⟨not_not.mpr hg, Bool.eq_false_iff.mp hf⟩

/-- Settles O15: each by its window check and what the word or the ring holds. -/
theorem arrivalAndRingPolling : Obligations.ArrivalAndRingPolling := by
  intro h d a b
  dsimp only
  refine ⟨?_, ?_, ?_, ?_, ?_, ?_, ?_, ?_, ?_, ?_, ?_, ?_⟩
  · refine acts_of_once (fun _ => execArrinit.eq_def ..) fun t w x ⟨hw, hs, ho⟩ => ?_
    rw [structOk] at hw
    simp only [hw, if_neg (Nat.not_le.mpr hs), ho, if_true, onCur, List.foldl_cons, List.foldl_nil, State.ldsWrites_cur, State.flushStores_cur]
  · refine acts_of_once (fun _ => execArrinit.eq_def ..) fun t w x ⟨hw, hs, ho⟩ => ?_
    rw [structOk] at hw
    simp only [hw, if_neg (Nat.not_le.mpr hs), ho, Bool.false_eq_true, if_false]
    rfl
  · refine acts_of_onceAt (fun _ => execArrtest.eq_def ..) (fun t w x hw => hw) fun t w x hw => ?_
    simp only [ready_iff]
    rfl
  · refine acts_of_onceAt (fun _ => execArrwait.eq_def ..) (fun t w x hw => hw.1) fun t w x ⟨hw, hr⟩ => ?_
    exact if_pos (ready_iff.mpr hr)
  · refine waits_of_onceAt (fun _ => execArrwait.eq_def ..) (fun t w x hw => hw.1) fun t w x ⟨hw, hg, hf⟩ => ?_
    exact if_neg (not_ready_of hg hf)
  · refine acts_of_onceAt (fun _ => execCrpoll.eq_def ..) (fun t w x hw => hw.1) fun t w x ⟨hw, hr⟩ => ?_
    exact if_pos hr
  · refine acts_of_onceAt (fun _ => execCrpoll.eq_def ..) (fun t w x hw => hw.1) fun t w x ⟨hw, hr⟩ => ?_
    rw [onCur, State.ldsWrites_cur]
    exact if_neg hr
  · refine acts_of_onceAt (fun _ => execCrsleep.eq_def ..) (fun t w x hw => hw.1) fun t w x ⟨hw, hr⟩ => ?_
    exact if_pos hr
  · refine waits_of_onceAt (fun _ => execCrsleep.eq_def ..) (fun t w x hw => hw.1) fun t w x ⟨hw, hr⟩ => ?_
    exact if_neg (not_not.mpr hr)
  · refine stalls_of_once (fun _ => execArrinit.eq_def ..) fun t w x ⟨hw, hs⟩ => ?_
    rw [structOk] at hw
    simp only [hw, if_pos hs]
  · simp only [List.forall_mem_cons, List.not_mem_nil, false_implies, implies_true, and_true]
    exact ⟨outside_of_once (fun _ => execArrinit.eq_def ..) fun t w x c _ hc => by rw [hc],
      outside_of_onceAt (fun _ => execArrtest.eq_def ..), outside_of_onceAt (fun _ => execArrwait.eq_def ..)⟩
  · simp only [List.forall_mem_cons, List.not_mem_nil, false_implies, implies_true, and_true]
    exact ⟨outside_of_onceAt (fun _ => execCrpoll.eq_def ..), outside_of_onceAt (fun _ => execCrsleep.eq_def ..)⟩

/-! ### The wave and its context at issue -/

/-- An instruction ends in what its body comes to at its wave. -/
theorem ends_of_issueAt {i : Instr} {body : State → Wave → WCtx → Res} {pre : Cond} {u : State → Wave → WCtx → State}
    (meaning : ∀ s, exec i s = issue i s body)
    (comes : ∀ t w x, At t t.cur w x → pre t w x → t.finish t.cur w x (body t w x) = u t w x) : Ends i pre u := by
  intro s v x ⟨wave, ctx, r, o, raw, op, passes, free⟩ holds
  rw [meaning, issue_of body wave ctx raw op passes free]
  exact congrArg Host.Outcome.next (comes (s.begun s.cur v) v.begun x ⟨State.begun_wave wave, ctx⟩ holds)

theorem runs_of_doneAt {i : Instr} {body : State → Wave → WCtx → Res} {pre : Cond} {u : State → Wave → WCtx → State}
    (meaning : ∀ s, exec i s = issue i s body) (done : ∀ t w x, At t t.cur w x → pre t w x → body t w x = .done (u t w x)) :
    Runs i pre u :=
  ends_of_issueAt meaning fun t w x at_ hp => by rw [done t w x at_ hp, finish_done_eq_onward]

theorem waits_of_waitAt {i : Instr} {h : Head} {body : State → Wave → WCtx → Res} {pre : Cond} {u : State → Wave → WCtx → State}
    (meaning : ∀ s, exec i s = issue i s body)
    (wait : ∀ t w x, At t t.cur w x → w.guard h ≠ 0 → pre t w x → body t w x = .wait (u t w x)) : Waits i h pre u := by
  unfold Waits Stops
  exact ends_of_issueAt meaning fun t w x at_ ⟨hg, hp⟩ => by
    rw [wait t w x at_ hg hp]; simp only [State.finish, onward, decide_eq_true_eq]

/-! ### Barriers -/

section Barrier

variable {i : Instr} {h : Head} {f : State → Wave → WCtx → Mask → Res} {pre : Cond} {u : State → Wave → WCtx → State}

/-- In handler mode it raises STEER_MODE (R226). -/
theorem steerMode_of_barrierOnce (meaning : ∀ s, exec i s = issue i s fun t w x => barrierOnce t w h (f t w x)) :
    Raises i h (fun _ w _ => w.hdep ≠ 0) .steerMode 0 :=
  raises_of_once meaning fun _ _ _ hd => if_pos hd

/-- Outside handler mode, one that has an effect and retires. -/
theorem acts_of_barrierOnce (meaning : ∀ s, exec i s = issue i s fun t w x => barrierOnce t w h (f t w x))
    (thread : ∀ t w x, pre t w x → w.hdep = 0) (done : ∀ t w x, pre t w x → f t w x (w.guard h) = .done (u t w x)) : Acts i h pre u :=
  acts_of_once meaning fun t w x hp => (if_neg (not_not.mpr (thread t w x hp))).trans (done t w x hp)

theorem waits_of_barrierOnce (meaning : ∀ s, exec i s = issue i s fun t w x => barrierOnce t w h (f t w x))
    (thread : ∀ t w x, pre t w x → w.hdep = 0) (wait : ∀ t w x, pre t w x → f t w x (w.guard h) = .wait (u t w x)) : Waits i h pre u :=
  waits_of_once meaning fun t w x hp => (if_neg (not_not.mpr (thread t w x hp))).trans (wait t w x hp)

theorem stalls_of_barrierOnce (meaning : ∀ s, exec i s = issue i s fun t w x => barrierOnce t w h (f t w x))
    (thread : ∀ t w x, pre t w x → w.hdep = 0) (stall : ∀ t w x, pre t w x → f t w x (w.guard h) = .stall (u t w x)) : Stops i h pre u :=
  stalls_of_once meaning fun t w x hp => (if_neg (not_not.mpr (thread t w x hp))).trans (stall t w x hp)

theorem raises_of_barrierOnce {c : Cause} (meaning : ∀ s, exec i s = issue i s fun t w x => barrierOnce t w h (f t w x))
    (thread : ∀ t w x, pre t w x → w.hdep = 0) (cause : ∀ t w x, pre t w x → f t w x (w.guard h) = onceCause (w.guard h) c 0) :
    Raises i h pre c 0 :=
  raises_of_once meaning fun t w x hp => (if_neg (not_not.mpr (thread t w x hp))).trans (cause t w x hp)

end Barrier

/-- The context of a wave after barrier `b` of its block or grid has changed. -/
def withBarrier (x : WCtx) (b : Nat) (f : Barrier → Barrier) : WCtx :=
  if b < 16 then { x with block := { x.block with barriers := x.block.barriers.modify b f } }
  else { x with grid := { x.grid with barriers := x.grid.barriers.modify (b - 16) f } }

theorem wctx_eq_some {t : State} {w : Wave} {x : WCtx} : t.wctx w = some x ↔
    t.blocks.get w.block = some x.block ∧ t.grids.get x.block.grid = some x.grid ∧ t.kernels.get x.grid.kernel = some x.kern := by
  obtain ⟨b, g, k⟩ := x
  constructor
  · intro h
    unfold State.wctx at h
    split at h
    · cases h
    · split at h
      · cases h
      · split at h
        · cases h
        · cases h
          exact ⟨‹_›, ‹_›, ‹_›⟩
  · rintro ⟨hb, hg, hk⟩
    simp only [State.wctx, hb, hg, hk]

theorem wctx_updBarrier {t : State} {w : Wave} {x : WCtx} (b : Nat) (f : Barrier → Barrier) (ctx : t.wctx w = some x) :
    (t.updBarrier w x b f).wctx w = some (withBarrier x b f) := by
  obtain ⟨hb, hg, hk⟩ := wctx_eq_some.mp ctx
  rw [wctx_eq_some, State.updBarrier, withBarrier]
  split
  · refine ⟨?_, hg, hk⟩
    rw [State.updBlock_blocks, Tbl.get_upd, hb]
    rfl
  · refine ⟨hb, ?_, hk⟩
    rw [State.updGrid_grids, Tbl.get_upd, hg]
    rfl

/-- The barriers of a wave: 16 of its block, and those of its grid (R222). -/
def hasBarrier (x : WCtx) (n : Nat) : Prop :=
  n < 20 ∧ if n < 16 then n < x.block.barriers.length else n - 16 < x.grid.barriers.length

theorem barrier_withBarrier {x : WCtx} {n : Nat} (f : Barrier → Barrier) (there : hasBarrier x n) :
    (withBarrier x n f).barrier n = f (x.barrier n) := by
  obtain ⟨-, there⟩ := there
  by_cases hn : n < 16
  · rw [if_pos hn] at there
    simp [withBarrier, WCtx.barrier, hn, there]
  · rw [if_neg hn] at there
    simp [withBarrier, WCtx.barrier, hn, there]

theorem updBarrier_waves (t : State) (w : Wave) (x : WCtx) (b : Nat) (f : Barrier → Barrier) :
    (t.updBarrier w x b f).waves = t.waves := by
  unfold State.updBarrier
  split <;> rfl

@[simp] theorem State.updBarrier_cur (t : State) (w : Wave) (x : WCtx) (b : Nat) (f : Barrier → Barrier) : (t.updBarrier w x b f).cur = t.cur := by
  unfold State.updBarrier
  split <;> rfl

/-- The pend of barrier `n` notes the phase of its arrival (R223). -/
theorem phaseDone_setPend (w : Wave) {n : Nat} (hn : n < 20) (phase : Bool) (k : Barrier) :
    (w.setPend n phase).phaseDone n k = (phase != k.phase) := by
  cases phase <;> simp [Wave.phaseDone, Wave.setPend, hn]

/-- The state in which a wave has arrived at barrier `n` (R223). -/
def arrivedAt (t : State) (w : Wave) (x : WCtx) (n : Nat) : State :=
  (t.updWave t.cur fun q => q.setPend n (x.barrier n).phase).updBarrier w x n Barrier.arrive

theorem arriveRes_of_free {t : State} {w : Wave} {x : WCtx} {n : Nat} {g : Mask} (f : State → Res)
    (hp : w.pending n (x.barrier n) = false) (hb : w.behind g = false) : arriveRes n t w x g f = f (arrivedAt t w x n) := by
  simp only [arriveRes, hp, hb, Bool.false_eq_true, if_false]
  rfl

theorem arriveRes_of_behind {t : State} {w : Wave} {x : WCtx} {n : Nat} {g : Mask} (f : State → Res)
    (hp : w.pending n (x.barrier n) = false) (hb : w.behind g = true) : arriveRes n t w x g f = .stall t := by
  simp only [arriveRes, hp, hb, Bool.false_eq_true, if_false, if_true]

/-- A wave that has arrived waits for the phase in which it did (R224). -/
theorem waitRes_arrivedAt {t : State} {w : Wave} {x : WCtx} {n : Nat} (at_ : At t t.cur w x) (there : hasBarrier x n) :
    waitRes n (arrivedAt t w x n) w =
      if ((x.barrier n).phase != (x.barrier n).arrive.phase) = true
      then .done ((arrivedAt t w x n).updWave t.cur fun q => q.clearPend n)
      else .wait ((arrivedAt t w x n).updWave t.cur fun q => { q with wait := some (.bar n) }) := by
  obtain ⟨wave, ctx⟩ := at_
  have hcur : (arrivedAt t w x n).cur = t.cur := State.updBarrier_cur ..
  have hwave : (arrivedAt t w x n).curWave w = w.setPend n (x.barrier n).phase := by
    rw [State.curWave, hcur, arrivedAt, updBarrier_waves, State.updWave_waves, Tbl.get_upd, wave]
    rfl
  have hctx : (arrivedAt t w x n).wctx (w.setPend n (x.barrier n).phase) = some (withBarrier x n Barrier.arrive) :=
    wctx_updBarrier (t := t.updWave t.cur fun q => q.setPend n (x.barrier n).phase) n _ ctx
  simp only [waitRes, hwave, hctx, hcur, barrier_withBarrier _ there, phaseDone_setPend w there.1]

/-- BARSYNC arrives, and goes on with what the wait comes to. -/
theorem barsync_comes {h : Head} {t : State} {w : Wave} {x : WCtx} {n : Nat} (at_ : At t t.cur w x) (there : hasBarrier x n)
    (hg : w.guard h ≠ 0) (hd : w.hdep = 0) (hp : w.pending n (x.barrier n) = false) (hb : w.behind (w.guard h) = false) :
    (barrierOnce t w h fun g => arriveRes n t w x g fun s => waitRes n s w) =
      if ((x.barrier n).phase != (x.barrier n).arrive.phase) = true
      then .done ((arrivedAt t w x n).updWave t.cur fun q => q.clearPend n)
      else .wait ((arrivedAt t w x n).updWave t.cur fun q => { q with wait := some (.bar n) }) := by
  rw [barrierOnce, once_of_some _ hg, if_neg (not_not.mpr hd), arriveRes_of_free _ hp hb, waitRes_arrivedAt at_ there]

/-- A wait for the phase of a pend. -/
theorem waitRes_at {t : State} {w : Wave} {x : WCtx} (n : Nat) (at_ : At t t.cur w x) :
    waitRes n t w = if w.phaseDone n (x.barrier n) = true then .done (t.updWave t.cur fun q => q.clearPend n)
      else .wait (t.updWave t.cur fun q => { q with wait := some (.bar n) }) := by
  obtain ⟨wave, ctx⟩ := at_
  have hwave : t.curWave w = w := by rw [State.curWave, wave, Option.getD_some]
  simp only [waitRes, hwave, ctx]

theorem barwait_comes {h : Head} {t : State} {w : Wave} {x : WCtx} {n : Nat} (at_ : At t t.cur w x) (hg : w.guard h ≠ 0)
    (hd : w.hdep = 0) (hp : w.pend.getLsbD n = true) :
    (barrierOnce t w h fun g => if w.pend.getLsbD n then waitRes n t w else onceCause g .barrierState 0) =
      if w.phaseDone n (x.barrier n) = true then .done (t.updWave t.cur fun q => q.clearPend n)
      else .wait (t.updWave t.cur fun q => { q with wait := some (.bar n) }) := by
  rw [barrierOnce, once_of_some _ hg, if_neg (not_not.mpr hd), if_pos hp, waitRes_at n at_]

/-- Settles O16: each by the mode, the pend, the lanes' accesses and the phase of the barrier. -/
theorem barrierResults : Obligations.BarrierResults := by
  intro h b d
  dsimp only
  refine ⟨?_, ⟨?_, ?_⟩, ?_, ⟨?_, ?_⟩, ?_, ?_, ?_, ?_, ?_⟩
  · refine acts_of_barrierOnce (fun _ => execBararr.eq_def ..) (fun t w x hp => hp.1) fun t w x ⟨_, hp, hb, _⟩ => ?_
    exact arriveRes_of_free _ hp hb
  · refine runs_of_doneAt (fun _ => execBarsync.eq_def ..) fun t w x at_ ⟨hg, ⟨hd, hp, hb, there⟩, hn⟩ => ?_
    rw [barsync_comes at_ there hg hd hp hb, if_pos (bne_iff_ne.mpr hn.symm), onCur, onCur, State.updBarrier_cur]
    rfl
  · exact idle_of_once (fun _ => execBarsync.eq_def ..)
  · refine waits_of_waitAt (fun _ => execBarsync.eq_def ..) fun t w x at_ hg ⟨⟨hd, hp, hb, there⟩, hn⟩ => ?_
    rw [barsync_comes at_ there hg hd hp hb, hn, if_neg (by simp), onCur, onCur, State.updBarrier_cur]
    rfl
  · refine runs_of_doneAt (fun _ => execBarwait.eq_def ..) fun t w x at_ ⟨hg, hd, hp, hn⟩ => ?_
    exact (barwait_comes at_ hg hd hp).trans (if_pos (bne_iff_ne.mpr hn))
  · exact idle_of_once (fun _ => execBarwait.eq_def ..)
  · refine waits_of_waitAt (fun _ => execBarwait.eq_def ..) fun t w x at_ hg ⟨hd, hp, hn⟩ => ?_
    exact (barwait_comes at_ hg hd hp).trans (if_neg fun he => bne_iff_ne.mp he hn)
  · exact acts_of_barrierOnce (fun _ => execBarq.eq_def ..) (fun t w x hp => hp) fun t w x _ => rfl
  · simp only [List.forall_mem_cons, List.not_mem_nil, false_implies, implies_true, and_true]
    refine ⟨⟨?_, ?_⟩, ?_, ?_⟩
    · refine stalls_of_barrierOnce (fun _ => execBararr.eq_def ..) (fun t w x hp => hp.1) fun t w x ⟨_, hp, hb⟩ => ?_
      exact arriveRes_of_behind _ hp hb
    · refine raises_of_barrierOnce (fun _ => execBararr.eq_def ..) (fun t w x hp => hp.1) fun t w x ⟨_, hp⟩ => ?_
      exact if_pos hp
    · refine stalls_of_barrierOnce (fun _ => execBarsync.eq_def ..) (fun t w x hp => hp.1) fun t w x ⟨_, hp, hb⟩ => ?_
      exact arriveRes_of_behind _ hp hb
    · refine raises_of_barrierOnce (fun _ => execBarsync.eq_def ..) (fun t w x hp => hp.1) fun t w x ⟨_, hp⟩ => ?_
      exact if_pos hp
  · refine raises_of_barrierOnce (fun _ => execBarwait.eq_def ..) (fun t w x hp => hp.1) fun t w x ⟨_, hp⟩ => ?_
    exact if_neg (Bool.eq_false_iff.mp hp)
  · simp only [List.forall_mem_cons, List.not_mem_nil, false_implies, implies_true, and_true]
    exact ⟨steerMode_of_barrierOnce (fun _ => execBararr.eq_def ..), steerMode_of_barrierOnce (fun _ => execBarsync.eq_def ..),
      steerMode_of_barrierOnce (fun _ => execBarwait.eq_def ..), steerMode_of_barrierOnce (fun _ => execBarq.eq_def ..)⟩

/-! ### Stage rings -/

/-- A ring has no wave waiting for an acquire before this one. -/
theorem acquirers_iff {s : State} {ks : List Nat} {r : Nat} : (s.firstWaiting ks (Wait.acquiring r)).isNone = true ↔
    ∀ k ∈ ks, ∀ v, s.waves.get k = some v → ∀ p u, v.wait ≠ some (.sracq r p u) := by
  rw [Option.isNone_iff_eq_none, State.firstWaiting, List.find?_eq_none]
  refine forall₂_congr fun k _ => ?_
  cases hv : s.waves.get k with
  | none => simp
  | some v =>
    cases hq : v.wait with
    | none => simp [hq]
    | some q => cases q <;> simp [hq, Wait.acquiring]

theorem takers_iff {s : State} {ks : List Nat} {r : Nat} : (s.firstWaiting ks (Wait.taking r)).isNone = true ↔
    ∀ k ∈ ks, ∀ v, s.waves.get k = some v → ∀ p u, v.wait ≠ some (.srwait r p u) := by
  rw [Option.isNone_iff_eq_none, State.firstWaiting, List.find?_eq_none]
  refine forall₂_congr fun k _ => ?_
  cases hv : s.waves.get k with
  | none => simp
  | some v =>
    cases hq : v.wait with
    | none => simp [hq]
    | some q => cases q <;> simp [hq, Wait.taking]

section Slot

variable {i : Instr} {h : Head} {r : BitVec 3} {o : Operand} {ok : RingSlot → Bool} {f : RingSlot → RingSlot} {pre : Cond}

theorem acts_of_slotRes (meaning : ∀ s, exec i s = issue i s (slotRes h r o ok f)) (thread : ∀ t w x, pre t w x → w.hdep = 0)
    (fits : ∀ t w x, pre t w x → slotOf w x o < (x.ring w r.toNat).slots.length ∧ ok ((x.ring w r.toNat).slot (slotOf w x o)) = true) :
    Acts i h pre fun t w x =>
      (t.flushStores t.cur (t.waveDom x)).updRing w r.toNat fun g => g.updSlot (slotOf w x o) f :=
  acts_of_barrierOnce meaning thread fun t w x hp => by
    obtain ⟨hi, hk⟩ := fits t w x hp
    simp only [decide_eq_true hi, hk, Bool.and_true, if_true]

theorem raises_of_slotRes (meaning : ∀ s, exec i s = issue i s (slotRes h r o ok f)) (thread : ∀ t w x, pre t w x → w.hdep = 0)
    (misfits : ∀ t w x, pre t w x → slotOf w x o < (x.ring w r.toNat).slots.length →
      ok ((x.ring w r.toNat).slot (slotOf w x o)) = false) : Raises i h pre .ringState 0 :=
  raises_of_barrierOnce meaning thread fun t w x hp =>
    if_neg fun he => by
      obtain ⟨hi, hk⟩ := Bool.and_eq_true_iff.mp he
      exact Bool.eq_false_iff.mp (misfits t w x hp (of_decide_eq_true hi)) hk

end Slot

/-- Settles O17: each by the mode, the slot's state and the waves that wait before it. -/
theorem stageRingResults : Obligations.StageRingResults := by
  intro h d a b r
  dsimp only
  refine ⟨?_, ?_, ?_, ?_, ?_, ?_, ?_, ?_, ?_, ?_, ?_, ?_⟩
  · refine acts_of_barrierOnce (fun _ => execSracq.eq_def ..) (fun t w x hp => hp.1) fun t w x ⟨_, ha, hf⟩ => ?_
    exact if_pos (Bool.and_eq_true_iff.mpr ⟨ha, acquirers_iff.mpr hf⟩)
  · refine waits_of_barrierOnce (fun _ => execSracq.eq_def ..) (fun t w x hp => hp.1) fun t w x ⟨_, hw⟩ => ?_
    refine if_neg fun he => ?_
    obtain ⟨ha, hf⟩ := Bool.and_eq_true_iff.mp he
    exact hw.elim (fun hn => Bool.eq_false_iff.mp hn ha) fun hn => hn (acquirers_iff.mp hf)
  · refine acts_of_barrierOnce (fun _ => execSrwait.eq_def ..) (fun t w x hp => hp.1) fun t w x ⟨_, ha, hf⟩ => ?_
    exact if_pos (Bool.and_eq_true_iff.mpr ⟨ha, takers_iff.mpr hf⟩)
  · refine waits_of_barrierOnce (fun _ => execSrwait.eq_def ..) (fun t w x hp => hp.1) fun t w x ⟨_, hw⟩ => ?_
    refine if_neg fun he => ?_
    obtain ⟨ha, hf⟩ := Bool.and_eq_true_iff.mp he
    exact hw.elim (fun hn => Bool.eq_false_iff.mp hn ha) fun hn => hn (takers_iff.mp hf)
  · refine acts_of_slotRes (fun _ => execSrpost.eq_def ..) (fun t w x hp => hp.1) fun t w x ⟨_, hi, hs, hb⟩ => ⟨hi, ?_⟩
    simp [hs, hb, slotOf]
  · refine acts_of_slotRes (fun _ => execSrfree.eq_def ..) (fun t w x hp => hp.1) fun t w x ⟨_, hi, hs⟩ => ⟨hi, ?_⟩
    simp [hs, slotOf]
  · refine acts_of_barrierOnce (fun _ => execSrbind.eq_def ..) (fun t w x hp => hp.1) fun t w x ⟨_, hw, hi, hs, hb⟩ => ?_
    rw [structOk] at hw
    simp only [hw, slotOf, hi, hs, hb, decide_true, beq_self_eq_true, Option.isNone_none, Bool.and_true, if_true]
  · refine raises_of_slotRes (fun _ => execSrpost.eq_def ..) (fun t w x hp => hp.1) fun t w x ⟨_, hn⟩ hi => ?_
    simpa [slotOf, Option.isSome_iff_ne_none] using hn hi
  · refine raises_of_slotRes (fun _ => execSrfree.eq_def ..) (fun t w x hp => hp.1) fun t w x ⟨_, hn⟩ hi => ?_
    simpa [slotOf] using hn hi
  · refine raises_of_barrierOnce (fun _ => execSrbind.eq_def ..) (fun t w x hp => hp.1) fun t w x ⟨_, hw, hn⟩ => ?_
    rw [structOk] at hw
    simp only [hw]
    refine if_neg fun he => ?_
    simp only [Bool.and_eq_true, decide_eq_true_eq, beq_iff_eq, Option.isNone_iff_eq_none] at he
    exact hn he.1.1 he.1.2 he.2
  · refine outside_of_once (fun _ => execSrbind.eq_def ..) fun t w x c hd hc => ?_
    simp only [if_neg (not_not.mpr hd), hc]
  · simp only [List.forall_mem_cons, List.not_mem_nil, false_implies, implies_true, and_true]
    exact ⟨steerMode_of_barrierOnce (fun _ => execSracq.eq_def ..), steerMode_of_barrierOnce (fun _ => execSrwait.eq_def ..),
      steerMode_of_barrierOnce (fun _ => execSrpost.eq_def ..), steerMode_of_barrierOnce (fun _ => execSrfree.eq_def ..),
      steerMode_of_barrierOnce (fun _ => execSrbind.eq_def ..)⟩

end Sys2Proof.Proofs

/-! SUPPORT. Tile instructions at issue (O18): the mode, the operand's window, the slot or sequence, and the room in the queue, in this order. -/

namespace Sys2Proof.Proofs

open Sys2Proof.Machine Sys2Proof.Claims

section Tile

variable {i : Instr} {h : Head} {f : State → Wave → WCtx → Mask → Res} {expose : Wave → WCtx → Bool} {pre : Cond}

/-- Outside handler mode, what a tile instruction comes to is what its operands' checks come to. -/
theorem tileOnce_of_thread {t : State} {w : Wave} {f : Mask → Res} {b : Bool} (hg : w.guard h ≠ 0) (hd : w.hdep = 0) :
    tileOnce t w h f b = f (w.guard h) := by
  rw [tileOnce, once_of_some _ hg, if_neg (not_not.mpr hd)]

/-- With room in the queue the instruction enters it; else it waits (R319). -/
theorem queues_of_tileOnce {op : State → Wave → WCtx → TileOp} {g : Wave → WCtx → Matrix → Matrix} {e : WCtx → Bool}
    (meaning : ∀ s, exec i s = issue i s fun t w x => tileOnce t w h (f t w x) (expose w x))
    (enters : ∀ t w x, pre t w x → f t w x (w.guard h) = tileQueue (op t w x) (g w x) t w x)
    (exposes : ∀ t w x, (op t w x).exposes = e x) : Queues i h pre op g e := by
  refine ⟨⟨runs_of_done meaning fun t w x ⟨hg, hd, hp, hn⟩ => ?_, runs_of_done meaning fun t w x hg => once_of_none _ hg⟩,
    ends_of_stall meaning fun t w x ⟨hg, hd, hp, hn⟩ => ?_⟩
  · rw [tileOnce_of_thread hg hd, enters t w x hp, tileQueue, if_neg (Nat.not_le.mpr hn), exposes t w x, onCur,
      State.flushStores_cur, State.expose_cur]
  · rw [tileOnce_of_thread hg hd, enters t w x hp, tileQueue, if_pos hn]

/-- A check of the operands fails. -/
theorem raisesAt_of_tileOnce {c : Cause} {a : Wave → WCtx → DWord} {b : Wave → WCtx → Bool}
    (meaning : ∀ s, exec i s = issue i s fun t w x => tileOnce t w h (f t w x) (expose w x)) (thread : ∀ t w x, pre t w x → w.hdep = 0)
    (fails : ∀ t w x, pre t w x → f t w x (w.guard h) = (onceCause (w.guard h) c (a w x)).exposing t w (b w x)) :
    RaisesAt i h pre c a b :=
  stops_of_once meaning fun t w x hp => by
    rw [if_neg (not_not.mpr (thread t w x hp)), fails t w x hp, onceCause, finish_exposing]

theorem raises_of_tileOnce {c : Cause} (meaning : ∀ s, exec i s = issue i s fun t w x => tileOnce t w h (f t w x) (expose w x))
    (thread : ∀ t w x, pre t w x → w.hdep = 0)
    (fails : ∀ t w x, pre t w x → f t w x (w.guard h) = onceCause (w.guard h) c 0) : Raises i h pre c 0 :=
  raises_of_once meaning fun t w x hp => (if_neg (not_not.mpr (thread t w x hp))).trans (fails t w x hp)

/-- In handler mode STEER_MODE is raised (R316). -/
theorem steerModeAt_of_tileOnce (meaning : ∀ s, exec i s = issue i s fun t w x => tileOnce t w h (f t w x) (expose w x)) :
    RaisesAt i h (fun _ w _ => w.hdep ≠ 0) .steerMode (fun _ _ => 0) expose :=
  stops_of_once meaning fun t w x hd => by rw [if_pos hd, onceCause, finish_exposing]

theorem steerMode_of_tileOnce (meaning : ∀ s, exec i s = issue i s fun t w x => tileOnce t w h (f t w x)) :
    Raises i h (fun _ w _ => w.hdep ≠ 0) .steerMode 0 :=
  raises_of_once meaning fun _ _ _ hd => if_pos hd

end Tile

section Operands

variable {w : Wave} {x : WCtx} {g : Mask} {a : Word} {n align v : Nat} {k : SlotWidth} {s24 : Bool} {r : Res}

theorem tileAt_ok (fits : ∃ l, checkWindow w x { spill := false } a n align = .ok l) : tileAt w x g a n align r = r := by
  obtain ⟨l, hl⟩ := fits
  rw [tileAt, hl]

theorem tileAt_error {c : Cause} (hc : checkWindow w x { spill := false } a n align = .error c) :
    tileAt w x g a n align r = onceCause g c (a.setWidth 64) := by
  rw [tileAt, hc]

theorem withSlot_of_holds (hv : v < 192) (hd : (x.matrix w).desc.get v = some ⟨k, s24⟩) : withSlot w x g v k s24 r = r := by
  simp only [withSlot, hv, hd, decide_true, beq_self_eq_true, Bool.and_true, if_true]

theorem withSlot_of_not_holds (hn : ¬ (v < 192 ∧ (x.matrix w).desc.get v = some ⟨k, s24⟩)) :
    withSlot w x g v k s24 r = onceCause g .tileState 0 :=
  if_neg fun he => by
    obtain ⟨hv, hd⟩ := Bool.and_eq_true_iff.mp he
    exact hn ⟨of_decide_eq_true hv, eq_of_beq hd⟩

theorem exposing_tileQueue (op : TileOp) (f : Matrix → Matrix) (t : State) (b : Bool) :
    (tileQueue op f t w x).exposing t w b = tileQueue op f t w x := by
  unfold tileQueue
  split <;> rfl

theorem drainAt_of_fits {d : BitVec 3} {wd : DrainWidth} {mode : DrainMode} {hbm : Option (List (Nat × Nat × Nat))} {q : DWord} {t : State}
    (fits : mode = .seq → seqOk q = true) :
    drainAt d a wd mode hbm q t w x g = tileQueue (.drain d.toNat a wd mode hbm q w.issuing) id t w x :=
  if_neg fun he => by
    obtain ⟨hm, hq⟩ := Bool.and_eq_true_iff.mp he
    rw [fits (eq_of_beq hm)] at hq
    exact absurd hq (by decide)

theorem drainAt_of_misfit {d : BitVec 3} {wd : DrainWidth} {mode : DrainMode} {hbm : Option (List (Nat × Nat × Nat))} {q : DWord} {t : State}
    (hm : mode = .seq) (hq : seqOk q = false) : drainAt d a wd mode hbm q t w x g = onceCause g .tileState 0 :=
  if_pos (by rw [hm, hq]; rfl)

end Operands

/-- An instruction that multiplies by what a slot holds. -/
structure AtSlot (i : Instr) (h : Head) (a b : Operand) (bytes : Nat) (k : SlotWidth) (s24 : Bool) (op : Word → Nat → TileOp) : Prop where
  meaning : ∀ s, exec i s = issue i s fun t w x => tileOnce t w h fun g => tileAt w x g (structAddr w x a) bytes 256
    (withSlot w x g (slotNo w x b) k s24 (tileQueue (op (structAddr w x a) (slotNo w x b)) id t w x))
  silent : ∀ p v, (op p v).exposes = false

section AtSlot

variable {i : Instr} {h : Head} {a b : Operand} {bytes : Nat} {k : SlotWidth} {s24 : Bool} {op : Word → Nat → TileOp}

/-- What O18 says of such an instruction. -/
theorem AtSlot.queues (hi : AtSlot i h a b bytes k s24 op) :
    Queues i h (fun _ w x => (∃ l, checkWindow w x { spill := false } (structAddr w x a) bytes 256 = .ok l) ∧
        slotNo w x b < 192 ∧ (x.matrix w).desc.get (slotNo w x b) = some ⟨k, s24⟩)
      (fun _ w x => op (structAddr w x a) (slotNo w x b)) (fun _ _ m => m) fun _ => false :=
  queues_of_tileOnce hi.meaning (fun _ _ _ ⟨fits, hv, hd⟩ => (tileAt_ok fits).trans (withSlot_of_holds hv hd))
    fun _ _ _ => hi.silent ..

theorem AtSlot.outside (hi : AtSlot i h a b bytes k s24 op) (c : Cause) :
    RaisesAt i h (fun _ w x => w.hdep = 0 ∧ checkWindow w x { spill := false } (structAddr w x a) bytes 256 = .error c) c
      fun w x => (structAddr w x a).setWidth 64 :=
  raisesAt_of_tileOnce hi.meaning (fun _ _ _ hp => hp.1) fun _ _ _ hp => tileAt_error hp.2

theorem AtSlot.unfit (hi : AtSlot i h a b bytes k s24 op) :
    Raises i h (fun _ w x => w.hdep = 0 ∧ (∃ l, checkWindow w x { spill := false } (structAddr w x a) bytes 256 = .ok l) ∧
      ¬ (slotNo w x b < 192 ∧ (x.matrix w).desc.get (slotNo w x b) = some ⟨k, s24⟩)) .tileState 0 :=
  raises_of_tileOnce hi.meaning (fun _ _ _ hp => hp.1) fun _ _ _ ⟨_, fits, hn⟩ => (tileAt_ok fits).trans (withSlot_of_not_holds hn)

theorem AtSlot.steerMode (hi : AtSlot i h a b bytes k s24 op) : Raises i h (fun _ w _ => w.hdep ≠ 0) .steerMode 0 :=
  steerMode_of_tileOnce hi.meaning

end AtSlot

/-- Settles O18: each tile instruction by the mode, its window, its slot or sequence, and the queue. -/
theorem tileIssueResults : Obligations.TileIssueResults := by
  intro h n d a b o p wd dw s24 acc conj z4 ovf fmt mode dt st rnd ts
  have mma : AtSlot (.tmma h n a b fmt acc) h a b (128 * (fmt.slot.depth * fmt.formats.1.bits / 8)) fmt.slot false
      fun q v => .mma n.toNat q v fmt acc false := ⟨fun _ => execTmma.eq_def .., fun _ _ => rfl⟩
  have mmas : AtSlot (.tmmas h n a b fmt acc) h a b (128 * (fmt.slot.depth * fmt.formats.1.bits / 8)) fmt.slot true
      fun q v => .mma n.toNat q v fmt acc true := ⟨fun _ => execTmmas.eq_def .., fun _ _ => rfl⟩
  have bin : AtSlot (.tbin h n a b conj acc) h a b 4096 .w1 false fun q v => .bin n.toNat q v conj acc :=
    ⟨fun _ => execTbin.eq_def .., fun _ _ => rfl⟩
  have lut : AtSlot (.tlut h n a b z4 acc) h a b 4096 .w4 false fun q v => .lut n.toNat q v z4 acc :=
    ⟨fun _ => execTlut.eq_def .., fun _ _ => rfl⟩
  dsimp only
  refine ⟨?_, ?_, mma.queues, mmas.queues, bin.queues, lut.queues, ?_, ?_, ?_, ?_, ?_, ?_, mma.outside, mmas.outside, bin.outside,
    lut.outside, ?_, ?_, ?_, ?_, mma.unfit, mmas.unfit, bin.unfit, lut.unfit, ?_, ?_, ?_, ?_⟩
  · exact queues_of_tileOnce (fun _ => execTzero.eq_def ..) (fun _ _ _ _ => rfl) fun _ _ _ => rfl
  · refine queues_of_tileOnce (fun _ => execTldw.eq_def ..) (fun t w x ⟨fits, hv⟩ => ?_) fun _ _ _ => rfl
    exact (tileAt_ok fits).trans (if_pos hv)
  · exact queues_of_tileOnce (fun _ => execTscacc.eq_def ..) (fun t w x fits => tileAt_ok fits) fun _ _ _ => rfl
  · refine queues_of_tileOnce (fun _ => execTdrain.eq_def ..) (fun t w x ⟨fits, hq⟩ => ?_) fun _ _ _ => Bool.or_false _
    simp only [Bool.false_eq_true, if_false]
    rw [tileAt_ok fits, drainAt_of_fits, exposing_tileQueue]
    · rfl
    · exact hq
  · refine queues_of_tileOnce (fun _ => execTdrain.eq_def ..) (fun t w x ⟨ha, hq, ht⟩ => ?_) fun _ _ _ => Bool.or_true _
    simp only [if_true, ha, ne_eq, not_true, if_false, ht]
    rw [drainAt_of_fits, exposing_tileQueue]
    · rfl
    · exact hq
  · exact queues_of_tileOnce (fun _ => execTcvt.eq_def ..) (fun _ _ _ _ => rfl) fun _ _ _ => rfl
  · exact queues_of_tileOnce (fun _ => execTsetph.eq_def ..) (fun _ _ _ _ => rfl) fun _ _ _ => rfl
  · exact fun c => raisesAt_of_tileOnce (fun _ => execTldw.eq_def ..) (fun _ _ _ hp => hp.1) fun _ _ _ hp => tileAt_error hp.2
  · exact fun c => raisesAt_of_tileOnce (fun _ => execTscacc.eq_def ..) (fun _ _ _ hp => hp.1) fun _ _ _ hp => tileAt_error hp.2
  · refine fun c => raisesAt_of_tileOnce (fun _ => execTdrain.eq_def ..) (fun _ _ _ hp => hp.1) fun t w x ⟨_, hc⟩ => ?_
    simp only [Bool.false_eq_true, if_false]
    exact tileAt_error hc
  · refine raisesAt_of_tileOnce (fun _ => execTdrain.eq_def ..) (fun _ _ _ hp => hp.1) fun t w x ⟨_, ha⟩ => ?_
    simp only [if_true, if_pos ha, Bool.or_true]
  · refine raises_of_tileOnce (fun _ => execTldw.eq_def ..) (fun _ _ _ hp => hp.1) fun t w x ⟨_, fits, hv⟩ => ?_
    exact (tileAt_ok fits).trans (if_neg (Nat.not_lt.mpr hv))
  · refine raisesAt_of_tileOnce (fun _ => execTdrain.eq_def ..) (fun _ _ _ hp => hp.1) fun t w x ⟨_, fits, hm, hq⟩ => ?_
    subst hm
    simp only [Bool.false_eq_true, if_false]
    rw [tileAt_ok fits, drainAt_of_misfit rfl]
    · rfl
    · exact hq
  · refine raisesAt_of_tileOnce (fun _ => execTdrain.eq_def ..) (fun _ _ _ hp => hp.1) fun t w x ⟨_, ha, ht, hm, hq⟩ => ?_
    subst hm
    simp only [if_true, ha, ne_eq, not_true, if_false, reduceCtorEq, beq_iff_eq, ht]
    rw [drainAt_of_misfit rfl]
    · rfl
    · exact hq
  · simp only [List.forall_mem_cons, List.not_mem_nil, false_implies, implies_true, and_true]
    exact ⟨steerMode_of_tileOnce fun _ => execTzero.eq_def .., steerMode_of_tileOnce fun _ => execTldw.eq_def .., mma.steerMode,
      mmas.steerMode, bin.steerMode, lut.steerMode, steerMode_of_tileOnce fun _ => execTscacc.eq_def ..,
      steerMode_of_tileOnce fun _ => execTcvt.eq_def .., steerMode_of_tileOnce fun _ => execTsetph.eq_def ..⟩
  · exact fun hbm => steerModeAt_of_tileOnce fun _ => execTdrain.eq_def ..

end Sys2Proof.Proofs

/-! SUPPORT. Launches, waits for grids, node records and queues at issue (O19). -/

namespace Sys2Proof.Proofs

open Sys2Proof.Machine Sys2Proof.Claims

/-! ### Instructions that act once, and in handler mode come to something else -/

section Thread

variable {i : Instr} {h : Head} {f m : State → Wave → WCtx → Mask → Res} {pre : Cond} {u : State → Wave → WCtx → State}

theorem acts_of_thread (meaning : ∀ s, exec i s = issue i s fun t w x => once t w h fun g => if w.hdep ≠ 0 then m t w x g else f t w x g)
    (thread : ∀ t w x, pre t w x → w.hdep = 0) (done : ∀ t w x, pre t w x → f t w x (w.guard h) = .done (u t w x)) : Acts i h pre u :=
  acts_of_once meaning fun t w x hp => (if_neg (not_not.mpr (thread t w x hp))).trans (done t w x hp)

theorem waits_of_thread (meaning : ∀ s, exec i s = issue i s fun t w x => once t w h fun g => if w.hdep ≠ 0 then m t w x g else f t w x g)
    (thread : ∀ t w x, pre t w x → w.hdep = 0) (wait : ∀ t w x, pre t w x → f t w x (w.guard h) = .wait (u t w x)) : Waits i h pre u :=
  waits_of_once meaning fun t w x hp => (if_neg (not_not.mpr (thread t w x hp))).trans (wait t w x hp)

theorem stops_of_thread (meaning : ∀ s, exec i s = issue i s fun t w x => once t w h fun g => if w.hdep ≠ 0 then m t w x g else f t w x g)
    (thread : ∀ t w x, pre t w x → w.hdep = 0)
    (comes : ∀ t w x, pre t w x → t.finish t.cur w x (f t w x (w.guard h)) = u t w x) : Stops i h pre u :=
  stops_of_once meaning fun t w x hp => by rw [if_neg (not_not.mpr (thread t w x hp)), comes t w x hp]

theorem stalls_of_thread (meaning : ∀ s, exec i s = issue i s fun t w x => once t w h fun g => if w.hdep ≠ 0 then m t w x g else f t w x g)
    (thread : ∀ t w x, pre t w x → w.hdep = 0) (stall : ∀ t w x, pre t w x → f t w x (w.guard h) = .stall (u t w x)) : Stops i h pre u :=
  stops_of_thread meaning thread fun t w x hp => by rw [stall t w x hp]; rfl

theorem raisesAt_of_thread {c : Cause} {a : Wave → WCtx → DWord} {b : Wave → WCtx → Bool}
    (meaning : ∀ s, exec i s = issue i s fun t w x => once t w h fun g => if w.hdep ≠ 0 then m t w x g else f t w x g)
    (thread : ∀ t w x, pre t w x → w.hdep = 0)
    (fails : ∀ t w x, pre t w x → f t w x (w.guard h) = (onceCause (w.guard h) c (a w x)).exposing t w (b w x)) :
    RaisesAt i h pre c a b :=
  stops_of_thread meaning thread fun t w x hp => by rw [fails t w x hp, onceCause, finish_exposing]

/-- In handler mode it raises STEER_MODE, its block exposed where `b` says so (R308). -/
theorem raisesAt_of_handler {c : Cause} {a : Wave → WCtx → DWord} {b : Wave → WCtx → Bool}
    (meaning : ∀ s, exec i s = issue i s fun t w x => once t w h fun g => if w.hdep ≠ 0 then m t w x g else f t w x g)
    (handler : ∀ t w x, pre t w x → w.hdep ≠ 0)
    (fails : ∀ t w x, pre t w x → m t w x (w.guard h) = (onceCause (w.guard h) c (a w x)).exposing t w (b w x)) :
    RaisesAt i h pre c a b :=
  stops_of_once meaning fun t w x hp => by rw [if_pos (handler t w x hp), fails t w x hp, onceCause, finish_exposing]

end Thread

/-! ### New grids -/

/-- The grid that is created, by its key (R280). -/
theorem newGrid_get (s : State) (g : Grid) : (s.newGrid g).2.grids.get (s.newGrid g).1 =
    some { g with
      num := (s.freeNumber g.ctx s.grids.length s.nextGrid s.nextSerial).1
      serial := (s.freeNumber g.ctx s.grids.length s.nextGrid s.nextSerial).2 } :=
  Tbl.get_put ..

/-- What a node's record takes is that of its kernel (R285). -/
theorem nodeBytes_of_some {s : State} {ctx kn : Nat} {k : Kernel} (hk : s.nodeKernel ctx kn = some k) :
    s.nodeBytes ctx kn = k.desc.nodeOf.2.1 := by
  rw [State.nodeBytes, hk]

theorem nodeBytes_of_none {s : State} {ctx kn : Nat} (hk : s.nodeKernel ctx kn = none) : s.nodeBytes ctx kn = 1 := by
  rw [State.nodeBytes, hk]

/-- The answer of a notify, in D and in the guard predicate (R346). -/
theorem notifyDone_eq (h : Head) (e : Option Operand) (status : Nat) (door : BitVec 24) (u : State) :
    notifyDone h e status door u = .done (onCur (fun v => (match e with
      | some r => v.setUni (uniNo r) (BitVec.ofNat 64 (status * 2 ^ 32 + door.toNat))
      | none => v).reportPred h (status == 1)) u) := rfl

/-- Rousing a queue leaves what its doorbell reads. -/
theorem doorbellOf_rouse (s : State) (qn n : Nat) : (s.rouse qn).doorbellOf qn n = s.doorbellOf qn n := by
  unfold State.doorbellOf State.rouse
  rw [Tbl.get_upd]
  cases s.queues.get qn with
  | none => rfl
  | some q => rfl

/-- Settles O19: each by the mode, its structure's window, the packet or the handle, the loads that stand before it, and what
there is room for. -/
theorem launchAndQueueResults : Obligations.LaunchAndQueueResults := by
  intro h d a b o e k tr ts
  dsimp only
  refine ⟨?_, ?_, ?_, ?_, ?_, ?_, ?_, ?_, ?_, ?_, ?_, ?_, ?_, ?_, ?_, ?_, ?_, ?_, ?_, ?_, ?_⟩
  · refine acts_of_thread (fun _ => execDlaunch.eq_def ..) (fun _ _ _ hp => hp.1.1) fun t w x ⟨⟨_, hw, hp, hl⟩, hf⟩ => ?_
    rw [structOk] at hw
    simp only [hw, hp, hl, List.isEmpty_nil, Bool.not_true, Bool.false_eq_true, if_false, Bool.or_eq_true, decide_eq_true_eq, if_pos hf]
    rw [onCur, State.expose_cur, State.flushStores_cur]
  · refine acts_of_thread (fun _ => execDlaunch.eq_def ..) (fun _ _ _ hp => hp.1.1) fun t w x ⟨⟨_, hw, hp, hl⟩, hf⟩ => ?_
    rw [structOk] at hw
    simp only [hw, hp, hl, List.isEmpty_nil, Bool.not_true, Bool.false_eq_true, if_false, Bool.or_eq_true, decide_eq_true_eq, if_neg hf,
      newGrid_get, State.updDie_grids]
    rfl
  · refine stops_of_thread (fun _ => execDlaunch.eq_def ..) (fun _ _ _ hp => hp.1) fun t w x ⟨_, hw, hp⟩ => ?_
    rw [structOk] at hw
    simp only [hw, hp, Bool.not_false, if_true, onceCause, finish_exposing]
  · refine stalls_of_thread (fun _ => execDlaunch.eq_def ..) (fun _ _ _ hp => hp.1) fun t w x ⟨_, hw, hp, hl⟩ => ?_
    rw [structOk] at hw
    simp only [hw, hp, Bool.not_true, Bool.false_eq_true, if_false, List.isEmpty_eq_false_iff.mpr hl, Bool.not_false, if_true]
  · refine outside_of_once (fun _ => execDlaunch.eq_def ..) fun t w x c hd hc => ?_
    simp only [if_neg (not_not.mpr hd), hc]
  · refine fun r => acts_of_thread (fun _ => execDlwait.eq_def ..) (fun _ _ _ hp => hp.1) fun t w x ⟨_, hr⟩ => ?_
    simp only [hr]
    rfl
  · refine waits_of_thread (fun _ => execDlwait.eq_def ..) (fun _ _ _ hp => hp.1) fun t w x ⟨_, hr⟩ => ?_
    simp only [hr]
    rfl
  · refine acts_of_thread (fun _ => execNodeput.eq_def ..) (fun _ _ _ hp => hp.1) fun t w x ⟨_, hk, hw, hl⟩ => ?_
    rw [structOk] at hw
    simp only [nodeBytes_of_some hk, hw, hk, hl, List.isEmpty_nil, Bool.not_true, Bool.false_eq_true, if_false] <;> rfl
  · refine stalls_of_thread (fun _ => execNodeput.eq_def ..) (fun _ _ _ hp => hp.1) fun t w x ⟨_, hk, hw, hl⟩ => ?_
    rw [structOk] at hw
    simp only [nodeBytes_of_some hk, hw, hk, List.isEmpty_eq_false_iff.mpr hl, Bool.not_false, if_true]
  · refine raisesAt_of_thread (fun _ => execNodeput.eq_def ..) (fun _ _ _ hp => hp.1) fun t w x ⟨_, hk, hw⟩ => ?_
    rw [structOk] at hw
    simp only [nodeBytes_of_none hk, hw, hk]
  · refine fun size => outside_of_once (fun _ => execNodeput.eq_def ..) fun t w x c ⟨hd, hs⟩ hc => ?_
    simp only [if_neg (not_not.mpr hd), hs, hc]
  · refine raisesAt_of_thread (fun _ => execQclaim.eq_def ..) (fun _ _ _ hp => hp.1) fun t w x ⟨_, ha⟩ => ?_
    exact if_pos ha
  · refine acts_of_thread (fun _ => execQclaim.eq_def ..) (fun _ _ _ hp => hp.1) fun t w x ⟨_, ha, ht⟩ => ?_
    simp only [ha, ne_eq, not_true, if_false, ht, claimRes, Bool.or_eq_true, decide_eq_true_eq] <;> rfl
  · refine fun q => acts_of_thread (fun _ => execQnotify.eq_def ..) (fun _ _ _ hp => hp.1) fun t w x ⟨_, hl, hr, hq, hb⟩ => ?_
    simp only [hq, Option.filter_some, hb, if_true, if_neg (Nat.not_le.mpr hr), hl, List.isEmpty_nil, Bool.not_true,
      Bool.false_eq_true, if_false, notifyDone_eq] <;> rfl
  · refine fun q => stalls_of_thread (fun _ => execQnotify.eq_def ..) (fun _ _ _ hp => hp.1) fun t w x ⟨_, hl, hr, hq, hb⟩ => ?_
    simp only [hq, Option.filter_some, hb, if_true, if_neg (Nat.not_le.mpr hr), List.isEmpty_eq_false_iff.mpr hl, Bool.not_false]
  · refine acts_of_thread (fun _ => execQnotify.eq_def ..) (fun _ _ _ hp => hp.1) fun t w x ⟨_, hq⟩ => ?_
    simp only [Option.filter_eq_none_iff.mpr fun q hs => Bool.eq_false_iff.mp (hq q hs), notifyDone_eq] <;> rfl
  · refine fun q => acts_of_thread (fun _ => execQnotify.eq_def ..) (fun _ _ _ hp => hp.1) fun t w x ⟨_, hr, hq, hb⟩ => ?_
    simp only [hq, Option.filter_some, hb, if_true, if_pos hr, notifyDone_eq, doorbellOf_rouse] <;> rfl
  · simp only [List.forall_mem_cons, List.not_mem_nil, false_implies, implies_true, and_true]
    exact ⟨raises_of_once (fun _ => execDlwait.eq_def ..) fun _ _ _ hd => if_pos hd,
      raises_of_once (fun _ => execQclaim.eq_def ..) fun _ _ _ hd => if_pos hd⟩
  · exact raisesAt_of_handler (fun _ => execDlaunch.eq_def ..) (fun _ _ _ hd => hd) fun _ _ _ _ => rfl
  · refine fun size => raisesAt_of_handler (fun _ => execNodeput.eq_def ..) (fun _ _ _ hp => hp.1) fun t w x ⟨_, hs⟩ => ?_
    rw [hs]
  · exact raisesAt_of_handler (fun _ => execQnotify.eq_def ..) (fun _ _ _ hd => hd) fun _ _ _ _ => rfl

end Sys2Proof.Proofs

/-! SUPPORT. Reserving launches at issue (O20): claims, the ends of claims and of items. -/

namespace Sys2Proof.Proofs

open Sys2Proof.Machine Sys2Proof.Claims

section Reserving

variable {i : Instr} {h : Head} {kind : WaveKind} {f : State → Wave → WCtx → Mask → Res} {pre : Cond} {u : State → Wave → WCtx → State}

/-- An instruction for waves of one kind acts once, outside handler mode (R290). -/
theorem reserving_eq_once (t : State) (w : Wave) (h : Head) (kind : WaveKind) (f : Mask → Res) :
    reserving t w h kind f = once t w h fun g =>
      if w.hdep ≠ 0 then onceCause g .steerMode 0 else if w.kind ≠ kind then onceCause g .claimPhase 0 else f g := rfl

theorem reserving_of_kind {t : State} {w : Wave} {f : Mask → Res} (hg : w.guard h ≠ 0) (hd : w.hdep = 0) (hk : w.kind = kind) :
    reserving t w h kind f = f (w.guard h) := by
  rw [reserving_eq_once, once_of_some _ hg, if_neg (not_not.mpr hd), if_neg (not_not.mpr hk)]

variable (meaning : ∀ s, exec i s = issue i s fun t w x => reserving t w h kind (f t w x))
include meaning

theorem idle_of_reserving : Runs i (fun _ w _ => w.guard h = 0) fun t _ _ => t :=
  runs_of_done meaning fun _ _ _ hg => (reserving_eq_once ..).trans (once_of_none _ hg)

theorem acts_of_reserving (right : ∀ t w x, pre t w x → w.hdep = 0 ∧ w.kind = kind)
    (done : ∀ t w x, w.guard h ≠ 0 → pre t w x → f t w x (w.guard h) = .done (u t w x)) : Acts i h pre u :=
  ⟨runs_of_done meaning fun t w x ⟨hg, hp⟩ => by
    obtain ⟨hd, hk⟩ := right t w x hp
    rw [reserving_of_kind hg hd hk, done t w x hg hp], idle_of_reserving meaning⟩

theorem steerMode_of_reserving : Raises i h (fun _ w _ => w.hdep ≠ 0) .steerMode 0 :=
  raises_of_once (f := fun t w x g =>
    if w.hdep ≠ 0 then onceCause g .steerMode 0 else if w.kind ≠ kind then onceCause g .claimPhase 0 else f t w x g)
    meaning fun _ _ _ hd => if_pos hd

theorem claimPhase_of_reserving : Raises i h (fun _ w _ => w.hdep = 0 ∧ w.kind ≠ kind) .claimPhase 0 :=
  raises_of_once (f := fun t w x g =>
    if w.hdep ≠ 0 then onceCause g .steerMode 0 else if w.kind ≠ kind then onceCause g .claimPhase 0 else f t w x g)
    meaning fun _ _ _ ⟨hd, hk⟩ => (if_neg (not_not.mpr hd)).trans (if_pos hk)

end Reserving

/-! ### Claims, lane by lane -/

section ClaimLane

variable {w : Wave} {x : WCtx} {most : Nat} {a : Word} {l : Nat} {it : Item}

theorem claimLane_of_no_item (hi : (w.lane l).item = none) : claimLane w x most a l = .error .claimPhase := by
  simp only [claimLane, hi]

/-- A claim outside the block and die windows (R289). -/
theorem claimLane_of_outside (hi : (w.lane l).item = some it) (ha : a.toNat < 0x40000000 ∨ 0xc0000000 ≤ a.toNat) :
    claimLane w x most a l = .error .claimScope := by
  have hlt := a.isLt
  have : a.toNat / 0x40000000 = 0 ∨ a.toNat / 0x40000000 = 3 := by omega
  simp only [claimLane, hi, Bool.or_eq_true, decide_eq_true_eq, if_pos this]

theorem window_inside (hlo : 0x40000000 ≤ a.toNat) (hhi : a.toNat < 0xc0000000) :
    ¬ (a.toNat / 0x40000000 = 0 ∨ a.toNat / 0x40000000 = 3) := by omega

theorem claimLane_of_no_place (hi : (w.lane l).item = some it) (hlo : 0x40000000 ≤ a.toNat) (hhi : a.toNat < 0xc0000000)
    (hp : windowLoc w.die x.block x.kern.desc a 1 = none) : claimLane w x most a l = .error .windowBounds := by
  simp only [claimLane, hi, Bool.or_eq_true, decide_eq_true_eq, if_neg (window_inside hlo hhi), hp]

/-- A claim of a granule: held already, one too many, or entered in the item (R290). -/
theorem claimLane_of_place (hi : (w.lane l).item = some it) (hlo : 0x40000000 ≤ a.toNat) (hhi : a.toNat < 0xc0000000) {p : Loc}
    (hp : windowLoc w.die x.block x.kern.desc a 1 = some p) : claimLane w x most a l =
      if (claimForm w x p).getD 0 / 8 ∈ it.granules then .ok it
      else if most ≤ it.claims.length then .error .claimOverflow
      else .ok { it with
        granules := it.granules ++ [(claimForm w x p).getD 0 / 8]
        claims := it.claims ++ [claimBits ((claimForm w x p).getD 0 / 8)] } := by
  simp only [claimLane, hi, Bool.or_eq_true, decide_eq_true_eq, if_neg (window_inside hlo hhi), hp, List.contains_iff_mem]

end ClaimLane

/-- The items of the guarded lanes as CLAIMEND hands them over (R291). -/
def endedItems (h : Head) (a : Operand) (w : Wave) (x : WCtx) : List Item :=
  (lanesOf (w.guard h)).filterMap fun l => (w.lane l).item.map fun it =>
    { it with entry := bodyEntry w x a l, words := (List.range 4).map fun i => (w.lane l).reg i }

/-- The state in which a CLAIMEND finds the former (R291, R295). -/
def dueState (t : State) (w : Wave) : State := (t.retireFirst w).formBodies w.die

/-- The wave without the lanes whose claims have ended (R291). -/
def withoutClaims (h : Head) (w : Wave) : Wave :=
  { w.leave (w.guard h) with
    lanes := w.lanes.mapIdx fun l y => if (w.guard h).getLsbD l then { y with item := none } else y }

/-- The body of a CLAIMEND. -/
def claimendRes (h : Head) (a : Operand) (t : State) (w : Wave) (x : WCtx) : Res :=
  reserving t w h .claim fun g =>
    if (maskOf fun l => g.getLsbD l && !x.pcOk (bodyEntry w x a l)) ≠ 0
    then .cause .pcRange (maskOf fun l => g.getLsbD l && !x.pcOk (bodyEntry w x a l)) 0 0
    else match (dueState t w).former w with
      | none => .cause .claimPhase g 0 0
      | some f => settle ((dueState t w).setFormer w.die ((endedItems h a w x).foldl Former.submit f)) w x (withoutClaims h w) g

theorem execClaimend_eq (h : Head) (a : Operand) (s : State) :
    exec (.claimend h a) s = issue (.claimend h a) s (claimendRes h a) := by
  refine (execClaimend.eq_def ..).trans (congrArg (issue _ s) ?_)
  funext t w x
  rw [claimendRes, reserving_eq_once, reserving_eq_once, once, once]
  rfl

/-- A CLAIMEND whose lanes all enter the text settles without their claims. -/
theorem claimend_settles {h : Head} {a : Operand} {t : State} {w : Wave} {x : WCtx} {f : Former}
    (hp : w.guard h ≠ 0 ∧ w.hdep = 0 ∧ w.kind = .claim ∧ (dueState t w).former w = some f ∧
      ∀ l, (w.guard h).getLsbD l = true → x.pcOk (bodyEntry w x a l) = true) :
    claimendRes h a t w x =
      settle ((dueState t w).setFormer w.die ((endedItems h a w x).foldl Former.submit f)) w x (withoutClaims h w) (w.guard h) := by
  obtain ⟨hg, hd, hk, hf, legal⟩ := hp
  have hbad : (maskOf fun l => (w.guard h).getLsbD l && !x.pcOk (bodyEntry w x a l)) = 0 := maskOf_eq_zero fun l _ => by
    cases hl : (w.guard h).getLsbD l
    · rfl
    · rw [legal l hl]; rfl
  rw [claimendRes, reserving_of_kind hg hd hk, if_neg (not_not.mpr hbad), hf]

/-- A lane that would enter no place in the text raises PC_RANGE (R291). -/
theorem claimend_illegal {h : Head} {a : Operand} {t : State} {w : Wave} {x : WCtx} (hg : w.guard h ≠ 0) (hd : w.hdep = 0)
    (hk : w.kind = .claim) (illegal : ∃ l, (w.guard h).getLsbD l = true ∧ x.pcOk (bodyEntry w x a l) = false) :
    claimendRes h a t w x = .cause .pcRange (maskOf fun l => (w.guard h).getLsbD l && !x.pcOk (bodyEntry w x a l)) 0 0 := by
  obtain ⟨l, hl, hp⟩ := illegal
  rw [claimendRes, reserving_of_kind hg hd hk, if_pos (maskOf_ne_zero (BitVec.lt_of_getLsbD hl) (by rw [hl, hp]; rfl))]

/-- The causes of the lanes of a CLAIM. -/
def claimFails (claims : Nat → Except Cause Item) (addr : Nat → Word) (l : Nat) : Option (Nat × Cause × DWord) :=
  match claims l with
  | .error c => some (l, c, (addr l).setWidth 64)
  | .ok _ => none

theorem claimFails_of_ok {claims : Nat → Except Cause Item} {addr : Nat → Word} {l : Nat} (ok : (claims l).isOk = true) :
    claimFails claims addr l = none := by
  unfold claimFails
  cases hl : claims l with
  | ok it => rfl
  | error c => rw [hl] at ok; cases ok

/-- The wave after the claims of its lanes. -/
def claimed (claims : Nat → Except Cause Item) (v : Wave) (l : Nat) : Wave :=
  match claims l with
  | .ok it => v.updLane l fun y => { y with item := some it }
  | .error _ => v

/-- What CLAIM finds at a lane. -/
def claimsAt (a : Operand) (b : Option Operand) (w : Wave) (x : WCtx) (l : Nat) : Except Cause Item :=
  claimLane w x x.claims (laneAddr w x a b l) l

/-- What CLAIM comes to. -/
def claimEnd (a : Operand) (b : Option Operand) (t : State) (w : Wave) (x : WCtx) (g : Mask) : Res :=
  match worstCause ((lanesOf g).filterMap (claimFails (claimsAt a b w x) (laneAddr w x a b))) with
  | some c => .cause c.1 c.2.1 c.2.2 0
  | none => .done (t.setWave t.cur ((lanesOf g).foldl (claimed (claimsAt a b w x)) w))

theorem execClaim_eq (h : Head) (a : Operand) (b : Option Operand) (s : State) :
    exec (.claim h a b) s = issue (.claim h a b) s fun t w x => reserving t w h .claim (claimEnd a b t w x) := by
  refine (execClaim.eq_def ..).trans (congrArg (issue _ s) ?_)
  funext t w x
  simp only [claimEnd, reserving_eq_once, once, List.filterMap_map, List.foldl_map]
  rfl

/-- Settles O20: each by the mode and the wave's kind, a CLAIM by its lanes, a CLAIMEND by its entries and by where its masks
lead. -/
theorem reservingResults : Obligations.ReservingResults := by
  intro h a b f
  dsimp only
  refine ⟨?_, ?_, ?_, ?_, ?_, ?_, ?_, ?_, ?_, ?_, ?_, ?_, ?_, ?_⟩
  · refine acts_of_reserving (execClaim_eq h a b) (fun _ _ _ hp => ⟨hp.1, hp.2.1⟩) fun t w x _ ⟨_, _, hok⟩ => ?_
    have sound : (lanesOf (w.guard h)).filterMap (claimFails (claimsAt a b w x) (laneAddr w x a b)) = [] :=
      List.filterMap_eq_nil_iff.mpr fun l hl => claimFails_of_ok (hok l (mem_lanesOf.mp hl).2)
    rw [claimEnd, sound]
    rfl
  · refine fun c => ends_of_cause (execClaim_eq h a b) fun t w x ⟨hg, hd, hk, hc⟩ => ?_
    have hc' : worstCause ((lanesOf (w.guard h)).filterMap (claimFails (claimsAt a b w x) (laneAddr w x a b))) = some c := hc
    rw [reserving_of_kind hg hd hk, claimEnd, hc']
  · exact fun w x most adr l => ⟨claimLane_of_no_item, fun it hi => ⟨claimLane_of_outside hi, fun hlo hhi =>
      ⟨claimLane_of_no_place hi hlo hhi, fun p hp => by
        rw [claimLane_of_place hi hlo hhi hp]
        exact ⟨fun hin => if_pos hin, fun hin hm => (if_neg hin).trans (if_pos hm),
          fun hin hm => (if_neg hin).trans (if_neg (Nat.not_le.mpr hm))⟩⟩⟩⟩
  · exact ends_of_cause (execClaimend_eq h a) fun t w x ⟨hg, hd, hk, hl⟩ => claimend_illegal hg hd hk hl
  · simp only [List.forall_mem_cons, List.not_mem_nil, false_implies, implies_true, and_true]
    exact ⟨steerMode_of_reserving fun _ => execClaim.eq_def .., steerMode_of_reserving fun _ => execClaimend.eq_def ..,
      steerMode_of_reserving fun _ => execItemend.eq_def ..⟩
  · exact goesOn_of_settle (h := h) (execClaimend_eq h a) fun _ _ _ hp => claimend_settles hp
  · exact runsOut_of_settle (h := h) (execClaimend_eq h a) fun _ _ _ hp => claimend_settles hp
  · exact empties_of_settle (h := h) (execClaimend_eq h a) fun _ _ _ hp => claimend_settles hp
  · exact leavesNone_of_settle (h := h) (execClaimend_eq h a) fun _ _ _ hp => claimend_settles hp
  · exact acts_of_reserving (fun _ => execItemend.eq_def ..) (fun _ _ _ hp => hp) fun _ _ _ _ _ => rfl
  · exact claimPhase_of_reserving fun _ => execClaim.eq_def ..
  · exact claimPhase_of_reserving fun _ => execClaimend.eq_def ..
  · exact claimPhase_of_reserving fun _ => execItemend.eq_def ..
  · exact idle_of_reserving fun _ => execClaimend.eq_def ..

end Sys2Proof.Proofs

/-! SUPPORT. Collection instructions at issue (O21): the region, the name, the shape of a root, and the room for a copy. -/

namespace Sys2Proof.Proofs

open Sys2Proof.Machine Sys2Proof.Claims

/-- A cause raised with an address, the block exposed first where `b` says so. -/
theorem raisesAt_of_once {i : Instr} {h : Head} {f : State → Wave → WCtx → Mask → Res} {pre : Cond} {c : Cause}
    {a : Wave → WCtx → DWord} {b : Wave → WCtx → Bool} (meaning : ∀ s, exec i s = issue i s fun t w x => once t w h (f t w x))
    (fails : ∀ t w x, pre t w x → f t w x (w.guard h) = (onceCause (w.guard h) c (a w x)).exposing t w (b w x)) :
    RaisesAt i h pre c a b :=
  stops_of_once meaning fun t w x hp => by rw [fails t w x hp, onceCause, finish_exposing]

section Operands

variable {t : State} {w : Wave} {x : WCtx} {g : Mask} {dom : BitVec 3} {f : Nat → Res} {r : Res} {a : Word} {k align : Nat}

theorem withRegion_some {n : Nat} (hr : t.domSlot x.grid.ctx dom.toNat = some n) : withRegion t x g dom f = f n := by
  rw [withRegion, hr]

theorem withRegion_none (hr : t.domSlot x.grid.ctx dom.toNat = none) : withRegion t x g dom f = onceCause g .noRegion 0 := by
  rw [withRegion, hr]

theorem withStruct_ok (ok : checkStruct w x a k align = .ok ()) : withStruct w x g a k align r = r := by
  rw [withStruct, ok]

/-- There is room for a copy: it enters its tag. -/
theorem pendCollection_of_room {c : PendCopy} (hn : w.copies.length < 63) : pendCollection c t w x =
    .done ((((t.expose w (c.kind == .look)).flushStores t.cur (t.waveDom x)).newKey.2).updWave t.cur fun v =>
      { v with copies := v.copies ++ [{ c with
        op := ((t.expose w (c.kind == .look)).flushStores t.cur (t.waveDom x)).newKey.1
        at_ := w.issuing
        epoch := (t.domain c.dom).epoch }] }) :=
  if_neg (Nat.not_le.mpr hn)

end Operands

section Root

variable {h : Head} {d : Operand} {shape : DWord} {pa dom : Nat} {t : State} {w : Wave} {x : WCtx} {g : Mask}

theorem rootCas_of_no_region (hr : t.regions.get dom = none) :
    rootCas h d shape pa dom t w x g = onceCause g .noRegion 0 := if_pos (by rw [hr]; rfl)

theorem isNone_of_ne_none {α : Type} {o : Option α} (h : o ≠ none) : o.isNone = false := by
  cases o with
  | none => exact absurd rfl h
  | some _ => rfl

theorem rootCas_of_bad_shape (hr : t.regions.get dom ≠ none) (hs : shapeOk (shape.toNat / 2 ^ 56) (shape.toNat % 2 ^ 56) = false) :
    rootCas h d shape pa dom t w x g = onceCause g .rootShape 0 := by
  simp only [rootCas, isNone_of_ne_none hr, hs, Bool.false_eq_true, if_false, Bool.not_false, if_true]

theorem rootCas_of_absent (hr : t.regions.get dom ≠ none) (hs : shapeOk (shape.toNat / 2 ^ 56) (shape.toNat % 2 ^ 56) = true)
    (hi : t.incr dom (w.nameAt (uniNo d + 2)) = none) : rootCas h d shape pa dom t w x g = onceCause g .nameAbsent 0 := by
  simp only [rootCas, isNone_of_ne_none hr, hs, hi, Bool.false_eq_true, if_false, Bool.not_true]

end Root

/-- Settles O21: each by its structures, its region, the name and the room. -/
theorem collectionResults : Obligations.CollectionResults := by
  intro h d a b o dom tag node n tr ts
  dsimp only
  refine ⟨?_, ?_, ?_, ?_, ?_, ?_, ?_, ?_, ?_, ?_, ?_, ⟨?_, ?_, ?_⟩, ?_, ?_⟩
  · refine acts_of_once (fun _ => execClook.eq_def ..) fun t w x ⟨ha, hd, hr, hn⟩ => ?_
    rw [structOk] at ha hd
    simp only [withStruct_ok ha, withStruct_ok hd, withRegion_some hr]
    rw [pendCollection_of_room hn]
    rfl
  · refine acts_of_once (fun _ => execCfetch.eq_def ..) fun t w x ⟨hd, ho, hr, hn⟩ => ?_
    rw [structOk] at hd
    simp only [withStruct_ok hd, withRegion_some hr]
    rw [pendCollection_of_room hn]
    cases o with
    | none => rfl
    | some r =>
      have hw : checkStruct w x (structAddr w x r) 32 32 = .ok () := ho r rfl
      simp only [Option.map_some, withStruct_ok hw]
      rfl
  · refine fun r => acts_of_once (fun _ => execCref.eq_def ..) fun t w x ⟨hr, hi⟩ => ?_
    have hi' : t.incr n (w.nameAt (uniNo a)) = some r := hi
    simp only [withRegion_some hr, hi', exposing_done]
  · refine fun r => acts_of_once (fun _ => execCunref.eq_def ..) fun t w x ⟨hr, hi⟩ => ?_
    have hi' : t.decr n (w.nameAt (uniNo a)) = some r := hi
    simp only [withRegion_some hr, hi', exposing_done]
  · refine fun r => acts_of_once (fun _ => execCrootcas.eq_def ..) fun t w x ⟨⟨ha, ht⟩, hr, hs, hi⟩ => ?_
    have hi' : t.incr tr.2.2 (w.nameAt (uniNo d + 2)) = some r := hi
    simp only [ha, ne_eq, not_true, if_false, ht, rootCas, isNone_of_ne_none hr, hs, hi', Bool.not_true, Bool.false_eq_true,
      exposing_done]
    rfl
  · refine fun r => acts_of_once (fun _ => execCcopyout.eq_def ..) fun t w x ⟨hw, ⟨ha, ht⟩, hr, hf, hi⟩ => ?_
    rw [structOk] at hw
    simp only [withStruct_ok hw, ha, ne_eq, not_true, if_false, ht, copyOut, isNone_of_ne_none hr, hf, hi, Bool.false_eq_true,
      exposing_done]
  · simp only [List.forall_mem_cons, List.not_mem_nil, false_implies, implies_true, and_true]
    exact ⟨raisesAt_of_once (fun _ => execCref.eq_def ..) fun t w x hr => by simp only [withRegion_none hr],
      raisesAt_of_once (fun _ => execCunref.eq_def ..) fun t w x hr => by simp only [withRegion_none hr]⟩
  · refine raisesAt_of_once (fun _ => execCref.eq_def ..) fun t w x ⟨hr, hi⟩ => ?_
    have hi' : t.incr n (w.nameAt (uniNo a)) = none := hi
    simp only [withRegion_some hr, hi']
  · refine raisesAt_of_once (fun _ => execCunref.eq_def ..) fun t w x ⟨hr, hi⟩ => ?_
    have hi' : t.decr n (w.nameAt (uniNo a)) = none := hi
    simp only [withRegion_some hr, hi']
  · refine raisesAt_of_once (fun _ => execClook.eq_def ..) fun t w x ⟨ha, hd, hr⟩ => ?_
    rw [structOk] at ha hd
    simp only [withStruct_ok ha, withStruct_ok hd, withRegion_none hr]
  · refine raisesAt_of_once (fun _ => execCfetch.eq_def ..) fun t w x ⟨hd, ho, hr⟩ => ?_
    rw [structOk] at hd
    simp only [withStruct_ok hd, withRegion_none hr]
    cases o with
    | none => rfl
    | some r =>
      have hw : checkStruct w x (structAddr w x r) 32 32 = .ok () := ho r rfl
      simp only [Option.map_some, withStruct_ok hw]
      rfl
  · refine raisesAt_of_once (fun _ => execCrootcas.eq_def ..) fun t w x ⟨⟨ha, ht⟩, hr⟩ => ?_
    simp only [ha, ne_eq, not_true, if_false, ht, rootCas_of_no_region hr]
  · refine raisesAt_of_once (fun _ => execCrootcas.eq_def ..) fun t w x ⟨⟨ha, ht⟩, hr, hs⟩ => ?_
    simp only [ha, ne_eq, not_true, if_false, ht, rootCas_of_bad_shape hr hs]
  · refine raisesAt_of_once (fun _ => execCrootcas.eq_def ..) fun t w x ⟨⟨ha, ht⟩, hr, hs, hi⟩ => ?_
    simp only [ha, ne_eq, not_true, if_false, ht, rootCas_of_absent hr hs hi]
  · refine raisesAt_of_once (fun _ => execCcopyout.eq_def ..) fun t w x ⟨⟨hw, ha, ht⟩, hr⟩ => ?_
    rw [structOk] at hw
    simp only [withStruct_ok hw, ha, ne_eq, not_true, if_false, ht, copyOut, hr, Option.isNone_none, if_true]
  · refine raisesAt_of_once (fun _ => execCcopyout.eq_def ..) fun t w x ⟨⟨hw, ha, ht⟩, hr, hf, hi⟩ => ?_
    rw [structOk] at hw
    simp only [withStruct_ok hw, ha, ne_eq, not_true, if_false, ht, copyOut, isNone_of_ne_none hr, hf, hi, Bool.false_eq_true]

end Sys2Proof.Proofs

/-! SUPPORT. What a write of D changes (O60), what retirement counts (O57), how memory reads back (O52), and what taking a
cause saves (O53). -/

namespace Sys2Proof.Proofs

open Sys2Proof.Machine Sys2Proof.Claims

/-! ### Registers of a lane and of a wave -/

theorem reg_setReg_same (x : Lane) {n : Nat} (v : Word) (hn : n < x.regs.length) : (x.setReg n v).reg n = v := by
  simp [Lane.reg, Lane.setReg, hn]

theorem reg_setReg_ne (x : Lane) {n r : Nat} (v : Word) (h : r ≠ n) : (x.setReg n v).reg r = x.reg r := by
  simp [Lane.reg, Lane.setReg, List.getElem?_set_ne (Ne.symm h)]

@[simp] theorem setReg_length (x : Lane) (n : Nat) (v : Word) : (x.setReg n v).regs.length = x.regs.length := List.length_set ..

theorem reg_write_low (x : Lane) (wide : Bool) {n : Nat} (v : DWord) (hn : n + 1 < x.regs.length) :
    (x.write wide n v).reg n = v.setWidth 32 := by
  cases wide
  · exact reg_setReg_same x _ (by omega)
  · exact (reg_setReg_ne _ _ (by omega)).trans (reg_setReg_same x _ (by omega))

theorem reg_write_high (x : Lane) {n : Nat} (v : DWord) (hn : n + 1 < x.regs.length) :
    (x.write true n v).reg (n + 1) = v.extractLsb' 32 32 := reg_setReg_same _ _ (by rw [setReg_length]; exact hn)

theorem reg_write_narrow (x : Lane) (n : Nat) (v : DWord) : (x.write false n v).reg (n + 1) = x.reg (n + 1) :=
  reg_setReg_ne x _ (by omega)

theorem reg_write_ne (x : Lane) (wide : Bool) {n r : Nat} (v : DWord) (h : r ≠ n) (h' : wide = true → r ≠ n + 1) :
    (x.write wide n v).reg r = x.reg r := by
  cases wide
  · exact reg_setReg_ne x _ h
  · exact (reg_setReg_ne _ _ (h' rfl)).trans (reg_setReg_ne x _ h)

theorem uni_setUni_same (w : Wave) {n : Nat} (v : DWord) (hn : n < w.k.length) : (w.setUni n v).uni n = v := by
  simp [Wave.uni, Wave.setUni, hn]

theorem uni_setUni_ne (w : Wave) {n r : Nat} (v : DWord) (h : r ≠ n) : (w.setUni n v).uni r = w.uni r := by
  simp [Wave.uni, Wave.setUni, List.getElem?_set_ne (Ne.symm h)]

/-- A lane after a write of a lane register. -/
theorem lane_writeD_lane (w : Wave) (n : BitVec 8) (wide : Bool) (g : Mask) (f : Nat → DWord) (l : Nat) :
    (w.writeD (.lane n) wide g f).lane l =
      if l < w.lanes.length ∧ g.getLsbD l = true then (w.lane l).write wide n.toNat (f l) else w.lane l := by
  rw [Wave.writeD, Wave.lane_mapIdx, ite_and]

/-- A lane after a write of a predicate. -/
theorem lane_writePred (w : Wave) (p : Nat) (g : Mask) (f : Nat → Bool) (l : Nat) :
    (w.writePred p g f).lane l = if l < w.lanes.length ∧ g.getLsbD l = true then
      { w.lane l with q := if f l then (w.lane l).q ||| (1#8 <<< p) else (w.lane l).q &&& ~~~(1#8 <<< p) } else w.lane l := by
  rw [Wave.writePred, Wave.lane_mapIdx, ite_and]

/-- Bit `r` of the predicates after bit `p` has been written. -/
theorem getLsbD_setPred (q : BitVec 8) (v : Bool) {p r : Nat} (hr : r < 8) :
    (if v = true then q ||| (1#8 <<< p) else q &&& ~~~(1#8 <<< p)).getLsbD r = if r = p then v else q.getLsbD r := by
  have hb : (1#8 <<< p).getLsbD r = decide (r = p) := by
    rw [BitVec.getLsbD_shiftLeft, BitVec.getLsbD_one]
    by_cases h : r = p
    · subst h; simp [hr]
    · simp only [h, decide_false, hr, decide_true, Bool.true_and, Bool.and_eq_false_iff, Bool.not_eq_false', decide_eq_true_eq,
        decide_eq_false_iff_not]
      omega
  cases v
  · simp only [Bool.false_eq_true, if_false, BitVec.getLsbD_and, BitVec.getLsbD_not, hb, hr, decide_true, Bool.true_and]
    by_cases h : r = p <;> simp [h]
  · simp only [if_true, BitVec.getLsbD_or, hb]
    by_cases h : r = p <;> simp [h]

/-- Settles O60: the guard by its predicate, a write of D by its place, a write of a predicate by its bit. -/
theorem guardedWrites : Obligations.GuardedWrites := by
  intro w h g wide f p n k l r
  refine ⟨?_, ⟨fun hl hn hg => ?_, fun hout => ?_⟩, ⟨?_, fun c hc hk => ?_, fun hr => ?_⟩, fun b hb hl => ⟨?_, fun hr hne => ?_⟩, ?_⟩
  · rw [Wave.guard, getLsbD_maskOf]
    cases h.neg <;> simp
  · rw [lane_writeD_lane, if_pos ⟨hl, hg⟩]
    refine ⟨reg_write_low _ _ _ hn, fun hw => ?_, fun hw => ?_⟩
    · rw [hw]; exact reg_write_high _ _ hn
    · rw [hw]; exact reg_write_narrow ..
  · rw [lane_writeD_lane]
    split
    · next hin => exact hout.elim (fun h0 => by rw [h0] at hin; cases hin.2) fun hr => reg_write_ne _ _ _ hr.1 fun _ => hr.2
    · rfl
  · rintro rfl
    rw [Wave.writeD, lowestLane_zero]
  · rw [Wave.writeD, hc]
    exact uni_setUni_same _ _ hk
  · rw [Wave.writeD]
    split
    · rfl
    · exact uni_setUni_ne _ _ hr
  · rw [lane_writePred]
    by_cases hg : g.getLsbD l = true
    · rw [if_pos ⟨hl, hg⟩, getLsbD_setPred _ _ hb, if_pos rfl, if_pos hg]
    · rw [if_neg fun hin => hg hin.2, if_neg hg]
  · rw [lane_writePred]
    split
    · rw [getLsbD_setPred _ _ hr, if_neg hne]
    · rfl
  · decide

/-! ### Retirement -/

/-- The largest of some ages, from a lower bound on. -/
theorem foldl_largest (f : Nat → Word) : ∀ (ls : List Nat) (m : Word),
    let r := ls.foldl (fun m l => if m < f l then f l else m) m
    m ≤ r ∧ (∀ l ∈ ls, f l ≤ r) ∧ (r = m ∨ ∃ l ∈ ls, f l = r)
  | [], m => ⟨BitVec.le_refl m, fun _ h => absurd h List.not_mem_nil, .inl rfl⟩
  | a :: ls, m => by
    obtain ⟨hm, hall, hatt⟩ := foldl_largest f ls (if m < f a then f a else m)
    simp only [List.foldl_cons, List.forall_mem_cons, List.exists_mem_cons_iff]
    have hma : m ≤ (if m < f a then f a else m) ∧ f a ≤ (if m < f a then f a else m) := by
      split
      · next h => exact ⟨BitVec.le_of_lt h, BitVec.le_refl _⟩
      · next h => exact ⟨BitVec.le_refl _, BitVec.not_lt.mp h⟩
    refine ⟨BitVec.le_trans hma.1 hm, ⟨BitVec.le_trans hma.2 hm, hall⟩, ?_⟩
    rcases hatt with h | h
    · by_cases hlt : m < f a
      · simp only [hlt, if_true] at h ⊢; exact .inr (.inl h.symm)
      · simp only [hlt, if_false] at h ⊢; exact .inl h
    · exact .inr (.inr h)

/-- `%sgage` bounds the age of every runnable lane (R103). -/
theorem age_le_sgage {w : Wave} {k : Nat} (hk : k < 64) (hr : w.runnable.getLsbD k = true) : w.age k ≤ w.sgage :=
  (foldl_largest w.age (lanesOf w.runnable) 0).2.1 k (mem_lanesOf.mpr ⟨hk, hr⟩)

/-- Some runnable lane has it. -/
theorem exists_sgage {w : Wave} (hr : w.runnable ≠ 0) : ∃ l, l ∈ lanesOf w.runnable ∧ w.age l = w.sgage := by
  obtain ⟨-, hall, hatt⟩ := foldl_largest w.age (lanesOf w.runnable) 0
  rcases hatt with h | h
  · obtain ⟨l, hl, hrun⟩ := exists_lane hr
    refine ⟨l, mem_lanesOf.mpr ⟨hl, hrun⟩, ?_⟩
    have hle := hall l (mem_lanesOf.mpr ⟨hl, hrun⟩)
    rw [h] at hle
    exact (BitVec.le_zero_iff.mp hle).trans h.symm
  · exact h

theorem oldest_eq_find (w : Wave) :
    w.oldest = (List.range 64).find? fun l => w.runnable.getLsbD l && (w.age l == w.sgage) := by
  rw [Wave.oldest, lanesOf, List.find?_filter]
  simp only [Bool.decide_and, Bool.decide_eq_true]

/-- A lane's age after a retirement at depth 0 (R103). -/
theorem age_retire {w v : Wave} {l : Nat} (hd : w.hdep = 0) (hl : l < v.lanes.length) : ((w.retire v).lane l).age =
    if w.live.getLsbD l = false then (v.lane l).age
    else if w.run.getLsbD l = true ∨ w.park.getLsbD l = true then 0
    else if (v.lane l).age = 0xffffffff then (v.lane l).age else (v.lane l).age + 1 := by
  show (Wave.lane { v with lanes := if w.hdep = 0 then w.aged v.lanes else v.lanes } l).age = _
  rw [if_pos hd, Wave.aged, Wave.lane_mapIdx, if_pos hl]
  cases w.live.getLsbD l <;> cases w.run.getLsbD l <;> cases w.park.getLsbD l <;> rfl

/-- Settles O57: the counts by the mode, the ages lane by lane, and the oldest-starved lane as the first whose age is `%sgage`. -/
theorem retirementCountsAndAges : Obligations.RetirementCountsAndAges := by
  intro w v l
  have hdata := Wave.data_retire w v l
  simp only [Lane.data, Prod.mk.injEq] at hdata
  obtain ⟨hregs, hq, -⟩ := hdata
  refine ⟨rfl, hregs, hq, rfl, rfl, fun hd => ⟨?_, ?_, ?_⟩, fun hd => ⟨?_, fun hs => ?_, fun hs => ?_, fun hl => ⟨fun h0 => ?_,
    fun h1 hp => ?_, fun h1 h2 h3 => ?_⟩⟩, fun c hc => ?_, fun hr => ?_⟩
  · exact if_neg hd
  · exact if_pos hd
  · exact if_neg fun h => hd (of_decide_eq_true (Bool.and_eq_true_iff.mp h).1)
  · simp [Wave.retire, hd]
  · simp [Wave.retire, hd, hs]
  · simp [Wave.retire, hs]
  · rw [age_retire hd hl, if_pos h0]
  · rw [age_retire hd hl, if_neg (by simp [h1]), if_pos hp]
  · rw [age_retire hd hl, if_neg (by simp [h1]), if_neg (by simp [h2, h3])]
  · rw [oldest_eq_find, List.find?_range_eq_some] at hc
    obtain ⟨hp, -, first⟩ := hc
    obtain ⟨hrun, hage⟩ := Bool.and_eq_true_iff.mp hp
    have hage := eq_of_beq hage
    refine ⟨hrun, hage, fun k hk hkr => ⟨?_, fun he => not_lt.mp fun hlt => ?_⟩⟩
    · rw [hage]; exact BitVec.le_def.mp (age_le_sgage hk hkr)
    · have := first k hlt
      rw [hkr, he, hage, beq_self_eq_true] at this
      cases this
  · obtain ⟨k, hk, hage⟩ := exists_sgage hr
    rw [Wave.oldest, ← Option.isSome_iff_exists, List.find?_isSome]
    exact ⟨k, hk, beq_iff_eq.mpr hage⟩

/-! ### Memory -/

/-- Under a domain that does not own its granule a byte reads as 0. -/
theorem ldsRead_of_foreign {s : State} {e d c : Nat} (ht : s.ldsTags.get (c / 4096) = some d) (hne : e ≠ d) : s.ldsRead e c = 0 := by
  rw [State.ldsRead, State.coreRead, ht, if_neg (c := some d = some e) fun h => hne (Option.some.inj h).symm, ite_self]

/-- Settles O52: by what a write leaves under the domain that made it, and under another. -/
theorem memoryReadsBack : Obligations.MemoryReadsBack := by
  intro s dom e a c v hm
  have hl := ((State.memOk_iff s).mp hm).1
  refine ⟨fun ha => ⟨?_, fun hc _ ht => ?_, fun hc hg ht => ?_, fun he hg => ?_, fun hg => ?_⟩, fun ha => ⟨?_, ?_⟩, fun h => ?_, fun h => ?_,
    fun h => ?_⟩
  · exact State.ldsRead_ldsWrite s dom a v ha hl
  · exact State.ldsRead_ldsWrite_own s dom a v dom hc ht
  · exact State.ldsRead_ldsWrite_taken s dom a v hc hg ha ht
  · exact ldsRead_of_foreign (hg ▸ State.ldsTags_ldsWrite s dom a v ha) he
  · exact State.ldsRead_ldsWrite_granule s dom a v e hg
  · exact State.ldsWrite_spill s dom a v ha
  · rw [State.ldsRead, if_pos ha]
  · exact State.hbmRead_hbmWrite s dom a v h
  · exact if_pos h
  · exact State.hbmRead_hbmWrite_ne s dom a v e h

end Sys2Proof.Proofs

/-! SUPPORT. What taking a cause saves and changes (O53). -/

namespace Sys2Proof.Proofs

open Sys2Proof.Machine Sys2Proof.Claims

/-! ### The log of a context -/

theorem ctx_updCtx_same (s : State) (n : Nat) (f : Context → Context) : (s.updCtx n f).ctx n = f (s.ctx n) := by
  show (Tbl.get (s.contexts.put n _) n).getD {} = _
  rw [Tbl.get_put]
  rfl

theorem ctx_updCtx_ne (s : State) {n m : Nat} (f : Context → Context) (h : m ≠ n) : (s.updCtx n f).ctx m = s.ctx m := by
  show (Tbl.get (s.contexts.put n _) m).getD {} = _
  rw [Tbl.get_put_ne _ _ h]
  rfl

/-- The log of a context, the sequence of its records and the count of the lost ones (R367). -/
def trail (x : Context) : List FaultRec × BitVec 16 × Nat := (x.log, x.sequence, x.lost)

theorem trail_updCtx (s : State) (n m : Nat) {f : Context → Context} (h : ∀ x, trail (f x) = trail x) :
    trail ((s.updCtx n f).ctx m) = trail (s.ctx m) := by
  by_cases hm : m = n
  · subst hm; rw [ctx_updCtx_same, h]
  · rw [ctx_updCtx_ne s f hm]

theorem trail_closeFolio (s : State) (c m : Nat) (b : Bool) : trail ((s.closeFolio c b).ctx m) = trail (s.ctx m) := by
  unfold State.closeFolio
  split
  · rfl
  · split
    · rfl
    · split
      · exact trail_updCtx s c m fun _ => rfl
      · exact trail_updCtx _ c m fun _ => rfl

theorem trail_closeWhen (s : State) (c m : Nat) (b : Bool) : trail ((s.closeWhen c b).ctx m) = trail (s.ctx m) := by
  unfold State.closeWhen
  split
  · exact trail_closeFolio ..
  · rfl

/-- What is traced leaves every context's log (R236). -/
theorem trail_traceRecord (s : State) (c m : Nat) (bs : List Byte) : trail ((s.traceRecord c bs).ctx m) = trail (s.ctx m) := by
  unfold State.traceRecord
  split
  · rfl
  · dsimp only
    rw [trail_closeWhen, trail_updCtx _ _ _ fun _ => by rfl, trail_closeWhen]

/-- A record that is logged: it stands last in its context's log, of 256 the oldest giving way (R367). -/
theorem trail_logRecord (s : State) (r : FaultRec) :
    trail ((s.logRecord r).2.ctx r.ctx) = (((s.ctx r.ctx).log ++ [(s.logRecord r).1]).drop ((s.ctx r.ctx).log.length - 255),
      (s.ctx r.ctx).sequence + 1, (s.ctx r.ctx).lost) := by
  simp only [State.logRecord]
  rw [trail_traceRecord, ctx_updCtx_same, trail]

theorem trail_logRecord_ne (s : State) (r : FaultRec) {m : Nat} (h : m ≠ r.ctx) :
    trail ((s.logRecord r).2.ctx m) = trail (s.ctx m) := by
  simp only [State.logRecord]
  rw [trail_traceRecord, ctx_updCtx_ne _ _ h]

/-- A record of fewer than 256 gives way to none. -/
theorem drop_of_room {α : Type} (l : List α) (a : α) (h : l.length < 256) : (l ++ [a]).drop (l.length - 255) = l ++ [a] := by
  rw [show l.length - 255 = 0 by omega, List.drop_zero]

/-- The flag HANDLER of a record (R365). -/
theorem handler_flag (b : Bool) (d : BitVec 2) :
    BitVec.getLsbD (if b = true then (if d = 0 then (0 : BitVec 8) else 1) ||| 4 else if d = 0 then 0 else 1) 0 = true ↔ d ≠ 0 := by
  by_cases hd : d = 0
  · simp only [hd, if_true]; cases b <;> decide
  · simp only [hd, if_false, ne_eq, not_false_eq_true, iff_true]; cases b <;> rfl

theorem mem_raw {s t : State} (h : t.mem = s.mem) (a : Nat) : t.ldsRaw a = s.ldsRaw a := by
  simp only [State.mem, Prod.mk.injEq] at h
  rw [State.ldsRaw, h.1]
  rfl

/-- HBM reads as before where it and the domains' keys stay. -/
theorem hbmRead_of_mem {s t : State} (h : t.mem = s.mem) (hd : t.domains = s.domains) (dom pa : Nat) :
    t.hbmRead dom pa = s.hbmRead dom pa := by
  simp only [State.mem, Prod.mk.injEq] at h
  obtain ⟨-, -, hbm, hdom⟩ := h
  simp only [State.hbmRead, State.decipher, State.domain, hbm, hdom, hd]

/-- Settles O53: the record as it is logged, the wave and its block by what delivery puts, and all else as it was. -/
theorem takingACause : Obligations.TakingACause := by
  intro s n w x c lanes addr arg
  dsimp only
  have hctx : ∀ m, (s.deliver n w x c lanes addr arg).ctx m =
      (s.logRecord (s.waveRecord w x c lanes addr arg)).2.ctx m := fun _ => rfl
  have hlog := trail_logRecord s (s.waveRecord w x c lanes addr arg)
  have hother := fun {m : Nat} => trail_logRecord_ne s (s.waveRecord w x c lanes addr arg) (m := m)
  simp only [trail, Prod.mk.injEq] at hlog hother
  obtain ⟨hl, hseq, hlost⟩ := hlog
  refine ⟨(s.logRecord (s.waveRecord w x c lanes addr arg)).1, rfl, rfl, rfl, rfl, rfl, rfl, rfl, rfl, handler_flag _ _, ?_, ?_, ?_, ?_, ?_,
    ?_, ?_, ?_, ?_, ?_⟩
  · exact Tbl.get_put ..
  · exact fun h => hl.trans (drop_of_room _ _ h)
  · exact fun _ => hl
  · exact hseq
  · exact hlost
  · intro b hb
    refine ⟨{ b with phase := match b.phase with
      | .draining | .saving | .flushing => .saving
      | _ => .faulted }, ?_, rfl⟩
    rw [State.deliver, State.updBlock_blocks, Tbl.get_upd, State.setWave_blocks, State.logRecord_blocks, hb]
    rfl
  · exact fun m hm => State.deliver_waves_ne s w x c lanes addr arg hm
  · exact mem_raw (State.deliver_mem ..)
  · exact hbmRead_of_mem (State.deliver_mem ..) (State.logRecord_domains ..)
  · exact fun m hm => (hother hm).1

/-! ### Lane-PCs -/

/-- A lane after lane-PCs have been set. -/
theorem lane_setLpcs (w : Wave) (k : Nat) (m : Mask) (p : Nat → Word) (l : Nat) : (w.setLpcs k m p).lane l =
    if l < w.lanes.length ∧ m.getLsbD l = true then (w.lane l).setLpc k (p l) else w.lane l := by
  rw [Wave.setLpcs, Wave.lane_mapIdx, ite_and]

theorem setLpcs_length (w : Wave) (k : Nat) (m : Mask) (p : Nat → Word) : (w.setLpcs k m p).lanes.length = w.lanes.length :=
  List.length_mapIdx ..

/-- What a lane holds but its PCs. -/
def held (x : Lane) : List Word × BitVec 8 × Word := (x.regs, x.q, x.age)

theorem held_setLpcs (w : Wave) (k : Nat) (m : Mask) (p : Nat → Word) (l : Nat) :
    held ((w.setLpcs k m p).lane l) = held (w.lane l) := by
  rw [lane_setLpcs]
  split
  · unfold Lane.setLpc; split <;> rfl
  · rfl

theorem held_goto (w : Wave) (p : Word) (l : Nat) : held ((w.goto p).lane l) = held (w.lane l) := by
  unfold Wave.goto
  dsimp only
  split
  · exact held_setLpcs ..
  · split
    · exact held_setLpcs ..
    · rfl

theorem reg_of_held {x y : Lane} (h : held x = held y) (r : Nat) : x.reg r = y.reg r ∧ x.q = y.q ∧ x.age = y.age := by
  simp only [held, Prod.mk.injEq] at h
  obtain ⟨hr, hq, ha⟩ := h
  exact ⟨by rw [Lane.reg, Lane.reg, hr], hq, ha⟩

theorem lpc0_setLpcs (w : Wave) (m : Mask) (p : Nat → Word) {l : Nat} (hl : l < w.lanes.length) :
    ((w.setLpcs 0 m p).lane l).lpc0 = (if m.getLsbD l then p l else (w.lane l).lpc0) ∧
      ((w.setLpcs 0 m p).lane l).lpc1 = (w.lane l).lpc1 := by
  rw [lane_setLpcs]
  cases m.getLsbD l <;> simp [hl, Lane.setLpc]

theorem lpc1_setLpcs (w : Wave) (m : Mask) (p : Nat → Word) {l : Nat} (hl : l < w.lanes.length) :
    ((w.setLpcs 1 m p).lane l).lpc0 = (w.lane l).lpc0 ∧
      ((w.setLpcs 1 m p).lane l).lpc1 = if m.getLsbD l then p l else (w.lane l).lpc1 := by
  rw [lane_setLpcs]
  cases m.getLsbD l <;> simp [hl, Lane.setLpc]

/-! ### The lowest group of a mask -/

/-- The smallest of some PCs, from an upper bound on. -/
theorem foldl_smallest (f : Nat → Word) : ∀ (ls : List Nat) (m : Word),
    let r := ls.foldl (fun p i => if f i < p then f i else p) m
    r ≤ m ∧ (∀ l ∈ ls, r ≤ f l) ∧ (r = m ∨ ∃ l ∈ ls, f l = r)
  | [], m => ⟨BitVec.le_refl m, fun _ h => absurd h List.not_mem_nil, .inl rfl⟩
  | a :: ls, m => by
    obtain ⟨hm, hall, hatt⟩ := foldl_smallest f ls (if f a < m then f a else m)
    simp only [List.foldl_cons, List.forall_mem_cons, List.exists_mem_cons_iff]
    have hma : (if f a < m then f a else m) ≤ m ∧ (if f a < m then f a else m) ≤ f a := by
      split
      · next h => exact ⟨BitVec.le_of_lt h, BitVec.le_refl _⟩
      · next h => exact ⟨BitVec.le_refl _, BitVec.not_lt.mp h⟩
    refine ⟨BitVec.le_trans hm hma.1, ⟨BitVec.le_trans hm hma.2, hall⟩, ?_⟩
    rcases hatt with h | h
    · by_cases hlt : f a < m
      · simp only [hlt, if_true] at h ⊢; exact .inr (.inl h.symm)
      · simp only [hlt, if_false] at h ⊢; exact .inl h
    · exact .inr (.inr h)

/-- PCMIN: the lanes of a mask that stand at its smallest PC, one at least (R121). -/
theorem lowestGroup_spec {w : Wave} {bank : Nat} {m g : Mask} {pc : Word} (h : w.lowestGroup bank m = some (g, pc)) :
    (∀ l, l < 64 → (g.getLsbD l = true ↔ m.getLsbD l = true ∧ w.lpc bank l = pc)) ∧
      (∀ l, l < 64 → m.getLsbD l = true → pc ≤ w.lpc bank l) ∧ g ≠ 0 := by
  unfold Wave.lowestGroup at h
  split at h
  · cases h
  · next a ls hls =>
    simp only [Option.some.injEq, Prod.mk.injEq] at h
    obtain ⟨hg, hpc⟩ := h
    obtain ⟨hm, hall, hatt⟩ := foldl_smallest (w.lpc bank) ls (w.lpc bank a)
    rw [hpc] at hg hm hall hatt
    have hbit : ∀ l, l < 64 → (g.getLsbD l = true ↔ m.getLsbD l = true ∧ w.lpc bank l = pc) := fun l hl => by
      rw [← hg, getLsbD_maskOf]
      simp [hl]
    have hmem : ∀ l, l < 64 → m.getLsbD l = true → l ∈ a :: ls := fun l hl hb => hls ▸ mem_lanesOf.mpr ⟨hl, hb⟩
    have hin : ∀ l ∈ a :: ls, l < 64 ∧ m.getLsbD l = true := fun l hl => mem_lanesOf.mp (hls ▸ hl)
    refine ⟨hbit, fun l hl hb => ?_, fun h0 => ?_⟩
    · rcases List.mem_cons.mp (hmem l hl hb) with rfl | hl'
      · exact hm
      · exact hall l hl'
    · have : ∃ l ∈ a :: ls, w.lpc bank l = pc := by
        rcases hatt with h | ⟨l, hl, he⟩
        · exact ⟨a, List.mem_cons_self .., h.symm⟩
        · exact ⟨l, List.mem_cons_of_mem _ hl, he⟩
      obtain ⟨l, hl, he⟩ := this
      have := (hbit l (hin l hl).1).mpr ⟨(hin l hl).2, he⟩
      rw [h0, noLane] at this
      cases this

theorem lowestGroup_congr {w v : Wave} {bank : Nat} (h : ∀ l, w.lpc bank l = v.lpc bank l) (m : Mask) :
    w.lowestGroup bank m = v.lowestGroup bank m := by
  simp only [Wave.lowestGroup, h]

/-! ### Entering a handler and returning (R97, R98, R120) -/

/-- What an event leaves of a wave. -/
def sameBut (w u : Wave) : Prop := u.live = w.live ∧ u.park = w.park ∧ u.k = w.k ∧ u.hvec = w.hvec ∧ u.accn = w.accn ∧
  ∀ l r, (u.lane l).reg r = (w.lane l).reg r ∧ (u.lane l).q = (w.lane l).q ∧ (u.lane l).age = (w.lane l).age

theorem rest_eventRegs_lanes (w : Wave) (epc : Word) (next : Nat → Word) :
    (w.eventRegs epc next).lanes = (w.setLpcs w.hdep.toNat w.run next).lanes := by
  unfold Wave.eventRegs
  dsimp only
  split <;> rfl

theorem lane_eventRegs (w : Wave) (epc : Word) (next : Nat → Word) (l : Nat) :
    (w.eventRegs epc next).lane l = (w.setLpcs w.hdep.toNat w.run next).lane l := by
  rw [Wave.lane, rest_eventRegs_lanes, ← Wave.lane]

/-- The wave that takes an event in its handler. -/
def inHandler (w : Wave) (e : Event) (epc : Word) (next : Nat → Word) : Wave :=
  { w.eventRegs epc next with evtm := e.lanes w, hcause := e.code, hdep := w.hdep + 1, run := e.lanes w }.goto w.hvec

theorem enterEvent_handler {w q : Wave} {x : WCtx} {e : Event} {epc : Word} {next : Nat → Word} (hv : w.hvec ≠ 0xffffffff)
    (hq : w.enterEvent x e epc next = some q) : x.pcOk w.hvec = true ∧ q = inHandler w e epc next := by
  simp only [Wave.enterEvent, if_neg hv] at hq
  split at hq
  · next hp => exact ⟨hp, (Option.some.inj hq).symm⟩
  · cases hq

theorem enterEvent_default {w q : Wave} {x : WCtx} {e : Event} {epc : Word} {next : Nat → Word} (hv : w.hvec = 0xffffffff)
    (hq : w.enterEvent x e epc next = some q) : ∃ g pc, (w.eventRegs epc next).lowestGroup 0 w.runnable = some (g, pc) ∧
      x.pcOk pc = true ∧ q = { w.eventRegs epc next with run := g, pc := pc, hdep := 0, hcause := 0, evtm := 0 } := by
  simp only [Wave.enterEvent, if_pos hv] at hq
  split at hq
  · cases hq
  · next g pc hg =>
    split at hq
    · next hp => exact ⟨g, pc, hg, hp, (Option.some.inj hq).symm⟩
    · cases hq

/-- The registers that an event fills and those that it leaves, before its depth is entered. -/
theorem eventRegs_same (w : Wave) (epc : Word) (next : Nat → Word) :
    (w.eventRegs epc next).live = w.live ∧ (w.eventRegs epc next).park = w.park ∧ (w.eventRegs epc next).k = w.k ∧
      (w.eventRegs epc next).hvec = w.hvec ∧ (w.eventRegs epc next).accn = w.accn ∧
      (w.eventRegs epc next).lanes.length = w.lanes.length := by
  refine ⟨?_, ?_, ?_, ?_, ?_, ?_⟩
  case' refine_6 => rw [rest_eventRegs_lanes, setLpcs_length]
  all_goals (unfold Wave.eventRegs; dsimp only; split <;> rfl)

theorem sameBut_of_held {w u : Wave} (rest : u.live = w.live ∧ u.park = w.park ∧ u.k = w.k ∧ u.hvec = w.hvec ∧ u.accn = w.accn)
    (lanes : ∀ l, held (u.lane l) = held (w.lane l)) : sameBut w u := by
  obtain ⟨hlive, hpark, hk, hhvec, haccn⟩ := rest
  exact ⟨hlive, hpark, hk, hhvec, haccn, fun l r => reg_of_held (lanes l) r⟩

/-- What going on at a PC leaves. -/
theorem goto_keeps {α : Type} (f : Wave → α) (w : Wave) (p : Word)
    (blind : ∀ (v : Wave) (ls : List Lane) (q : Word), f { v with lanes := ls, pc := q } = f v) : f (w.goto p) = f w := by
  unfold Wave.goto
  dsimp only
  split
  · exact blind w _ p
  · split
    · exact blind w _ p
    · exact blind w w.lanes p

theorem goto_pc (w : Wave) (p : Word) : (w.goto p).pc = p := by
  unfold Wave.goto
  dsimp only
  split
  · rfl
  · split <;> rfl

theorem inHandler_same (w : Wave) (e : Event) (epc : Word) (next : Nat → Word) : sameBut w (inHandler w e epc next) := by
  obtain ⟨hlive, hpark, hk, hhvec, haccn, -⟩ := eventRegs_same w epc next
  refine sameBut_of_held ⟨?_, ?_, ?_, ?_, ?_⟩ fun l => ?_
  · exact (goto_keeps Wave.live _ _ fun _ _ _ => rfl).trans hlive
  · exact (goto_keeps Wave.park _ _ fun _ _ _ => rfl).trans hpark
  · exact (goto_keeps Wave.k _ _ fun _ _ _ => rfl).trans hk
  · exact (goto_keeps Wave.hvec _ _ fun _ _ _ => rfl).trans hhvec
  · exact (goto_keeps Wave.accn _ _ fun _ _ _ => rfl).trans haccn
  · refine (held_goto _ _ l).trans ?_
    show held ((w.eventRegs epc next).lane l) = _
    rw [lane_eventRegs, held_setLpcs]

/-- The registers of handler mode, after an event is entered. -/
theorem inHandler_mode (w : Wave) (e : Event) (epc : Word) (next : Nat → Word) :
    (inHandler w e epc next).hdep = w.hdep + 1 ∧ (inHandler w e epc next).hcause = e.code ∧
      (inHandler w e epc next).evtm = e.lanes w ∧ (inHandler w e epc next).run = e.lanes w ∧ (inHandler w e epc next).pc = w.hvec :=
  ⟨goto_keeps Wave.hdep _ _ fun _ _ _ => rfl, goto_keeps Wave.hcause _ _ fun _ _ _ => rfl, goto_keeps Wave.evtm _ _ fun _ _ _ => rfl,
    goto_keeps Wave.run _ _ fun _ _ _ => rfl, goto_pc _ _⟩

/-- The banks of the interrupted PCs and masks. -/
def bank1 (w : Wave) : Mask × Word × Word := (w.hrun1, w.hpc1, w.handlerIssues)
def bank2 (w : Wave) : Mask × Word × Mask × BitVec 3 := (w.hrun2, w.hpc2, w.keepMask, w.keepCause)

theorem inHandler_banks (w : Wave) (e : Event) (epc : Word) (next : Nat → Word) :
    bank1 (inHandler w e epc next) = bank1 (w.eventRegs epc next) ∧ bank2 (inHandler w e epc next) = bank2 (w.eventRegs epc next) :=
  ⟨goto_keeps bank1 _ _ fun _ _ _ => rfl, goto_keeps bank2 _ _ fun _ _ _ => rfl⟩

theorem eventRegs_of_first {w : Wave} (hd : w.hdep = 0) (epc : Word) (next : Nat → Word) :
    bank1 (w.eventRegs epc next) = (w.run, epc, 0) ∧ bank2 (w.eventRegs epc next) = bank2 w := by
  simp only [Wave.eventRegs, hd, if_true]
  exact ⟨rfl, rfl⟩

theorem eventRegs_of_second {w : Wave} (hd : w.hdep = 1) (epc : Word) (next : Nat → Word) :
    bank1 (w.eventRegs epc next) = bank1 w ∧ bank2 (w.eventRegs epc next) = (w.run, epc, w.evtm, w.hcause) := by
  simp only [Wave.eventRegs, hd]
  exact ⟨rfl, rfl⟩

/-- The lanes' PCs after an event at depth 0, and at depth 1. -/
theorem lpcs_inHandler_first {w : Wave} (hd : w.hdep = 0) (e : Event) (epc : Word) (next : Nat → Word) {l : Nat} (hl : l < w.lanes.length) :
    ((inHandler w e epc next).lane l).lpc0 = (if w.run.getLsbD l then next l else (w.lane l).lpc0) ∧
      ((inHandler w e epc next).lane l).lpc1 = if (e.lanes w).getLsbD l then w.hvec else (w.lane l).lpc1 := by
  have hlen : l < (w.eventRegs epc next).lanes.length := by rw [(eventRegs_same w epc next).2.2.2.2.2]; exact hl
  have hlane : (w.eventRegs epc next).lane l = (w.setLpcs 0 w.run next).lane l := by rw [lane_eventRegs, hd]; rfl
  obtain ⟨h0, h1⟩ := lpc0_setLpcs w w.run next hl
  simp only [inHandler, Wave.goto, hd]
  obtain ⟨g0, g1⟩ := lpc1_setLpcs { w.eventRegs epc next with
    evtm := e.lanes w, hcause := e.code, hdep := 0 + 1, run := e.lanes w, pc := w.hvec } (e.lanes w) (fun _ => w.hvec) hlen
  refine ⟨g0.trans ?_, g1.trans ?_⟩
  · exact (congrArg Lane.lpc0 hlane).trans h0
  · exact congrArg (fun p => if (e.lanes w).getLsbD l then w.hvec else p) ((congrArg Lane.lpc1 hlane).trans h1)

theorem lpcs_inHandler_second {w : Wave} (hd : w.hdep = 1) (e : Event) (epc : Word) (next : Nat → Word) {l : Nat} (hl : l < w.lanes.length) :
    ((inHandler w e epc next).lane l).lpc0 = (w.lane l).lpc0 ∧
      ((inHandler w e epc next).lane l).lpc1 = if w.run.getLsbD l then next l else (w.lane l).lpc1 := by
  have hlane : (w.eventRegs epc next).lane l = (w.setLpcs 1 w.run next).lane l := by rw [lane_eventRegs, hd]; rfl
  have hgoto : (inHandler w e epc next).lane l = (w.eventRegs epc next).lane l := by simp only [inHandler, Wave.goto, hd]; rfl
  rw [hgoto, hlane]
  exact lpc1_setLpcs w w.run next hl

/-- What a handler's return leaves and writes (R120). -/
theorem handlerReturn_eq {w q : Wave} {x : WCtx} {cand : Mask} (hq : w.handlerReturn x cand = some q) :
    ∃ l, lowestLane cand = some l ∧ x.pcOk (w.lpc (w.hdep - 1).toNat l) = true ∧ q = { w with
      run := maskOf fun k => cand.getLsbD k && w.lpc (w.hdep - 1).toNat k == w.lpc (w.hdep - 1).toNat l
      pc := w.lpc (w.hdep - 1).toNat l
      hdep := w.hdep - 1
      evtm := if w.hdep = 2 then w.keepMask else 0
      hcause := if w.hdep = 2 then w.keepCause else 0 } := by
  unfold Wave.handlerReturn at hq
  split at hq
  · cases hq
  · next l hl =>
    dsimp only at hq
    split at hq
    · next hp => exact ⟨l, hl, hp, (Option.some.inj hq).symm⟩
    · cases hq

theorem sameBut_default (w : Wave) (epc : Word) (next : Nat → Word) (g : Mask) (pc : Word) :
    sameBut w { w.eventRegs epc next with run := g, pc := pc, hdep := 0, hcause := 0, evtm := 0 } := by
  obtain ⟨hlive, hpark, hk, hhvec, haccn, -⟩ := eventRegs_same w epc next
  refine sameBut_of_held ⟨hlive, hpark, hk, hhvec, haccn⟩ fun l => ?_
  show held ((w.eventRegs epc next).lane l) = _
  rw [lane_eventRegs, held_setLpcs]

/-- Settles O55: in a handler by the registers that the event fills; under the default policy by the lowest group. -/
theorem handlerEntryAndReturn : Obligations.HandlerEntryAndReturn := by
  intro w q x e epc next cand
  refine ⟨fun hq => ⟨?_, fun hv => ?_, fun hv => ?_⟩, fun hq => ?_⟩
  · by_cases hv : w.hvec = 0xffffffff
    · obtain ⟨g, pc, -, -, rfl⟩ := enterEvent_default hv hq
      exact sameBut_default w epc next g pc
    · obtain ⟨-, rfl⟩ := enterEvent_handler hv hq
      exact inHandler_same w e epc next
  · obtain ⟨hp, rfl⟩ := enterEvent_handler hv hq
    obtain ⟨hdep, hcause, hevtm, hrun, hpc⟩ := inHandler_mode w e epc next
    obtain ⟨b1, b2⟩ := inHandler_banks w e epc next
    refine ⟨hp, hdep, hcause, hevtm, hrun, hpc, fun hd => ?_, fun hd => ?_⟩
    · obtain ⟨f1, f2⟩ := eventRegs_of_first hd epc next
      have b1 := b1.trans f1
      have b2 := b2.trans f2
      simp only [bank1, bank2, Prod.mk.injEq] at b1 b2
      exact ⟨b1.1, b1.2.1, b1.2.2, b2.1, b2.2.1, fun l hl => lpcs_inHandler_first hd e epc next hl⟩
    · obtain ⟨f1, f2⟩ := eventRegs_of_second hd epc next
      have b1 := b1.trans f1
      have b2 := b2.trans f2
      simp only [bank1, bank2, Prod.mk.injEq] at b1 b2
      obtain ⟨hrun2, hpc2, hmask, hcause⟩ := b2
      exact ⟨hrun2, hpc2, hmask, hcause, b1.1, b1.2.1, b1.2.2, fun l hl => lpcs_inHandler_second hd e epc next hl⟩
  · obtain ⟨g, pc, hg, hp, rfl⟩ := enterEvent_default hv hq
    obtain ⟨hbit, hmin, hne⟩ := lowestGroup_spec hg
    exact ⟨rfl, rfl, rfl, hp, hne, fun l hl => ⟨hbit l hl, fun hr => BitVec.le_def.mp (hmin l hl hr)⟩⟩
  · obtain ⟨l, hl, hp, rfl⟩ := handlerReturn_eq hq
    refine ⟨⟨rfl, rfl, rfl, rfl, rfl, fun _ _ => ⟨rfl, rfl, rfl⟩⟩, hp, rfl, ⟨l, hl, rfl⟩, fun k hk => ?_, fun hd => ?_, fun hd => ?_⟩
    · show (maskOf _).getLsbD k = true ↔ _
      rw [getLsbD_maskOf]
      simp [hk]
    · simp [hd]
    · simp [hd]

/-- Entering depth 1 leaves bank 0 as the event left it. -/
theorem lpc0_inHandler {w : Wave} (hd : w.hdep = 0) (e : Event) (epc : Word) (next : Nat → Word) (l : Nat) :
    ((inHandler w e epc next).lane l).lpc0 = ((w.eventRegs epc next).lane l).lpc0 := by
  simp only [inHandler, Wave.goto, hd]
  refine (congrArg Lane.lpc0 (lane_setLpcs _ 1 _ _ l)).trans ?_
  split <;> rfl

theorem candidates_inHandler {w : Wave} (hd : w.hdep = 0) (e : Event) (epc : Word) (next : Nat → Word) :
    (inHandler w e epc next).candidates = w.runnable := by
  obtain ⟨hdep, -⟩ := inHandler_mode w e epc next
  obtain ⟨hlive, hpark, -⟩ := inHandler_same w e epc next
  rw [Wave.candidates, hdep, hd, if_pos (by decide), Wave.runnable, hlive, hpark, ← Wave.runnable]

/-- Settles O56: the handler's PCMIN meets the lanes that the default policy chose among, at the same PCs, and HRET takes
what it finds. -/
theorem defaultPolicyIsPcminThenHret : Obligations.DefaultPolicyIsPcminThenHret := by
  intro w q d r x e epc next g pc hd hv hq hdef hg hr
  obtain ⟨-, rfl⟩ := enterEvent_handler hv hq
  obtain ⟨g', pc', hg', -, rfl⟩ := enterEvent_default rfl hdef
  obtain ⟨hdep, -⟩ := inHandler_mode w e epc next
  obtain ⟨hlive, hpark, -⟩ := inHandler_same w e epc next
  have hdep : (inHandler w e epc next).hdep = 1 := hdep.trans (by rw [hd]; rfl)
  have hlane : ∀ l, (({ w with hvec := 0xffffffff } : Wave).eventRegs epc next).lane l = (w.eventRegs epc next).lane l := fun l => by
    rw [lane_eventRegs, lane_eventRegs]; rfl
  have hlpc : ∀ l, ((inHandler w e epc next).lane l).lpc0 = ((({ w with hvec := 0xffffffff } : Wave).eventRegs epc next).lane l).lpc0 :=
    fun l => (lpc0_inHandler hd e epc next l).trans (congrArg Lane.lpc0 (hlane l)).symm
  have hsame : some (g, pc) = some (g', pc') := by
    rw [← hg, ← hg', candidates_inHandler hd]
    exact lowestGroup_congr (bank := 0) hlpc _
  obtain ⟨rfl, rfl⟩ := Prod.mk.inj (Option.some.inj hsame)
  obtain ⟨hbit, -, -⟩ := lowestGroup_spec hg
  obtain ⟨l, hl, -, rfl⟩ := handlerReturn_eq hr
  simp only [hdep]
  have hin : ∀ k, k < 64 → ((g &&& (inHandler w e epc next).candidates).getLsbD k = true ↔ g.getLsbD k = true) := fun k hk => by
    rw [BitVec.getLsbD_and, Bool.and_eq_true]
    exact ⟨fun h => h.1, fun h => ⟨h, ((hbit k hk).mp h).1⟩⟩
  have hl64 : l < 64 ∧ (g &&& (inHandler w e epc next).candidates).getLsbD l = true := by
    rw [lowestLane, List.find?_range_eq_some] at hl
    exact ⟨List.mem_range.mp hl.2.1, hl.1⟩
  have hpc : (inHandler w e epc next).lpc 0 l = pc := ((hbit l hl64.1).mp ((hin l hl64.1).mp hl64.2)).2
  refine ⟨?_, hpc, rfl, rfl, rfl, ?_, ?_, hlpc⟩
  · refine BitVec.eq_of_getLsbD_eq fun k hk => ?_
    show (maskOf _).getLsbD k = _
    rw [getLsbD_maskOf, Bool.eq_iff_iff]
    have hk' := hbit k hk
    have hpc' : (inHandler w e epc next).lpc (1 - 1 : BitVec 2).toNat l = pc := hpc
    have hbank : ∀ j, (inHandler w e epc next).lpc (1 - 1 : BitVec 2).toNat j = (inHandler w e epc next).lpc 0 j := fun _ => rfl
    simp only [hk, decide_true, Bool.true_and, Bool.and_eq_true, hin k hk, hpc', hbank, beq_iff_eq]
    exact ⟨fun h => h.1, fun h => ⟨h, (hk'.mp h).2⟩⟩
  · exact hlive.trans (eventRegs_same { w with hvec := 0xffffffff } epc next).1.symm
  · exact hpark.trans (eventRegs_same { w with hvec := 0xffffffff } epc next).2.1.symm

end Sys2Proof.Proofs

/-! SUPPORT. The last word of a text, words that fail a decode check (O54), given words (O45), the device after reset (O47), and
what a step's turn comes to (O48). -/

namespace Sys2Proof.Proofs

open Sys2Proof.Machine Sys2Proof.Claims

/-! ### The last word of a text -/

theorem exposedAs_congr {s t u : State} (w : Wave) (h : t.blocks = u.blocks) : s.exposedAs t w = s.exposedAs u w := by
  simp only [State.exposedAs, h]

/-- An instruction that would go on behind the last word raises PC_RANGE, where it touches no block (R95). -/
theorem pcRange_of_runs {i : Instr} {pre : Cond} {u : State → Wave → WCtx → State} {s : State} {v : Wave} {x : WCtx}
    (runs : Runs i pre u) (blocks : ∀ t w x, (u t w x).blocks = t.blocks) (last : x.textLen ≤ v.begun.nextPc.toNat)
    (holds : pre (s.begun s.cur v) v.begun x) (ready : Ready i s v x) :
    exec i s = .next (((s.begun s.cur v).exposedAs (s.begun s.cur v) v.begun).deliver s.cur v.begun x .pcRange v.begun.run 0 0) := by
  rw [runs s v x ready holds, onward, if_neg (Nat.not_lt.mpr last), exposedAs_congr _ (blocks _ _ _)]
  rfl

/-! ### Decoding -/

/-- An instruction that has a word is issued. -/
theorem exec_eq_issue (i : Instr) {r : Raw} (word : i.toRaw = some r) : ∃ body, ∀ s, exec i s = issue i s body := by
  cases i with
  | nop => exact ⟨_, fun _ => execNop.eq_def ..⟩
  | br => exact ⟨_, fun _ => execBr.eq_def ..⟩
  | brx => exact ⟨_, fun _ => execBrx.eq_def ..⟩
  | call => exact ⟨_, fun _ => execCall.eq_def ..⟩
  | ret => exact ⟨_, fun _ => execRet.eq_def ..⟩
  | exit => exact ⟨_, fun _ => execExit.eq_def ..⟩
  | yield_ => exact ⟨_, fun _ => execYield.eq_def ..⟩
  | trap => exact ⟨_, fun _ => execTrap.eq_def ..⟩
  | sysc => exact ⟨_, fun _ => execSysc.eq_def ..⟩
  | brkpt => exact ⟨_, fun _ => execBrkpt.eq_def ..⟩
  | icinv => exact ⟨_, fun _ => execIcinv.eq_def ..⟩
  | jenrol => exact ⟨_, fun _ => execJenrol.eq_def ..⟩
  | jwait => exact ⟨_, fun _ => execJwait.eq_def ..⟩
  | jstrike => exact ⟨_, fun _ => execJstrike.eq_def ..⟩
  | hret => exact ⟨_, fun _ => execHret.eq_def ..⟩
  | pcmin => exact ⟨_, fun _ => execPcmin.eq_def ..⟩
  | pcmaj => exact ⟨_, fun _ => execPcmaj.eq_def ..⟩
  | pceq => exact ⟨_, fun _ => execPceq.eq_def ..⟩
  | iadd => exact ⟨_, fun _ => execIadd.eq_def ..⟩
  | isub => exact ⟨_, fun _ => execIsub.eq_def ..⟩
  | imul => exact ⟨_, fun _ => execImul.eq_def ..⟩
  | imulh => exact ⟨_, fun _ => execImulh.eq_def ..⟩
  | imad => exact ⟨_, fun _ => execImad.eq_def ..⟩
  | imin => exact ⟨_, fun _ => execImin.eq_def ..⟩
  | imax => exact ⟨_, fun _ => execImax.eq_def ..⟩
  | iabs => exact ⟨_, fun _ => execIabs.eq_def ..⟩
  | ineg => exact ⟨_, fun _ => execIneg.eq_def ..⟩
  | and => exact ⟨_, fun _ => execAnd.eq_def ..⟩
  | or => exact ⟨_, fun _ => execOr.eq_def ..⟩
  | xor => exact ⟨_, fun _ => execXor.eq_def ..⟩
  | andn => exact ⟨_, fun _ => execAndn.eq_def ..⟩
  | not => exact ⟨_, fun _ => execNot.eq_def ..⟩
  | shl => exact ⟨_, fun _ => execShl.eq_def ..⟩
  | shr => exact ⟨_, fun _ => execShr.eq_def ..⟩
  | sar => exact ⟨_, fun _ => execSar.eq_def ..⟩
  | rotl => exact ⟨_, fun _ => execRotl.eq_def ..⟩
  | popc => exact ⟨_, fun _ => execPopc.eq_def ..⟩
  | clz => exact ⟨_, fun _ => execClz.eq_def ..⟩
  | brev => exact ⟨_, fun _ => execBrev.eq_def ..⟩
  | bfe => exact ⟨_, fun _ => execBfe.eq_def ..⟩
  | bfi => exact ⟨_, fun _ => execBfi.eq_def ..⟩
  | logt => exact ⟨_, fun _ => execLogt.eq_def ..⟩
  | mov => exact ⟨_, fun _ => execMov.eq_def ..⟩
  | movi => exact ⟨_, fun _ => execMovi.eq_def ..⟩
  | sel => exact ⟨_, fun _ => execSel.eq_def ..⟩
  | icvt => exact ⟨_, fun _ => execIcvt.eq_def ..⟩
  | isetp => exact ⟨_, fun _ => execIsetp.eq_def ..⟩
  | fsetp => exact ⟨_, fun _ => execFsetp.eq_def ..⟩
  | plogt => exact ⟨_, fun _ => execPlogt.eq_def ..⟩
  | vote => exact ⟨_, fun _ => execVote.eq_def ..⟩
  | shfl => exact ⟨_, fun _ => execShfl.eq_def ..⟩
  | fadd => exact ⟨_, fun _ => execFadd.eq_def ..⟩
  | fsub => exact ⟨_, fun _ => execFsub.eq_def ..⟩
  | fmul => exact ⟨_, fun _ => execFmul.eq_def ..⟩
  | ffma => exact ⟨_, fun _ => execFfma.eq_def ..⟩
  | fmin => exact ⟨_, fun _ => execFmin.eq_def ..⟩
  | fmax => exact ⟨_, fun _ => execFmax.eq_def ..⟩
  | fdiv => exact ⟨_, fun _ => execFdiv.eq_def ..⟩
  | fsqrt => exact ⟨_, fun _ => execFsqrt.eq_def ..⟩
  | frcp => exact ⟨_, fun _ => execFrcp.eq_def ..⟩
  | frsq => exact ⟨_, fun _ => execFrsq.eq_def ..⟩
  | fexp2 => exact ⟨_, fun _ => execFexp2.eq_def ..⟩
  | flog2 => exact ⟨_, fun _ => execFlog2.eq_def ..⟩
  | fsin => exact ⟨_, fun _ => execFsin.eq_def ..⟩
  | fcos => exact ⟨_, fun _ => execFcos.eq_def ..⟩
  | fclass => exact ⟨_, fun _ => execFclass.eq_def ..⟩
  | frnd => exact ⟨_, fun _ => execFrnd.eq_def ..⟩
  | fabs => exact ⟨_, fun _ => execFabs.eq_def ..⟩
  | fneg => exact ⟨_, fun _ => execFneg.eq_def ..⟩
  | fcvt => exact ⟨_, fun _ => execFcvt.eq_def ..⟩
  | f2i => exact ⟨_, fun _ => execF2i.eq_def ..⟩
  | i2f => exact ⟨_, fun _ => execI2f.eq_def ..⟩
  | pack => exact ⟨_, fun _ => execPack.eq_def ..⟩
  | unpk => exact ⟨_, fun _ => execUnpk.eq_def ..⟩
  | dot4i8 => exact ⟨_, fun _ => execDot4i8.eq_def ..⟩
  | dot8i4 => exact ⟨_, fun _ => execDot8i4.eq_def ..⟩
  | dot4f8 => exact ⟨_, fun _ => execDot4f8.eq_def ..⟩
  | dot2bf => exact ⟨_, fun _ => execDot2bf.eq_def ..⟩
  | dotb32 => exact ⟨_, fun _ => execDotb32.eq_def ..⟩
  | ld => exact ⟨_, fun _ => execLd.eq_def ..⟩
  | st => exact ⟨_, fun _ => execSt.eq_def ..⟩
  | atom => exact ⟨_, fun _ => execAtom.eq_def ..⟩
  | fence => exact ⟨_, fun _ => execFence.eq_def ..⟩
  | cpy => exact ⟨_, fun _ => execCpy.eq_def ..⟩
  | cpyo => exact ⟨_, fun _ => execCpyo.eq_def ..⟩
  | bulk => exact ⟨_, fun _ => execBulk.eq_def ..⟩
  | arrinit => exact ⟨_, fun _ => execArrinit.eq_def ..⟩
  | arrwait => exact ⟨_, fun _ => execArrwait.eq_def ..⟩
  | arrtest => exact ⟨_, fun _ => execArrtest.eq_def ..⟩
  | crpoll => exact ⟨_, fun _ => execCrpoll.eq_def ..⟩
  | crsleep => exact ⟨_, fun _ => execCrsleep.eq_def ..⟩
  | waitc => exact ⟨_, fun _ => execWaitc.eq_def ..⟩
  | waitt => exact ⟨_, fun _ => execWaitt.eq_def ..⟩
  | bararr => exact ⟨_, fun _ => execBararr.eq_def ..⟩
  | barwait => exact ⟨_, fun _ => execBarwait.eq_def ..⟩
  | barsync => exact ⟨_, fun _ => execBarsync.eq_def ..⟩
  | barq => exact ⟨_, fun _ => execBarq.eq_def ..⟩
  | sracq => exact ⟨_, fun _ => execSracq.eq_def ..⟩
  | srpost => exact ⟨_, fun _ => execSrpost.eq_def ..⟩
  | srwait => exact ⟨_, fun _ => execSrwait.eq_def ..⟩
  | srfree => exact ⟨_, fun _ => execSrfree.eq_def ..⟩
  | srbind => exact ⟨_, fun _ => execSrbind.eq_def ..⟩
  | tzero => exact ⟨_, fun _ => execTzero.eq_def ..⟩
  | tldw => exact ⟨_, fun _ => execTldw.eq_def ..⟩
  | tmma => exact ⟨_, fun _ => execTmma.eq_def ..⟩
  | tmmas => exact ⟨_, fun _ => execTmmas.eq_def ..⟩
  | tbin => exact ⟨_, fun _ => execTbin.eq_def ..⟩
  | tlut => exact ⟨_, fun _ => execTlut.eq_def ..⟩
  | tscacc => exact ⟨_, fun _ => execTscacc.eq_def ..⟩
  | tdrain => exact ⟨_, fun _ => execTdrain.eq_def ..⟩
  | tcvt => exact ⟨_, fun _ => execTcvt.eq_def ..⟩
  | tsetph => exact ⟨_, fun _ => execTsetph.eq_def ..⟩
  | dlaunch => exact ⟨_, fun _ => execDlaunch.eq_def ..⟩
  | dlwait => exact ⟨_, fun _ => execDlwait.eq_def ..⟩
  | nodeput => exact ⟨_, fun _ => execNodeput.eq_def ..⟩
  | qclaim => exact ⟨_, fun _ => execQclaim.eq_def ..⟩
  | qnotify => exact ⟨_, fun _ => execQnotify.eq_def ..⟩
  | claim => exact ⟨_, fun _ => execClaim.eq_def ..⟩
  | claimend => exact ⟨_, fun _ => execClaimend.eq_def ..⟩
  | itemend => exact ⟨_, fun _ => execItemend.eq_def ..⟩
  | clook => exact ⟨_, fun _ => execClook.eq_def ..⟩
  | cfetch => exact ⟨_, fun _ => execCfetch.eq_def ..⟩
  | cref => exact ⟨_, fun _ => execCref.eq_def ..⟩
  | cunref => exact ⟨_, fun _ => execCunref.eq_def ..⟩
  | crootcas => exact ⟨_, fun _ => execCrootcas.eq_def ..⟩
  | ccopyout => exact ⟨_, fun _ => execCcopyout.eq_def ..⟩
  | _ => cases word

/-- The all-zero word is a NOP, which passes the decode checks in every wave (R50). -/
theorem decodeFault_zero (k : DecodeCtx) : decodeFault k (Raw.ofWord 0) = none := by
  have op : Op.ofCode (Raw.ofWord 0).op = some .nop := by decide
  have operands : operandsOk k .nop (Raw.ofWord 0) = true := rfl
  have mod : modOk k .nop (Raw.ofWord 0) = true := by
    unfold modOk
    rfl
  have role : roleOk k .nop (Raw.ofWord 0) = true := by
    unfold roleOk
    cases k.role with
    | none => rfl
    | some role => rfl
  simp only [decodeFault, op, operands, mod, role]
  rfl

/-! ### Turns -/

section Turn

variable {s t : State} {rest : List Turn} {turn : Turn}

theorem turn_of_agenda (agenda : s.agenda = turn :: rest) : s.turn = { s with agenda := rest }.doTurn turn := by
  simp only [State.turn, State.nextTurn, agenda, List.tail_cons]

theorem agenda_of_nil (agenda : s.agenda = []) : { s with agenda := s.agenda.tail } = s := by
  cases s
  cases agenda
  rfl

/-- With nothing on the agenda a wave that is ready issues. -/
theorem turn_of_ready {n : Nat} (agenda : s.agenda = []) (ready : s.readyWave = some n) : s.turn = s.waveTurn n := by
  have next : s.nextTurn = some (.issue n) := by simp only [State.nextTurn, agenda, ready, Option.map_some]
  simp only [State.turn, next, agenda_of_nil agenda, State.doTurn]

theorem turn_of_idle (agenda : s.agenda = []) (idle : s.readyWave = none) : s.turn = .set s := by
  have next : s.nextTurn = none := by simp only [State.nextTurn, agenda, idle, Option.map_none]
  simp only [State.turn, next]

theorem step_of_set (h : s.turn = .set t) : step s = .next (s.recorded t) := by
  simp only [step, h]

theorem step_of_again {die core : Nat} (h : s.turn = .again die core t) : step s = .next (s.recorded (t.replayOn die core)) := by
  simp only [step, h]

end Turn

/-- The turn of a wave that is due nothing (R90, R95). -/
theorem waveTurn_of_issue {s : State} {n : Nat} {w : Wave} {x : WCtx} (wave : s.waves.get n = some w) (ctx : s.wctx w = some x)
    (due : w.due n = none) (issues : s.canIssue w x = true) : s.waveTurn n =
      if x.pcOk w.pc = false then .set (s.deliver n w x .pcRange w.run 0 0)
      else if s.atBreakpoint w x = true then .set (s.setWave n { w with halted := true, haltReq := true })
      else match decodeBytes (s.fetch w x) with
        | .ok r => .run r.1 ({ s with cur := n }.holdText w x)
        | .error c => .set ((({ s with cur := n }.holdText w x).begun n w).deliver n w.begun x (s.decodeCause w x c) w.run 0 0) := by
  simp only [State.waveTurn, wave, ctx, due, ite_self, issues, Bool.not_true, Bool.false_eq_true, if_false, Bool.not_eq_true']
    <;> rfl

/-- Settles O54: in the last word by how the instruction runs elsewhere, a bad word by the first check that it fails. -/
theorem undecodableWordsRaise : Obligations.UndecodableWordsRaise := by
  intro s v x c h d a b m f k t n z ty
  refine ⟨fun last => ⟨?_, fun hg => ?_⟩, fun i r wave ctx word fails => ?_, fun n rest e => ?_, fun n rest => ?_, decodeFault_zero,
    fun _ => rfl⟩
  · have sets : ∀ {i g}, Sets i always g → Ready i s v x → exec i s = .next (((s.begun s.cur v).exposedAs (s.begun s.cur v) v.begun).deliver
        s.cur v.begun x .pcRange v.begun.run 0 0) := fun hs => pcRange_of_runs hs (fun _ _ _ => rfl) last trivial
    have nothing : ∀ {i}, Runs i always (fun t _ _ => t) → Ready i s v x → exec i s = .next (((s.begun s.cur v).exposedAs (s.begun s.cur v)
        v.begun).deliver s.cur v.begun x .pcRange v.begun.run 0 0) := fun hs => pcRange_of_runs hs (fun _ _ _ => rfl) last trivial
    simp only [List.forall_mem_cons, List.not_mem_nil, false_implies, implies_true, and_true]
    exact ⟨nothing (runs_of_done (fun _ => execNop.eq_def ..) fun _ _ _ _ => rfl),
      nothing (runs_of_done (fun _ => execYield.eq_def ..) fun _ _ _ _ => rfl), sets (puts_of_alu fun _ => execMovi.eq_def ..),
      sets (int2_of_intRes fun _ => execIadd.eq_def ..), sets (int2_of_intRes fun _ => execIsub.eq_def ..),
      sets (int2_of_intRes fun _ => execImul.eq_def ..), sets (int2_of_intRes fun _ => execImad.eq_def ..),
      sets (int2_of_intRes fun _ => execImin.eq_def ..), sets (logic2_of_logicRes fun _ => execAnd.eq_def ..),
      sets (shift_of_countRes fun _ => execShl.eq_def ..), sets (logic1_of_narrow fun _ => execPopc.eq_def ..),
      sets (float3_of_floatRes fun _ => execFadd.eq_def ..), sets (float3_of_floatRes fun _ => execFmul.eq_def ..),
      sets (float3_of_floatRes fun _ => execFfma.eq_def ..), sets (codes_of_codeRes fun _ => execFabs.eq_def ..)⟩
  · have idle : ∀ {i}, Runs i (fun _ w _ => w.guard h = 0) (fun t _ _ => t) → Ready i s v x → exec i s = .next (((s.begun s.cur v).exposedAs
        (s.begun s.cur v) v.begun).deliver s.cur v.begun x .pcRange v.begun.run 0 0) :=
      fun hr => pcRange_of_runs hr (fun _ _ _ => rfl) last hg
    simp only [List.forall_mem_cons, List.not_mem_nil, false_implies, implies_true, and_true]
    exact ⟨idle (idle_of_once fun _ => execTrap.eq_def ..), idle (idle_of_once fun _ => execIcinv.eq_def ..),
      idle (idle_of_once fun _ => execJwait.eq_def ..), idle (idle_of_once fun _ => execPcmin.eq_def ..),
      idle (runs_of_done (fun _ => execLd.eq_def ..) fun _ _ _ hg => ldRes_idle d hg),
      idle (runs_of_done (fun _ => execSt.eq_def ..) fun _ _ _ hg => stRes_idle ty hg),
      idle (runs_of_done (fun _ => execCpy.eq_def ..) fun _ _ _ hg => if_pos hg), idle (idle_of_once fun _ => execBulk.eq_def ..),
      idle (idle_of_once fun _ => execWaitc.eq_def ..), idle (idle_of_once fun _ => execWaitt.eq_def ..),
      idle (runs_of_done (fun _ => execArrwait.eq_def ..) fun _ _ _ hg => onceAt_none _ hg),
      idle (idle_of_once fun _ => execBararr.eq_def ..), idle (idle_of_once fun _ => execSracq.eq_def ..),
      idle (idle_of_once fun _ => execTzero.eq_def ..), idle (idle_of_once fun _ => execDlaunch.eq_def ..),
      idle (idle_of_reserving (execClaimend_eq h a)), idle (idle_of_reserving fun _ => execItemend.eq_def ..),
      idle (idle_of_once fun _ => execCref.eq_def ..)⟩
  · obtain ⟨body, meaning⟩ := exec_eq_issue i word
    rw [meaning, issue_decode_fault body wave ctx word fails]
  · intro s0 agenda wave ctx due hp issues stands bad
    refine step_of_set ((turn_of_agenda agenda).trans ((waveTurn_of_issue (s := { s with agenda := rest }) wave ctx due issues).trans ?_))
    rw [if_neg (by rw [hp]; decide), if_neg (by rw [stands]; decide), bad]
  · intro s0 agenda wave ctx due hp issues
    refine step_of_set ((turn_of_agenda agenda).trans ((waveTurn_of_issue (s := { s with agenda := rest }) wave ctx due issues).trans ?_))
    rw [if_pos hp]

/-- Settles O45: each word by the decoder's own computation. -/
theorem givenWordsDecode : Obligations.GivenWordsDecode := by
  unfold Obligations.GivenWordsDecode
  decide

/-- Settles O47: each register of the reset state by its value there; a step finds no turn. -/
theorem resetState : Obligations.ResetState := by
  refine ⟨rfl, rfl, rfl, rfl, rfl, rfl, rfl, rfl, fun _ => rfl, fun d => ?_, fun _ => rfl, fun _ => rfl, fun _ _ => rfl, rfl, rfl, rfl⟩
  by_cases hd : d = 0
  · subst hd; exact iff_of_true rfl rfl
  · refine iff_of_false ?_ hd
    simp [State.domain, State.reset, Tbl.get, Ne.symm hd]

/-- What S mode may not ask for is the Custodian's alone (R359, R377, R405). -/
theorem isCustodian_iff (e : Instr) : Instr.isCustodian e = true ↔ e = .freezeDispatch ∨ (∃ a b, e = .lifetimeUpdate a b) ∨
    (∃ a b, e = .islandStateSet a b) ∨ ∃ a, e = .curatorRestart a := by
  unfold Instr.isCustodian
  split
  · exact iff_of_true rfl (.inr (.inl ⟨_, _, rfl⟩))
  · exact iff_of_true rfl (.inr (.inr (.inl ⟨_, _, rfl⟩)))
  · exact iff_of_true rfl (.inl rfl)
  · exact iff_of_true rfl (.inr (.inr (.inr ⟨_, rfl⟩)))
  · next hl hi hf hc =>
    refine iff_of_false (by decide) ?_
    rintro (rfl | ⟨a, b, rfl⟩ | ⟨a, b, rfl⟩ | ⟨a, rfl⟩)
    · exact hf rfl
    · exact hl a b rfl
    · exact hi a b rfl
    · exact hc a rfl

/-- A step whose turn is an instruction or event. -/
theorem step_of_run {s t : State} {i : Instr} (h : s.turn = .run i t) : step s = match exec i t with
    | .next u => .next (s.settled t u i)
    | .fault f => .fault f
    | .refused r => .refused r := by
  unfold step
  rw [h] <;> rfl

/-- Settles O48: by the turn that the agenda, or the wave that is ready, gives. -/
theorem stepRunsTheDecodedInstruction : Obligations.StepRunsTheDecodedInstruction := by
  intro s rest
  refine ⟨fun n w x i bs wave ctx due hp => ⟨fun agenda h => ?_, fun agenda ready h => ?_⟩, fun e agenda he => ?_,
    fun mode e agenda he => ⟨fun may => ?_, fun may => ?_⟩, fun e => ⟨rfl, rfl, ?_⟩, fun mode a agenda => ⟨fun hm => ?_, fun hm => ?_⟩,
    fun die core agenda => ?_, fun agenda idle => ?_⟩
  · obtain ⟨issues, stands, word⟩ := h
    refine step_of_run ((turn_of_agenda agenda).trans ((waveTurn_of_issue (s := { s with agenda := rest }) wave ctx due issues).trans ?_))
    rw [if_neg (by rw [hp]; decide), if_neg (by rw [stands]; decide), word]
  · obtain ⟨issues, stands, word⟩ := h
    refine step_of_run ((turn_of_ready agenda ready).trans ((waveTurn_of_issue wave ctx due issues).trans ?_))
    rw [if_neg (by rw [hp]; decide), if_neg (by rw [stands]; decide), word]
  · exact step_of_run ((turn_of_agenda agenda).trans (if_pos he))
  · exact step_of_run ((turn_of_agenda agenda).trans (by simp only [State.doTurn, he, may, Bool.not_true, Bool.false_eq_true, if_false]))
  · exact step_of_set ((turn_of_agenda agenda).trans (by simp only [State.doTurn, he, may, Bool.not_true, Bool.not_false, Bool.false_eq_true, if_false, if_true]))
  · rw [← isCustodian_iff]
    cases h : Instr.isCustodian e <;> simp [PrivMode.may, h]
  · exact step_of_set ((turn_of_agenda agenda).trans (congrArg Act.set (if_neg hm)))
  · exact step_of_set ((turn_of_agenda agenda).trans (congrArg Act.set (if_pos hm)))
  · exact step_of_again (turn_of_agenda agenda)
  · exact step_of_set (turn_of_idle agenda idle)

end Sys2Proof.Proofs

/-! SUPPORT. Frames of the instructions of a wave (O49): what beginning, ending and taking a cause leave, and the frame of an
instruction from that of its body. -/

namespace Sys2Proof.Proofs

open Sys2Proof.Machine Sys2Proof.Claims

/-! ### Waves alike but for where they stand -/

/-- All of a wave but its lanes, where it stands, and what retirement counts. -/
def look (w : Wave) : Wave := { w.rest with halted := false, haltReq := false, stepping := false }

/-- Two waves that differ only in their PCs, in what retirement counts, and in where they stand. -/
def Alike (u v : Wave) : Prop := look u = look v ∧ ∀ l, (u.lane l).data = (v.lane l).data

theorem Alike.refl (u : Wave) : Alike u u := ⟨rfl, fun _ => rfl⟩
theorem Alike.symm {u v : Wave} (h : Alike u v) : Alike v u := ⟨h.1.symm, fun l => (h.2 l).symm⟩
theorem Alike.trans {u v w : Wave} (h : Alike u v) (k : Alike v w) : Alike u w := ⟨h.1.trans k.1, fun l => (h.2 l).trans (k.2 l)⟩

theorem alike_begun (w : Wave) : Alike w.begun w := ⟨rfl, fun _ => rfl⟩
theorem alike_faulted (w : Wave) (r : FaultRec) : Alike (w.faultedWith r) w := ⟨rfl, fun _ => rfl⟩

theorem alike_goto (w : Wave) (p : Word) : Alike (w.goto p) w :=
  ⟨congrArg (fun v : Wave => { v with halted := false, haltReq := false, stepping := false }) (Wave.rest_goto w p), Wave.data_goto w p⟩

theorem alike_retire (w v : Wave) : Alike (w.retire v) v :=
  ⟨congrArg (fun v : Wave => { v with halted := false, haltReq := false, stepping := false }) (Wave.rest_retire w v),
    Wave.data_retire w v⟩

/-- A register that such waves share. -/
theorem Alike.eq {α : Type} {u v : Wave} (h : Alike u v) (f : Wave → α) (blind : ∀ w, f (look w) = f w) : f u = f v := by
  rw [← blind u, ← blind v, h.1]

theorem Alike.spillKey {u v : Wave} (h : Alike u v) : u.spillKey = v.spillKey := h.eq Wave.spillKey fun _ => rfl
theorem Alike.block {u v : Wave} (h : Alike u v) : u.block = v.block := h.eq Wave.block fun _ => rfl

theorem Alike.reg {u v : Wave} (h : Alike u v) (l r : Nat) : (u.lane l).reg r = (v.lane l).reg r := (Lane.data_eq (h.2 l)).1 r
theorem Alike.q {u v : Wave} (h : Alike u v) (l : Nat) : (u.lane l).q = (v.lane l).q := (Lane.data_eq (h.2 l)).2

theorem Alike.guard {u v : Wave} (h : Alike u v) (k : Head) : u.guard k = v.guard k := by
  simp only [Wave.guard, h.eq Wave.run fun _ => rfl, h.q]

/-- What the frames say of a wave does not see where it stands. -/
theorem kept_alike {g : Mask} {lane uni pred : Nat → Prop} {o o' u u' : Wave} (ho : Alike o o') (hu : Alike u u')
    (k : Kept g lane uni pred o u) : Kept g lane uni pred o' u' where
  lanes l r h := by rw [← ho.reg, ← hu.reg, k.lanes l r h]
  unis r h := by
    rw [← ho.eq (fun w => w.uni r) fun _ => rfl, ← hu.eq (fun w => w.uni r) fun _ => rfl, k.unis r h]
  preds l p h := by rw [← ho.q, ← hu.q, k.preds l p h]
  spill := by
    have e := ho.eq (fun w => (w.granules, w.spillImage)) fun _ => rfl
    have e' := hu.eq (fun w => (w.granules, w.spillImage)) fun _ => rfl
    simp only [Prod.mk.injEq] at e e'
    exact ⟨e'.1.symm.trans (k.spill.1.trans e.1), e'.2.symm.trans (k.spill.2.trans e.2)⟩
  pending := by
    have e := ho.eq (fun w => (w.loads, w.stores, w.copies, w.tiles)) fun _ => rfl
    have e' := hu.eq (fun w => (w.loads, w.stores, w.copies, w.tiles)) fun _ => rfl
    have k := k.pending
    simp only [Prod.mk.injEq] at e e'
    rwa [e.1, e.2.1, e.2.2.1, e.2.2.2, e'.1, e'.2.1, e'.2.2.1, e'.2.2.2] at k
  settings := by
    have e := ho.eq (fun w => (w.hvec, w.sglim, w.sgq, w.arrw)) fun _ => rfl
    have e' := hu.eq (fun w => (w.hvec, w.sglim, w.sgq, w.arrw)) fun _ => rfl
    have k := k.settings
    simp only [Prod.mk.injEq] at e e'
    rwa [e.1, e.2.1, e.2.2.1, e.2.2.2, e'.1, e'.2.1, e'.2.2.1, e'.2.2.2] at k

theorem kept_refl (g : Mask) (lane uni pred : Nat → Prop) (o : Wave) : Kept g lane uni pred o o where
  lanes _ _ _ := rfl
  unis _ _ := rfl
  preds _ _ _ := rfl
  spill := ⟨rfl, rfl⟩
  pending := ⟨rfl, rfl, rfl, rfl⟩
  settings := ⟨rfl, rfl, rfl, rfl⟩

/-- The registers that `Steady` names. -/
def steadyKey (w : Wave) : (Mask × Mask × Mask) × (BitVec 2 × BitVec 3 × Mask × Word × Word × Mask × Mask × Mask × BitVec 3) ×
    (Word × Bool × Nat) × Option Wait × BitVec 20 × BitVec 20 × Word :=
  ((w.run, w.live, w.park), (w.hdep, w.hcause, w.evtm, w.hpc1, w.hpc2, w.hrun1, w.hrun2, w.keepMask, w.keepCause),
    (w.sgcnt, w.serial, w.chosen), w.wait, w.pend, w.pphase, w.item)

theorem steady_iff {v u : Wave} : Steady v u ↔ steadyKey u = steadyKey v := by
  simp only [steadyKey, Prod.mk.injEq]
  exact ⟨fun ⟨m, h, s, w⟩ => ⟨m, h, s, w⟩, fun ⟨m, h, s, w⟩ => ⟨m, h, s, w⟩⟩

theorem steady_alike {o o' u u' : Wave} (ho : Alike o o') (hu : Alike u u') (k : Steady o u) : Steady o' u' := by
  rw [steady_iff] at k ⊢
  rw [← ho.eq steadyKey fun _ => rfl, ← hu.eq steadyKey fun _ => rfl, k]

theorem steady_refl (o : Wave) : Steady o o := steady_iff.mpr rfl

/-! ### States that differ in the current wave's registers -/

/-- A state whose memory and waves are as before but for the current wave's registers, and whose blocks hold their granules as
before. -/
structure Calm (s t : State) : Prop where
  cur : t.cur = s.cur
  mem : t.mem = s.mem
  domains : t.domains = s.domains
  waves : ∀ n, n ≠ s.cur → t.waves.get n = s.waves.get n
  wave : ∀ v, s.waves.get s.cur = some v → ∃ u, t.waves.get s.cur = some u ∧ u.block = v.block
  placed : ∀ b, (∀ e ∈ s.blocks, e.1 = b → e.2.placed = true) → ∀ e ∈ t.blocks, e.1 = b → e.2.placed = true
  spill : ∀ v, s.waves.get s.cur = some v → (∀ e ∈ s.blocks, e.1 = v.block → e.2.placed = true) → ∀ a, t.inSpill a = s.inSpill a

theorem Calm.refl (s : State) : Calm s s :=
  ⟨rfl, rfl, rfl, fun _ _ => rfl, fun v h => ⟨v, h, rfl⟩, fun _ h => h, fun _ _ _ _ => rfl⟩

theorem Calm.trans {s t u : State} (h : Calm s t) (k : Calm t u) : Calm s u where
  cur := k.cur.trans h.cur
  mem := k.mem.trans h.mem
  domains := k.domains.trans h.domains
  waves n hn := (k.waves n (h.cur ▸ hn)).trans (h.waves n hn)
  wave v hv := by
    obtain ⟨q, hq, hb⟩ := h.wave v hv
    rw [← h.cur] at hq ⊢
    obtain ⟨p, hp, hb'⟩ := k.wave q hq
    exact ⟨p, hp, hb'.trans hb⟩
  placed b hb := k.placed b (h.placed b hb)
  spill v hv hp a := by
    obtain ⟨q, hq, hb⟩ := h.wave v hv
    rw [← h.cur] at hq
    rw [k.spill q hq (by rw [hb]; exact h.placed _ hp), h.spill v hv hp]

/-- Nothing changes but what frames do not speak of. -/
theorem calm_of_same {s t : State} (cur : t.cur = s.cur) (mem : t.mem = s.mem) (domains : t.domains = s.domains)
    (waves : t.waves = s.waves) (blocks : t.blocks = s.blocks) : Calm s t where
  cur := cur
  mem := mem
  domains := domains
  waves n _ := by rw [waves]
  wave v hv := ⟨v, by rw [waves]; exact hv, rfl⟩
  placed b hb := by rw [blocks]; exact hb
  spill _ _ _ a := by simp only [State.inSpill, waves, blocks]

theorem calm_setWave {s : State} {v q : Wave} (wave : s.waves.get s.cur = some v) (key : q.spillKey = v.spillKey)
    (block : q.block = v.block) : Calm s (s.setWave s.cur q) where
  cur := rfl
  mem := rfl
  domains := rfl
  waves _ hn := Tbl.get_put_ne _ _ hn
  wave u hu := by
    rw [wave] at hu
    cases hu
    exact ⟨q, Tbl.get_put .., block⟩
  placed _ hb := hb
  spill _ _ _ a := State.inSpill_setWave a wave key

theorem calm_updWave (s : State) {f : Wave → Wave} (key : ∀ w, (f w).spillKey = w.spillKey) (block : ∀ w, (f w).block = w.block) :
    Calm s (s.updWave s.cur f) where
  cur := rfl
  mem := rfl
  domains := rfl
  waves _ hn := Tbl.get_upd_ne _ _ hn
  wave u hu := ⟨f u, (Tbl.get_upd ..).trans (by rw [hu]; rfl), block u⟩
  placed _ hb := hb
  spill _ _ _ a := State.inSpill_updWave a key

/-- A change of the current wave's block that leaves it its granules. -/
theorem calm_updBlock {s : State} {v : Wave} {n : Nat} {f : Block → Block} (wave : s.waves.get s.cur = some v) (block : v.block = n)
    (key : ∀ b, b.placed = true → (f b).spillKey = b.spillKey) : Calm s (s.updBlock n f) where
  cur := rfl
  mem := rfl
  domains := rfl
  waves _ _ := rfl
  wave u hu := ⟨u, hu, rfl⟩
  placed b hb e he hn := by
    obtain ⟨e0, he0, rfl⟩ := List.mem_map.mp he
    by_cases hk : e0.1 = n
    · simp only [hk, if_true] at hn ⊢
      have hp := hb e0 he0 (hk.trans hn)
      exact (congrArg (fun k => k.1) (key e0.2 hp)).trans hp
    · simp only [hk, if_false] at hn ⊢
      exact hb e0 he0 hn
  spill u hu hp a := by
    refine State.inSpill_updBlock a fun e he hn => key _ (hp e he ?_)
    rw [wave] at hu
    cases hu
    exact hn.trans block.symm

theorem calm_begun {s : State} {v : Wave} (wave : s.waves.get s.cur = some v) : Calm s (s.begun s.cur v) := by
  have h := calm_updWave s (f := Wave.begun) (fun _ => rfl) fun _ => rfl
  refine h.trans (calm_updBlock (v := v.begun) ((Tbl.get_upd ..).trans (by rw [wave]; rfl)) rfl fun b hb => ?_)
  simp only [Block.spillKey, Prod.mk.injEq, and_true]
  rw [hb]
  unfold Block.placed at hb ⊢
  cases hq : b.phase <;> simp_all

theorem calm_exposedAs {s t : State} {v w : Wave} (wave : s.waves.get s.cur = some v) (block : v.block = w.block) :
    Calm s (s.exposedAs t w) := by
  unfold State.exposedAs
  split
  · split
    · exact calm_updBlock wave block fun _ _ => rfl
    · exact Calm.refl s
  · exact Calm.refl s

theorem closeFolio_cur (s : State) (c : Nat) (b : Bool) : (s.closeFolio c b).cur = s.cur := by
  unfold State.closeFolio; repeat' (first | rfl | split)

theorem closeWhen_cur (s : State) (c : Nat) (b : Bool) : (s.closeWhen c b).cur = s.cur := by
  unfold State.closeWhen
  split
  · exact closeFolio_cur ..
  · rfl

theorem traceRecord_cur (s : State) (c : Nat) (bs : List Byte) : (s.traceRecord c bs).cur = s.cur := by
  unfold State.traceRecord
  split
  · rfl
  · exact (closeWhen_cur ..).trans (closeWhen_cur ..)

theorem logRecord_cur (s : State) (r : FaultRec) : (s.logRecord r).2.cur = s.cur := traceRecord_cur ..

theorem calm_logRecord (s : State) (r : FaultRec) : Calm s (s.logRecord r).2 :=
  calm_of_same (logRecord_cur ..) (State.logRecord_mem ..) (State.logRecord_domains ..) (State.logRecord_waves ..)
    (State.logRecord_blocks ..)

theorem calm_deliver {s : State} {v w : Wave} (wave : s.waves.get s.cur = some v) (alike : Alike w v) (x : WCtx) (c : Cause)
    (m : Mask) (a : DWord) (g : Word) : Calm s (s.deliver s.cur w x c m a g) := by
  have hlog := calm_logRecord s (s.waveRecord w x c m a g)
  have hwave : (s.logRecord (s.waveRecord w x c m a g)).2.waves.get (s.logRecord (s.waveRecord w x c m a g)).2.cur = some v := by
    rw [logRecord_cur, State.logRecord_waves, wave]
  have hset := calm_setWave (q := w.faultedWith (s.logRecord (s.waveRecord w x c m a g)).1) hwave alike.spillKey alike.block
  rw [logRecord_cur] at hset
  refine (hlog.trans hset).trans ?_
  refine calm_updBlock (v := w.faultedWith (s.logRecord (s.waveRecord w x c m a g)).1) ?_ rfl fun b hb => ?_
  · show Tbl.get (Tbl.put _ s.cur _) (s.logRecord (s.waveRecord w x c m a g)).2.cur = _
    rw [logRecord_cur]
    exact Tbl.get_put ..
  · simp only [Block.spillKey, Prod.mk.injEq, and_true]
    rw [hb]
    unfold Block.placed
    cases b.phase <;> rfl

/-- Calm states agree in every byte of memory and in the other waves. -/
theorem untouched_of_calm {s t : State} {v : Wave} (wave : s.waves.get s.cur = some v) (h : Calm s t) : Untouched s t := by
  have hmem := h.mem
  simp only [State.mem, Prod.mk.injEq] at hmem
  obtain ⟨-, htags, -, -⟩ := hmem
  refine ⟨mem_raw h.mem, fun g => by rw [htags], fun hp dom a => ?_, hbmRead_of_mem h.mem h.domains, h.waves⟩
  simp only [State.ldsRead, State.coreRead, htags, mem_raw h.mem, h.spill v wave (hp v wave)]

/-! ### Frames from bodies -/

/-- A body that leaves a calm state, in which the wave's record is as `P` says. -/
def resCalm (P : Wave → Prop) (t : State) : Res → Prop
  | .done u | .wait u | .stall u | .over u => Calm t u ∧ ∃ q, u.waves.get t.cur = some q ∧ P q
  | .cause .. => True
  | .causeIn .. => False

/-- What is said of a wave before and after does not see where it stands, and holds of one that stays. -/
structure Blind (f : Wave → Wave → Prop) : Prop where
  refl : ∀ o, f o o
  alike : ∀ {o o' u u'}, Alike o o' → Alike u u' → f o u → f o' u'

theorem calm_finish {P : Wave → Prop} {t : State} {w : Wave} {x : WCtx} {r : Res} (at_ : At t t.cur w x)
    (alike : ∀ {u u'}, Alike u u' → P u → P u') (self : P w) (hr : resCalm P t r) :
    Calm t (t.finish t.cur w x r) ∧ ∃ q, (t.finish t.cur w x r).waves.get t.cur = some q ∧ P q := by
  obtain ⟨wave, ctx⟩ := at_
  have taken : ∀ (u : State) (c : Cause) (m : Mask) (a : DWord) (g : Word), Calm t u → u.waves.get u.cur = some w →
      Calm t (u.deliver t.cur w x c m a g) ∧ ∃ q, (u.deliver t.cur w x c m a g).waves.get t.cur = some q ∧ P q := by
    intro u c m a g hu hw
    obtain ⟨r, hq⟩ := State.deliver_wave u t.cur w x c m a g
    refine ⟨hu.trans ?_, _, hq, alike (alike_faulted w r).symm self⟩
    rw [← hu.cur]
    exact calm_deliver hw (Alike.refl w) x c m a g
  have behind : ∀ u, Calm t u → Calm t ((t.exposedAs u w).deliver t.cur w x .pcRange w.run 0 0) ∧
      ∃ q, ((t.exposedAs u w).deliver t.cur w x .pcRange w.run 0 0).waves.get t.cur = some q ∧ P q := fun u _ =>
    have exposed := calm_exposedAs (t := u) wave rfl
    have same : (t.exposedAs u w).waves = t.waves := by
      unfold State.exposedAs
      split
      · split <;> rfl
      · rfl
    taken _ _ _ _ _ exposed (by rw [exposed.cur, same, wave])
  cases r with
  | done u =>
    obtain ⟨hu, q, hq, hP⟩ := hr
    rw [State.finish]
    split
    · refine ⟨hu.trans ?_, (w.retire q).goto w.nextPc, by rw [State.updWave_waves, Tbl.get_upd, hq]; rfl,
        alike ((alike_goto ..).trans (alike_retire ..)).symm hP⟩
      rw [← hu.cur]
      have key : ∀ v, Alike ((w.retire v).goto w.nextPc) v := fun v => (alike_goto ..).trans (alike_retire ..)
      exact calm_updWave u (fun v => (key v).spillKey) fun v => (key v).block
    · exact behind u hu
  | wait u =>
    rw [State.finish]
    split
    · exact hr
    · exact behind u hr.1
  | stall u => exact hr
  | cause c m a g => exact taken t c m a g (Calm.refl t) wave
  | causeIn => exact hr.elim
  | _ => exact hr

/-- The frame of an instruction, from that of its body. -/
theorem frames_of_issue {i : Instr} {f : Wave → Wave → Prop} {body : State → Wave → WCtx → Res}
    (meaning : ∀ s, exec i s = issue i s body) (blind : Blind f)
    (frame : ∀ t w x, At t t.cur w x → resCalm (f w) t (body t w x)) : Frames i f := by
  intro s t v wave ht
  rw [meaning, issue, wave] at ht
  have begun := calm_begun wave
  have hwave : (s.begun s.cur v).waves.get (s.begun s.cur v).cur = some v.begun := State.begun_wave wave
  have ended : ∀ u, (Calm (s.begun s.cur v) u ∧ ∃ q, u.waves.get s.cur = some q ∧ f v.begun q) →
      Untouched s u ∧ ∃ q, u.waves.get s.cur = some q ∧ f v q := fun u ⟨hu, q, hq, hf⟩ =>
    ⟨untouched_of_calm wave (begun.trans hu), q, hq, blind.alike (alike_begun v) (Alike.refl q) hf⟩
  dsimp only at ht
  split at ht
  · next x r hx hr =>
    split at ht
    · next c _ =>
      cases ht
      obtain ⟨rec_, hq⟩ := State.deliver_wave (s.begun s.cur v) s.cur v.begun x c v.begun.run 0 0
      exact ended _ ⟨calm_deliver hwave (Alike.refl _) .., _, hq, blind.alike (Alike.refl _) (alike_faulted _ rec_).symm (blind.refl _)⟩
    · split at ht
      · cases ht
        exact ended _ ⟨Calm.refl _, _, hwave, blind.refl _⟩
      · cases ht
        exact ended _ (calm_finish ⟨hwave, hx⟩ (fun ha hf => blind.alike (Alike.refl _) ha hf) (blind.refl _) (frame _ _ x ⟨hwave, hx⟩))
    · cases ht
      exact ended _ ⟨Calm.refl _, _, hwave, blind.refl _⟩
  · cases ht

end Sys2Proof.Proofs

/-! SUPPORT. The frame of an instruction with a register or predicate result (O49). -/

namespace Sys2Proof.Proofs

open Sys2Proof.Machine Sys2Proof.Claims

/-! ### What a write of D or of a predicate leaves -/

theorem writeD_keeps {α : Type} (f : Wave → α) (blind : ∀ (v : Wave) (ls : List Lane) (k : List DWord), f { v with lanes := ls, k := k } = f v)
    (w : Wave) (d : Operand) (wide : Bool) (g : Mask) (v : Nat → DWord) : f (w.writeD d wide g v) = f w := by
  unfold Wave.writeD
  split
  · exact blind w _ w.k
  · split
    · rfl
    · exact blind w w.lanes _
  · rfl

theorem lane_writeD_of_not_lane (w : Wave) {d : Operand} (wide : Bool) (g : Mask) (v : Nat → DWord) (h : ∀ n, d ≠ .lane n) (l : Nat) :
    (w.writeD d wide g v).lane l = w.lane l := by
  unfold Wave.writeD
  split
  · exact absurd rfl (h _)
  · split <;> rfl
  · rfl

theorem uni_writeD_of_not_uni (w : Wave) {d : Operand} (wide : Bool) (g : Mask) (v : Nat → DWord) (h : ∀ n, d ≠ .uni n) (r : Nat) :
    (w.writeD d wide g v).uni r = w.uni r := by
  unfold Wave.writeD
  split
  · rfl
  · exact absurd rfl (h _)
  · rfl

theorem q_write (x : Lane) (wide : Bool) (n : Nat) (v : DWord) : (x.write wide n v).q = x.q := by
  cases wide <;> rfl

/-- A write of D changes the registers that it names, in the guarded lanes (R48, R56). -/
theorem kept_writeD (w : Wave) (d : Operand) {wide wide' : Bool} (same : ∀ n, d = .lane n → wide' = wide) (g : Mask) (v : Nat → DWord) :
    Kept g (dLane d wide) (dUni d) none_ w (w.writeD d wide' g v) where
  lanes l r h := by
    by_cases hd : ∃ n, d = .lane n
    · obtain ⟨n, rfl⟩ := hd
      rw [same n rfl, lane_writeD_lane]
      split
      · next hin =>
        rcases h with h0 | hr
        · rw [h0] at hin; cases hin.2
        · exact reg_write_ne _ _ _ (fun e => hr ⟨n, rfl, .inl e⟩) fun hw e => hr ⟨n, rfl, .inr ⟨hw, e⟩⟩
      · rfl
    · rw [lane_writeD_of_not_lane w wide' g v (fun n e => hd ⟨n, e⟩)]
  unis r h := by
    by_cases hd : ∃ n, d = .uni n
    · obtain ⟨n, rfl⟩ := hd
      rw [Wave.writeD]
      split
      · rfl
      · exact uni_setUni_ne _ _ fun e => h ⟨n, rfl, e⟩
    · exact uni_writeD_of_not_uni w wide' g v (fun n e => hd ⟨n, e⟩) r
  preds l p _ := by
    by_cases hd : ∃ n, d = .lane n
    · obtain ⟨n, rfl⟩ := hd
      rw [lane_writeD_lane]
      split
      · rw [q_write]
      · rfl
    · rw [lane_writeD_of_not_lane w wide' g v (fun n e => hd ⟨n, e⟩)]
  spill := Prod.mk.inj (writeD_keeps (fun w => (w.granules, w.spillImage)) (fun _ _ _ => rfl) w d wide' g v)
  pending := by
    have e := writeD_keeps (fun w => (w.loads, w.stores, w.copies, w.tiles)) (fun _ _ _ => rfl) w d wide' g v
    simp only [Prod.mk.injEq] at e
    exact e
  settings := by
    have e := writeD_keeps (fun w => (w.hvec, w.sglim, w.sgq, w.arrw)) (fun _ _ _ => rfl) w d wide' g v
    simp only [Prod.mk.injEq] at e
    exact e

/-- A write of a predicate changes it in the guarded lanes. -/
theorem kept_writePred (w : Wave) (p : Nat) (g : Mask) (v : Nat → Bool) : Kept g none_ none_ (· = p) w (w.writePred p g v) where
  lanes l r _ := by
    rw [lane_writePred]
    split <;> rfl
  unis _ _ := rfl
  preds l r h := by
    by_cases hr : r < 8
    · rw [lane_writePred]
      split
      · next hin =>
        rcases h with h0 | hne
        · rw [h0] at hin; cases hin.2
        · rw [getLsbD_setPred _ _ hr, if_neg hne]
      · rfl
    · rw [BitVec.getLsbD_of_ge _ _ (Nat.not_lt.mp hr), BitVec.getLsbD_of_ge _ _ (Nat.not_lt.mp hr)]
  spill := ⟨rfl, rfl⟩
  pending := ⟨rfl, rfl, rfl, rfl⟩
  settings := ⟨rfl, rfl, rfl, rfl⟩

/-- Flags and dither are no part of what is kept. -/
theorem kept_flags {g : Mask} {lane uni pred : Nat → Prop} {w u : Wave} (k : Kept g lane uni pred w u) (fl : BitVec 5) (di : BitVec 6) :
    Kept g lane uni pred w { u with fflags := fl, dither := di } :=
  ⟨k.lanes, k.unis, k.preds, k.spill, k.pending, k.settings⟩

/-! ### The frames that O49 states -/

/-- What O49 says of a result in D: `flags` and `dith` say whether `%fflags` and `%dither` may change. -/
def resultFrame (h : Head) (d : Operand) (wide flags dith : Bool) (o u : Wave) : Prop :=
  Kept (o.guard h) (dLane d wide) (dUni d) none_ o u ∧ Steady o u ∧ (flags = false → u.fflags = o.fflags) ∧
    (dith = false → u.dither = o.dither)

/-- What it says of a result in a predicate. -/
def testFrame (h : Head) (d : Operand) (flags : Bool) (o u : Wave) : Prop :=
  Kept (o.guard h) none_ none_ (· = predNo d) o u ∧ Steady o u ∧ (flags = false → u.fflags = o.fflags) ∧ u.dither = o.dither

theorem blind_resultFrame (h : Head) (d : Operand) (wide flags dith : Bool) : Blind (resultFrame h d wide flags dith) where
  refl o := ⟨kept_refl .., steady_refl o, fun _ => rfl, fun _ => rfl⟩
  alike ho hu := fun ⟨k, s, f, e⟩ => ⟨ho.guard h ▸ kept_alike ho hu k, steady_alike ho hu s,
    fun hf => (hu.eq Wave.fflags fun _ => rfl).symm.trans ((f hf).trans (ho.eq Wave.fflags fun _ => rfl)),
    fun hd => (hu.eq Wave.dither fun _ => rfl).symm.trans ((e hd).trans (ho.eq Wave.dither fun _ => rfl))⟩

theorem blind_testFrame (h : Head) (d : Operand) (flags : Bool) : Blind (testFrame h d flags) where
  refl o := ⟨kept_refl .., steady_refl o, fun _ => rfl, rfl⟩
  alike ho hu := fun ⟨k, s, f, e⟩ => ⟨ho.guard h ▸ kept_alike ho hu k, steady_alike ho hu s,
    fun hf => (hu.eq Wave.fflags fun _ => rfl).symm.trans ((f hf).trans (ho.eq Wave.fflags fun _ => rfl)),
    (hu.eq Wave.dither fun _ => rfl).symm.trans (e.trans (ho.eq Wave.dither fun _ => rfl))⟩

/-- A body that puts the wave's record. -/
theorem resCalm_setWave {P : Wave → Prop} {t : State} {w q : Wave} {x : WCtx} (at_ : At t t.cur w x) (key : q.spillKey = w.spillKey)
    (block : q.block = w.block) (hP : P q) : resCalm P t (.done (t.setWave t.cur q)) :=
  ⟨calm_setWave at_.wave key block, q, Tbl.get_put .., hP⟩

/-- A result that an operation of the ALU writes, with flags and dither beside it. -/
theorem resCalm_result {h : Head} {d : Operand} {wide wide' flags dith : Bool} {t : State} {w : Wave} {x : WCtx} {v : Nat → DWord}
    {fl : BitVec 5} {di : BitVec 6} (at_ : At t t.cur w x) (same : ∀ n, d = .lane n → wide' = wide) (hf : flags = false → fl = w.fflags)
    (hd : dith = false → di = w.dither) : resCalm (resultFrame h d wide flags dith w) t
      (.done (t.setWave t.cur { w.writeD d wide' (w.guard h) v with fflags := fl, dither := di })) :=
  resCalm_setWave at_ (writeD_keeps Wave.spillKey (fun _ _ _ => rfl) w d wide' _ v) (writeD_keeps Wave.block (fun _ _ _ => rfl) w d wide' _ v)
    ⟨kept_flags (kept_writeD w d same _ v) fl di,
      steady_iff.mpr (writeD_keeps steadyKey (fun _ _ _ => rfl) w d wide' _ v), hf, hd⟩

section Result

variable {i : Instr} {h : Head} {d : Operand} {wide wide' : Bool} (same : ∀ n, d = .lane n → wide' = wide)
include same

theorem frame_of_alu {f : Wave → WCtx → Nat → DWord} (meaning : ∀ s, exec i s = issue i s fun t w x => alu t w h d wide' (f w x)) :
    Frames i (resultFrame h d wide false false) :=
  frames_of_issue meaning (blind_resultFrame ..) fun _ w _ at_ => resCalm_result at_ same
    (fun _ => writeD_keeps Wave.fflags (fun _ _ _ => rfl) w ..) fun _ => writeD_keeps Wave.dither (fun _ _ _ => rfl) w ..

theorem frame_of_aluF {f : Wave → WCtx → Nat → DWord × BitVec 5} (meaning : ∀ s, exec i s = issue i s fun t w x => aluF t w h d wide' (f w x)) :
    Frames i (resultFrame h d wide true false) :=
  frames_of_issue meaning (blind_resultFrame ..) fun _ w _ at_ => resCalm_result at_ same
    (fun hf => absurd hf (by decide)) fun _ => writeD_keeps Wave.dither (fun _ _ _ => rfl) w ..

end Result

/-- A predicate that an instruction writes, with flags beside it. -/
theorem frame_of_test {i : Instr} {h : Head} {d : Operand} {flags : Bool} {body : State → Wave → WCtx → Res}
    (meaning : ∀ s, exec i s = issue i s body)
    (writes : ∀ t w x, ∃ v fl, (flags = false → fl = w.fflags) ∧
      body t w x = .done (t.setWave t.cur { w.writePred (predNo d) (w.guard h) v with fflags := fl })) :
    Frames i (testFrame h d flags) :=
  frames_of_issue meaning (blind_testFrame ..) fun t w x at_ => by
    obtain ⟨v, fl, hf, hb⟩ := writes t w x
    rw [hb]
    exact resCalm_setWave at_ rfl rfl ⟨kept_flags (kept_writePred w _ _ v) fl w.dither, steady_iff.mpr rfl, hf, rfl⟩

/-- An operation of the ALU with flags, of a wave whose dither has changed. -/
theorem resCalm_dithered {h : Head} {d : Operand} {wide wide' : Bool} {t : State} {w : Wave} {x : WCtx} {f : Nat → DWord × BitVec 5}
    {di : BitVec 6} (at_ : At t t.cur w x) (same : ∀ n, d = .lane n → wide' = wide) :
    resCalm (resultFrame h d wide true true w) t (aluF t { w with dither := di } h d wide' f) :=
  have k := kept_writeD { w with dither := di } d same (w.guard h) fun l => (f l).1
  resCalm_setWave at_ (writeD_keeps Wave.spillKey (fun _ _ _ => rfl) { w with dither := di } d wide' ..)
    (writeD_keeps Wave.block (fun _ _ _ => rfl) { w with dither := di } d wide' ..)
    ⟨⟨k.lanes, k.unis, k.preds, k.spill, k.pending, k.settings⟩,
      steady_iff.mpr (writeD_keeps steadyKey (fun _ _ _ => rfl) { w with dither := di } d wide' ..),
      fun e => absurd e (by decide), fun e => absurd e (by decide)⟩

/-- A MOV whose D is no special register is an operation of the ALU, unless it waits. -/
theorem movRes_of_not_spec {h : Head} {d a : Operand} {ty : IType} {t : State} {w : Wave} {x : WCtx} (hd : ∀ n, d ≠ .spec n) :
    movRes h d a ty t w x =
      if flagsPending w a then .stall t else alu t w h d (wideType ty) fun l => readOp w x (shapeOf ty) l a := by
  unfold movRes
  split
  · rfl
  · dsimp only
    split
    · exact absurd rfl (hd _)
    · rfl

/-- Settles O49: each instruction by the write that its body makes. -/
theorem registerInstructionsFrame : Obligations.RegisterInstructionsFrame := by
  intro h d a b m f t v neg p dt st ff ft fl rnd sat x y z c fc k sg sm pt ut g se de
  have id {w : Bool} : ∀ n, d = .lane n → w = w := fun _ _ => rfl
  have wide_kept : ∀ n, d = .lane n → (wideType m.ty && !false) = wideType m.ty := fun _ _ => Bool.and_true _
  have narrow : ∀ n, d = .lane n → (wideType m.ty && !true) = false := fun _ _ => Bool.and_false _
  refine ⟨?_, ?_, fun ty hd => ?_, ?_, ?_, ?_, ?_, ?_, ?_, ?_, ?_, ?_, ?_, ?_, ?_⟩
  · show ∀ i ∈ _, Frames i (resultFrame h d (wideType m.ty) false false)
    simp only [List.forall_mem_cons, List.not_mem_nil, false_implies, implies_true, and_true]
    exact ⟨frame_of_alu id fun _ => execIadd.eq_def .., frame_of_alu id fun _ => execIsub.eq_def ..,
      frame_of_alu id fun _ => execImul.eq_def .., frame_of_alu id fun _ => execImulh.eq_def ..,
      frame_of_alu id fun _ => execImad.eq_def .., frame_of_alu id fun _ => execImin.eq_def ..,
      frame_of_alu id fun _ => execImax.eq_def .., frame_of_alu id fun _ => execIabs.eq_def ..,
      frame_of_alu id fun _ => execIneg.eq_def .., frame_of_alu id fun _ => execAnd.eq_def ..,
      frame_of_alu id fun _ => execOr.eq_def .., frame_of_alu id fun _ => execXor.eq_def ..,
      frame_of_alu id fun _ => execAndn.eq_def .., frame_of_alu wide_kept fun _ => execNot.eq_def ..,
      frame_of_alu id fun _ => execShl.eq_def .., frame_of_alu id fun _ => execShr.eq_def ..,
      frame_of_alu id fun _ => execSar.eq_def .., frame_of_alu id fun _ => execRotl.eq_def ..,
      frame_of_alu wide_kept fun _ => execBrev.eq_def .., frame_of_alu id fun _ => execBfe.eq_def ..,
      frame_of_alu id fun _ => execBfi.eq_def ..⟩
  · show ∀ i ∈ _, Frames i (resultFrame h d false false false)
    simp only [List.forall_mem_cons, List.not_mem_nil, false_implies, implies_true, and_true]
    exact ⟨frame_of_alu narrow fun _ => execPopc.eq_def .., frame_of_alu narrow fun _ => execClz.eq_def ..,
      frame_of_alu id fun _ => execLogt.eq_def .., frame_of_alu id fun _ => execMovi.eq_def ..,
      frame_of_alu id fun _ => execSel.eq_def .., frame_of_alu id fun _ => execShfl.eq_def ..,
      frame_of_alu id fun _ => execDot4i8.eq_def .., frame_of_alu id fun _ => execDot8i4.eq_def ..,
      frame_of_alu id fun _ => execDotb32.eq_def .., frame_of_alu id fun _ => execFclass.eq_def ..⟩
  · show Frames _ (resultFrame h d (wideType ty) false false)
    refine frames_of_issue (fun _ => execMov.eq_def ..) (blind_resultFrame ..) fun t w x at_ => ?_
    rw [movRes_of_not_spec hd]
    split
    · exact ⟨Calm.refl t, w, at_.wave, (blind_resultFrame ..).refl w⟩
    · exact resCalm_result at_ id (fun _ => writeD_keeps Wave.fflags (fun _ _ _ => rfl) w ..)
        fun _ => writeD_keeps Wave.dither (fun _ _ _ => rfl) w ..
  · exact frame_of_alu (fun n hd => by rw [hd]; exact Bool.or_false _) fun _ => execIcvt.eq_def ..
  · show ∀ i ∈ _, Frames i (resultFrame h d (fWide f.ty) true false)
    simp only [List.forall_mem_cons, List.not_mem_nil, false_implies, implies_true, and_true]
    exact ⟨frame_of_aluF id fun _ => execFadd.eq_def .., frame_of_aluF id fun _ => execFsub.eq_def ..,
      frame_of_aluF id fun _ => execFmul.eq_def .., frame_of_aluF id fun _ => execFfma.eq_def ..,
      frame_of_aluF id fun _ => execFmin.eq_def .., frame_of_aluF id fun _ => execFmax.eq_def ..,
      frame_of_aluF id fun _ => execFdiv.eq_def .., frame_of_aluF id fun _ => execFsqrt.eq_def ..,
      frame_of_aluF id fun _ => execFrcp.eq_def .., frame_of_aluF id fun _ => execFrsq.eq_def ..,
      frame_of_aluF id fun _ => execFexp2.eq_def .., frame_of_aluF id fun _ => execFlog2.eq_def ..,
      frame_of_aluF id fun _ => execFsin.eq_def .., frame_of_aluF id fun _ => execFcos.eq_def ..,
      frame_of_aluF id fun _ => execFrnd.eq_def ..⟩
  · show ∀ i ∈ _, Frames i (resultFrame h d (fWide f.ty) false false)
    simp only [List.forall_mem_cons, List.not_mem_nil, false_implies, implies_true, and_true]
    exact ⟨frame_of_alu id (exec_fabs h d a f), frame_of_alu id (exec_fneg h d a f)⟩
  · refine frames_of_issue (fun _ => execFcvt.eq_def ..) (blind_resultFrame h d (ff == .f64) true true) fun t w x at_ => ?_
    have same : ∀ n, d = .lane n → (ffmtBits ff == 64 || (decide (ffmtBits ff < 32) && isUni d)) = (ff == .f64) :=
      fun n hd => by rw [hd]; cases ff <;> rfl
    simp only [fcvtRes]
    split
    · exact resCalm_dithered at_ same
    · exact resCalm_dithered at_ same
  · exact frame_of_aluF (fun n hd => by rw [hd]; exact Bool.or_false _) fun _ => execF2i.eq_def ..
  · exact frame_of_aluF id fun _ => execI2f.eq_def ..
  · exact frame_of_aluF id fun _ => execPack.eq_def ..
  · exact frame_of_aluF id fun _ => execUnpk.eq_def ..
  · show ∀ i ∈ _, Frames i (resultFrame h d false true false)
    simp only [List.forall_mem_cons, List.not_mem_nil, false_implies, implies_true, and_true]
    exact ⟨frame_of_aluF id fun _ => execDot4f8.eq_def .., frame_of_aluF id fun _ => execDot2bf.eq_def ..⟩
  · show ∀ i ∈ _, Frames i (testFrame h d false)
    simp only [List.forall_mem_cons, List.not_mem_nil, false_implies, implies_true, and_true]
    exact ⟨frame_of_test (fun _ => execIsetp.eq_def ..) fun _ _ _ => ⟨_, _, fun _ => rfl, rfl⟩,
      frame_of_test (fun _ => execPlogt.eq_def ..) fun _ _ _ => ⟨_, _, fun _ => rfl, rfl⟩,
      frame_of_test (fun _ => execVote.eq_def ..) fun _ _ _ => ⟨_, _, fun _ => rfl, rfl⟩,
      frame_of_test (fun _ => execVote.eq_def ..) fun _ _ _ => ⟨_, _, fun _ => rfl, rfl⟩,
      frame_of_test (fun _ => execVote.eq_def ..) fun _ _ _ => ⟨_, _, fun _ => rfl, rfl⟩⟩
  · exact frame_of_alu id fun _ => execVote.eq_def ..
  · exact frame_of_test (fun _ => execFsetp.eq_def ..) fun _ _ _ => ⟨_, _, fun e => absurd e (by decide), rfl⟩

end Sys2Proof.Proofs

/-! SUPPORT. The frame of control instructions fails (O50). -/

namespace Sys2Proof.Proofs

open Sys2Proof.Machine Sys2Proof.Claims

/-- A body wave of a reserving launch whose lanes hold items, with a store of lane 0 that is not performed yet. -/
def bodyStoring (w : Wave) : Wave :=
  { w with
    kind := .body
    lanes := w.lanes.mapIdx fun l (x : Lane) => { x with item := some { index := l } }
    stores := [{ writes := [(0x400000, [1])], lanes := [0] }] }

/-- A device whose wave 1 is such a wave. -/
def exiting : State :=
  let s := State.reset.placeWord 0
  { s.updWave 1 bodyStoring with dies := [(0, { former := some { grid := 1, block := 1, home := 0, next := 8 } })] }

/-- The retirement passes that hold the stores of a wave. -/
def storeHolds (s : State) (n : Nat) : Option (List (List Nat)) := (s.waves.get n).map fun w => w.stores.map (·.holds)

/-- The passes of the current wave's stores, where an instruction answers a next state. -/
def holdsAfter (i : Instr) (s : State) : Option (List (List Nat)) :=
  match exec i s with
  | .next t => storeHolds t s.cur
  | _ => none

theorem exiting_before : storeHolds exiting exiting.cur = some [[]] := by decide +kernel
theorem exiting_after : holdsAfter (.exit {}) exiting = some [[0]] := by decide +kernel

/-- Refutes O50: an EXIT of a wave that forms bodies ends the items of its lanes, and their pass holds the stores of those lanes that
are pending (R295), so that the pending stores do not stay. -/
theorem not_controlInstructionsFrame : ¬ Obligations.ControlInstructionsFrame := by
  intro hall
  obtain ⟨-, hexits, -⟩ := hall {} (.lane 0) (.lane 0) (.lane 0) 0 0
  have hexit := hexits (.exit {}) (by simp)
  have before := exiting_before
  have after := exiting_after
  simp only [holdsAfter] at after
  split at after
  · next t ht =>
    obtain ⟨v, hv, hstores⟩ := Option.map_eq_some_iff.mp before
    obtain ⟨-, u, hu, k, -⟩ := hexit exiting t v hv ht
    rw [storeHolds, hu, Option.map_some, k.pending.2.1, hstores] at after
    exact absurd after (by decide)
  · cases after

end Sys2Proof.Proofs

/-! SUPPORT. The frame of LD, ST and ATOM and of performed stores (O51): what writes of a local store leave of the bytes beside them. -/

namespace Sys2Proof.Proofs

open Sys2Proof.Machine Sys2Proof.Claims

/-! ### States that differ in bytes outside a set -/

/-- A state that reads as before, under a domain, at the bytes of `far` of the local stores, and at every byte of HBM; its other waves
and what holds its granules are as before. -/
structure Beside (dom : Nat) (far : Nat → Prop) (s t : State) : Prop where
  cur : t.cur = s.cur
  core : ∀ c, far c → t.coreRead dom c = s.coreRead dom c
  hbm : ∀ d pa, t.hbmRead d pa = s.hbmRead d pa
  waves : ∀ n, n ≠ s.cur → t.waves.get n = s.waves.get n
  wave : ∀ v, s.waves.get s.cur = some v → ∃ u, t.waves.get s.cur = some u ∧ u.block = v.block
  placed : ∀ b, (∀ e ∈ s.blocks, e.1 = b → e.2.placed = true) → ∀ e ∈ t.blocks, e.1 = b → e.2.placed = true
  spill : ∀ v, s.waves.get s.cur = some v → (∀ e ∈ s.blocks, e.1 = v.block → e.2.placed = true) → ∀ a, t.inSpill a = s.inSpill a

variable {dom : Nat} {far : Nat → Prop} {s t u : State} {w v : Wave} {x : WCtx}

theorem beside_of_calm (h : Calm s t) : Beside dom far s t where
  cur := h.cur
  core c _ := by
    have hmem := h.mem
    simp only [State.mem, Prod.mk.injEq] at hmem
    obtain ⟨-, htags, -, -⟩ := hmem
    simp only [State.coreRead, htags, mem_raw h.mem]
  hbm := hbmRead_of_mem h.mem h.domains
  waves := h.waves
  wave := h.wave
  placed := h.placed
  spill := h.spill

theorem Beside.refl (s : State) : Beside dom far s s := beside_of_calm (Calm.refl s)

theorem Beside.trans (h : Beside dom far s t) (k : Beside dom far t u) : Beside dom far s u where
  cur := k.cur.trans h.cur
  core c hc := (k.core c hc).trans (h.core c hc)
  hbm d pa := (k.hbm d pa).trans (h.hbm d pa)
  waves n hn := (k.waves n (h.cur ▸ hn)).trans (h.waves n hn)
  wave v hv := by
    obtain ⟨q, hq, hb⟩ := h.wave v hv
    rw [← h.cur] at hq ⊢
    obtain ⟨p, hp, hb'⟩ := k.wave q hq
    exact ⟨p, hp, hb'.trans hb⟩
  placed b hb := k.placed b (h.placed b hb)
  spill v hv hp a := by
    obtain ⟨q, hq, hb⟩ := h.wave v hv
    rw [← h.cur] at hq
    rw [k.spill q hq (by rw [hb]; exact h.placed _ hp), h.spill v hv hp]

/-- The bytes of `far` read as before, by a lane's own path and by the domain's. -/
theorem Beside.sameByte (h : Beside dom far s t) (wave : s.waves.get s.cur = some v)
    (placed : ∀ e ∈ s.blocks, e.1 = v.block → e.2.placed = true) {c : Nat} (hc : far c) : SameByte s t dom c := by
  refine ⟨h.core c hc, ?_⟩
  rw [State.ldsRead, State.ldsRead, h.spill v wave placed, h.core c hc]

theorem beside_updWave (s : State) {n : Nat} {f : Wave → Wave} (hn : n = s.cur) (key : ∀ w, (f w).spillKey = w.spillKey)
    (block : ∀ w, (f w).block = w.block) : Beside dom far s (s.updWave n f) := by
  subst hn
  exact beside_of_calm (calm_updWave s key block)

/-! ### Writes -/

theorem coreRead_coreWrite_ne {a c : Nat} (s : State) (dom : Nat) (b : Byte) (h : c ≠ a) :
    (s.coreWrite dom a b).coreRead dom c = s.coreRead dom c := by
  unfold State.coreWrite
  split
  · simp only [State.coreRead, State.ldsRaw, Memory.find_set_ne _ _ _ h]
  · next ht =>
    by_cases hg : c / 4096 = a / 4096
    · simp only [State.coreRead, State.ldsRaw, Memory.find_set_ne _ _ _ h, hg, Tbl.get_put, if_neg ht,
        Memory.find_clearGranule hg, if_true, Option.getD_none]
    · simp only [State.coreRead, State.ldsRaw, Memory.find_set_ne _ _ _ h, Tbl.get_put_ne _ _ hg, Memory.find_clearGranule_ne hg]

@[simp] theorem coreWrite_cur (s : State) (dom a : Nat) (b : Byte) : (s.coreWrite dom a b).cur = s.cur := by
  unfold State.coreWrite; split <;> rfl

/-- A byte written changes that byte. -/
theorem beside_coreWrite {a : Nat} (s : State) (b : Byte) (out : ∀ c, far c → c ≠ a) : Beside dom far s (s.coreWrite dom a b) where
  cur := coreWrite_cur ..
  core c hc := coreRead_coreWrite_ne s dom b (out c hc)
  hbm d pa := by simp only [State.hbmRead, State.decipher, State.domain, State.coreWrite_hbm, State.coreWrite_hbmDom, State.coreWrite_domains]
  waves _ _ := by rw [State.coreWrite_waves]
  wave v hv := ⟨v, by rw [State.coreWrite_waves]; exact hv, rfl⟩
  placed _ hb := by rw [State.coreWrite_blocks]; exact hb
  spill _ _ _ a := State.inSpill_congr (State.coreWrite_waves ..) (State.coreWrite_blocks ..) a

theorem beside_ldsWrite {a : Nat} (s : State) (b : Byte) (out : ∀ c, far c → c ≠ a) : Beside dom far s (s.ldsWrite dom a b) := by
  unfold State.ldsWrite
  split
  · exact Beside.refl s
  · exact beside_coreWrite s b out

theorem beside_ldsWrites : ∀ (bs : List Byte) {a : Nat} (s : State), (∀ c, far c → c < a ∨ a + bs.length ≤ c) →
    Beside dom far s (s.ldsWrites dom a bs)
  | [], _, s, _ => Beside.refl s
  | b :: bs, a, s, out => by
    simp only [List.length_cons] at out
    refine (beside_ldsWrite s b fun c hc => ?_).trans (beside_ldsWrites bs _ fun c hc => ?_)
    · have := out c hc; omega
    · have := out c hc; omega

theorem beside_spillWrites {l : Nat} : ∀ (bs : List Byte) {off : Nat} (s : State),
    (∀ c, far c → ∀ i, i < bs.length → c ≠ w.spillAddr l (off + i)) → Beside dom far s (s.spillWrites dom w l off bs)
  | [], _, s, _ => Beside.refl s
  | b :: bs, off, s, out => by
    refine (beside_coreWrite s b fun c hc => out c hc 0 (Nat.zero_lt_succ _)).trans (beside_spillWrites bs _ fun c hc i hi => ?_)
    rw [Nat.add_assoc, Nat.add_comm 1 i]
    exact out c hc (i + 1) (Nat.succ_lt_succ hi)

/-- Steps one after another, each of which leaves the bytes of `far`. -/
theorem beside_foldl {α : Type} {f : State → α → State} : ∀ (l : List α) (s : State),
    (∀ t a, t.cur = s.cur → a ∈ l → Beside dom far t (f t a)) → Beside dom far s (l.foldl f s)
  | [], s, _ => Beside.refl s
  | a :: l, s, h => by
    have first := h s a rfl List.mem_cons_self
    exact first.trans (beside_foldl l _ fun t b ht hb => h t b (ht.trans first.cur) (List.mem_cons_of_mem a hb))

/-! ### Stores and atomics performed -/

theorem length_leBytes (n v : Nat) : (leBytes n v).length = n := by rw [leBytes, List.length_map, List.length_range]

/-- The updates of an ATOM change the bytes of its lanes. -/
theorem beside_atomLanes (a : PendAtom) : ∀ (l : List (Nat × Nat × Nat × Nat × Nat)) (r : State × List RegWrite),
    (∀ p ∈ l, ∀ c, far c → c < p.2.2.1 ∨ p.2.2.1 + a.bytes ≤ c) → Beside dom far r.1 (l.foldl (a.lane dom) r).1
  | [], r, _ => Beside.refl r.1
  | p :: l, r, out => by
    have first : Beside dom far r.1 (a.lane dom r p).1 := beside_ldsWrites _ r.1 fun c hc => by
      rw [length_leBytes]
      exact out p List.mem_cons_self c hc
    exact first.trans (beside_atomLanes a l _ fun q hq => out q (List.mem_cons_of_mem p hq))

theorem beside_apply (a : PendAtom) (s : State) (out : ∀ p ∈ a.parts, ∀ c, far c → c < p.2.1 ∨ p.2.1 + a.bytes ≤ c) :
    Beside dom far s (a.apply dom s).1 := by
  have lanes := beside_atomLanes (dom := dom) (far := far) a (List.zip (List.range a.parts.length) a.parts) (s, [])
    fun p hp => out p.2 (List.of_mem_zip hp).2
  unfold PendAtom.apply
  dsimp only
  split
  · exact lanes.trans (beside_of_calm (calm_of_same rfl rfl rfl rfl rfl))
  · exact lanes

theorem mem_targets_of_write {p : PendStore} {q : Nat × List Byte} (h : q ∈ p.writes) : ∃ o, (o, q.1, q.2.length) ∈ p.targets := by
  obtain ⟨i, hi, rfl⟩ := List.mem_iff_getElem.mp h
  exact ⟨p.lanes[i]?, List.mem_append_left _ (List.mem_mapIdx.mpr ⟨i, hi, rfl⟩)⟩

theorem mem_targets_of_part {p : PendStore} {a : PendAtom} (ha : p.atom = some a) {q : Nat × Nat × Nat × Nat} (h : q ∈ a.parts) :
    (some q.1, q.2.1, a.bytes) ∈ p.targets :=
  List.mem_append_right _ (by rw [ha]; exact List.mem_map_of_mem h)

/-- An entry of a wave's stores, when it is performed, changes its targets. -/
theorem beside_perform {p : PendStore} (s : State) (out : ∀ c, far c → besideEntry p c) : Beside dom far s (s.perform s.cur dom p) := by
  have writes : Beside dom far s (p.writes.foldl (fun s a => s.ldsWrites dom a.1 a.2) s) :=
    beside_foldl p.writes s fun t q _ hq => beside_ldsWrites q.2 t fun c hc => by
      obtain ⟨o, ho⟩ := mem_targets_of_write hq
      exact out c hc _ ho
  unfold State.perform
  dsimp only
  split
  · exact writes
  · next a ha =>
    have updates := writes.trans (beside_apply (dom := dom) (far := far) a _ fun q hq c hc => out c hc _ (mem_targets_of_part ha hq))
    exact updates.trans (beside_updWave _ updates.cur.symm (fun _ => rfl) fun _ => rfl)

/-- Pending accesses, when they are performed, change their targets. -/
theorem beside_flushStores (s : State) (out : ∀ v, s.waves.get s.cur = some v → ∀ c, far c → beside v c) :
    Beside dom far s (s.flushStores s.cur dom) := by
  unfold State.flushStores
  split
  · exact Beside.refl s
  · next v hv =>
    have stores : Beside dom far s (v.stores.foldl (fun t p => t.perform s.cur dom p) s) :=
      beside_foldl v.stores s fun t p ht hp => by
        rw [← ht]
        exact beside_perform t fun c hc => out v hv c hc p hp
    exact stores.trans (beside_updWave _ stores.cur.symm (fun _ => rfl) fun _ => rfl)

/-- The atomics that wait behind a store, when it has been performed. -/
theorem beside_performAtoms : ∀ (ps : List PendStore) (s : State),
    (∀ c, far c → ∀ q ∈ ps.takeWhile fun q => q.atom.isSome, besideEntry q c) → Beside dom far s (s.performAtoms s.cur dom ps)
  | [], s, _ => Beside.refl s
  | p :: ps, s, out => by
    unfold State.performAtoms
    split
    · next hp =>
      rw [List.takeWhile_cons_of_pos (p := fun q : PendStore => q.atom.isSome) hp] at out
      have first : Beside dom far s ((s.perform s.cur dom p).updWave s.cur fun v => { v with stores := ps }) := by
        have h := beside_perform (dom := dom) s fun c hc => out c hc p List.mem_cons_self
        exact h.trans (beside_updWave _ h.cur.symm (fun _ => rfl) fun _ => rfl)
      have rest := beside_performAtoms ps ((s.perform s.cur dom p).updWave s.cur fun v => { v with stores := ps })
        fun c hc q hq => out c hc q (List.mem_cons_of_mem p hq)
      rw [first.cur] at rest
      exact first.trans rest
    · exact Beside.refl s

/-! ### Contexts stay -/

theorem foldl_contexts {α : Type} {f : State → α → State} (hf : ∀ t a, (f t a).contexts = t.contexts) : ∀ (l : List α) (s : State),
    (l.foldl f s).contexts = s.contexts
  | [], _ => rfl
  | a :: l, s => (foldl_contexts hf l _).trans (hf s a)

theorem atomLanes_contexts (a : PendAtom) (dom : Nat) : ∀ (l : List (Nat × Nat × Nat × Nat × Nat)) (r : State × List RegWrite),
    (l.foldl (a.lane dom) r).1.contexts = r.1.contexts
  | [], _ => rfl
  | _ :: l, _ => (atomLanes_contexts a dom l _).trans (State.ldsWrites_contexts ..)

theorem apply_contexts (a : PendAtom) (dom : Nat) (s : State) : (a.apply dom s).1.contexts = s.contexts := by
  unfold PendAtom.apply
  dsimp only
  split
  · exact atomLanes_contexts ..
  · exact atomLanes_contexts ..

theorem perform_contexts (s : State) (key dom : Nat) (p : PendStore) : (s.perform key dom p).contexts = s.contexts := by
  have writes := foldl_contexts (fun (t : State) (q : Nat × List Byte) => State.ldsWrites_contexts q.2 t dom q.1) p.writes s
  unfold State.perform
  dsimp only
  split
  · exact writes
  · exact (apply_contexts ..).trans writes

theorem flushStores_contexts (s : State) (key dom : Nat) : (s.flushStores key dom).contexts = s.contexts := by
  unfold State.flushStores
  split
  · rfl
  · exact foldl_contexts (fun t p => perform_contexts t key dom p) _ s

theorem spillWrites_contexts (w : Wave) (l dom : Nat) : ∀ (bs : List Byte) (s : State) (off : Nat),
    (s.spillWrites dom w l off bs).contexts = s.contexts
  | [], _, _ => rfl
  | _ :: bs, _, _ => (spillWrites_contexts w l dom bs _ _).trans (State.coreWrite_contexts ..)

theorem writeLoc_contexts (s : State) (w : Wave) (x : WCtx) (l : Nat) (p : Loc) (bs : List Byte) :
    (s.writeLoc w x l p bs).contexts = s.contexts := by
  unfold State.writeLoc
  split
  · exact spillWrites_contexts ..
  · exact State.ldsWrites_contexts ..

theorem waveDom_of_contexts (h : t.contexts = s.contexts) (x : WCtx) : t.waveDom x = s.waveDom x := by
  simp only [State.waveDom, State.ownDom, State.ctx, h]

/-! ### The end of an instruction -/

/-- A body that changes no byte of `far`; one that raises a cause leaves a calm state. -/
def resBeside (dom : Nat) (far : Nat → Prop) (t : State) (w : Wave) : Res → Prop
  | .done u | .wait u | .stall u | .over u => Beside dom far t u
  | .cause .. => True
  | .causeIn u .. => Calm t u ∧ u.waves.get u.cur = some w

theorem exposedAs_waves (s t : State) (w : Wave) : (s.exposedAs t w).waves = s.waves := by
  unfold State.exposedAs
  split
  · split <;> rfl
  · rfl

theorem calm_taken (hu : Calm t u) (hw : u.waves.get u.cur = some w) (x : WCtx) (c : Cause) (m : Mask) (a : DWord) (g : Word) :
    Calm t (u.deliver t.cur w x c m a g) := by
  rw [← hu.cur]
  exact hu.trans (calm_deliver hw (Alike.refl w) x c m a g)

theorem beside_finish {r : Res} (wave : t.waves.get t.cur = some w) (x : WCtx) (hr : resBeside dom far t w r) :
    Beside dom far t (t.finish t.cur w x r) := by
  have behind : ∀ u, Beside dom far t ((t.exposedAs u w).deliver t.cur w x .pcRange w.run 0 0) := fun u =>
    have exposed := calm_exposedAs (t := u) wave rfl
    beside_of_calm (calm_taken exposed (by rw [exposed.cur, exposedAs_waves, wave]) x ..)
  cases r with
  | done u =>
    rw [State.finish]
    split
    · have key : ∀ v, Alike ((w.retire v).goto w.nextPc) v := fun v => (alike_goto ..).trans (alike_retire ..)
      exact hr.trans (beside_updWave u hr.cur.symm (fun v => (key v).spillKey) fun v => (key v).block)
    · exact behind u
  | wait u =>
    rw [State.finish]
    split
    · exact hr
    · exact behind u
  | stall u => exact hr
  | cause c m a g => exact beside_of_calm (calm_taken (Calm.refl t) wave x ..)
  | causeIn u c m a g => exact beside_of_calm (calm_taken hr.1 hr.2 x ..)
  | _ => exact hr

/-- What an instruction leaves unchanged, from what its body leaves. -/
theorem beside_of_issue {i : Instr} {body : State → Wave → WCtx → Res} (meaning : ∀ s, exec i s = issue i s body)
    (wave : s.waves.get s.cur = some v) (ctx : (s.begun s.cur v).wctx v.begun = some x) (ht : exec i s = .next t)
    (hr : resBeside dom far (s.begun s.cur v) v.begun (body (s.begun s.cur v) v.begun x)) : Beside dom far s t := by
  rw [meaning, issue, wave] at ht
  have begun := calm_begun wave
  have hwave : (s.begun s.cur v).waves.get (s.begun s.cur v).cur = some v.begun := State.begun_wave wave
  refine (beside_of_calm begun).trans ?_
  dsimp only at ht
  rw [ctx] at ht
  split at ht
  · next _ r hx hr' =>
    cases hx
    split at ht
    · cases ht
      exact beside_of_calm (calm_deliver hwave (Alike.refl _) ..)
    · split at ht
      · cases ht
        exact Beside.refl _
      · cases ht
        exact beside_finish hwave x hr
    · cases ht
      exact Beside.refl _
  · cases ht

end Sys2Proof.Proofs

/-! SUPPORT. The bodies of LD, ST and ATOM and the performing of a store (O51). -/

namespace Sys2Proof.Proofs

open Sys2Proof.Machine Sys2Proof.Claims

variable {dom : Nat} {far : Nat → Prop} {s t u : State} {w v : Wave} {x : WCtx}

/-! ### The places of an instruction's lanes -/

/-- A byte lies outside the `n` bytes at a place that a lane accesses. -/
def awayFrom (w : Wave) (l n c : Nat) : Loc → Prop
  | .lds a => c < a ∨ a + n ≤ c
  | .spill q => ∀ i, i < n → c ≠ w.spillAddr l (q + i)

/-- The places at which lanes pass their checks are those of guarded lanes. -/
theorem mem_checkLanes {g : Mask} {ws : Windows} {addr : Nat → Word} {n align : Nat} {ps : List (Nat × Loc)} {p : Nat × Loc}
    (h : checkLanes w x g ws addr n align = .ok ps) (hp : p ∈ ps) :
    g.getLsbD p.1 = true ∧ checkWindow w x ws (addr p.1) n align = .ok p.2 := by
  unfold checkLanes at h
  dsimp only at h
  split at h
  · cases h
  · cases h
    obtain ⟨r, hr, hq⟩ := List.mem_filterMap.mp hp
    obtain ⟨l, hl, rfl⟩ := List.mem_map.mp hr
    dsimp only at hq
    split at hq
    · next q hw =>
      cases hq
      exact ⟨(mem_lanesOf.mp hl).2, hw⟩
    · cases hq

theorem awayFrom_of_besideLanes {h : Head} {ws : Windows} {addr : Nat → Word} {n c : Nat} {ps : List (Nat × Loc)} {p : Nat × Loc}
    (hps : checkLanes w x (w.guard h) ws addr n n = .ok ps) (hp : p ∈ ps) (hc : besideLanes w x h ws addr n c) :
    awayFrom w p.1 n c p.2 := by
  obtain ⟨hg, hw⟩ := mem_checkLanes hps hp
  obtain ⟨hlds, hspill⟩ := hc p.1 hg
  obtain ⟨l, q⟩ := p
  cases q with
  | lds a => exact hlds a hw
  | spill q => exact fun i hi => hspill q i hw hi

theorem beside_writeLoc {l n : Nat} {p : Loc} {bs : List Byte} (s : State) (hdom : s.waveDom x = dom) (hlen : bs.length ≤ n)
    (out : ∀ c, far c → awayFrom w l n c p) : Beside dom far s (s.writeLoc w x l p bs) := by
  subst hdom
  cases p with
  | lds a => exact beside_ldsWrites bs s fun c hc => (out c hc).imp_right fun h => by omega
  | spill q => exact beside_spillWrites bs s fun c hc i hi => out c hc i (Nat.lt_of_lt_of_le hi hlen)

/-- Writes at places, one after another. -/
theorem beside_writeLocs {n : Nat} {data : Nat → List Byte} (hlen : ∀ l, (data l).length ≤ n) : ∀ (ps : List (Nat × Loc)) (s : State),
    s.waveDom x = dom → (∀ p ∈ ps, ∀ c, far c → awayFrom w p.1 n c p.2) →
      Beside dom far s (ps.foldl (fun s p => s.writeLoc w x p.1 p.2 (data p.1)) s)
  | [], s, _, _ => Beside.refl s
  | p :: ps, s, hdom, out =>
    (beside_writeLoc s hdom (hlen p.1) (out p List.mem_cons_self)).trans <|
      beside_writeLocs hlen ps _ ((waveDom_of_contexts (writeLoc_contexts ..) x).trans hdom) fun q hq => out q (List.mem_cons_of_mem p hq)

/-! ### The operations -/

theorem calm_expose {b : Bool} (wave : t.waves.get t.cur = some w) : Calm t (t.expose w b) := by
  unfold State.expose
  split
  · exact calm_updBlock wave rfl fun _ _ => rfl
  · exact Calm.refl t

@[simp] theorem expose_waves (t : State) (w : Wave) (b : Bool) : (t.expose w b).waves = t.waves := by cases b <;> rfl
@[simp] theorem expose_cur (t : State) (w : Wave) (b : Bool) : (t.expose w b).cur = t.cur := by cases b <;> rfl
@[simp] theorem expose_waveDom (t : State) (w : Wave) (b : Bool) (x : WCtx) : (t.expose w b).waveDom x = t.waveDom x := by
  cases b <;> rfl

theorem resBeside_exposing {b : Bool} (wave : t.waves.get t.cur = some w) (c : Cause) (m : Mask) (a : DWord) (g : Word) :
    resBeside dom far t w (Res.exposing (.cause c m a g) t w b) := by
  cases b with
  | false => trivial
  | true => exact ⟨calm_expose wave, by rw [expose_waves, expose_cur, wave]⟩

/-- Pending stores of the current wave, performed early. -/
theorem beside_flush (wave : s.waves.get s.cur = some w) (out : ∀ c, far c → beside w c) :
    Beside dom far s (s.flushStores s.cur dom) :=
  beside_flushStores s fun v hv c hc => by
    rw [wave] at hv
    cases hv
    exact out c hc

theorem beside_ldAt (d : Operand) (ty : MemType) (g : Mask) (ps : List (Nat × Loc)) (wave : s.waves.get s.cur = some w)
    (out : ∀ c, far c → beside w c) : Beside (s.waveDom x) far s (ldAt d ty s w x g ps) := by
  have forward : Beside (s.waveDom x) far s (s.forward w x g ps (memBytes ty)) := by
    unfold State.forward
    split
    · exact beside_flush wave out
    · exact Beside.refl s
  exact forward.trans (beside_updWave _ rfl (fun _ => rfl) fun _ => rfl)

theorem length_storeData (w : Wave) (x : WCtx) (d : Operand) (ty : MemType) (l : Nat) : (storeData w x d ty l).length ≤ memBytes ty := by
  unfold storeData
  split
  · exact List.length_take_le ..
  · exact List.length_take_le ..
  · exact List.length_take_le ..

theorem beside_stAt (d : Operand) (ty : MemType) (ps : List (Nat × Loc)) (wave : s.waves.get s.cur = some w) (hdom : s.waveDom x = dom)
    (out : ∀ c, far c → beside w c) (away : ∀ p ∈ ps, ∀ c, far c → awayFrom w p.1 (memBytes ty) c p.2) :
    Beside dom far s (stAt d ty s w x ps) := by
  have near : ∀ t, t.waveDom x = dom → Beside dom far t ((ps.filter fun p => w.ownCore p.2).foldl
      (fun s p => s.writeLoc w x p.1 p.2 (storeData w x d ty p.1)) t) := fun t ht =>
    beside_writeLocs (data := storeData w x d ty) (length_storeData w x d ty) _ t ht fun p hp => away p (List.mem_filter.mp hp).1
  unfold stAt
  dsimp only
  split
  · have flush := beside_flush (dom := s.waveDom x) wave out
    rw [hdom] at flush ⊢
    exact (flush.trans (near _ ((waveDom_of_contexts (flushStores_contexts ..) x).trans hdom))).trans
      (beside_updWave _ rfl (fun _ => rfl) fun _ => rfl)
  · exact (near s hdom).trans (beside_updWave _ rfl (fun _ => rfl) fun _ => rfl)

theorem beside_atomAt (d : Operand) (op : AtomOp) (ord : AtomOrd) (w64 : Bool) (ps : List (Nat × Loc)) (wave : s.waves.get s.cur = some w)
    (hdom : s.waveDom x = dom) (out : ∀ c, far c → beside w c)
    (away : ∀ p ∈ ps, ∀ c, far c → awayFrom w p.1 (if w64 then 8 else 4) c p.2) : Beside dom far s (atomAt d op ord w64 s w x ps) := by
  have parts : ∀ q ∈ (atomOf d op w64 w ps).parts, ∀ c, far c → c < q.2.1 ∨ q.2.1 + (atomOf d op w64 w ps).bytes ≤ c := by
    intro q hq c hc
    obtain ⟨p, hp, hpq⟩ := List.mem_filterMap.mp hq
    have hout := away p hp c hc
    obtain ⟨l, loc⟩ := p
    cases loc with
    | lds a =>
      cases hpq
      exact hout
    | spill a => cases hpq
  unfold atomAt
  dsimp only
  split
  · exact beside_updWave s rfl (fun _ => rfl) fun _ => rfl
  · have updates := (beside_flush (dom := dom) wave out).trans (beside_apply (dom := dom) (atomOf d op w64 w ps) _ parts)
    rw [hdom]
    exact updates.trans (beside_updWave _ updates.cur.symm (fun _ => rfl) fun _ => rfl)

/-! ### The bodies -/

theorem resBeside_ld (h : Head) (d a : Operand) (b : Option Operand) (ty : MemType) (wave : t.waves.get t.cur = some w)
    (out : ∀ c, far c → beside w c) : resBeside (t.waveDom x) far t w (ldRes h d a b ty t w x) := by
  unfold ldRes
  dsimp only
  split
  · trivial
  · split
    · exact Beside.refl t
    · split
      · exact Beside.refl t
      · exact beside_ldAt d ty _ _ wave out

/-- The bytes outside the pending stores and outside those that the instruction's lanes address. -/
def outside (w : Wave) (x : WCtx) (h : Head) (ws : Windows) (addr : Nat → Word) (n c : Nat) : Prop :=
  beside w c ∧ besideLanes w x h ws addr n c

theorem resBeside_st (h : Head) (d a : Operand) (b : Option Operand) (ty : MemType) (wave : t.waves.get t.cur = some w) :
    resBeside (t.waveDom x) (outside w x h { spill := true } (laneAddr w x a b) (memBytes ty)) t w (stRes h d a b ty t w x) := by
  unfold stRes
  dsimp only
  split
  · trivial
  · next ps hps =>
    split
    · exact resBeside_exposing wave ..
    · split
      · exact Beside.refl t
      · split
        · exact Beside.refl t
        · exact (beside_of_calm (calm_expose wave)).trans (beside_stAt d ty ps (by rw [expose_waves, expose_cur, wave])
            (expose_waveDom ..) (fun c hc => hc.1) fun p hp c hc => awayFrom_of_besideLanes hps hp hc.2)

theorem resBeside_atom (h : Head) (d a : Operand) (b : Option Operand) (op : AtomOp) (ord : AtomOrd) (w64 : Bool)
    (wave : t.waves.get t.cur = some w) : resBeside (t.waveDom x) (outside w x h {} (laneAddr w x a b) (if w64 then 8 else 4)) t w
      (atomRes h d a b op ord w64 t w x) := by
  unfold atomRes
  dsimp only
  generalize hn : (if w64 = true then 8 else 4) = n
  split
  · trivial
  · next ps hps =>
    split
    · exact resBeside_exposing wave ..
    · split
      · exact Beside.refl t
      · split
        · exact Beside.refl t
        · exact (beside_of_calm (calm_expose wave)).trans (beside_atomAt d op ord w64 ps (by rw [expose_waves, expose_cur, wave])
            (expose_waveDom ..) (fun c hc => hc.1) fun p hp c hc => hn ▸ awayFrom_of_besideLanes hps hp hc.2)

/-- A store of the current wave is performed, with the atomics that waited behind it. -/
def performed (s : State) (dom : Nat) (p : PendStore) (ps : List PendStore) : State :=
  ((s.perform s.cur dom p).updWave s.cur fun v => { v with stores := ps }).performAtoms s.cur dom ps

theorem storePerformed_eq {p : PendStore} {ps : List PendStore} (wave : s.waves.get s.cur = some v) (ctx : s.wctx v = some x)
    (hv : v.stores = p :: ps) : exec (.storePerformed s.cur) s = .next (performed s (s.waveDom x) p ps) := by
  show onWave s s.cur _ = _
  simp only [onWave, wave, ctx, hv]
  rfl

theorem beside_performed {p : PendStore} {ps : List PendStore} (s : State) (entry : ∀ c, far c → besideEntry p c)
    (atoms : ∀ c, far c → ∀ q ∈ ps.takeWhile fun q => q.atom.isSome, besideEntry q c) : Beside dom far s (performed s dom p ps) := by
  have store := beside_perform (dom := dom) s entry
  have taken := store.trans (beside_updWave (f := fun v => { v with stores := ps }) _ store.cur.symm (fun _ => rfl) fun _ => rfl)
  have behind := beside_performAtoms (dom := dom) ps ((s.perform s.cur dom p).updWave s.cur fun v => { v with stores := ps }) atoms
  rw [taken.cur] at behind
  exact taken.trans behind

/-- What the frames say, of a state beside. -/
theorem same_of_beside {far' : Nat → Prop} (wave : s.waves.get s.cur = some v)
    (placed : ∀ e ∈ s.blocks, e.1 = v.block → e.2.placed = true) (h : Beside dom far s t) (sub : ∀ c, beside v c → far' c → far c) :
    (∀ c, beside v c → far' c → SameByte s t dom c) ∧ (∀ d pa, t.hbmRead d pa = s.hbmRead d pa) ∧
      ∀ k, k ≠ s.cur → t.waves.get k = s.waves.get k :=
  ⟨fun c hb hf => h.sameByte wave placed (sub c hb hf), h.hbm, h.waves⟩

/-- Settles O51: each body by the writes that it makes, at the places of its lanes and of the stores that are pending. -/
theorem memoryInstructionsFrame : Obligations.MemoryInstructionsFrame := by
  intro h d a b ty op ord w64 s t v x
  dsimp only
  intro wave ctx placed
  have hwave : (s.begun s.cur v).waves.get (s.begun s.cur v).cur = some v.begun := State.begun_wave wave
  refine ⟨fun ht => ?_, fun ht => ?_, fun ht => ?_, fun p ps hv ht hx => ?_⟩
  · exact same_of_beside wave placed (beside_of_issue (i := .ld h d a b ty) (far := beside v) (fun _ => execLd.eq_def ..) wave ctx ht
      (resBeside_ld h d a b ty hwave fun c hc => hc)) fun c hc _ => hc
  · exact same_of_beside wave placed (beside_of_issue (i := .st h d a b ty) (fun _ => execSt.eq_def ..) wave ctx ht (resBeside_st h d a b ty hwave))
      fun c hc hl => ⟨hc, hl⟩
  · exact same_of_beside wave placed (beside_of_issue (i := .atom h d a b op ord w64) (fun _ => execAtom.eq_def ..) wave ctx ht (resBeside_atom h d a b op ord w64 hwave))
      fun c hc hl => ⟨hc, hl⟩
  · have performed := storePerformed_eq wave hx hv
    rw [ht] at performed
    cases performed
    have h := beside_performed (dom := s.waveDom x)
      (far := fun c => besideEntry p c ∧ ∀ q ∈ ps.takeWhile fun q => q.atom.isSome, besideEntry q c) s (fun c hc => hc.1) fun c hc => hc.2
    exact ⟨fun c hp hq => h.sameByte wave placed ⟨hp, hq⟩, h.hbm, h.waves⟩

end Sys2Proof.Proofs

/-! SUPPORT. Events at a wave: writes of its special registers (O22), boundaries (O23). -/

namespace Sys2Proof.Proofs

open Sys2Proof.Machine Sys2Proof.Claims

/-! ### An event at a wave that stands -/

section Standing

variable {s : State} {n : Nat} {w : Wave} {x : WCtx} (at_ : At s n w x)
include at_

/-- What an event does to a wave that stands. -/
theorem onWave_at (f : Wave → WCtx → State) : onWave s n f = .next (f w x) := by
  simp only [onWave, at_.wave, at_.ctx]

theorem inHandler_of_depth (f : Wave → WCtx → State) (hd : w.hdep ≠ 0) : Machine.inHandler s n f = .next (f w x) := by
  rw [Machine.inHandler, onWave_at at_, if_neg hd]

theorem inHandler_of_zero (f : Wave → WCtx → State) (hd : w.hdep = 0) :
    Machine.inHandler s n f = .next (s.deliver n w x .illegalOperand w.run 0 0) := by
  rw [Machine.inHandler, onWave_at at_, if_pos hd]

/-- A write of a register that every wave may write. -/
theorem writeSpecialRegister_rw {no : BitVec 8} {m : BitVec 64} {q : Wave} {b : Nat} {u : Bool} (info : specInfo no = some ⟨b, u, .rw⟩)
    (hq : w.writeSpec x no m = .ok q) : exec (.writeSpecialRegister n no m) s = .next (s.setWave n q) := by
  show onWave s n _ = _
  rw [onWave_at at_]
  simp only [info, hq]

/-- A write of a register that handler mode may write. -/
theorem writeSpecialRegister_rh {no : BitVec 8} {m : BitVec 64} {q : Wave} {b : Nat} {u : Bool} (info : specInfo no = some ⟨b, u, .rh⟩)
    (hd : w.hdep ≠ 0) (hq : w.writeSpec x no m = .ok q) : exec (.writeSpecialRegister n no m) s = .next (s.setWave n q) := by
  show onWave s n _ = _
  rw [onWave_at at_]
  simp only [info, hq, if_neg hd]

theorem writeSpecialRegister_rh_zero {no : BitVec 8} {m : BitVec 64} {b : Nat} {u : Bool} (info : specInfo no = some ⟨b, u, .rh⟩)
    (hd : w.hdep = 0) : exec (.writeSpecialRegister n no m) s = .next (s.deliver n w x .illegalOperand w.run 0 0) := by
  show onWave s n _ = _
  rw [onWave_at at_]
  simp only [info, if_pos hd]

theorem writeSpecialRegister_r {no : BitVec 8} {m : BitVec 64} {b : Nat} {u : Bool} (info : specInfo no = some ⟨b, u, .r⟩) :
    exec (.writeSpecialRegister n no m) s = .next (s.deliver n w x .illegalOperand w.run 0 0) := by
  show onWave s n _ = _
  rw [onWave_at at_]
  simp only [info]

end Standing

/-- Settles O22: each write by the register that it names, and by the mode that may write it. -/
theorem specialRegisterWriteEvents : Obligations.SpecialRegisterWriteEvents := by
  intro s n w x at_ m v vals d no
  refine ⟨fun hd hm => ?_, fun hd hm => ?_, fun hd => inHandler_of_depth at_ _ hd, fun hd => inHandler_of_depth at_ _ hd,
    fun hd => inHandler_of_depth at_ _ hd, fun hd => ?_, onWave_at at_ _, onWave_at at_ _, onWave_at at_ _, onWave_at at_ _,
    fun ht => ?_, fun ht => ?_, onWave_at at_ _, fun q hno hq => ?_, fun hno => ?_⟩
  · refine (inHandler_of_depth at_ _ hd).trans ?_
    simp only [Wave.writeRunm, if_neg hm]
  · refine (inHandler_of_depth at_ _ hd).trans ?_
    simp only [Wave.writeRunm, if_pos hm]
  · simp only [List.forall_mem_cons, List.not_mem_nil, false_implies, implies_true, and_true]
    exact ⟨inHandler_of_zero at_ _ hd, inHandler_of_zero at_ _ hd, inHandler_of_zero at_ _ hd, inHandler_of_zero at_ _ hd⟩
  · refine (onWave_at at_ _).trans ?_
    rw [ht, List.isEmpty_nil, if_pos rfl]
  · refine (onWave_at at_ _).trans ?_
    rw [if_neg (by simpa using ht)]
  · rcases hno with rfl | rfl | rfl | rfl | rfl | rfl | ⟨hd, rfl | rfl | rfl | rfl | rfl | rfl⟩
    · exact writeSpecialRegister_rw at_ rfl hq
    · exact writeSpecialRegister_rw at_ rfl hq
    · exact writeSpecialRegister_rw at_ rfl hq
    · exact writeSpecialRegister_rw at_ rfl hq
    · exact writeSpecialRegister_rw at_ rfl hq
    · exact writeSpecialRegister_rw at_ rfl hq
    · exact writeSpecialRegister_rh at_ rfl hd hq
    · exact writeSpecialRegister_rh at_ rfl hd hq
    · exact writeSpecialRegister_rh at_ rfl hd hq
    · exact writeSpecialRegister_rh at_ rfl hd hq
    · exact writeSpecialRegister_rh at_ rfl hd hq
    · exact writeSpecialRegister_rh at_ rfl hd hq
  · rcases hno with rfl | ⟨hd, rfl | rfl | rfl | rfl | rfl | rfl⟩
    · exact writeSpecialRegister_r at_ rfl
    · exact writeSpecialRegister_rh_zero at_ rfl hd
    · exact writeSpecialRegister_rh_zero at_ rfl hd
    · exact writeSpecialRegister_rh_zero at_ rfl hd
    · exact writeSpecialRegister_rh_zero at_ rfl hd
    · exact writeSpecialRegister_rh_zero at_ rfl hd
    · exact writeSpecialRegister_rh_zero at_ rfl hd

/-- Settles O23: each boundary by the test that its event makes, and by the record that its steering or its pass gives. -/
theorem waveBoundaryEvents : Obligations.WaveBoundaryEvents := by
  intro s n w q x f at_
  refine ⟨fun hb hs hq => ?_, fun hb ho hq => ?_, fun hb hq hr he => ?_, fun hb hq hr hl => ?_, fun hb hq hr hl => ?_,
    fun hp hd hr => ?_, fun p hs hp hf => ?_, fun hsr => ?_, fun hs => ?_, fun ho => ?_, fun hq => ?_⟩
  · refine (onWave_at at_ _).trans ?_
    simp only [hb, hs, Bool.and_self, if_true, State.engage, hq]
  · refine (onWave_at at_ _).trans ?_
    simp only [hb, ho, Bool.and_self, if_true, State.engage, hq]
  · refine (onWave_at at_ _).trans ?_
    simp only [hb, hq, Bool.and_self, if_true, if_pos hr, he]
  · refine (onWave_at at_ _).trans ?_
    simp only [hb, hq, Bool.and_self, if_true, hr, ne_eq, not_true_eq_false, if_false, if_pos hl]
  · refine (onWave_at at_ _).trans ?_
    simp only [hb, hq, Bool.and_self, if_true, hr, ne_eq, not_true_eq_false, if_false, if_neg hl]
  · refine (onWave_at at_ _).trans ?_
    simp only [hp, hd, hr, beq_self_eq_true, List.isEmpty_nil, Bool.and_self, if_true]
  · refine (onWave_at at_ _).trans ?_
    simp only [hs, hp, Bool.false_eq_true, if_false, State.applyPass, hf]
  · refine (onWave_at at_ _).trans ?_
    have none_ : (if w.saved = true then none else w.readyPass) = none := by
      rcases hsr with h | h
      · rw [if_pos h]
      · rw [h, ite_self]
    simp only [none_]
  · refine (onWave_at at_ _).trans ?_
    simp only [hs, Bool.and_false, Bool.false_eq_true, if_false]
  · refine (onWave_at at_ _).trans ?_
    simp only [ho, Bool.and_false, Bool.false_eq_true, if_false]
  · refine (onWave_at at_ _).trans ?_
    simp only [hq, Bool.and_false, Bool.false_eq_true, if_false]

end Sys2Proof.Proofs

/-! SUPPORT. Wakes (O24): they fail where a table of blocks holds two entries of one number. -/

namespace Sys2Proof.Proofs

open Sys2Proof.Machine Sys2Proof.Claims

/-! ### States that are evaluated -/

/-- A wave stands at a state, and a test of its record and context holds. -/
def standsWith (s : State) (n : Nat) (p : Wave → WCtx → Bool) : Bool :=
  match s.waves.get n with
  | some w => match s.wctx w with
    | some x => p w x
    | none => false
  | none => false

theorem at_of_standsWith {s : State} {n : Nat} {p : Wave → WCtx → Bool} (h : standsWith s n p = true) :
    ∃ w x, At s n w x ∧ p w x = true := by
  unfold standsWith at h
  split at h
  · next w hw =>
    split at h
    · next x hx => exact ⟨w, x, ⟨hw, hx⟩, h⟩
    · cases h
  · cases h

/-! ### Two blocks of one number -/

/-- A block whose slot 0 of ring 0 is bound to the arrival word at the start of its allocation, which is a granule of its core. -/
def boundBlock (granule : Nat) (b : Block) : Block :=
  { b with alloc := [[granule]] }.updRing 0 0 fun r => r.updSlot 0 fun t => { t with bound := some (0x40000000, 0) }

/-- A device whose table of blocks holds two blocks of one number. The arrival word of the first has moved on, the one of the second
has not. -/
def twins : State :=
  let s := State.reset.placeWord 0
  { s with
    blocks := s.blocks.flatMap fun e => [(e.1, boundBlock 0 e.2), (e.1, boundBlock 9 e.2)]
    lds := [(8, 1)]
    ldsTags := [(0, (s.ctx 1).desc.ownDomain.toNat)] }

/-- The state of slot 0 of ring 0 of the second block. -/
def secondSlot (s : State) : Option SlotState := s.blocks[1]?.map fun e => (((e.2.rings.getD 0 []).getD 0 {}).slot 0).state

/-- The state in which O24 says that posting the bound slot 0 of ring 0 ends. -/
def statedPost (s : State) (w : Wave) (x : WCtx) : State :=
  s.updBlock w.block fun b => b.updRing 0 0 fun q => q.updSlot 0
    (postBound (s.boundWord x.block x.kern.desc (s.ownDom x.grid.ctx) 0x40000000))

theorem twins_stand : standsWith twins 1 (fun w x => w.wakeable && x.block.placed && w.block == 1 &&
    (((x.block.rings.getD 0 []).getD 0 {}).slot 0).bound == some (0x40000000, 0) &&
    secondSlot (statedPost twins w x) == some .full) = true := by decide +kernel

/-- Where the second block stands after the event. -/
def postedSlot (s : State) : Option SlotState :=
  match exec (.ringBoundPost 1 0 0 0) s with
  | .next t => secondSlot t
  | _ => none

theorem twins_posted : postedSlot twins = some .empty := by decide +kernel

/-- Refutes O24: where two blocks of one number stand in the table, each is posted by its own arrival word, and not by that of the
first (R231). -/
theorem not_wakeEvents : ¬ Obligations.WakeEvents := by
  intro hall
  obtain ⟨w, x, at_, hp⟩ := at_of_standsWith twins_stand
  simp only [Bool.and_eq_true, beq_iff_eq] at hp
  obtain ⟨⟨⟨⟨hwake, hplaced⟩, hblock⟩, hbound⟩, hfull⟩ := hp
  obtain ⟨-, -, -, -, -, -, posts⟩ := hall twins 1 w x at_ hwake
  have post : exec (.ringBoundPost 1 0 0 0) twins = .next (statedPost twins w x) := by
    rw [← hblock]
    exact posts 0 0 0 0x40000000 0 hbound hplaced
  have posted := twins_posted
  rw [postedSlot, post] at posted
  exact absurd (posted.symm.trans hfull) (by decide)

end Sys2Proof.Proofs

/-! SUPPORT. Completions (O25): loads, stores, copy lanes, tags, tile instructions and drains. -/

namespace Sys2Proof.Proofs

open Sys2Proof.Machine Sys2Proof.Claims

/-- A lane whose bytes are the device's own lacks no path. -/
theorem reached_of_own {s : State} {l : CopyLane} {pa dom : Nat} (hl : l.pa = some (pa, dom)) (own : s.isPeer pa = false) :
    l.unreached s = false := by
  simp only [CopyLane.unreached, hl, State.noPath, own, Bool.false_and]

/-- Settles O25: each completion by the operation that stands first, or by the lane that it names. -/
theorem completionEvents : Obligations.CompletionEvents := by
  intro s n w x at_
  refine ⟨fun p ps hl howed => ⟨fun herr => ?_, fun e hr he => ?_⟩, fun p ps hs => ?_, fun op lane c l pa dom hc hk hl hp => ?_,
    fun op lane c l pa dom bs hc hk hl hp hu hb => ?_, fun op lane c l hc hk hu => ?_, fun op lane c l bs err hc hu => ?_,
    fun tag => onWave_at at_ _, fun op lane c l p hc hl hu => ?_, fun op ops r ht hd he => ?_, fun t a wd hbm q i ops s' ht hd ha => ?_⟩
  · refine (onWave_at at_ _).trans ?_
    have met : p.met none = none := by
      unfold PendLoad.met
      split
      · rfl
      · next hr => exact herr.resolve_left fun h => hr (Option.isSome_iff_ne_none.mpr h)
    simp only [hl, howed, Bool.false_eq_true, if_false, met, State.waveError, PendLoad.damaged]
  · refine (onWave_at at_ _).trans ?_
    simp only [hl, howed, Bool.false_eq_true, if_false, PendLoad.met, hr, Option.isSome_none, he, State.waveError, PendLoad.damaged]
  · refine (onWave_at at_ _).trans ?_
    simp only [hs]
  · refine (onWave_at at_ _).trans ?_
    simp only [hc, reached_of_own hl hp, Bool.false_eq_true, if_false, hk, hl, hp, State.damage, State.waveError]
  · refine (onWave_at at_ _).trans ?_
    simp only [hc, hu, Bool.false_eq_true, if_false, hk, hl, hp, if_true, hb]
  · refine (onWave_at at_ _).trans ?_
    simp only [hc, hu, Bool.false_eq_true, if_false, hk, State.damage, State.waveError]
  · refine (onWave_at at_ _).trans ?_
    simp only [hc, hu, if_true]
  · refine (onWave_at at_ _).trans ?_
    simp only [hc, hl, hu, if_true]
    rfl
  · refine (onWave_at at_ _).trans ?_
    simp only [ht, hd, Option.isSome_none, Bool.false_eq_true, if_false, Wave.operandDamage, Matrix.damage, he, State.waveError]
  · refine (onWave_at at_ _).trans ?_
    simp only [ht, hd, Option.isSome_none, Bool.false_eq_true, if_false, ha]

end Sys2Proof.Proofs

/-! SUPPORT. Lookups and fetches, cascades and regions (O26); walks, page faults and invalidations (O27). -/

namespace Sys2Proof.Proofs

open Sys2Proof.Machine Sys2Proof.Claims

/-- Settles O26: each by the operation that finishes; a lookup by its result, by its region, or by the want of one. -/
theorem collectionEvents : Obligations.CollectionEvents := by
  intro s
  refine ⟨fun n op w x c at_ hc => ⟨fun r hr => ?_, fun hr hreg => ?_, fun hr hreg => ?_⟩,
    fun n op w x c at_ hc => ⟨fun p hp => ?_, fun hp => ?_, fun hf => ⟨fun hreg => ?_, fun r hr hreg => ⟨fun h0 => ?_, fun h0 => ?_⟩⟩⟩,
    fun dom n cs hs => ?_, fun dom capacity base len hreg hlive hcap hb hl => ?_⟩
  · refine (onWave_at at_ _).trans ?_
    simp only [hc, State.lookMade, hr, PendCopy.lookErr, ite_self, State.waveError] <;> rfl
  · refine (onWave_at at_ _).trans ?_
    simp only [hc, State.lookMade, hr, Option.isSome_iff_ne_none.mpr hreg, if_true, PendCopy.lookErr, ite_self, State.waveError]
    rfl
  · refine (onWave_at at_ _).trans ?_
    simp only [hc, State.lookMade, hr, hreg, Option.isSome_none, Bool.false_eq_true, if_false, PendCopy.lookErr, State.waveError] <;> rfl
  · refine (onWave_at at_ _).trans ?_
    simp only [hc, hp, State.damage, PendCopy.fetchRecord, State.waveError] <;> rfl
  · refine (onWave_at at_ _).trans ?_
    simp only [hc, hp, PendCopy.fetchRecord, State.waveError] <;> rfl
  · simp only [State.fetchLine, hf, hreg, ite_self]
  · simp only [State.fetchLine, hf, hr, Option.isSome_none, Bool.false_eq_true, if_false, hreg, if_pos h0]
  · simp only [State.fetchLine, hf, hr, Option.isSome_none, Bool.false_eq_true, if_false, hreg, if_neg h0]
  · show Host.Outcome.next (s.cascadeStep dom) = _
    simp only [State.cascadeStep, hs, List.find?_cons, beq_self_eq_true, List.erase_cons_head]
  · show execCollectionRegionCreate dom capacity base len s = _
    simp only [execCollectionRegionCreate, hreg, hlive, hb, hl, Option.isSome_none, Bool.not_true, Bool.or_false, ne_eq,
      not_true_eq_false, decide_false, decide_eq_false (Nat.not_lt.mpr hcap), Bool.false_eq_true, if_false]

/-! ### Walks -/

/-- A walk that meets an error in an entry of its path ends with a fault (R243, R249): at that entry, or before it. -/
theorem walkFrom_meets (s : State) (c va : Nat) : ∀ (levels : List Level) (i table : Nat),
    i / 8 < (pathFrom s va levels table).length → ∃ r, walkFrom s c va (some i) levels table = .error r
  | [], _, _, h => absurd h (Nat.not_lt_zero _)
  | lv :: rest, i, table, h => by
    by_cases hi : i < 8
    · have hurt : (some i).any (fun i => decide (i < 8)) = true := decide_eq_true hi
      unfold walkFrom
      simp only [hurt, if_true]
      split
      · exact ⟨_, rfl⟩
      · split
        · split
          · exact ⟨_, rfl⟩
          · exact ⟨_, rfl⟩
        · split
          · exact ⟨_, rfl⟩
          · exact ⟨_, rfl⟩
    · have sound : (some i).any (fun i => decide (i < 8)) = false := decide_eq_false hi
      have entry : ∀ pa, entryRead s.errors (some i) (s.hbmReads 0 pa 8) = s.hbmReads 0 pa 8 := fun pa =>
        List.set_eq_of_length_le (by rw [State.hbmReads, List.length_map, List.length_range]; exact Nat.not_lt.mp hi)
      have deeper : 1 ≤ i / 8 := Nat.div_pos (Nat.not_lt.mp hi) (by decide)
      unfold walkFrom
      unfold pathFrom at h
      dsimp only at h
      simp only [sound, entry, Bool.false_eq_true, if_false, Option.map_some]
      generalize leNat (s.hbmReads 0 (table + 8 * (va / 2 ^ lv.lo % 2 ^ lv.bits)) 8) = e at h
      have leaf : ¬ i / 8 < [table + 8 * (va / 2 ^ lv.lo % 2 ^ lv.bits)].length := by
        rw [List.length_singleton]
        exact Nat.not_lt.mpr deeper
      split
      · exact ⟨_, rfl⟩
      · next h0 =>
        have valid : e % 2 = 1 := (Nat.mod_two_eq_zero_or_one e).resolve_left h0
        split
        · next h1 =>
          rw [h1, if_neg (by simp)] at h
          exact absurd h leaf
        · next h1 =>
          have table_ : e / 2 % 2 = 0 := (Nat.mod_two_eq_zero_or_one _).resolve_right h1
          rw [valid, table_, if_pos (by simp)] at h
          split
          · exact ⟨_, rfl⟩
          · next next hn =>
            rw [hn, List.length_cons] at h
            exact walkFrom_meets s c va rest (i - 8) next (by omega)

theorem walkBy_meets {s : State} {c byte : Nat} {va : DWord} (hm : s.walkMeets c va (some byte) = true) :
    ∃ r, s.walkBy c va (some byte) = .error r := by
  simp only [State.walkMeets, Option.any_some, Bool.and_eq_true, decide_eq_true_eq] at hm
  obtain ⟨hva, hlen⟩ := hm
  rw [State.walkBy, if_neg (not_not.mpr hva)]
  exact walkFrom_meets s c va.toNat walkLevels byte _ hlen

theorem thawed {s : State} (h : s.frozen = false ∨ s.taking ≠ none) : (s.frozen && s.taking.isNone) = false := by
  rcases h with h | h
  · rw [h, Bool.false_and]
  · rw [Option.isNone_eq_false_iff.mpr (Option.isSome_iff_ne_none.mpr h), Bool.and_false]

/-- Settles O27: a walk by what its path gives, an answer by the stall that it names, an invalidation by the copies under it. -/
theorem translationEvents : Obligations.TranslationEvents := by
  intro s die idx k
  dsimp only
  refine ⟨fun evict e hi hk he => ?_, fun evict r hi hk he => ?_, fun evict byte hi hk hm => ?_, fun core p ps hs hf => ⟨?_, ?_⟩,
    fun c r => rfl, fun v hv hc => ?_, fun v hv hc => ?_⟩
  · show execTranslationWalkDone die idx evict none s = _
    rw [State.walk] at he
    simp only [execTranslationWalkDone, if_pos hi, hk, he, State.walkError, State.walkMeets, Option.any_none, Bool.and_false,
      Bool.false_eq_true, if_false]
  · show execTranslationWalkDone die idx evict none s = _
    rw [State.walk] at he
    simp only [execTranslationWalkDone, if_pos hi, hk, he, State.walkError, State.walkMeets, Option.any_none, Bool.and_false,
      Bool.false_eq_true, if_false]
  · obtain ⟨r, hr⟩ := walkBy_meets hm
    refine ⟨r, hr, ?_⟩
    show execTranslationWalkDone die idx evict (some byte) s = _
    simp only [execTranslationWalkDone, if_pos hi, hk, hr, State.walkError, hm, if_true]
  · show execPageFaultResolution die core true s = _
    simp only [execPageFaultResolution, hs, thawed hf, Bool.false_eq_true, if_false, if_true]
  · show execPageFaultResolution die core false s = _
    simp only [execPageFaultResolution, hs, thawed hf, Bool.false_eq_true, if_false]
  · show execInvalidationComplete idx s = _
    simp only [execInvalidationComplete, hv, hc, Bool.false_eq_true, if_false]
  · show execInvalidationComplete idx s = _
    simp only [execInvalidationComplete, hv, hc, if_true]

end Sys2Proof.Proofs

/-! SUPPORT. The life of a card (O28). -/

namespace Sys2Proof.Proofs

open Sys2Proof.Machine Sys2Proof.Claims

theorem endCard_of_verdict {s : State} {key : Nat} {c : Card} {v : Verdict} (hv : c.verdict = some v) (h2 : v.status ≠ 2) (st k : Nat) :
    s.endCard key c st k = s.closeCard key c v.status v.code := by
  simp only [State.endCard, hv, if_neg h2]

section Standing

variable {s : State} {key : Nat} {c : Card} (hc : s.cards.get key = some c)
include hc

/-- What an event does to a card. -/
theorem onCard_at (f : Card → State) : onCard s key f = .next (f c) := by
  simp only [onCard, hc]

theorem onGoing_at (f : Card → State) (hv : c.verdict = none) : onGoing s key f = .next (f c) := by
  rw [onGoing, onCard_at hc, hv, Option.isSome_none, if_neg Bool.false_ne_true]

theorem onEnding_at (f : Card → State) (hv : c.verdict = none) : onEnding s key f = .next (f c) := by
  simp only [onEnding, onCard_at hc, hv]

theorem onGoing_of_verdict (f : Card → State) {v : Verdict} (hv : c.verdict = some v) : onGoing s key f = .next s := by
  rw [onGoing, onCard_at hc, hv, Option.isSome_some, if_pos rfl]

theorem onEnding_of_verdict (f : Card → State) {v : Verdict} (hv : c.verdict = some v) :
    (v.status ≠ 2 → onEnding s key f = .next (s.closeCard key c v.status v.code)) ∧
    (v.status = 2 → onEnding s key f = .next (s.stopCard key c v.code v.reason v.va)) := by
  simp only [onEnding, onCard_at hc, hv]
  exact ⟨fun h => by rw [if_neg h, endCard_of_verdict hv h], fun h => by rw [if_pos h]⟩

end Standing

/-- Reading a card of a wave drops its count. -/
theorem takeCard_of_wave {c : Card} {n : Nat} (hw : c.wave = some n) (s : State) (key : Nat) : s.takeCard key c =
    (s.updCore c.die c.core fun q => { q with unread := q.unread.erase key }).updWave n fun v =>
      (v.updCopy key fun q => { q with done := true }).tagFall (((v.copies.find? fun q => q.op == key).map fun q => q.tag).getD 0) := by
  simp only [State.takeCard, hw]
  refine congrArg _ (funext fun v => ?_)
  cases v.copies.find? fun q => q.op == key <;> rfl

/-! ### Starts -/

section Start

variable {s : State} {key : Nat} {c : Card} {others : List PeerCard} (hc : s.cards.get key = some c) (hv : c.verdict = none)
  (read : c.phase = .read) (ready : s.cardWaits key c = false)
include hc hv read ready

theorem start_of_turnedAway {st : Nat} (h : c.turnedAway s others = some st) :
    exec (.cardStart key others) s = .next ((s.pairing c others).endCard key c st 0) := by
  refine (onEnding_at hc _ hv).trans ?_
  simp only [read, bne_self_eq_false, ready, Bool.or_self, Bool.false_eq_true, if_false, h]

theorem start_of_kind (h : c.turnedAway s others = none) (kind : c.kind ≠ 3) :
    exec (.cardStart key others) s = .next (s.setCard key (c.begun s)) := by
  refine (onEnding_at hc _ hv).trans ?_
  simp only [read, bne_self_eq_false, ready, Bool.or_self, Bool.false_eq_true, if_false, h, if_neg kind]

theorem start_of_group {g : Group} (h : c.turnedAway s others = none) (kind : c.kind = 3) (hg : c.group s = some g) :
    exec (.cardStart key others) s = .next (if !g.compared && others.length + 1 ≠ g.members.length then s
      else (s.pairing c others).setCard key (c.begun s)) := by
  refine (onEnding_at hc _ hv).trans ?_
  simp only [read, bne_self_eq_false, ready, Bool.or_self, Bool.false_eq_true, if_false, h, if_pos kind, hg]

end Start

/-- A card that is whole, and whose domain stands, is turned away only as one of a pairing that differs. -/
theorem turnedAway_of_ok {s : State} {c : Card} {others : List PeerCard} (ho : c.orphan s = false) (hk : c.ok s = true) :
    c.turnedAway s others = if c.kind == 3 && c.unlike s others then some 4 else none := by
  simp only [Card.turnedAway, ho, hk, Bool.not_true, Bool.false_or, Bool.false_eq_true, if_false]

theorem pairing_of_collective {s : State} {c : Card} {others : List PeerCard} (ho : c.orphan s = false) (hk : c.ok s = true)
    (kind : c.kind = 3) : s.pairing c others = if others = [] then s.paired c else (s.paired c).compared c := by
  simp only [State.pairing, ho, hk, kind, decide_true, Bool.not_false, Bool.and_self, if_true, List.isEmpty_iff]

/-! ### Collectives -/

/-- A member's rank is one of the group's. -/
theorem rank_lt {c : Card} {s : State} {g : Group} (hg : c.group s = some g) :
    (g.members.idxOf? s.deviceNo).getD 0 < g.members.length := by
  have member : s.deviceNo ∈ g.members := by
    unfold Card.group at hg
    split at hg
    · split at hg
      · next h =>
        cases hg
        simpa using (Bool.and_eq_true_iff.mp h).2
      · cases hg
    · cases hg
  cases hi : g.members.idxOf? s.deviceNo with
  | none => exact absurd member (List.idxOf?_eq_none_iff.mp hi)
  | some i =>
    obtain ⟨h, -⟩ := List.idxOf?_eq_some_iff.mp hi
    exact h

/-- No contribution differs in length, where those given, with this member's own, have one length. -/
theorem lengths_alike {data : List (List Byte)} {own : List Byte} {rank len : Nat} (full : ∀ bs ∈ data.set rank own, bs.length = len) :
    ((data.mapIdx fun r bs => r != rank && !bs.isEmpty && bs.length != len).any fun b => b) = false := by
  refine List.any_eq_false.mpr fun b hb => ?_
  obtain ⟨r, hr, rfl⟩ := List.mem_mapIdx.mp hb
  by_cases h : r = rank
  · simp [h]
  · have hmem : data[r] ∈ data.set rank own :=
      List.mem_iff_getElem.mpr ⟨r, by rwa [List.length_set], List.getElem_set_ne (Ne.symm h) _⟩
    simp [full _ hmem]

section Collective

variable {s : State} {c : Card} {g : Group} {data : List (List Byte)} (hv : c.verdict = none) (hp : c.phase = .running)
  (kind : c.kind = 3) (hg : c.group s = some g)
include hv hp kind hg

/-- The sources of a collective whose elements have begun to land. -/
theorem sources_kept {own : List Byte} {srcs : List (List Byte)} (hfault : c.regionFault s = none) (hwait : c.regionWaits s = none)
    (hown : c.ownBytes s = .ok own) (hs : c.srcs = some srcs) : c.sources s data = some (srcs, s) := by
  simp only [Card.sources, hg, hown, hfault, hwait, hp, kind, hv, bne_self_eq_false, Option.isSome_none, Bool.or_self,
    Bool.false_eq_true, if_false, hs]

/-- The sources that are given, where each member's are as long as this one's. -/
theorem sources_given {own : List Byte} (hfault : c.regionFault s = none) (hwait : c.regionWaits s = none)
    (hown : c.ownBytes s = .ok own) (hs : c.srcs = none) (hlen : data.length = g.members.length) (hne : own ≠ [])
    (full : ∀ bs ∈ data.set ((g.members.idxOf? s.deviceNo).getD 0) own, bs.length = own.length) :
    c.sources s data = some (data.set ((g.members.idxOf? s.deviceNo).getD 0) own, s) := by
  have nonempty : ∀ bs ∈ data.set ((g.members.idxOf? s.deviceNo).getD 0) own, bs.isEmpty = false := fun bs hbs => by
    rw [List.isEmpty_eq_false_iff, ← List.length_pos_iff, full bs hbs]
    exact List.length_pos_iff.mpr hne
  have all_ : (data.set ((g.members.idxOf? s.deviceNo).getD 0) own).all
      (fun bs => bs.length == own.length || bs.isEmpty && !s.peerPath) = true :=
    List.all_eq_true.mpr fun bs hbs => by rw [full bs hbs, beq_self_eq_true, Bool.true_or]
  have gone : (List.zip g.members (data.set ((g.members.idxOf? s.deviceNo).getD 0) own)).filterMap
      (fun p => if p.2.isEmpty then some p.1 else none) = [] :=
    List.filterMap_eq_nil_iff.mpr fun p hmem => by rw [nonempty p.2 (List.of_mem_zip hmem).2, if_neg Bool.false_ne_true]
  have same : (data.set ((g.members.idxOf? s.deviceNo).getD 0) own).map
      (fun bs => if bs.isEmpty then List.replicate own.length 0 else bs) = data.set ((g.members.idxOf? s.deviceNo).getD 0) own :=
    (List.map_congr_left fun bs hbs => by rw [nonempty bs hbs, if_neg Bool.false_ne_true]).trans (List.map_id' _)
  simp only [Card.sources, hg, hown, hfault, hwait, hp, kind, hv, bne_self_eq_false, Option.isSome_none, Bool.or_self,
    Bool.false_eq_true, if_false, hs, hlen, beq_self_eq_true, all_, Bool.and_self, if_true, gone, same, List.foldl_nil]

omit hv in
theorem unequal_eq : c.unequal s data = (c.srcs.isNone && decide (data.length = g.members.length) &&
    (data.mapIdx fun r bs => r != (g.members.idxOf? s.deviceNo).getD 0 && !bs.isEmpty && bs.length != (c.region 0).len).any fun b => b) := by
  simp only [Card.unequal, Card.rank, hg, hp, kind, beq_self_eq_true, Bool.true_and]

omit hp kind in
/-- A collective whose sources are known delivers its result (R392). -/
theorem collective_done {key : Nat} {srcs : List (List Byte)} (hc : s.cards.get key = some c) (equal : c.unequal s data = false)
    (hs : c.sources s data = some (srcs, s)) : exec (.collectiveDone key { data := data }) s =
      .next ((({ c with moved := (c.reduce ((g.members.idxOf? s.deviceNo).getD 0) srcs).length, srcs := some srcs } : Card).deliver s
        (c.reduce ((g.members.idxOf? s.deviceNo).getD 0) srcs)).endCard key
          { c with moved := (c.reduce ((g.members.idxOf? s.deviceNo).getD 0) srcs).length, srcs := some srcs } 1 0) := by
  refine (onEnding_at hc _ hv).trans ?_
  simp only [equal, Bool.false_eq_true, if_false, hs, Card.finish, Card.rank, hg, State.damage, Card.reportError]

end Collective

/-! ### The end of a card -/

@[simp] theorem faultAt_cores (s : State) (dom a : Nat) : (s.faultAt dom a).cores = s.cores := State.ldsWrites_cores ..

theorem putRecord_cores (c : Card) (s : State) (h : RingHead) (st code : Nat) (offs : List Nat) :
    (c.putRecord s h st code offs).cores = s.cores := by
  unfold Card.putRecord
  dsimp only
  induction offs generalizing s with
  | nil => rfl
  | cons i offs ih =>
    rw [List.foldl_cons, ih]
    split
    · exact State.ldsWrite_cores ..
    · rfl

theorem record_cores (c : Card) (s : State) (st code : Nat) : (c.record s st code).cores = s.cores := by
  unfold Card.record
  split
  · rfl
  · dsimp only
    split
    · exact (State.ldsWrites_cores ..).trans (putRecord_cores ..)
    · exact State.ldsWrites_cores ..

theorem decr_cores {s : State} {dom : Nat} {n : BitVec 128} {r : Word × Bool × State} (h : s.decr dom n = some r) :
    r.2.2.cores = s.cores := by
  unfold State.decr at h
  repeat' (split at h)
  all_goals cases h
  all_goals rfl

theorem unref_cores (s : State) (dom : Nat) (n : BitVec 128) : (s.unref dom n).cores = s.cores := by
  unfold State.unref
  split
  · next r hr => exact decr_cores hr
  · rfl

theorem cards_takeCard (s : State) (key : Nat) (c : Card) : (s.takeCard key c).cards = s.cards := by
  unfold State.takeCard
  dsimp only
  split <;> rfl

theorem cards_dropCard (s : State) (key : Nat) (c : Card) : (s.dropCard key c).cards.get key = none := by
  unfold State.dropCard
  dsimp only
  split
  · rw [cards_takeCard]
    exact Tbl.get_del ..
  · exact Tbl.get_del ..

theorem updWave_core (s : State) (n : Nat) (f : Wave → Wave) (die core : Nat) : (s.updWave n f).core die core = s.core die core := rfl

/-- A card that was not read leaves the unread cards of its engine. -/
theorem unread_dropCard (s : State) (key : Nat) (c : Card) : ((s.dropCard key c).core c.die c.core).unread =
    if c.phase = .unread then (s.core c.die c.core).unread.erase key else (s.core c.die c.core).unread := by
  unfold State.dropCard
  dsimp only
  split
  · unfold State.takeCard
    dsimp only
    split
    · rw [State.updCore_core]
      rfl
    · rw [updWave_core, State.updCore_core]
      rfl
  · rfl

theorem cards_closeCard (s : State) (key : Nat) (c : Card) (st code : Nat) : (s.closeCard key c st code).cards.get key = none :=
  cards_dropCard ..

/-- What a card that ends leaves before it is dropped: its arrival word's FAULT, its record, the reference of a CCOPYOUT. -/
def closing (s : State) (c : Card) (st code : Nat) : State :=
  let t := if st = 1 then s else match c.arrival with
    | some a => s.faultAt (c.dom s) a
    | none => s
  let u := c.record t st code
  match c.slot, c.treeRegion u with
  | some (dom, bs), some _ => u.unref dom (slotName bs)
  | _, _ => u

theorem closeCard_eq (s : State) (key : Nat) (c : Card) (st code : Nat) : s.closeCard key c st code = (closing s c st code).dropCard key c :=
  rfl

theorem closing_cores (s : State) (c : Card) (st code : Nat) : (closing s c st code).cores = s.cores := by
  have faulted : (if st = 1 then s else match c.arrival with
      | some a => s.faultAt (c.dom s) a
      | none => s).cores = s.cores := by
    split
    · rfl
    · split
      · exact faultAt_cores ..
      · rfl
  unfold closing
  dsimp only
  split
  · exact (unref_cores ..).trans ((record_cores ..).trans faulted)
  · exact (record_cores ..).trans faulted

theorem unread_closeCard (s : State) (key : Nat) (c : Card) (st code : Nat) : ((s.closeCard key c st code).core c.die c.core).unread =
    if c.phase = .unread then (s.core c.die c.core).unread.erase key else (s.core c.die c.core).unread := by
  rw [closeCard_eq, unread_dropCard, State.core, closing_cores]
  rfl

theorem cards_endCard (s : State) (key : Nat) (c : Card) (st code : Nat) : (s.endCard key c st code).cards.get key = none := by
  unfold State.endCard
  split
  · exact cards_closeCard ..
  · split
    · exact cards_closeCard ..
    · exact cards_closeCard ..

theorem unread_endCard (s : State) (key : Nat) (c : Card) (st code : Nat) : ((s.endCard key c st code).core c.die c.core).unread =
    if c.phase = .unread then (s.core c.die c.core).unread.erase key else (s.core c.die c.core).unread := by
  unfold State.endCard
  split
  · exact unread_closeCard ..
  · next v _ =>
    split
    · refine (unread_closeCard (c.record s 2 v.code) key { c with verdict := none } st code).trans ?_
      rw [State.core, record_cores]
      rfl
    · exact unread_closeCard ..

/-- Settles O28: each event by the phase and the verdict in which it finds the card. -/
theorem cardEvents : Obligations.CardEvents := by
  intro s key c hc
  refine ⟨fun rest n v hu hw hwave => ?_, fun hv => ⟨fun others read ready => ⟨fun ho => ?_, fun ho hk kind => ?_, fun ho hk => ?_,
    fun g ho hk kind hg => ?_⟩, fun n hp kind hn => ?_, fun d hp kind => ?_, fun e r va hp hf => ?_, fun hp => ?_, fun hp => ?_,
    fun hp hk => ?_, fun hp kind hk => ?_, fun g data hp kind hg hlen => ?_⟩, fun v hv others n err r => ?_, fun status code nodup hp => ?_,
    fun group ctx members h64 h2 h1024 nodup hm => ?_⟩
  · show execCardRead c.die c.core s = _
    simp only [execCardRead, hu, onCard_at hc, Card.headWaits, hw, Option.isNone_some, Bool.false_eq_true, if_false, Option.isSome_none]
    exact congrArg _ (takeCard_of_wave hw _ key)
  · rw [start_of_turnedAway hc hv read ready (st := 3) (by rw [Card.turnedAway, ho, if_pos rfl]), State.pairing, ho]
    simp only [Bool.not_true, Bool.and_false, Bool.false_eq_true, if_false]
  · exact start_of_kind hc hv read ready (by rw [turnedAway_of_ok ho hk, beq_eq_false_iff_ne.mpr kind, Bool.false_and, if_neg Bool.false_ne_true]) kind
  · rw [start_of_turnedAway hc hv read ready (st := 4) (by simp [Card.turnedAway, ho, hk]), State.pairing, hk]
    simp only [Bool.and_false, Bool.false_and, Bool.false_eq_true, if_false]
  · dsimp only
    rw [← pairing_of_collective ho hk kind]
    have away : c.turnedAway s others = if decide (others.length + 1 = g.members.length) && c.mismatch s g others then some 4 else none := by
      rw [turnedAway_of_ok ho hk, kind, Card.unlike, hg, beq_self_eq_true, Bool.true_and]
    refine ⟨fun hcmp hall => ?_, fun hall hmis => ?_, fun hall hmis => ?_, fun hcmp hall => ?_⟩
    · have kept : c.turnedAway s others = none := by rw [away, decide_eq_false hall, Bool.false_and, if_neg Bool.false_ne_true]
      rw [start_of_group hc hv read ready kept kind hg, hcmp, Bool.not_false, if_pos (by simpa using hall)]
    · exact start_of_turnedAway hc hv read ready (by rw [away, decide_eq_true hall, hmis, Bool.and_self, if_pos rfl])
    · have kept : c.turnedAway s others = none := by rw [away, hmis, Bool.and_false, if_neg Bool.false_ne_true]
      rw [start_of_group hc hv read ready kept kind hg, if_neg (by simp [hall])]
    · have kept : c.turnedAway s others = none := by rw [away, decide_eq_false hall, Bool.false_and, if_neg Bool.false_ne_true]
      rw [start_of_group hc hv read ready kept kind hg, hcmp, Bool.not_true, if_neg (by simp)]
  · refine (onGoing_at hc _ hv).trans ?_
    simp only [hp, kind, hn, ne_eq, not_false_eq_true, decide_true, Bool.and_self, if_true, State.cardPiece, hc]
  · dsimp only
    intro hd
    have done : exec (.cardDone key none) s = .next (if d.total ≤ d.moved then
          (s.cardPieces key ((c.total - c.moved + 4095) / 4096)).endCard key d 1 0
        else match d.byteAt (s.cardPieces key ((c.total - c.moved + 4095) / 4096)) d.moved with
          | .bounds code => (s.cardPieces key ((c.total - c.moved + 4095) / 4096)).endCard key d 5 code
          | .gone => (s.cardPieces key ((c.total - c.moved + 4095) / 4096)).endCard key d 3 0
          | _ => s.cardPieces key ((c.total - c.moved + 4095) / 4096)) := by
      refine (onEnding_at hc _ hv).trans ?_
      simp only [hp, bne_self_eq_false, kind, decide_false, Bool.or_self, Bool.false_eq_true, if_false, hd, Card.damaged] <;> rfl
    refine ⟨fun hm => ?_, fun code hm hb => ?_, fun hm hb => ?_⟩
    · rw [done, if_pos hm]
    · rw [done, if_neg (Nat.not_le.mpr hm), hb]
    · rw [done, if_neg (Nat.not_le.mpr hm), hb]
  · refine (onEnding_at hc _ hv).trans ?_
    have stops : c.stopsAt s = some (e, r, va) := by
      unfold Card.stopsAt
      split
      · next kind => rwa [if_pos kind] at hf
      · next kind =>
        rw [if_neg kind] at hf
        rw [if_neg (Nat.not_le.mpr hf.1), hf.2]
    simp only [if_pos hp, stops, State.stopCard]
  · refine (onGoing_at hc _ hv).trans ?_
    rw [if_pos hp]
  · refine (onEnding_at hc _ hv).trans ?_
    rcases hp with hp | hp
    · simp only [hp]
    · simp only [hp]
  · refine (onEnding_at hc _ hv).trans ?_
    have plain : ¬ ((decide (c.kind = 3) && c.ok s) = true) := fun h => by
      obtain ⟨h3, hok⟩ := Bool.and_eq_true_iff.mp h
      rw [hk (of_decide_eq_true h3)] at hok
      cases hok
    simp only [hp, if_neg plain]
  · refine (onEnding_at hc _ hv).trans ?_
    simp only [hp, kind, hk, decide_true, Bool.and_self, if_true]
  · dsimp only
    have unequal := unequal_eq (data := data) hp kind hg
    refine ⟨fun own hfault hwait hown hne => ⟨fun hs full => ?_, fun srcs hs => ?_⟩, fun k bs hs hk hrank hbs hbl => ?_⟩
    · have own_mem : own ∈ data.set ((g.members.idxOf? s.deviceNo).getD 0) own :=
        List.mem_set (hlen ▸ rank_lt hg) own
      refine collective_done hv hg hc ?_ (sources_given hv hp kind hg hfault hwait hown hs hlen hne fun bs hbs => by
        rw [full bs hbs, full own own_mem])
      rw [unequal, lengths_alike full, Bool.and_false]
    · refine collective_done hv hg hc ?_ (sources_kept hv hp kind hg hfault hwait hown hs)
      rw [unequal, hs, Option.isNone_some, Bool.false_and, Bool.false_and]
    · refine (onEnding_at hc _ hv).trans ?_
      have differs : c.unequal s data = true := by
        rw [unequal, hs, Option.isNone_none, decide_eq_true hlen, Bool.and_self, Bool.true_and]
        obtain ⟨hlt, rfl⟩ := List.getElem?_eq_some_iff.mp hk
        refine List.any_eq_true.mpr ⟨_, List.mem_mapIdx.mpr ⟨k, hlt, rfl⟩, ?_⟩
        rw [bne_iff_ne.mpr hrank, List.isEmpty_eq_false_iff.mpr hbs, bne_iff_ne.mpr hbl]
        rfl
      rw [differs, if_pos rfl]
  · have ends := fun f => onEnding_of_verdict hc f hv
    simp only [List.forall_mem_cons, List.not_mem_nil, false_implies, implies_true, and_true]
    exact ⟨⟨ends _, ends _, ends _, ends _, ends _⟩, onGoing_of_verdict hc _ hv, onGoing_of_verdict hc _ hv⟩
  · have unread := unread_endCard s key c status code
    rw [hp, if_pos rfl] at unread
    refine ⟨cards_endCard .., ?_⟩
    rw [unread]
    exact fun hmem => (List.Nodup.not_mem_erase nodup) hmem
  · show execCollectiveGroupInstall group ctx members s = _
    simp only [execCollectiveGroupInstall, h64, h2, h1024, nodup, decide_true, Bool.and_self, Bool.true_and]
    rw [if_pos (List.all_eq_true.mpr fun m hmem => decide_eq_true (hm m hmem))]

end Sys2Proof.Proofs

/-! SUPPORT. Loading and unloading, grids and batches (O29). -/

namespace Sys2Proof.Proofs

open Sys2Proof.Machine Sys2Proof.Claims

/-! ### The first note that fails -/

theorem firstRefused_none {elf : Elf} : ∀ (ks : List KernelImage) (i : Nat), (∀ im ∈ ks, noteCause elf im = none) →
    firstRefused elf i ks = none
  | [], _, _ => rfl
  | im :: ks, i, h => by
    rw [firstRefused, h im List.mem_cons_self]
    exact firstRefused_none ks (i + 1) fun im' him => h im' (List.mem_cons_of_mem im him)

theorem firstRefused_at {elf : Elf} {im : KernelImage} {c : Cause} (hc : noteCause elf im = some c) : ∀ (ks : List KernelImage) (i k : Nat),
    ks[k]? = some im → (∀ j im', j < k → ks[j]? = some im' → noteCause elf im' = none) → firstRefused elf i ks = some (c, i + k, im.name)
  | [], _, _, hk, _ => by cases hk
  | im' :: ks, i, 0, hk, _ => by
    cases hk
    rw [firstRefused, hc]
    rfl
  | im' :: ks, i, k + 1, hk, first => by
    rw [firstRefused, first 0 im' (Nat.succ_pos k) rfl]
    refine (firstRefused_at hc ks (i + 1) k hk fun j im'' hj hj' => first (j + 1) im'' (Nat.succ_lt_succ hj) hj').trans ?_
    rw [Nat.add_assoc, Nat.add_comm 1 k]

/-- Settles O29: loading by the first note that fails, the others by the tests of their events. -/
theorem loaderAndGridEvents : Obligations.LoaderAndGridEvents := by
  intro s ctx obj gk die i elf ks
  dsimp only
  refine ⟨fun k im c hk hc first => ?_, fun r hok hlive hobj hr => ?_, rfl, fun ended => ?_, fun g hg hp done => ?_, rfl,
    fun g hg h0 hf hcl hu => ?_, rfl⟩
  · show execLoadCodeObject ctx ⟨elf, ks⟩ s = _
    simp only [execLoadCodeObject, firstRefused_at hc ks 0 k hk first, Nat.zero_add]
  · show execLoadCodeObject ctx ⟨elf, ks⟩ s = _
    simp only [execLoadCodeObject, firstRefused_none ks 0 hok, hlive, hobj, Bool.and_self, if_true]
    split
    · next none_ => exact absurd (hr.symm.trans none_) (Option.some_ne_none r)
    · next q entered =>
      obtain rfl := Option.some.inj (hr.symm.trans entered)
      rfl
  · show execKernelUnloaded ctx obj s = _
    have idle : (s.grids.any fun e => ((s.kernels.filter fun e => e.2.ctx == ctx && e.2.obj == obj && e.2.unloading).map
        fun e => e.1).contains e.2.kernel && !e.2.ended) = false := by
      refine List.any_eq_false.mpr fun e he => ?_
      simp only [Bool.and_eq_true, List.contains_iff_mem, Bool.not_eq_true', not_and, Bool.not_eq_false]
      exact ended e he
    simp only [execKernelUnloaded, idle, Bool.false_eq_true, if_false]
  · show execGridRetire gk s = _
    have all_ : (s.descendants gk).all (fun n => ((s.grids.get n).map fun (c : Grid) => c.ended).getD true) = true := by
      refine List.all_eq_true.mpr fun n hn => ?_
      cases hc : s.grids.get n with
      | none => rfl
      | some c => exact done n hn c hc
    simp only [execGridRetire, hg, hp, beq_self_eq_true, all_, Bool.and_self, if_true]
  · show execBatchCountdown die i s = _
    simp only [execBatchCountdown, hg, h0, List.isEmpty_eq_false_iff.mpr hf, hcl, hu, List.isEmpty_nil, decide_true, Bool.not_false,
      Bool.and_self, if_true]

end Sys2Proof.Proofs

/-! SUPPORT. Dispatch: the PIFO, batches, admission, reserving launches, rank programs (O30). -/

namespace Sys2Proof.Proofs

open Sys2Proof.Machine Sys2Proof.Claims

/-- The wave of the next claims of a reserving launch, of `n` of them (R289). -/
def claimWave (f : Former) (b : Block) (g : Grid) (k : Kernel) (core slot n : Nat) (spill : List Nat) : Wave :=
  let w := startWave f.block b k g f.formed core slot ⟨0, .general, k.desc.width, n⟩ spill
  { w with
    kind := .claim
    item := BitVec.ofNat 32 f.next
    lanes := w.lanes.mapIdx fun l x =>
      let x := x.setReg 0 (BitVec.ofNat 32 (f.next + l))
      if l < n then { x with item := some { index := f.next + l } } else x }

/-- The wave of the items that body waves run next (R294). -/
def bodyWave (f : Former) (b : Block) (g : Grid) (k : Kernel) (core slot : Nat) (spill : List Nat) (first : Item) (is : List Item) : Wave :=
  let w := startWave f.block b k g f.formed core slot ⟨0, .general, k.desc.width, is.length⟩ spill
  { w with
    kind := .body
    pc := first.entry
    item := BitVec.ofNat 32 (is.foldl (fun m i => min m i.index) first.index)
    lanes := w.lanes.mapIdx fun l x =>
      match is[l]? with
      | none => x
      | some it =>
        { (List.range 4).foldl (fun (y : Lane) i => y.setReg i (it.words.getD i 0)) x with
          lpc0 := first.entry, item := some it } }

/-- Settles O30: each event by what it finds at the head of the PIFO, at the die's queue, at the former. -/
theorem dispatchEvents : Obligations.DispatchEvents := by
  intro s die qn
  refine ⟨fun e g t he hk ha => ?_, fun e q he hk hg hq hp => ?_, fun e he hq hk => ?_, rfl, fun e gk g d he hgk hg hp hcoop hheld hd => ?_,
    fun gk g k ps grs recs t hw hfr hg hk hadm hplan => ?_, ?_, ?_, ?_, ?_, fun e rank he hg => ?_, fun e rank g he hg => ?_,
    fun idx steps hi hne hl hok => ?_⟩
  · show execPifoServe s = _
    simp only [execPifoServe, he, if_pos hk, ha]
  · show execPifoServe s = _
    simp only [execPifoServe, he, if_pos hk, State.acceptLaunch, hg, hq, hp, Bool.not_false, if_true]
  · show execLaunch qn s = _
    simp only [execLaunch, he, hq, hk, decide_true, Bool.and_self, if_true]
  · show execGlobalDispatchBatch s = _
    simp only [execGlobalDispatchBatch, he, hgk, hg, hp, hcoop, hheld, hd, bne_self_eq_false, Bool.or_self, Bool.false_eq_true, if_false]
  · dsimp only
    intro fits rec_ placed
    show execCoopGridPlace gk grs recs s = _
    have room : (decide (k.desc.gridBarriers ≠ 0) && !s.recordOk g.ctx (recs.getD g.blocks 1) 4096) = false := by
      by_cases h : k.desc.gridBarriers = 0
      · simp [h]
      · rw [rec_ h, Bool.not_true, Bool.and_false]
    simp only [execCoopGridPlace, hg, hk, hw, hfr, hadm, bne_self_eq_false, Bool.not_true, Bool.or_self, Bool.false_eq_true, if_false,
      hplan, fits, room, placed]
  · dsimp only
    intro key b g k cores gr rec hc hb he hp hcores hroom hgr hrec
    show execBlockAdmit die gr rec s = _
    simp only [execBlockAdmit, hc, hb, he, hp, bne_self_eq_false, Bool.false_eq_true, if_false, hcores, hroom, Bool.not_true, hgr, hrec,
      Bool.and_self, if_true]
  · dsimp only
    intro home gr rec gk g g' k hc hg he hhome hfits hgr hroom hrec
    show execReservingLaunchStart die home ⟨gr, rec⟩ s = _
    simp only [execReservingLaunchStart, hc, hg, he, hhome, decide_true, hfits, hgr, Bool.and_self, Bool.not_true, Bool.false_eq_true,
      if_false, hroom, hrec, if_true]
    rfl
  · dsimp only
    intro f b g k core spill rec v hl hdue hfits hgrow
    refine ⟨claimWave f b g k core (v.freeSlot die core) (min k.desc.width ((k.desc.reserve.getD (0, 0, false)).1 - f.next)) spill, _, ?_,
      rfl, rfl, rfl, rfl, rfl⟩
    show execClaimWaveForm die core ⟨spill, rec⟩ s = _
    simp only [execClaimWaveForm, hl, hdue, hfits, Bool.and_self, if_true, hgrow]
    rfl
  · dsimp only
    intro f b g k core spill rec v first more later hl hready hfits hgrow
    refine ⟨bodyWave f b g k core (v.freeSlot die core) spill first (first :: more), _, ?_, rfl, rfl, rfl, rfl, rfl⟩
    show execBodyWaveForm die core ⟨spill, rec⟩ s = _
    simp only [execBodyWaveForm, hl, hready, hfits, if_true, hgrow]
    rfl
  · show execPifoReinsert qn rank s = _
    simp only [execPifoReinsert, he, hg]
  · show execPifoReinsert qn rank s = _
    simp only [execPifoReinsert, he, hg]
  · show execRankProgramInstall idx steps s = _
    simp only [execRankProgramInstall, hi, List.isEmpty_eq_false_iff.mpr hne, hl, hok, decide_true, Bool.not_false, Bool.and_self, if_true]

end Sys2Proof.Proofs

/-! SUPPORT. Queues: traffic (O31), packets (O32), states (O33). -/

namespace Sys2Proof.Proofs

open Sys2Proof.Machine Sys2Proof.Claims

/-- A queue whose header does not say that it is destroyed stays. -/
theorem settleQueue_at {s : State} {qn : Nat} {q : Queue} (hq : s.queues.get qn = some q) (live : s.qGone q = false) :
    s.settleQueue qn = s := by
  simp only [State.settleQueue, hq, live, Bool.false_eq_true, if_false]

/-- The tag of a notify is right, and its nonce is new (R344, R385). -/
def genuineNotify (q : Queue) (bytes : List Byte) : Bool :=
  leField bytes 56 8 == (Config.notifyTag q.key (bytes.take 56)).toNat && q.nonce.all fun v => decide (v.toNat < leField bytes 48 8)

/-- The reserved bytes of a notify are zero. -/
def clearNotify (bytes : List Byte) : Bool := leField bytes 0 4 == 0 && leField bytes 11 1 == 0 && leField bytes 12 36 == 0

theorem genuineNotify_iff {q : Queue} {bytes : List Byte} : genuineNotify q bytes = true ↔
    leField bytes 56 8 = (Config.notifyTag q.key (bytes.take 56)).toNat ∧ ∀ v, q.nonce = some v → v.toNat < leField bytes 48 8 := by
  simp only [genuineNotify, Bool.and_eq_true, beq_iff_eq, Option.all_eq_true, decide_eq_true_eq]

theorem clearNotify_iff {bytes : List Byte} : clearNotify bytes = true ↔
    leField bytes 0 4 = 0 ∧ leField bytes 11 1 = 0 ∧ leField bytes 12 36 = 0 := by
  simp only [clearNotify, Bool.and_eq_true, beq_iff_eq, and_assoc]

/-- A notify from a peer, at a queue. -/
theorem remoteNotify_at {s : State} {qn port session : Nat} {q : Queue} {bytes : List Byte} (hq : s.queues.get qn = some q)
    (live : s.qGone q = false) (carried : (s.link port).carries session = true) (hlen : bytes.length = 64) (hqn : leField bytes 4 4 = qn) :
    exec (.remoteNotify port session bytes) s =
      if !genuineNotify q bytes then .next ((s.qCount q 44 1).notifyFailed port)
      else if !clearNotify bytes then .next (s.qCount q 44 1)
      else if q.phase == .created || q.session != some session then .next ((s.qCount q 44 1).rouse qn)
      else .next (if (s.notifyQueue qn q (leField bytes 8 3)).1 = 1 then
        { (s.notifyQueue qn q (leField bytes 8 3)).2 with
          queues := (s.notifyQueue qn q (leField bytes 8 3)).2.queues.upd qn fun q =>
            { q with nonce := some (BitVec.ofNat 64 (leField bytes 48 8)) } }
        else (s.notifyQueue qn q (leField bytes 8 3)).2) := by
  show execRemoteNotify port session bytes s = _
  simp only [execRemoteNotify, carried, hlen, hqn, settleQueue_at hq live, hq, Bool.not_true, ne_eq, not_true_eq_false, decide_false,
    Bool.or_self, Bool.false_eq_true, if_false]
  unfold genuineNotify
  cases q.nonce <;> rfl

/-- A packet is taken from a queue that is served (R347). -/
theorem packetTake_at {s : State} {qn pa dom sh : Nat} {q : Queue} (hq : s.queues.get qn = some q) (live : s.qGone q = false)
    (served : s.served q = true) (qlive : s.qLive q = true) (going : q.stopped = false) (alone : ∀ e ∈ s.pifo, e.queue ≠ qn)
    (announced : s.qRead q ≠ s.qDoorbell q) (ht : s.translateNow q.ctx (s.slotVa q (s.qRead q)) .readWrite = .ok pa dom sh) :
    exec (.packetTake qn) s = if leField (s.memReads dom pa 64) 0 1 = 0 then .next (s.setQueue qn { q with stopped := true })
      else match s.packetCause q.ctx (s.memReads dom pa 64) with
        | some c => .next (((s.setHdr q 36 3 ((s.qRead q + 1) % 2 ^ 24)).memWrites dom pa [0]).refusePacket q c)
        | none =>
          .next { (s.setHdr q 36 3 ((s.qRead q + 1) % 2 ^ 24)).memWrites dom pa [0] with
            pifo := ((s.setHdr q 36 3 ((s.qRead q + 1) % 2 ^ 24)).memWrites dom pa [0]).pifo ++
              [{ rank := rankOf (s.memReads dom pa 64) q.base ((s.rankPrograms.get q.program).getD []), queue := qn
                 packet := s.memReads dom pa 64 }] } := by
  show execPacketTake qn s = _
  have none_ : s.pifo.any (fun e => e.queue == qn) = false :=
    List.any_eq_false.mpr fun e he => by simpa using alone e he
  simp only [execPacketTake, settleQueue_at hq live, hq, served, qlive, going, none_, decide_eq_false announced, Bool.not_true, Bool.or_self,
    Bool.false_eq_true, if_false, ht] <;> rfl

/-- Settles O31: claims and notifies by the queue's header, a packet by its slot. -/
theorem queueTrafficEvents : Obligations.QueueTrafficEvents := by
  intro s qn q hq live
  have settled := settleQueue_at hq live
  dsimp only
  refine ⟨fun e n v he h1 h64 hv => ?_, fun e n h => ?_, fun port session bytes hcar hlen hqn => ?_, fun i hp => ?_, rfl,
    fun pa dom sh hs hl hst hpifo hr ht => ?_⟩
  · show execQueueClaimRemote qn e n s = _
    have asked : (decide (e.toNat ≠ e.toNat) || decide (n = 0) || decide (64 < n)) = false := by
      rw [decide_eq_false (not_not.mpr rfl), decide_eq_false (Nat.ne_of_gt h1), decide_eq_false (Nat.not_lt.mpr h64)]
      rfl
    simp only [execQueueClaimRemote, settled, hq, he, asked, Bool.false_eq_true, if_false, hv]
  · show execQueueClaimRemote qn e n s = _
    simp only [execQueueClaimRemote, settled, hq]
    split
    · rfl
    · next hasked =>
      simp only [Bool.or_eq_true, decide_eq_true_eq, not_or, ne_eq, not_not] at hasked
      obtain ⟨⟨he, hn⟩, h64⟩ := hasked
      rw [((h.resolve_left (not_not.mpr he)).resolve_left hn).resolve_left h64]
  · rw [← genuineNotify_iff, ← clearNotify_iff, remoteNotify_at hq live hcar hlen hqn]
    have mine : (q.phase == .created || q.session != some session) = false ↔ q.phase ≠ .created ∧ q.session = some session := by
      rw [Bool.or_eq_false_iff, beq_eq_false_iff_ne, bne_eq_false_iff_eq]
    rw [← mine]
    refine ⟨fun hg hcl hm hr => ?_, fun hg hcl hm hr => ?_, fun hg hcl hm => ?_, fun hg hcl => ?_, fun hg => ?_⟩
    · simp only [hg, hcl, hm, hr, Bool.not_true, Bool.false_eq_true, if_false, if_true]
    · simp only [hg, hcl, hm, hr, Bool.not_true, Bool.false_eq_true, if_false]
    · simp only [hg, hcl, hm, Bool.not_true, Bool.false_eq_true, if_false, if_true]
    · simp only [hg, Bool.eq_false_iff.mpr hcl, Bool.not_true, Bool.not_false, Bool.false_eq_true, if_false, if_true]
    · simp only [Bool.eq_false_iff.mpr hg, Bool.not_false, if_true]
  · show execSupervisorNotify qn i s = _
    simp only [execSupervisorNotify, settled, hq, beq_eq_false_iff_ne.mpr hp, Bool.false_eq_true, if_false]
  · have taken := packetTake_at hq live hs hl hst hpifo hr ht
    refine ⟨fun h0 => ?_, fun c h0 hc => ?_, fun h0 hc => ?_⟩
    · rw [taken, if_pos h0]
    · rw [taken, if_neg h0, hc]
    · rw [taken, if_neg h0, hc]

/-! ### Packets -/

section Entry

variable {s : State} {qn : Nat} {q : Queue} {e : PifoEntry} (hq : s.queues.get qn = some q) (thawed : s.frozen = false)
  (he : (s.pifo.find? fun f => f.queue == qn && f.kind == e.kind) = some e)
include hq thawed he

theorem withEntry_at {kind : Nat} (hk : e.kind = kind) (f : PifoEntry → Queue → State) : withEntry s qn kind f = .next (f e q) := by
  subst hk
  simp only [withEntry, he, hq, thawed, Bool.false_eq_true, if_false]

theorem withHead_at {kind : Nat} (hk : e.kind = kind) (head : s.pifoHead.map (fun h => h.queue) = some qn)
    (hc : s.packetCause q.ctx e.packet = none) (f : PifoEntry → Queue → State) : withHead s qn kind f = .next (f e q) := by
  rw [withHead, withEntry_at hq thawed he hk]
  simp only [head, ne_eq, not_true_eq_false, if_false, hc]

theorem withHead_behind {kind : Nat} (hk : e.kind = kind) (behind : s.pifoHead.map (fun h => h.queue) ≠ some qn)
    (f : PifoEntry → Queue → State) : withHead s qn kind f = .next s := by
  rw [withHead, withEntry_at hq thawed he hk, if_pos behind]

omit hq thawed in
theorem leads_iff : s.leads e = true ↔ s.pifoHead.map (fun h => h.queue) = some qn := by
  have hqn : e.queue = qn := by
    have h := List.find?_some he
    simp only [Bool.and_eq_true, beq_iff_eq] at h
    exact h.1
  rw [State.leads, hqn, beq_iff_eq]

end Entry

/-- Settles O32: each packet by its kind, at the head of the PIFO where it must stand there. -/
theorem packetEvents : Obligations.PacketEvents := by
  intro s qn q e hq thawed he hc
  have head := fun {kind} (hk : e.kind = kind) hh f => withHead_at hq thawed he hk hh hc f
  dsimp only
  refine ⟨fun die k hk hdie hl hn => ⟨fun hr => ?_, fun hr => ?_⟩, fun die hk hl => ?_, fun hk hh hlen => ?_, fun hk hh => head hk hh _,
    fun pa dom sh hk hh ht => ?_, fun hk hw => ⟨?_, ?_⟩, fun hk hw => ⟨?_, ?_⟩, fun hk hg hcards => ?_⟩
  · refine (head hk ((leads_iff he).mp hl) _).trans ?_
    simp only [hn, hr, hdie, decide_true, Bool.and_self, if_true]
  · refine (head hk ((leads_iff he).mp hl) _).trans ?_
    simp only [hn, hr, Bool.false_and, Bool.false_eq_true, if_false]
  · exact withHead_behind hq thawed he hk (fun h => by rw [(leads_iff he).mpr h] at hl; cases hl) _
  · refine (head hk hh _).trans ?_
    rw [if_neg (Nat.not_le.mpr hlen)]
    rfl
  · refine (head hk hh _).trans ?_
    simp only [ht]
  · refine (withEntry_at hq thawed he hk _).trans ?_
    simp only [hc, hw, if_true]
  · refine (withEntry_at hq thawed he hk _).trans ?_
    simp only [hw, if_true]
  · refine (withEntry_at hq thawed he hk _).trans ?_
    simp only [hc, hw, Bool.false_eq_true, if_false]
  · refine (withEntry_at hq thawed he hk _).trans ?_
    simp only [hw, Bool.false_eq_true, if_false]
  · refine (withEntry_at hq thawed he hk _).trans ?_
    refine congrArg _ (if_pos (Bool.and_eq_true_iff.mpr ⟨List.all_eq_true.mpr fun g hmem => ?_, List.all_eq_true.mpr fun c hmem => ?_⟩))
    · split
      · next k hgk => exact hg g hmem k hgk
      · rfl
    · rw [hcards c hmem, Option.isNone_none]

/-! ### States of a queue -/

theorem memWrites_queues (s : State) (dom pa : Nat) (bs : List Byte) : (s.memWrites dom pa bs).queues = s.queues := by
  unfold State.memWrites
  split
  · rfl
  · exact State.hbmWrites_queues ..

theorem setHdr_queues (s : State) (q : Queue) (off n v : Nat) : (s.setHdr q off n v).queues = s.queues := by
  unfold State.setHdr
  split
  · exact memWrites_queues ..
  · rfl

section Move

variable {s : State} {qn : Nat} {q : Queue} (hq : s.queues.get qn = some q) (live : s.qGone q = false) {ok : Queue → Bool}
include hq live

theorem moveQueue_at (hok : ok q = true) (to_ : QueuePhase) (f : Queue → Queue) :
    moveQueue s qn ok to_ f = .next ((s.setHdr q 39 1 to_.code).setQueue qn { f q with phase := to_ }) := by
  simp only [moveQueue, settleQueue_at hq live, hq, hok, if_true]

theorem moveQueue_refused (hok : ok q = false) (to_ : QueuePhase) (f : Queue → Queue) :
    moveQueue s qn ok to_ f = .next (s.report .refused) := by
  simp only [moveQueue, settleQueue_at hq live, hq, hok, Bool.false_eq_true, if_false]

end Move

/-- A queue whose header says that it is destroyed is gone, whatever is done to it. -/
theorem settleQueue_gone {s : State} {qn : Nat} {q : Queue} (hq : s.queues.get qn = some q) (gone : s.qGone q = true) :
    s.settleQueue qn = s.dropQueue qn := by
  simp only [State.settleQueue, hq, gone, if_true]

theorem dropQueue_get (s : State) (qn : Nat) : (s.dropQueue qn).queues.get qn = none := Tbl.get_del ..

theorem moveQueue_gone {s : State} {qn : Nat} {q : Queue} (hq : s.queues.get qn = some q) (gone : s.qGone q = true)
    (ok : Queue → Bool) (to_ : QueuePhase) (f : Queue → Queue) : moveQueue s qn ok to_ f = .next ((s.dropQueue qn).report .refused) := by
  simp only [moveQueue, settleQueue_gone hq gone, dropQueue_get]

/-- A queue is created where its number is free and its parameters are good (R342). -/
theorem queueCreate_at {s : State} {qn ctx entries : Nat} {hdr slots : BitVec 64} (hq : s.queues.get qn = none) (hn : qn < 4096)
    (live : (s.ctx ctx).state.live = true) (ok : entriesOk entries = true) (hh : hdr.toNat % 64 = 0) (hs : slots.toNat % 64 = 0) :
    exec (.queueCreate qn ctx hdr entries slots) s = match s.translateNow ctx hdr .readWrite with
      | .ok _ _ 0 => .next (s.report .refused)
      | .ok pa dom _ => .next ((s.memWrites dom pa (leBytes 16 0 ++ leBytes 4 qn ++ leBytes 4 entries ++ leBytes 8 slots.toNat ++ leBytes 7 0 ++
          leBytes 1 1 ++ leBytes 24 0)).setQueue qn { ctx := ctx, header := hdr, thread := qn % 4 })
      | _ => .next (s.report .refused) := by
  have settled : s.settleQueue qn = s := by simp only [State.settleQueue, hq]
  show execQueueCreate qn ctx hdr entries slots s = _
  cases hctx : (s.ctx ctx).state with
  | free => rw [hctx] at live; cases live
  | ending => rw [hctx] at live; cases live
  | _ => simp [execQueueCreate, settled, hq, hctx, ok, hh, hs, Nat.not_le.mpr hn] <;> rfl

/-- Settles O33: creation by its checks, each other event by the phase in which it finds the queue. -/
theorem queueStateEvents : Obligations.QueueStateEvents := by
  intro s qn ctx program entries base hdr slots session q
  refine ⟨fun hq hn hctx hent hh hs pa dom sh ht => ⟨fun hsh => ?_, fun hsh => ?_⟩, fun hq live => ⟨fun hp hc hr => ?_, fun h => ?_,
    fun hp => ?_, fun h1 h2 => ?_, fun hp => ?_, fun hp => ?_, fun hp he => ?_, fun h => ?_, fun hp => ?_, fun hp hg => ?_, fun hp => ?_,
    fun h1 h2 => ?_⟩, fun hq gone => ?_⟩
  · rw [queueCreate_at hq hn hctx hent hh hs, ht]
    cases sh with
    | zero => exact absurd rfl hsh
    | succ sh => rfl
  · rw [queueCreate_at hq hn hctx hent hh hs, ht, hsh] <;> rfl
  · exact moveQueue_at hq live (by simp only [hp, hc, beq_self_eq_true, Option.isSome_iff_ne_none.mpr hr, Bool.and_self]) .bound _
  · refine moveQueue_refused hq live ?_ .bound _
    rcases h with h | h | h
    · rw [beq_eq_false_iff_ne.mpr h, Bool.false_and, Bool.false_and]
    · rw [beq_eq_false_iff_ne.mpr h, Bool.and_false, Bool.false_and]
    · rw [h, Option.isSome_none, Bool.and_false]
  · exact moveQueue_at hq live (by rcases hp with hp | hp <;> rw [hp] <;> rfl) .opened id
  · exact moveQueue_refused hq live (by rw [beq_eq_false_iff_ne.mpr h1, beq_eq_false_iff_ne.mpr h2, Bool.or_self]) .opened id
  · exact moveQueue_at (ok := fun q => q.phase == .opened) hq live (beq_iff_eq.mpr hp) .draining id
  · exact moveQueue_refused (ok := fun q => q.phase == .opened) hq live (beq_eq_false_iff_ne.mpr hp) .draining id
  · show execQueueClosed qn s = _
    simp only [execQueueClosed, hq, hp, he, beq_self_eq_true, Bool.and_self, if_true]
    exact moveQueue_at hq live rfl .closed id
  · show execQueueClosed qn s = _
    have open_ : (q.phase == .draining && s.qRead q == s.qWrite q) = false := by
      rcases h with h | h
      · rw [beq_eq_false_iff_ne.mpr h, Bool.false_and]
      · rw [beq_eq_false_iff_ne.mpr h, Bool.and_false]
    simp only [execQueueClosed, hq, open_, Bool.false_eq_true, if_false]
  · show execQueueForceClose qn s = _
    simp only [execQueueForceClose, settleQueue_at hq live, hq, beq_eq_false_iff_ne.mpr hp, Bool.false_eq_true, if_false]
    exact moveQueue_refused (ok := fun q => q.phase == .draining) hq live (beq_eq_false_iff_ne.mpr hp) .closed id
  · show execQueueForceClose qn s = _
    simp only [execQueueForceClose, settleQueue_at hq live, hq, hp, beq_self_eq_true, if_true]
    exact moveQueue_at (q := q) (ok := fun q => q.phase == .draining) ((congrArg (Tbl.get · qn) (setHdr_queues ..)).trans hq) hg (beq_iff_eq.mpr hp) .closed id
  · show execQueueDestroy qn s = _
    have ends : (q.phase == .created || q.phase == .closed) = true := by rcases hp with hp | hp <;> rw [hp] <;> rfl
    simp only [execQueueDestroy, settleQueue_at hq live, hq, ends, if_true, State.destroyQueue]
  · show execQueueDestroy qn s = _
    simp only [execQueueDestroy, settleQueue_at hq live, hq, beq_eq_false_iff_ne.mpr h1, beq_eq_false_iff_ne.mpr h2, Bool.or_self,
      Bool.false_eq_true, if_false]
  · have destroy : exec (.queueDestroy qn) s = .next ((s.dropQueue qn).report .refused) := by
      show execQueueDestroy qn s = _
      simp only [execQueueDestroy, settleQueue_gone hq gone, dropQueue_get]
    have forced : exec (.queueForceClose qn) s = .next ((s.dropQueue qn).report .refused) := by
      show execQueueForceClose qn s = _
      simp only [execQueueForceClose, settleQueue_gone hq gone, dropQueue_get]
    simp only [List.forall_mem_cons, List.not_mem_nil, false_implies, implies_true, and_true]
    exact ⟨moveQueue_gone hq gone .., moveQueue_gone hq gone .., destroy, moveQueue_gone hq gone .., forced⟩

end Sys2Proof.Proofs

/-! SUPPORT. Pre-emption (O34): what the operations on a die's blocks leave, and each event by its tests. -/

namespace Sys2Proof.Proofs

open Sys2Proof.Machine Sys2Proof.Claims

/-! ### Operations that change few fields -/

/-- A state in which only the cores differ. -/
def OnlyCores (s t : State) : Prop := ∃ cs, t = { s with cores := cs }

theorem OnlyCores.refl (s : State) : OnlyCores s s := ⟨s.cores, rfl⟩

theorem OnlyCores.trans {s t u : State} (h : OnlyCores s t) (k : OnlyCores t u) : OnlyCores s u := by
  obtain ⟨cs, rfl⟩ := h
  obtain ⟨ds, rfl⟩ := k
  exact ⟨ds, rfl⟩

theorem onlyCores_updCore (s : State) (die core : Nat) (f : Core → Core) : OnlyCores s (s.updCore die core f) := ⟨_, rfl⟩

theorem onlyCores_foldl {α : Type} {f : State → α → State} (h : ∀ s a, OnlyCores s (f s a)) : ∀ (l : List α) (s : State),
    OnlyCores s (l.foldl f s)
  | [], s => OnlyCores.refl s
  | a :: l, s => (h s a).trans (onlyCores_foldl h l _)

theorem onlyCores_discardText (s : State) (die k : Nat) (cores : List Nat) : OnlyCores s (s.discardText die k cores) :=
  onlyCores_foldl (fun _ _ => onlyCores_updCore ..) cores s

theorem onlyCores_closeInterval (s : State) (die core : Nat) : OnlyCores s (s.closeInterval die core) := by
  unfold State.closeInterval
  split
  · exact OnlyCores.refl s
  · exact onlyCores_updCore ..

theorem onlyCores_newInterval (s : State) (die core : Nat) (b : Bool) : OnlyCores s (s.newInterval die core b) := by
  unfold State.newInterval
  split
  · exact OnlyCores.refl s
  · exact onlyCores_updCore ..

theorem onlyCores_replayAdmit (s : State) (die core c : Nat) : OnlyCores s (s.replayAdmit die core c) := by
  unfold State.replayAdmit
  split
  · exact OnlyCores.refl s
  · dsimp only
    split
    · exact onlyCores_updCore ..
    · split
      · exact onlyCores_updCore ..
      · split
        · exact OnlyCores.refl s
        · exact (onlyCores_updCore ..).trans (onlyCores_newInterval ..)

theorem onlyCores_closeIntervals (s : State) (die c : Nat) (cores : List Nat) : OnlyCores s (s.closeIntervals die c cores) :=
  onlyCores_foldl (fun _ _ => (onlyCores_closeInterval ..).trans (onlyCores_replayAdmit ..)) cores s

/-- The text and the intervals of cores that a block leaves or comes to. -/
theorem onlyCores_moved (s : State) (die k c : Nat) (cs cs' : List Nat) :
    OnlyCores s ((s.discardText die k cs).closeIntervals die c cs') :=
  (onlyCores_discardText ..).trans (onlyCores_closeIntervals ..)

/-- What frames of pre-emption speak of, but for a die's slices. -/
theorem moved_same (s : State) (die k c : Nat) (cs cs' : List Nat) :
    ((s.discardText die k cs).closeIntervals die c cs').blocks = s.blocks ∧
    ((s.discardText die k cs).closeIntervals die c cs').waves = s.waves ∧
    ((s.discardText die k cs).closeIntervals die c cs').dies = s.dies ∧
    ((s.discardText die k cs).closeIntervals die c cs').lds = s.lds := by
  obtain ⟨_, h⟩ := onlyCores_moved s die k c cs cs'
  rw [h]
  exact ⟨rfl, rfl, rfl, rfl⟩

theorem die_updDie (s : State) (d : Nat) (f : Die → Die) : (s.updDie d f).die d = f (s.die d) := by
  simp only [State.updDie, State.setDie, State.die, Tbl.get_put, Option.getD_some]

theorem die_dropSlices (s : State) (d : Nat) :
    ((s.dropSlices d).die d).queue = (s.die d).queue ∧ ((s.dropSlices d).die d).history = (s.die d).history := by
  unfold State.dropSlices
  dsimp only
  rw [die_updDie]
  exact ⟨rfl, rfl⟩

theorem formBodies_eq (s : State) (d : Nat) : ∃ ds, s.formBodies d = { s with dies := ds } := by
  unfold State.formBodies
  split
  · exact ⟨_, rfl⟩
  · split
    · exact ⟨_, rfl⟩
    · exact ⟨_, rfl⟩

/-- A pool is written in HBM. -/
theorem poolWrites_keeps {α : Type} (f : State → α) (blind : ∀ (s : State) (dom pa : Nat) (bs : List Byte), f (s.hbmWrites dom pa bs) = f s)
    (s : State) (c va : Nat) (bs : List Byte) : f (s.poolWrites c va bs) = f s := by
  unfold State.poolWrites
  generalize List.range (bs.length / 4096 + 2) = l
  induction l generalizing s with
  | nil => rfl
  | cons i l ih =>
    rw [List.foldl_cons, ih]
    dsimp only
    split
    · unfold State.memWrites
      split
      · rfl
      · exact blind ..
    · rfl

theorem get_mapIf {α : Type} (p : α → Prop) [DecidablePred p] (f : α → α) : ∀ (t : Tbl α) (n : Nat),
    Tbl.get (t.map fun e => if p e.2 then (e.1, f e.2) else e) n = (Tbl.get t n).map fun x => if p x then f x else x
  | [], _ => rfl
  | (k, x) :: t, n => by
    rw [List.map_cons]
    by_cases hk : k = n
    · subst hk
      by_cases hp : p x
      · simp [Tbl.get, hp]
      · simp [Tbl.get, hp]
    · by_cases hp : p x
      · simp [Tbl.get, hk, hp, get_mapIf p f t n]
      · simp [Tbl.get, hk, hp, get_mapIf p f t n]

/-! ### A save -/

section Save

variable (s : State) (key : Nat) (b : Block) (g : Grid) (k : Kernel)

/-- The block with its images, as its record has it (R371, R372). -/
def imagedBlock : Block :=
  { s.imaged (s.ownDom g.ctx) b with
    waitedChild := ((s.wavesOf key).map fun e => (e.1, e.2.packed s (s.ownDom g.ctx))).any fun e => match e.2.wait with
      | some (.dlwait _ _) => true
      | _ => false }

/-- The bytes of its record. -/
def recordBytes : List Byte :=
  saveRecord (imagedBlock s key b g) g k.desc (((s.wavesOf key).map fun e => (e.1, e.2.packed s (s.ownDom g.ctx))).map fun e => e.2)
    (match b.record with
      | some r => r.2
      | none => 0) (s.ctx g.ctx).edited

/-- The state in which the record has been written. -/
def recorded : State :=
  match b.record with
  | some r => s.poolWrites g.ctx ((s.ctx g.ctx).desc.savePool.toNat + r.1) (recordBytes s key b g k)
  | none => s

/-- The state in which that of the grid has been written too. -/
def gridRecorded : State :=
  match g.record with
  | some r => ((recorded s key b g k).poolWrites g.ctx ((s.ctx g.ctx).desc.savePool.toNat + r.1) g.saveBytes).updGrid b.grid fun g =>
      { g with written := g.saveBytes }
  | none => recorded s key b g k

/-- The block as it stands saved. -/
def savedBlock : Block := { imagedBlock s key b g with phase := .saved, alloc := [], spill := [], written := recordBytes s key b g k }

/-- A wave of it as it stands saved. -/
def packedAway (w : Wave) : Wave := { w.packed s (s.ownDom g.ctx) with saved := true, granules := [] }

/-- The die that a saved block has left, with the block in its queue. -/
def dieLeft (d : Die) : Die :=
  { d.enqueued (d.queue.take (s.savedPlace b.die key (imagedBlock s key b g) (levelOf g.rank)) ++ [QEntry.block key] ++
      d.queue.drop (s.savedPlace b.die key (imagedBlock s key b g) (levelOf g.rank))) with
    former := match d.former with
      | some f => if f.block = key then none else some f
      | none => none
    savedFormers := match d.former with
      | some f => if f.block = key then d.savedFormers ++ [f] else d.savedFormers
      | none => d.savedFormers }

/-- The state in which a block has been saved, before its cores drop its text and close their intervals. -/
def savedState : State :=
  ({ gridRecorded s key b g k with waves := (gridRecorded s key b g k).waves.map fun (e : Nat × Wave) =>
      if e.2.block = key then (e.1, packedAway s g e.2) else e }.setBlock key
    (savedBlock s key b g k)).updDie b.die (dieLeft s key b g)

variable {s key b g k}

theorem blockSave_at (hb : s.blocks.get key = some b) (entry : s.entryKernel (.block key) = some (g, k)) (saving : b.phase = .saving)
    (going : b.ending = false) (stays : s.retires key b = false) (drained : s.drainedBlock key = true) (free : s.unstalled key b = true)
    (posted : s.bindingsPosted b k.desc (s.ownDom g.ctx) = true) : ∃ ds, exec (.blockSave key) s =
      .next ((((savedState { s with dies := ds } key b g k).discardText b.die g.kernel (s.coresOf key b)).closeIntervals b.die g.ctx
        (s.coresOf key b)).dropSlices b.die) := by
  obtain ⟨ds, formed⟩ := formBodies_eq s b.die
  refine ⟨ds, ?_⟩
  show execBlockSave key s = _
  simp only [execBlockSave, hb, entry, saving, bne_self_eq_false, going, stays, drained, free, posted, Bool.not_true, Bool.or_self,
    Bool.false_eq_true, if_false, formed]
  rfl

theorem gridRecorded_keeps {α : Type} (f : State → α) (blind : ∀ (s : State) (dom pa : Nat) (bs : List Byte), f (s.hbmWrites dom pa bs) = f s)
    (grids : ∀ (s : State) (gs : Tbl Grid), f { s with grids := gs } = f s) : f (gridRecorded s key b g k) = f s := by
  have first : f (recorded s key b g k) = f s := by
    unfold recorded
    split
    · exact poolWrites_keeps f blind ..
    · rfl
  unfold gridRecorded
  split
  · exact (grids ..).trans ((poolWrites_keeps f blind ..).trans first)
  · exact first

theorem savedState_blocks : (savedState s key b g k).blocks.get key = some (savedBlock s key b g k) := Tbl.get_put ..

theorem savedState_lds : (savedState s key b g k).lds = s.lds :=
  gridRecorded_keeps State.lds (fun s dom pa bs => State.hbmWrites_lds bs s dom pa) fun _ _ => rfl

theorem savedState_waves (n : Nat) : (savedState s key b g k).waves.get n = (s.waves.get n).map fun w =>
    if w.block = key then packedAway s g w else w := by
  refine (get_mapIf (fun w : Wave => w.block = key) (packedAway s g) _ n).trans ?_
  rw [gridRecorded_keeps State.waves (fun s dom pa bs => State.hbmWrites_waves bs s dom pa) fun _ _ => rfl]

theorem savedState_queue : QEntry.block key ∈ ((savedState s key b g k).die b.die).queue := by
  rw [savedState, die_updDie]
  simp [dieLeft, Die.enqueued]

end Save

/-! ### Resuming -/

/-- The blocks, the waves and the dies. -/
def scene (s : State) : Tbl Block × Tbl Wave × Tbl Die := (s.blocks, s.waves, s.dies)

theorem foldl_keeps {α β : Type} (f : State → β) {step : State → α → State} (h : ∀ s a, f (step s a) = f s) : ∀ (l : List α) (s : State),
    f (l.foldl step s) = f s
  | [], _ => rfl
  | a :: l, s => (foldl_keeps f h l _).trans (h s a)

theorem scene_coreWrite (s : State) (dom a : Nat) (b : Byte) : scene (s.coreWrite dom a b) = scene s := by
  rw [scene, State.coreWrite_blocks, State.coreWrite_waves, State.coreWrite_dies]
  rfl

theorem scene_restoreGranules (s : State) (dom die core : Nat) (gs : List Nat) (image : Tbl Byte) :
    scene (s.restoreGranules dom die core gs image) = scene s := by
  refine foldl_keeps scene (fun s i => ?_) _ _
  dsimp only
  exact foldl_keeps scene (fun _ _ => scene_coreWrite ..) _ _

theorem scene_restoreAllocs (s : State) (dom : Nat) (b : Block) (image : Nat → Tbl Byte) (l : List Nat) :
    scene (l.foldl (fun t p => t.restoreAlloc dom b p (image p)) s) = scene s :=
  foldl_keeps scene (fun _ _ => scene_restoreGranules ..) l s

/-- Seating waves changes no other wave, no block and no die. -/
theorem seatWaves_keeps (dom die : Nat) : ∀ (l : List ((Nat × Wave) × Nat × List Nat)) (s : State),
    (s.seatWaves dom die l).blocks = s.blocks ∧ (s.seatWaves dom die l).dies = s.dies ∧
    ∀ n, (∀ e ∈ l, e.1.1 ≠ n) → (s.seatWaves dom die l).waves.get n = s.waves.get n
  | [], s => ⟨rfl, rfl, fun _ _ => rfl⟩
  | ((m, w), core, spill) :: l, s => by
    rw [State.seatWaves]
    generalize ({ w with core := core, slot := s.freeSlot die core, saved := false, granules := spill, spillImage := [] } : Wave) = v
    have one := scene_restoreGranules (s.setWave m v) dom die core spill w.spillImage
    obtain ⟨blocks, dies, others⟩ := seatWaves_keeps dom die l ((s.setWave m v).restoreGranules dom die core spill w.spillImage)
    refine ⟨blocks.trans (congrArg Prod.fst one), dies.trans (congrArg (fun x => x.2.2) one), fun n out => ?_⟩
    rw [others n fun e he => out e (List.mem_cons_of_mem _ he)]
    refine (congrArg (fun x => Tbl.get x.2.1 n) one).trans ?_
    exact Tbl.get_put_ne _ _ fun same => out _ List.mem_cons_self same.symm

/-- A block as it stands once its images are back. -/
def resumedBlock (b : Block) (cores : List Nat) (gr : List Granules) : Block :=
  { b with phase := .resumed, cores := cores, alloc := gr.map fun x => x.alloc, spill := gr.map fun x => x.spill, image := [] }

/-- A block that is resumed (R373): its cores and granules, its place in the queue, and the waves of others. -/
theorem resumeBlock_at {s : State} {die key : Nat} {b : Block} {g : Grid} {k : Kernel} {cores : List Nat} {gr : List Granules}
    (at_ : s.resumeCores die key b g k cores = true) (fits : s.shareGranulesOk die cores k.desc (s.shapeNow key b g k) gr = true) :
    ∃ t b', s.resumeBlock die key b g k cores gr = some t ∧ t.blocks.get key = some b' ∧ b'.phase = .resumed ∧ b'.cores = cores ∧
      b'.alloc = gr.map (fun x => x.alloc) ∧ QEntry.block key ∉ (t.die die).queue ∧
      ∀ n w, s.waves.get n = some w → (∀ e ∈ s.waves, e.1 = n → e.2.block ≠ key) → t.waves.get n = some w := by
  simp only [State.resumeBlock, at_, fits, Bool.and_self, if_true]
  generalize seats : ((s.wavesOf key).zip (dealSpill k.desc (s.shapeNow key b g k) (gr.map fun x => x.spill))).map
    (fun e => (e.1, cores.getD e.1.2.partner 0, e.2)) = l
  generalize allocs : (List.range cores.length).foldl _ _ = u
  have same : scene u = scene _ := (congrArg scene allocs.symm).trans (scene_restoreAllocs ..)
  obtain ⟨blocks, dies, others⟩ := seatWaves_keeps (s.ownDom g.ctx) die l u
  obtain ⟨blocks', waves', dies', -⟩ := moved_same (u.seatWaves (s.ownDom g.ctx) die l) die g.kernel g.ctx cores cores
  refine ⟨_, resumedBlock b cores gr, rfl, ?_, rfl, rfl, rfl, ?_, fun n w hw other => ?_⟩
  · rw [blocks', blocks]
    exact (congrArg (fun x => Tbl.get x.1 key) same).trans (Tbl.get_put ..)
  · rw [State.die, dies', dies]
    show QEntry.block key ∉ ((Tbl.get (scene u).2.2 die).getD {}).queue
    rw [same]
    show QEntry.block key ∉ ((s.leaveQueue die (.block key)).die die).queue
    rw [State.leaveQueue, die_updDie]
    simp
  · rw [waves', others n]
    · exact (congrArg (fun x => Tbl.get x.2.1 n) same).trans hw
    · subst seats
      intro e he same
      obtain ⟨⟨e', _⟩, hz, rfl⟩ := List.mem_map.mp he
      obtain ⟨hm, hb⟩ := List.mem_filter.mp (List.of_mem_zip hz).1
      exact other _ hm same (eq_of_beq hb)

/-! ### Flushing and retirement -/

/-- The state in which a block has been flushed (R374), before its die drops the slices of contexts with no block. -/
def flushedState (s : State) (key : Nat) (b : Block) : State :=
  ({ s with waves := s.waves.filter fun e => e.2.block ≠ key }.setBlock key
    { grid := b.grid, num := b.num, die := b.die, records := b.records }).updDie b.die fun d => d.enqueued (QEntry.block key :: d.queue)

/-- A block as it stands retired. -/
def retiredBlock (b : Block) : Block := { b with phase := .retired, alloc := [], spill := [], record := none, image := [] }

/-- The die that a retired block has left. -/
def dieWithout (key : Nat) (d : Die) : Die :=
  { d with
    queue := d.queue.filter fun q => q != QEntry.block key
    former := match d.former with
      | some f => if f.block = key then none else some f
      | none => none
    savedFormers := d.savedFormers.filter fun f => f.block ≠ key }

/-- The state in which a block has retired, before its grid counts it. -/
def retiredState (s : State) (key : Nat) (b : Block) : State :=
  { s.endWaves key with
    waves := (s.endWaves key).waves.filter fun e => e.2.block ≠ key
    blocks := (s.endWaves key).blocks.put key (retiredBlock b) }.updDie b.die (dieWithout key)

/-- The state in which the grid has counted it. -/
def countedState (s : State) (key : Nat) (b : Block) (g : Grid) : State :=
  ((((retiredState s key b).updDie b.die fun d => d.record g.kernel b.elapsed).updGrid b.grid fun g => g.afterBlock b).nodeSettle
    b.grid).dropSlices b.die

theorem endWaves_keeps (s : State) (key : Nat) : (s.endWaves key).waves = s.waves ∧ (s.endWaves key).dies = s.dies := by
  have h := foldl_keeps (fun s => (s.waves, s.dies)) (step := fun s (e : Nat × Wave) => match s.wctx e.2 with
    | some x => s.leaveBarriers e.2 x
    | none => s) (fun s e => by split <;> rfl) (s.wavesOf key) s
  exact ⟨congrArg Prod.fst h, congrArg Prod.snd h⟩

theorem slice_ne {s : State} {c : Nat} (h : 0 < (s.ctx c).desc.slice.toNat) : (s.ctx c).desc.slice ≠ 0 := by
  intro zero
  rw [zero] at h
  exact absurd h (by decide)

/-- Settles O34: each event by its tests; what is left alone by the operations that a save, a resume and a retirement are made of. -/
theorem preemptionEvents : Obligations.PreemptionEvents := by
  intro s die key b g k hb hg hk
  have entry : s.entryKernel (.block key) = some (g, k) := by
    simp only [State.entryKernel, State.entryGrid, hb, Option.map_some, hg, hk]
  refine ⟨fun hp hd hr => ?_, fun hp hend hr hdr hun hbind => ?_, ?_, fun cores gr t hdie hbar hsav hall => ?_, fun hp hend hr hdr hun => ?_,
    fun hret hcan => ?_, ⟨?_, ?_⟩, fun c h0 hsl => ⟨fun hw => ?_, ?_⟩, fun c hsl => ?_⟩
  · show execDrainBudgetExpire key s = _
    simp only [execDrainBudgetExpire, hb, hg, hp, beq_self_eq_true, decide_eq_true hd, hr, Bool.not_false, Bool.and_self, if_true]
  · obtain ⟨ds, saved⟩ := blockSave_at hb entry hp hend hr hdr hun hbind
    obtain ⟨blocks, waves, dies, lds⟩ := moved_same (savedState { s with dies := ds } key b g k) b.die g.kernel g.ctx (s.coresOf key b)
      (s.coresOf key b)
    refine ⟨_, savedBlock { s with dies := ds } key b g k, saved, (congrArg (Tbl.get · key) blocks).trans savedState_blocks, rfl, rfl, rfl, rfl,
      fun n w hw hwb => ?_, fun n w hw hwb => ?_, ?_, lds.trans savedState_lds⟩
    · refine (congrArg (Tbl.get · n) waves).trans ((savedState_waves n).trans ?_)
      rw [show ({ s with dies := ds } : State).waves.get n = some w from hw, Option.map_some, if_pos hwb]
      rfl
    · refine (congrArg (Tbl.get · n) waves).trans ((savedState_waves n).trans ?_)
      rw [show ({ s with dies := ds } : State).waves.get n = some w from hw, Option.map_some, if_neg hwb]
    · rw [(die_dropSlices ..).1, State.die, dies]
      exact savedState_queue
  · intro u cores gr c h d hdie hbar hc hent hp hcd hend head
    have one : s.resumeOne key cores gr = if d.desc.reserve.isSome then u.resumeLaunch die key c h d cores gr
        else u.resumeBlock die key c h d cores gr := by
      simp only [State.resumeOne]
      rw [show (s.reread key).blocks.get key = some c from hc, show (s.reread key).entryKernel (.block key) = some (h, d) from hent]
      simp only [hp, hcd, hend, show (s.reread key).resumeHead die key = true from head, bne_self_eq_false, Bool.not_true, Bool.or_self,
        Bool.false_eq_true, if_false]
      rfl
    have led : ∀ t, s.resumeOne key cores gr = some t → exec (.blockResume die key cores gr) s = .next t := by
      intro t ht
      show execBlockResume die key cores gr s = _
      simp only [execBlockResume, hb, entry, hdie, bne_self_eq_false, Bool.false_eq_true, if_false, hbar, List.isEmpty_nil, if_true, ht]
    refine ⟨fun hres at_ fits => ?_, fun t hres launch => led t ?_⟩
    · obtain ⟨t, b', resumed, rest⟩ := resumeBlock_at at_ fits
      refine ⟨t, b', led t ?_, rest⟩
      rw [one, hres]
      exact resumed
    · rw [one, if_pos (Option.isSome_iff_ne_none.mpr hres)]
      exact launch
  · show execBlockResume die key cores gr s = _
    have none : (s.blocks.any fun e => e.2.grid == b.grid && e.2.phase == .saving) = false := by
      refine List.any_eq_false.mpr fun e he both => ?_
      obtain ⟨same, saving⟩ := (Bool.and_eq_true ..).mp both
      exact hsav e he (eq_of_beq same) (eq_of_beq saving)
    simp only [execBlockResume, hb, entry, hdie, bne_self_eq_false, Bool.false_eq_true, if_false, List.isEmpty_eq_false_iff.mpr hbar, none, hall]
  · refine ⟨(flushedState s key b).dropSlices b.die, ?_, ?_, ?_, ?_⟩
    · show execBlockFlush key s = _
      simp only [execBlockFlush, hb, hp, hend, hr, hdr, hun, bne_self_eq_false, Bool.not_true, Bool.or_self, Bool.false_eq_true, if_false]
      rfl
    · exact Tbl.get_put ..
    · rw [(die_dropSlices ..).1, flushedState, die_updDie]
      rfl
    · intro e he
      exact of_decide_eq_true (List.mem_filter.mp he).2
  · refine ⟨countedState s key b g, retiredBlock b, ?_, Tbl.get_put .., rfl, rfl, rfl, fun e he => ?_, ?_⟩
    · show execBlockRetire key s = _
      simp only [execBlockRetire, hb, entry, hret, Bool.not_true, Bool.false_eq_true, if_false, if_neg hcan]
      rfl
    · exact of_decide_eq_true (List.mem_filter.mp he).2
    · rw [countedState, (die_dropSlices ..).2]
      show ((((retiredState s key b).updDie b.die fun d => d.record g.kernel b.elapsed)).die b.die).history = _
      rw [die_updDie, retiredState, die_updDie]
      exact congrArg (fun ds => (((Tbl.get ds b.die).getD {}).record g.kernel b.elapsed).history) (endWaves_keeps s key).2
  · intro q gk vs hq hgk head stands has fits victims
    show execPreemptRequest die key s = _
    have none : (((s.intake die).die die).reserved.any fun r => r.1 == q) = false :=
      List.any_eq_false.mpr fun r hr same => has r hr (eq_of_beq same)
    simp only [execPreemptRequest]
    rw [show (s.intake die).entryOf die key = some q from hq]
    dsimp only
    rw [show (s.intake die).entryGrid q = some gk from hgk]
    dsimp only
    rw [none, show (s.intake die).queueHead die = some q from head, show (s.intake die).stands die q = true from stands,
      show (s.intake die).entryFits die q = false from fits]
    simp only [beq_self_eq_true, Bool.true_or, Bool.not_true, Bool.or_self, Bool.false_eq_true, if_false]
    rw [show (s.intake die).victimSet die q gk = some vs from victims]
  · intro hq waiting
    show execPreemptRequest die key s = _
    simp only [execPreemptRequest]
    rw [show (s.intake die).entryOf die key = none from hq]
    exact congrArg Host.Outcome.next (if_pos waiting)
  · show execSliceExpire die c s = _
    simp only [execSliceExpire, decide_eq_false (Nat.not_lt.mpr hsl), decide_eq_false (slice_ne h0), Bool.or_self, Bool.false_eq_true,
      if_false]
    rw [hw]
    rfl
  · intro q h d shape span cores waiting need at_ vs some_ fits
    show execSliceExpire die c s = _
    simp only [execSliceExpire, decide_eq_false (Nat.not_lt.mpr hsl), decide_eq_false (slice_ne h0), Bool.or_self, Bool.false_eq_true,
      if_false]
    rw [waiting, Option.bind_some, need, Option.map_some]
    dsimp only
    rw [if_neg (Bool.eq_false_iff.mp (List.isEmpty_eq_false_iff.mpr some_))]
    rw [show (placements span).find? _ = some cores from fits]
  · show execSliceExpire die c s = _
    simp only [execSliceExpire, decide_eq_true hsl, Bool.true_or, if_true]

end Sys2Proof.Proofs

/-! SUPPORT. Contexts (O35): what a write of a descriptor field answers, and the states of a context. -/

namespace Sys2Proof.Proofs

open Sys2Proof.Machine Sys2Proof.Claims

variable {s : State} {ctx : Nat}

theorem descriptorWrite_at {wr : DescWrite} {t : State} (live : (s.ctx ctx).state.live = true) (written : s.writeDesc ctx wr = some t) :
    exec (.contextDescriptorWrite ctx wr) s = .next t := by
  show execContextDescriptorWrite ctx wr s = _
  simp only [execContextDescriptorWrite, live, if_true, written]

theorem descriptorWrite_refused {wr : DescWrite} (no : (s.ctx ctx).state.live = false ∨ s.writeDesc ctx wr = none) :
    exec (.contextDescriptorWrite ctx wr) s = .next (s.report .refused) := by
  show execContextDescriptorWrite ctx wr s = _
  have none : (if (s.ctx ctx).state.live then s.writeDesc ctx wr else none) = none := by
    rcases no with no | no
    · rw [no, if_neg Bool.false_ne_true]
    · rw [no, ite_self]
  simp only [execContextDescriptorWrite, none]

theorem finished_unless_on (ending : (s.ctx ctx).state = .ending) :
    (if (s.ctx ctx).state == .ending && !s.onCompute ctx then s.finishEnd ctx else s) = if s.onCompute ctx then s else s.finishEnd ctx := by
  rw [ending]
  cases s.onCompute ctx <;> rfl

/-- A live context ends in the state in which its end has begun (R360). -/
theorem endContext_of_live (live : (s.ctx ctx).state.live = true) (begun : ((s.beginEnd ctx).ctx ctx).state = .ending) :
    s.endContext ctx = if (s.beginEnd ctx).onCompute ctx then s.beginEnd ctx else (s.beginEnd ctx).finishEnd ctx := by
  refine Eq.trans ?_ (finished_unless_on begun)
  revert live
  unfold State.endContext
  cases (s.ctx ctx).state with
  | created => exact fun _ => rfl
  | resident => exact fun _ => rfl
  | standby => exact fun _ => rfl
  | free => exact fun no => nomatch no
  | ending => exact fun no => nomatch no

theorem endContext_of_ending (ending : (s.ctx ctx).state = .ending) :
    s.endContext ctx = if s.onCompute ctx then s else s.finishEnd ctx := by
  unfold State.endContext
  simp only [ending]
  cases s.onCompute ctx <;> rfl

theorem live_not_free (live : (s.ctx ctx).state.live = true) : ((s.ctx ctx).state == .free) = false := by
  revert live
  cases (s.ctx ctx).state with
  | free => exact fun no => nomatch no
  | created => exact fun _ => rfl
  | resident => exact fun _ => rfl
  | standby => exact fun _ => rfl
  | ending => exact fun _ => rfl

theorem end_at (there : ((s.ctx ctx).state == .free) = false) : exec (.contextEnd ctx) s = .next (s.endContext ctx) := by
  show execContextEnd ctx s = _
  simp only [execContextEnd, there, Bool.false_eq_true, if_false]

/-! ### Detaching a shared domain -/

/-- The state in which a slot of the descriptor is empty and no core holds a translation of its domain. -/
def detached (s : State) (ctx slot dom : Nat) : State :=
  { s.setCtx ctx { s.ctx ctx with desc := { (s.ctx ctx).desc with shared := (s.ctx ctx).desc.shared.set (slot - 1) 0xffff } } with
    cores := s.cores.map fun (e : Nat × Core) => (e.1, { e.2 with tlb := e.2.tlb.filter fun q => !(q.ctx == ctx && q.dom == dom) }) }

theorem slot_attached {d : CtxDesc} {i : Nat} (h : (d.shared.getD i 0xffff).toNat ≠ 0xffff) : (d.shared.getD i 0xffff).toNat ∈ d.attached := by
  have inside : i < d.shared.length := by
    by_contra out
    exact h (by rw [List.getD_eq_default _ _ (Nat.le_of_not_lt out)]; rfl)
  refine List.mem_filter.mpr ⟨List.mem_map_of_mem ?_, bne_iff_ne.mpr h⟩
  rw [List.getD_eq_getElem _ _ inside]
  exact List.getElem_mem inside

/-- Whether a domain that a context detaches has another user. -/
theorem lastAttached_contains {dom : Nat} (mine : dom ∈ (s.ctx ctx).desc.attached) : (s.lastAttached ctx).contains dom = true ↔
    ¬ ∃ e ∈ s.contexts, e.1 ≠ ctx ∧ e.2.state ≠ .free ∧ dom ∈ e.2.desc.attached := by
  rw [List.contains_iff_mem, State.lastAttached, List.mem_filter, Bool.not_eq_true', List.any_eq_false]
  refine ⟨fun ⟨_, h⟩ ⟨e, he, ne, notFree, at_⟩ => h e he ?_, fun h => ⟨mine, fun e he all => h ⟨e, he, ?_⟩⟩⟩
  · rw [bne_iff_ne.mpr ne, bne_iff_ne.mpr notFree, List.contains_iff_mem.mpr at_]
    rfl
  · simp only [Bool.and_eq_true, bne_iff_ne, List.contains_iff_mem] at all
    exact ⟨all.1.1, all.1.2, all.2⟩

theorem writeDesc_detach {slot : Nat} (low : 1 ≤ slot) (high : slot ≤ 4)
    (there : ((s.ctx ctx).desc.shared.getD (slot - 1) 0xffff).toNat ≠ 0xffff) :
    s.writeDesc ctx (.detach slot) =
      let dom := ((s.ctx ctx).desc.shared.getD (slot - 1) 0xffff).toNat
      let t := detached s ctx slot dom
      some (if (s.lastAttached ctx).contains dom && !(t.ctx ctx).desc.attached.contains dom then t.discard dom else t) := by
  unfold State.writeDesc
  simp only [decide_eq_true low, decide_eq_true high, bne_iff_ne.mpr there, Bool.and_self, if_true]
  rfl

/-- Settles O35: each event by the state of the context; the end by what `endContext` leaves; each field by what its write answers. -/
theorem contextEvents : Obligations.ContextEvents := by
  intro s ctx d wr
  dsimp only
  refine ⟨fun low free started ok => ?_, fun no => ?_, fun h₁ h₂ => ?_, fun h => ?_, fun h => ?_, fun h => descriptorWrite_refused (.inl h),
    fun h => ⟨fun room => ?_, fun full => ?_⟩, fun h => ⟨fun on => ?_, fun off => ?_⟩, fun h on => ?_, fun h off => ?_,
    fun live begun => ?_, fun live => ?_, fun _ h => descriptorWrite_refused (.inr h)⟩
  · show execContextCreate ctx d s = _
    simp only [execContextCreate, decide_eq_true low, free, beq_self_eq_true, started, ok, Bool.and_self, if_true]
    rfl
  · show execContextCreate ctx d s = _
    have fails : (decide (ctx < 256) && (s.ctx ctx).state == .free && s.startRec.started && s.descOk d) = false := by
      rcases no with h | h | h | h
      · rw [decide_eq_false (Nat.not_lt.mpr h)]
        rfl
      · rw [beq_eq_false_iff_ne.mpr h, Bool.and_false]
        rfl
      · rw [h, Bool.and_false]
        rfl
      · rw [h, Bool.and_false]
    simp only [execContextCreate, fails, Bool.false_eq_true, if_false]
  · show execMakeResident ctx s = _
    unfold execMakeResident
    split
    · next h => exact absurd h h₁
    · next h => exact absurd h h₂
    · rfl
  · show execContextEvict ctx s = _
    simp only [execContextEvict, bne_iff_ne.mpr h, if_true]
  · show execContextEnd ctx s = _
    simp only [execContextEnd, h, beq_self_eq_true, if_true]
  · show execMakeResident ctx s = _
    rcases h with h | h <;> simp only [execMakeResident, h, if_pos room]
  · show execMakeResident ctx s = _
    rcases h with h | h <;> simp only [execMakeResident, h, if_neg (Nat.not_lt.mpr full)]
  · show execContextEvict ctx s = _
    simp only [execContextEvict, h, bne_self_eq_false, Bool.false_eq_true, if_false, on, if_true]
  · show execContextEvict ctx s = _
    simp only [execContextEvict, h, bne_self_eq_false, Bool.false_eq_true, if_false, off]
  · rw [end_at (by rw [h]; rfl), endContext_of_ending h, if_pos on]
  · rw [end_at (by rw [h]; rfl), endContext_of_ending h, if_neg (Bool.eq_false_iff.mp off)]
  · rw [end_at (live_not_free live), endContext_of_live live begun]
  · refine ⟨fun v hv => descriptorWrite_at live (if_neg hv), fun v => descriptorWrite_at live rfl, fun v => descriptorWrite_at live rfl,
      fun a b => descriptorWrite_at live rfl, fun v hv => descriptorWrite_at live (if_neg (not_not_intro hv)),
      fun base size hb hp => descriptorWrite_at live ?_, fun base area hd off => descriptorWrite_at live ?_,
      fun base area => descriptorWrite_at live rfl, fun slot dom low high empty ok => descriptorWrite_at live ?_,
      fun slot low high there => ⟨fun kept => descriptorWrite_at live ?_, fun gone => descriptorWrite_at live ?_⟩⟩
    · unfold State.writeDesc
      simp only [hb, hp, ne_eq, not_true_eq_false, decide_false, List.isEmpty_nil, Bool.not_true, Bool.or_self, Bool.false_eq_true, if_false]
    · unfold State.writeDesc
      simp only [Bool.not_true, Bool.false_eq_true, if_false, off, Option.isNone_eq_false_iff.mpr (Option.isSome_iff_ne_none.mpr hd), Bool.or_self]
    · unfold State.writeDesc
      simp only [decide_eq_true low, decide_eq_true high, empty, beq_self_eq_true, ok, Bool.and_self, if_true]
      rfl
    · rw [writeDesc_detach low high there]
      dsimp only
      rw [if_neg]
      · rfl
      · intro last
        obtain ⟨alone, left⟩ := (Bool.and_eq_true ..).mp last
        rcases kept with other | again
        · exact (lastAttached_contains (slot_attached there)).mp alone other
        · exact Bool.eq_false_iff.mp (Bool.not_eq_true' .. |>.mp left) (List.contains_iff_mem.mpr again)
    · rw [writeDesc_detach low high there]
      dsimp only
      rw [if_pos]
      · rfl
      · refine (Bool.and_eq_true ..).mpr ⟨(lastAttached_contains (slot_attached there)).mpr fun other => gone (.inl other), ?_⟩
        rw [Bool.not_eq_true', Bool.eq_false_iff]
        exact fun again => gone (.inr (List.contains_iff_mem.mp again))

end Sys2Proof.Proofs

/-! SUPPORT. The choices at a fault (O36): what the agent that took a cause does to the wave that holds it. -/

namespace Sys2Proof.Proofs

open Sys2Proof.Machine Sys2Proof.Claims

section Faulted

variable {s : State} {n : Nat} {w : Wave} {x : WCtx} {r : FaultRec}

theorem onFaulted_at (at_ : At s n w x) (fault : w.fault = some r) (phase : w.phase = .faulted) (may : s.mayTake x.grid.ctx n = true)
    (going : x.block.ending = false) (f : Wave → WCtx → FaultRec → State) : onFaulted n s f = .next (f w x r) := by
  rw [onFaulted, onWave_at at_]
  simp only [fault, phase, beq_self_eq_true, may, going, Bool.not_false, Bool.and_self, if_true]

theorem onFaulted_of_not_mayTake (at_ : At s n w x) (may : s.mayTake x.grid.ctx n = false) (f : Wave → WCtx → FaultRec → State) :
    onFaulted n s f = .next s := by
  rw [onFaulted, onWave_at at_]
  cases w.fault with
  | none => rfl
  | some r => simp only [may, Bool.and_false, Bool.false_and, Bool.false_eq_true, if_false]

end Faulted

/-- Settles O36: each choice by `onFaulted`, with the PC that it leads to. -/
theorem faultChoiceEvents : Obligations.FaultChoiceEvents := by
  intro s n ctx w x r pc
  dsimp only
  refine ⟨fun at_ fault phase may going => ?_, fun at_ may => ?_, rfl⟩
  · have chosen := onFaulted_at at_ fault phase may going
    refine ⟨chosen _, fun ok trap => (chosen _).trans ?_, fun ok trap => (chosen _).trans ?_, fun bad => (chosen _).trans ?_,
      fun ok => (chosen _).trans ?_, fun bad => (chosen _).trans ?_, chosen _⟩
    · rw [if_pos ok, if_pos trap]
    · rw [if_pos ok, if_neg (Bool.eq_false_iff.mp trap)]
    · rw [if_neg (Bool.eq_false_iff.mp bad)]
      rfl
    · rw [if_pos ok]
    · rw [if_neg (Bool.eq_false_iff.mp bad)]
      rfl
  · have left := onFaulted_of_not_mayTake at_ may
    simp only [List.forall_mem_cons, List.not_mem_nil, false_implies, implies_true, and_true]
    exact ⟨left _, left _, left _, left _⟩

end Sys2Proof.Proofs

/-! SUPPORT. The supervisor (O37): heartbeats, the end of a freeze, the restart, and accesses. -/

namespace Sys2Proof.Proofs

open Sys2Proof.Machine Sys2Proof.Claims

/-- Whether the wave of a number holds a cause of its own context. -/
def holdsCause (s : State) (n : Nat) : Bool :=
  match s.waves.get n with
  | some w => (s.wctx w).any fun x => s.heldIn x.grid.ctx n
  | none => false

theorem holdsCause_at {s : State} {n : Nat} {w : Wave} {x : WCtx} (at_ : At s n w x) : holdsCause s n = s.heldIn x.grid.ctx n := by
  simp only [holdsCause, at_.wave, at_.ctx, Option.any_some]

theorem holdsCause_eq_false {s : State} {n : Nat} (h : ∀ w x, At s n w x → s.heldIn x.grid.ctx n = false) : holdsCause s n = false := by
  unfold holdsCause
  split
  · next w hw =>
    cases hx : s.wctx w with
    | none => rfl
    | some x => exact h w x ⟨hw, hx⟩
  · rfl

/-- Dispatch goes on once no wave of the list holds a cause and no core is stalled. -/
theorem thaw_of_taking {s : State} {l : List Nat} (h : s.taking = some l) :
    s.thaw = if l.any (holdsCause s) || s.cores.any fun e => !e.2.stall.isEmpty then s else { s with taking := none, frozen := false } := by
  simp only [State.thaw, h]
  rfl

/-- Settles O37: the heartbeat by what it watches, the thaw by who holds a cause, the accesses by their ranges. -/
theorem supervisorEvents : Obligations.SupervisorEvents := by
  intro s
  refine ⟨?_, rfl, fun frozen => ⟨?_, fun first => ?_, ?_⟩, fun l taking => ⟨fun none_ quiet => ?_, fun n w x hn at_ held => ?_,
    fun e he stalled => ?_⟩, fun addr n dom d ok => ?_, ?_, fun _ => rfl, fun _ _ _ => rfl, fun pa bs dom free => ?_,
    fun pa bs dom replays => ?_, fun addr n dom bs bad bad' => ⟨?_, ?_⟩⟩
  · intro i j v low loud live t me n watched beat
    have alive : (decide (4 ≤ i) || (s.threads.getD i {}).silent || (s.frozen && s.taking.isNone)) = false := by
      rw [decide_eq_false (Nat.not_le.mpr low), loud, thawed live]
      rfl
    have at_ : exec (.heartbeat i) s = if n = 3 then .next (t.adopt i j)
        else .next { t with threads := t.threads.modify i fun p => { p with lastRead := some v, unchanged := n } } := by
      show execHeartbeat i s = _
      simp only [execHeartbeat, alive, Bool.false_eq_true, if_false]
      rw [show State.watched { s with threads := s.threads.modify i fun p => { p with beat := p.beat + 1 } } i = some j from watched]
      subst beat
      rfl
    exact ⟨fun third => at_.trans (if_pos third), fun other => at_.trans (if_neg other)⟩
  · show execCuratorRestart true s = _
    simp only [execCuratorRestart, frozen, Bool.not_true, Bool.false_eq_true, if_false, if_true]
  · show execCuratorRestart false s = _
    simp only [execCuratorRestart, frozen, Bool.not_true, Bool.false_eq_true, if_false, first, if_true]
  · intro again t
    show execCuratorRestart false s = _
    simp only [execCuratorRestart, frozen, Bool.not_true, Bool.false_eq_true, if_false, if_neg again]
    rfl
  · rw [thaw_of_taking taking, List.any_eq_false.mpr fun n hn => Bool.eq_false_iff.mp (holdsCause_eq_false (none_ n hn)),
      List.any_eq_false.mpr fun e he => by rw [quiet e he]; exact Bool.false_ne_true]
    rfl
  · rw [thaw_of_taking taking, List.any_eq_true.mpr ⟨n, hn, (holdsCause_at at_).trans held⟩, Bool.true_or, if_pos rfl]
  · have some_ : (s.cores.any fun e => !e.2.stall.isEmpty) = true :=
      List.any_eq_true.mpr ⟨e, he, by rw [List.isEmpty_eq_false_iff.mpr stalled]; rfl⟩
    rw [thaw_of_taking taking, some_, Bool.or_true, if_pos rfl]
  · show execSupervisorAccess (.readLds addr n dom) s = _
    simp only [execSupervisorAccess, ok]
  · intro addr bs dom d ok replays
    have at_ : exec (.supervisorAccess (.writeLds addr bs dom)) s =
        if s.replayingOn (dieOf d) (coreOf d) || (s.coreContexts (dieOf d) (coreOf d)).any s.ctxReplaying then .next (s.report .replaying)
        else .next (s.ldsWrites dom d bs) := by
      show execSupervisorAccess (.writeLds addr bs dom) s = _
      simp only [execSupervisorAccess, ok]
    have iff : (s.replayingOn (dieOf d) (coreOf d) || (s.coreContexts (dieOf d) (coreOf d)).any s.ctxReplaying) = true ↔ replays := by
      rw [Bool.or_eq_true, List.any_eq_true]
    exact ⟨fun free => at_.trans (if_neg fun h => free (iff.mp h)), fun busy => at_.trans (if_pos (iff.mpr busy))⟩
  · show execSupervisorAccess (.writeHbm pa bs dom) s = _
    simp only [execSupervisorAccess, free, Bool.false_eq_true, if_false]
  · show execSupervisorAccess (.writeHbm pa bs dom) s = _
    simp only [execSupervisorAccess, replays, if_true]
  · show execSupervisorAccess (.readLds addr n dom) s = _
    simp only [execSupervisorAccess, bad]
  · show execSupervisorAccess (.writeLds addr bs dom) s = _
    simp only [execSupervisorAccess, bad']

end Sys2Proof.Proofs

/-! SUPPORT. Debug (O38): rights, halts and steps, breakpoints, writes, samples and folios. -/

namespace Sys2Proof.Proofs

open Sys2Proof.Machine Sys2Proof.Claims

section Debugged

variable {s : State} {n : Nat} {w : Wave} {x : WCtx} (at_ : At s n w x)
include at_

theorem onDebugged_at (right : s.attached x.grid.ctx = true) (f : Wave → WCtx → State) : onDebugged n s f = .next (f w x) := by
  rw [onDebugged, onWave_at at_, if_pos right]

theorem onDebugged_refused (no : s.attached x.grid.ctx = false) (f : Wave → WCtx → State) :
    onDebugged n s f = .next (s.report .refused) := by
  rw [onDebugged, onWave_at at_, if_neg (Bool.eq_false_iff.mp no)]

/-- A step of a wave that no replay shows (R380). -/
theorem debugStep_at (live : s.replayView n = none) (right : s.attached x.grid.ctx = true) : exec (.debugStep n) s = .next (
    if !w.halted || w.haltReq || w.phase == .faulted || s.replayingWave w then s.report .refused
    else if w.atBrkpt then (s.rouseIsland w).pastBrkpt n w x fun v => { v with haltReq := true }
    else (s.rouseIsland w).setWave n { w with halted := false, stepping := true }) := by
  show execDebugStep n s = _
  rw [execDebugStep, live, Option.isSome_none, if_neg Bool.false_ne_true, onDebugged_at at_ right]

theorem debugResume_at (right : s.attached x.grid.ctx = true) : exec (.debugResume n) s = .next (
    if !w.halted || s.replayingWave w then s.report .refused
    else if w.atBrkpt then s.pastBrkpt n w x fun v => { v with halted := false, haltReq := false, stepping := false }
    else s.setWave n { w with passBp := s.breakHere w x, halted := false, haltReq := false, stepping := false }) := by
  show execDebugResume n s = _
  rw [execDebugResume, onDebugged_at at_ right]

/-- A write of a wave's state outside a replay. -/
theorem debugStateWrite_at {wr : DbgWrite} {t : State} (live : s.replayView n = none) (still : s.ctxReplaying x.grid.ctx = false)
    (put : (s.rouseIsland w).debugPut n w x wr = some t) : exec (.debugStateWrite n wr) s = .next (
    if !s.debuggable w x && (w.phase != .faulted || w.saved || spillWrite wr) then s.report .refused
    else (if s.debuggable w x then t.updCtx x.grid.ctx fun c =>
      { c with edited := true, desc := { c.desc with flags := c.desc.flags ||| 16 } } else t).rewritten w) := by
  show execDebugStateWrite n wr s = _
  rw [execDebugStateWrite, live, Option.isSome_none, if_neg Bool.false_ne_true, onWave_at at_]
  simp only [still, Bool.false_eq_true, if_false, put]

end Debugged

theorem pastBrkpt_ok {s : State} {n : Nat} {w : Wave} {x : WCtx} (f : Wave → Wave) (ok : x.pcOk w.nextPc = true) :
    s.pastBrkpt n w x f = s.setWave n (f w.passBrkpt) := if_pos ok

theorem pastBrkpt_bad {s : State} {n : Nat} {w : Wave} {x : WCtx} (f : Wave → Wave) (bad : x.pcOk w.nextPc = false) :
    s.pastBrkpt n w x f = s.deliver n (f { w with atBrkpt := false }) x .pcRange w.run 0 0 := if_neg (Bool.eq_false_iff.mp bad)

theorem breakHere_iff {s : State} {w : Wave} {x : WCtx} : s.breakHere w x = true ↔ w.wait = none ∧
    ∃ q, (s.ctx x.grid.ctx).debug = some q ∧ q.attached = true ∧ (x.grid.kernel, w.pc) ∈ q.breakpoints := by
  rw [State.breakHere, Bool.and_eq_true, Option.isNone_iff_eq_none]
  refine and_congr_right fun _ => ?_
  cases (s.ctx x.grid.ctx).debug with
  | none => simp
  | some r => simp

/-- A step is refused to a wave that runs, and to one that a replay holds. -/
theorem steps_refused {s : State} {w : Wave} (h : w.halted = false ∨ s.replayingWave w = true) :
    (!w.halted || w.haltReq || w.phase == .faulted || s.replayingWave w) = true ∧ (!w.halted || s.replayingWave w) = true := by
  rcases h with h | h
  · simp [h]
  · simp [h]

theorem intervalFor_zero {s : State} {die core : Nat} (h : (s.core die core).replay = none) (c : Nat) : s.intervalFor die core c = 0 := by
  rw [State.intervalFor, h]

/-- Settles O38: rights by the context's, halts and steps by the wave's own state, writes by what `debugPut` answers. -/
theorem debugEvents : Obligations.DebugEvents := by
  intro s ctx agent n w x r
  refine ⟨fun sealed_ => ⟨fun owner => ?_, ?_⟩, fun open_ live none_ owner => ⟨fun mine => ?_, fun other => ?_⟩,
    fun right => ⟨fun open_ same => ?_, fun owner => ⟨fun mine => ?_, fun other => ?_⟩, fun kn k pc hk hat hc aligned inside => ?_,
      fun p open_ low high => ?_, fun die core held reason period next hx still => ?_⟩,
    fun at_ => ⟨fun halted asked idle => ?_, fun right alive going => ?_⟩, fun at_ live => ⟨fun no => ?_, fun right =>
      ⟨fun halted still => ⟨fun asked phase past => ?_, fun asked phase past ok => ?_, fun asked phase past bad => ?_, fun past => ?_,
        fun past ok => ?_⟩, fun no => ?_⟩, breakHere_iff, fun replays wr => ?_, fun wr t still put => ⟨fun ok => ?_, fun no phase here spill => ?_,
        fun no bad => ?_⟩⟩,
    fun v shown => ⟨fun t stepped => ?_, fun none_ => ?_, fun wr => ?_⟩, rfl, fun f rest staged => ⟨fun up => ?_, fun down => ?_, ?_⟩⟩
  · show execDebugGrant ⟨ctx, owner⟩ agent s = _
    simp only [execDebugGrant, sealed_, if_true]
  · show execDebugAttach ctx agent s = _
    simp only [execDebugAttach, sealed_, if_true]
  · show execDebugGrant ⟨ctx, owner⟩ agent s = _
    simp only [execDebugGrant, open_, live, none_, mine, Option.isSome_none, Bool.not_true, Bool.or_self, Bool.false_eq_true, if_false]
  · show execDebugGrant ⟨ctx, owner⟩ agent s = _
    simp only [execDebugGrant, open_, other, Bool.not_false, Bool.or_true, Bool.false_eq_true, if_false, if_true]
  · show execDebugAttach ctx agent s = _
    simp only [execDebugAttach, open_, Bool.false_eq_true, if_false, right, if_pos same]
  · show execDebugRevoke ⟨ctx, owner⟩ s = _
    simp only [execDebugRevoke, right, mine, Option.isNone_some, Bool.not_true, Bool.or_self, Bool.false_eq_true, if_false]
  · show execDebugRevoke ⟨ctx, owner⟩ s = _
    simp only [execDebugRevoke, other, Bool.not_false, Bool.or_true, if_true]
  · show execBreakpointSet ctx kn pc s = _
    simp only [execBreakpointSet, right, hk, hat, hc, beq_self_eq_true, decide_eq_true aligned, decide_eq_true inside, Bool.and_self, if_true]
  · show execSamplePeriodSet ctx p s = _
    simp only [execSamplePeriodSet, right, open_, Bool.not_false, decide_eq_true low, decide_eq_true high, Bool.and_self, if_true]
  · show execStallSample die core ctx held reason s = _
    simp only [execStallSample, right, Option.isNone_eq_false_iff.mpr period, Bool.false_eq_true, if_false, next, hx, intervalFor_zero still]
    rfl
  · refine (onWave_at at_ _).trans ?_
    rw [halted, asked, idle]
    rfl
  · refine (onDebugged_at at_ right _).trans ?_
    rw [alive, going]
    rfl
  · simp only [List.forall_mem_cons, List.not_mem_nil, false_implies, implies_true, and_true]
    refine ⟨onDebugged_refused at_ no _, ?_, onDebugged_refused at_ no _⟩
    show execDebugStep n s = _
    rw [execDebugStep, live, Option.isSome_none, if_neg Bool.false_ne_true, onDebugged_refused at_ no]
  · simp only [debugStep_at at_ live right, halted, asked, beq_eq_false_iff_ne.mpr phase, still, past, Bool.not_true, Bool.or_self,
      Bool.false_eq_true, if_false]
  · simp only [debugStep_at at_ live right, halted, asked, beq_eq_false_iff_ne.mpr phase, still, past, Bool.not_true, Bool.or_self,
      Bool.false_eq_true, if_false, if_true, pastBrkpt_ok _ ok]
  · simp only [debugStep_at at_ live right, halted, asked, beq_eq_false_iff_ne.mpr phase, still, past, Bool.not_true, Bool.or_self,
      Bool.false_eq_true, if_false, if_true, pastBrkpt_bad _ bad]
  · simp only [debugResume_at at_ right, halted, still, past, Bool.not_true, Bool.or_self, Bool.false_eq_true, if_false]
  · simp only [debugResume_at at_ right, halted, still, past, Bool.not_true, Bool.or_self, Bool.false_eq_true, if_false, if_true,
      pastBrkpt_ok _ ok]
  · simp only [List.forall_mem_cons, List.not_mem_nil, false_implies, implies_true, debugStep_at at_ live right,
      debugResume_at at_ right, steps_refused no, if_true, and_self]
  · show execDebugStateWrite n wr s = _
    rw [execDebugStateWrite, live, Option.isSome_none, if_neg Bool.false_ne_true, onWave_at at_]
    simp only [replays, if_true]
  · simp only [debugStateWrite_at at_ live still put, ok, Bool.not_true, Bool.false_and, Bool.false_eq_true, if_false, if_true]
  · simp only [debugStateWrite_at at_ live still put, no, phase, here, spill, bne_self_eq_false, Bool.or_self, Bool.and_false,
      Bool.false_eq_true, if_false, State.rewritten]
  · have told : (w.phase != .faulted || w.saved || spillWrite wr) = true := by
      rcases bad with h | h | h
      · rw [bne_iff_ne.mpr h]
        rfl
      · rw [h, Bool.or_true]
        rfl
      · rw [h, Bool.or_true]
    simp only [debugStateWrite_at at_ live still put, no, told, Bool.not_false, Bool.and_self, if_true]
  · show execDebugStep n s = _
    rw [execDebugStep, shown, Option.isSome_some, if_pos rfl, stepped, Option.getD_some]
  · show execDebugStep n s = _
    rw [execDebugStep, shown, Option.isSome_some, if_pos rfl, none_, Option.getD_none]
  · show execDebugStateWrite n wr s = _
    rw [execDebugStateWrite, shown, Option.isSome_some, if_pos rfl]
  · show execFolioWritten true s = _
    simp only [execFolioWritten, staged, up, Bool.and_self, if_true]
  · show execFolioWritten true s = _
    simp only [execFolioWritten, staged, down, Bool.and_false, Bool.false_eq_true, if_false]
  · show execFolioWritten false s = _
    simp only [execFolioWritten, staged, Bool.false_and, Bool.false_eq_true, if_false]

end Sys2Proof.Proofs

/-! SUPPORT. Links (O39): Table 23.1 event by event, SPDM, what peers may reach and what they ask for. -/

namespace Sys2Proof.Proofs

open Sys2Proof.Machine Sys2Proof.Claims

theorem onPort_at {s : State} {port : Nat} (low : port < 22) {f : Link → Link} {l : Link} (leads : f (s.link port) = l) :
    onPort port s f = .next (s.setLink port l) := by
  rw [onPort, if_pos low, leads]

theorem trainedLanes_of {k : Nat} (low : 1 ≤ k) (high : k ≤ 4) : trainedLanes k = true := by
  simp only [trainedLanes, decide_eq_true low, decide_eq_true high, Bool.and_self]

/-- What a link is after its training again is over, within its time or not. -/
theorem retrainComplete_at {s : State} {port k : Nat} {b : LinkState} (low : port < 22) (training : (s.link port).state = .training)
    (before : (s.link port).before = some b) (one : 1 ≤ k) (four : k ≤ 4) (within : Bool) : exec (.retrainComplete port k within) s =
    .next (s.setLink port (
      let l := { s.link port with
        lanes := k, before := none, session := if within then (s.link port).session else none
        failures := if within then (s.link port).failures else 0 }
      if k < 4 then { l with state := .degraded } else { l with state := if l.session.isSome then .authenticated else .up })) := by
  show execRetrainComplete port k within s = _
  refine onPort_at low ?_
  simp only [training, before, trainedLanes_of one four, ne_eq, not_true_eq_false, decide_false, Option.isNone_some, Bool.not_true,
    Bool.or_self, Bool.false_eq_true, if_false]

/-- Settles O39: each event of Table 23.1 by `onPort`, with the state that it leads to. -/
theorem linkEvents : Obligations.LinkEvents := by
  intro s port low
  dsimp only
  refine ⟨fun down alive => ?_, fun training => ⟨?_, fun fresh => ⟨?_, fun k one four => ?_⟩, fun b k before one four => ⟨?_, ?_⟩⟩,
    fun id up => ?_, fun id degraded none_ => ?_, fun at_ => ⟨?_, fun k more => ?_, fun some_ => ?_, fun k some_ fewer => ?_⟩,
    fun session => ⟨fun many => ?_, fun few => ?_, ?_, ?_⟩, fun free => ?_, fun held => ⟨?_, ?_⟩, onPort_at low rfl, onPort_at low rfl,
    fun carrying => ?_, fun code terms bytes speaks => ⟨fun ok => ?_, fun no => ?_⟩, fun idx r small len dom => ?_,
    fun idx small => ?_, fun peer pa req peers carrying => ⟨fun e found => ?_, fun none_ => ?_⟩⟩
  · show execLinkPartnerDetect port s = _
    refine onPort_at low ?_
    rw [decide_eq_true down, decide_eq_true alive]
    rfl
  · show execLinkTrainingTimeout port s = _
    exact onPort_at low (if_pos training)
  · show execLinkTrained port 4 s = _
    refine onPort_at low ?_
    rw [decide_eq_true training, fresh]
    rfl
  · show execLinkTrained port k s = _
    refine onPort_at low ?_
    rw [decide_eq_true training, fresh, trainedLanes_of one four.le, if_neg four.ne]
    rfl
  · rw [retrainComplete_at low training before one four true]
    by_cases h : k < 4
    · simp only [if_pos h, if_true]
    · simp only [if_neg h, if_true]
  · rw [retrainComplete_at low training before one four false]
    by_cases h : k < 4
    · simp only [if_pos h, Bool.false_eq_true, if_false]
    · simp only [if_neg h, Bool.false_eq_true, if_false, Option.isSome_none]
  · show execSpdmSessionEstablished port id s = _
    refine onPort_at low ?_
    simp only [up]
  · show execSpdmSessionEstablished port id s = _
    refine onPort_at low ?_
    simp only [degraded, none_, Option.isNone_none, if_true]
  · show execAuthenticationFailure port s = _
    refine onPort_at low ?_
    rcases at_ with h | h | h <;> simp only [h]
  · show execLaneLoss port k s = _
    refine onPort_at low ?_
    rcases at_ with h | h | h <;> simp only [h, if_pos more]
  · show execLaneLoss port 0 s = _
    refine onPort_at low ?_
    rcases at_ with h | h | h <;> simp only [h, if_neg (Nat.not_le.mpr some_), if_true]
  · show execLaneLoss port k s = _
    refine onPort_at low ?_
    rcases at_ with h | h | h <;> simp only [h, if_neg (Nat.not_le.mpr fewer), if_neg some_.ne']
  · show execTagFailureLimit port s = _
    refine onPort_at low ?_
    rw [session, decide_eq_true many]
    rfl
  · show execTagFailureLimit port s = _
    refine onPort_at low ?_
    rw [decide_eq_false (Nat.not_lt.mpr few), Bool.and_false, if_neg Bool.false_ne_true]
  · show execEndSession port s = _
    exact onPort_at low (if_pos session)
  · show execKeyUpdate port s = _
    exact onPort_at low (if_pos session)
  · show execLossOfSignal port s = _
    exact onPort_at low (if_neg free)
  · show execLossOfSignal port s = _
    exact onPort_at low (if_pos held)
  · show execPortRelease port s = _
    exact onPort_at low (if_pos held)
  · show execRetrain port s = _
    simp only [execRetrain, decide_eq_false (Nat.not_le.mpr low), carrying, Bool.not_true, Bool.or_self, Bool.false_eq_true, if_false]
  · show execSpdmMessage port code ⟨terms, bytes⟩ s = _
    simp only [execSpdmMessage, speaks, ok, Bool.not_true, Bool.false_eq_true, if_false]
  · show execSpdmMessage port code ⟨terms, bytes⟩ s = _
    simp only [execSpdmMessage, speaks, no, Bool.not_true, Bool.not_false, Bool.false_eq_true, if_false, if_true]
  · show execExportRangeInstall idx (some r) s = _
    simp only [execExportRangeInstall, if_neg (Nat.not_le.mpr small), decide_eq_true len, decide_eq_true dom, Bool.and_self, if_true]
  · show execExportRangeInstall idx none s = _
    simp only [execExportRangeInstall, if_neg (Nat.not_le.mpr small)]
  · show execInboundRequest port peer pa req s = _
    simp only [execInboundRequest, decide_eq_false (Nat.not_le.mpr peers), carrying, Bool.not_true, Bool.or_self, Bool.false_eq_true, if_false,
      found]
  · show execInboundRequest port peer pa req s = _
    simp only [execInboundRequest, decide_eq_false (Nat.not_le.mpr peers), carrying, Bool.not_true, Bool.or_self, Bool.false_eq_true, if_false,
      none_]

end Sys2Proof.Proofs

/-! SUPPORT. The device (O40): the bytes of a start, and islands by their states. -/

namespace Sys2Proof.Proofs

open Sys2Proof.Machine Sys2Proof.Claims

/-! ### The steps of a start -/

/-- Whether a step is taken by its alternate, its byte of the start before being `b`. -/
abbrev StepByAlternate (b k : Nat) : Prop := (b = 2 ∨ b = 4) ∧ k ≠ 1 ∧ k ≠ 10

/-- Whether a step passes. -/
abbrev StepPasses (b k : Nat) (o : StartStep) : Prop := if StepByAlternate b k then o.altOk = true else o.mainOk = true

/-- Whether a start stops at a step that fails. -/
abbrev StepNeeded (k : Nat) : Prop := k ≠ 2 ∧ k ≠ 8 ∧ k ≠ 9

theorem stepRequired_iff {k : Nat} (low : 1 ≤ k) (high : k ≤ 10) : stepRequired k = true ↔ StepNeeded k := by
  simp only [stepRequired, Bool.or_eq_true, beq_iff_eq]
  omega

/-- The byte of a step (R406). -/
theorem stepByte_eq {b k : Nat} {o : StartStep} (low : 1 ≤ k) (high : k ≤ 10) : stepByte k b o =
    if StepPasses b k o then (if StepByAlternate b k then 3 else 1) else if StepNeeded k then 2 else 4 := by
  have asked : ((b == 2 || b == 4) && stepAlternate k) = true ↔ StepByAlternate b k := by
    simp only [stepAlternate, Bool.and_eq_true, Bool.or_eq_true, beq_iff_eq, bne_iff_ne]
  have needed : (if stepRequired k = true then 2 else 4) = if StepNeeded k then 2 else 4 := if_congr (stepRequired_iff low high) rfl rfl
  unfold stepByte
  rw [needed]
  by_cases alt : StepByAlternate b k
  · rw [if_pos (asked.mpr alt), if_pos alt]
    exact if_congr (iff_of_eq (if_pos alt).symm) rfl rfl
  · rw [if_neg (mt asked.mp alt), if_neg alt]
    exact if_congr (iff_of_eq (if_neg alt).symm) rfl rfl

section Bytes

variable {b k : Nat} {o : StartStep} (low : 1 ≤ k) (high : k ≤ 10)
include low high

theorem stepByte_stops : stepByte k b o = 2 ↔ StepNeeded k ∧ ¬ StepPasses b k o := by
  rw [stepByte_eq low high]
  by_cases h : StepPasses b k o
  · rw [if_pos h]
    exact iff_of_false (by split <;> decide) fun both => both.2 h
  · rw [if_neg h]
    by_cases need : StepNeeded k
    · rw [if_pos need]
      exact iff_of_true rfl ⟨need, h⟩
    · rw [if_neg need]
      exact iff_of_false (by decide) fun both => need both.1

theorem stepByte_failed : (stepByte k b o == 2 || stepByte k b o == 4) = decide (¬ StepPasses b k o) := by
  rw [stepByte_eq low high]
  by_cases h : StepPasses b k o
  · rw [if_pos h, decide_eq_false (not_not_intro h)]
    split <;> rfl
  · rw [if_neg h, decide_eq_true h]
    split <;> rfl

theorem stepByte_ne_zero : stepByte k b o ≠ 0 := by
  rw [stepByte_eq low high]
  repeat' split
  all_goals decide

end Bytes

/-- What a start that does not stop has run. -/
theorem runSteps_through (before : List Nat) (d : StartStep) : ∀ (os : List StartStep) (k : Nat),
    (∀ i < os.length, stepByte (k + i) (before.getD (k + i - 1) 0) (os.getD i d) ≠ 2) →
    runSteps before k os = (List.range os.length).map fun i => stepByte (k + i) (before.getD (k + i - 1) 0) (os.getD i d)
  | [], _, _ => rfl
  | o :: os, k, h => by
    have rest := runSteps_through before d os (k + 1) fun i hi => by
      have := h (i + 1) (Nat.succ_lt_succ hi)
      rwa [Nat.add_comm i 1, ← Nat.add_assoc, Nat.add_comm 1 i, List.getD_cons_succ] at this
    rw [runSteps, if_neg (show stepByte k (before.getD (k - 1) 0) o ≠ 2 from h 0 (Nat.zero_lt_succ _)), rest, List.length_cons, List.range_succ_eq_map, List.map_cons, List.map_map]
    refine congrArg (_ :: ·) (List.map_congr_left fun i _ => ?_)
    rw [Function.comp_apply, List.getD_cons_succ, Nat.succ_eq_add_one, Nat.add_comm i 1, ← Nat.add_assoc]

/-- What a start has run that stops at step `m`. -/
theorem runSteps_until (before : List Nat) (d : StartStep) : ∀ (os : List StartStep) (k m : Nat), m < os.length →
    stepByte (k + m) (before.getD (k + m - 1) 0) (os.getD m d) = 2 →
    (∀ i < m, stepByte (k + i) (before.getD (k + i - 1) 0) (os.getD i d) ≠ 2) →
    runSteps before k os = (List.range (m + 1)).map fun i => stepByte (k + i) (before.getD (k + i - 1) 0) (os.getD i d)
  | o :: os, k, 0, _, stop, _ => by
    rw [runSteps, if_pos (show stepByte k (before.getD (k - 1) 0) o = 2 from stop)]
    rfl
  | o :: os, k, m + 1, hm, stop, h => by
    have rest := runSteps_until before d os (k + 1) m (Nat.lt_of_succ_lt_succ hm)
      (by rwa [Nat.add_comm m 1, ← Nat.add_assoc, Nat.add_comm 1 m, List.getD_cons_succ] at stop) fun i hi => by
        have := h (i + 1) (Nat.succ_lt_succ hi)
        rwa [Nat.add_comm i 1, ← Nat.add_assoc, Nat.add_comm 1 i, List.getD_cons_succ] at this
    rw [runSteps, if_neg (show stepByte k (before.getD (k - 1) 0) o ≠ 2 from h 0 (Nat.zero_lt_succ _)), rest, List.range_succ_eq_map (n := m + 1), List.map_cons, List.map_map]
    refine congrArg (_ :: ·) (List.map_congr_left fun i _ => ?_)
    rw [Function.comp_apply, List.getD_cons_succ, Nat.succ_eq_add_one, Nat.add_comm i 1, ← Nat.add_assoc]

/-- The numbers of the steps whose bytes satisfy a test. -/
theorem stepsWhere (p : Nat → Bool) (g : Nat → Nat) (n : Nat) :
    ((List.range (((List.range n).map fun i => i + 1).map g).length).filter fun i =>
      p ((((List.range n).map fun i => i + 1).map g).getD i 0)).map (fun i => i + 1) =
    ((List.range n).map fun i => i + 1).filter fun k => p (g k) := by
  rw [List.filter_map, List.length_map, List.length_map, List.length_range]
  refine congrArg _ (List.filter_congr fun i hi => ?_)
  have low := List.mem_range.mp hi
  rw [List.getD_eq_getElem _ _ (by simpa using low)]
  simp

theorem getLast_bytes (g : Nat → Nat) (n : Nat) : (((List.range (n + 1)).map fun i => i + 1).map g).getLast? = some (g (n + 1)) := by
  rw [List.range_succ, List.map_append, List.map_append]
  exact List.getLast?_concat

/-- The second byte of a record says whether the first step has passed. -/
theorem second_byte (g : Nat → Nat) (n : Nat) (h : g 2 ≠ 0) :
    ((((List.range n).map fun i => i + 1).map g) ++ List.replicate (10 - n) 0).getD 1 0 = 0 ↔ n ≤ 1 := by
  match n with
  | 0 => simp
  | 1 => simp
  | n + 2 =>
    rw [List.range_succ_eq_map, List.range_succ_eq_map]
    simp [h]

/-! ### A start -/

/-- The numbers of the first `n` steps. -/
abbrev stepsTo (n : Nat) : List Nat := (List.range n).map fun i => i + 1

/-- The byte of step `k` of a start with these outcomes. -/
def startByte (s : State) (l : List StartStep) (k : Nat) : Nat :=
  stepByte k (s.startRec.steps.getD (k - 1) 0) (l.getD (k - 1) { mainOk := false, altOk := false })

/-- Whether step `k` of it passes. -/
abbrev StartPasses (s : State) (l : List StartStep) (k : Nat) : Prop :=
  StepPasses (s.startRec.steps.getD (k - 1) 0) k (l.getD (k - 1) { mainOk := false, altOk := false })

section Start

variable {s : State} {l : List StartStep}

theorem run_through (len : l.length = 10) (pass : ∀ k, 1 ≤ k → k ≤ 10 → StepNeeded k → StartPasses s l k) :
    runSteps s.startRec.steps 1 l = (stepsTo 10).map (startByte s l) := by
  rw [runSteps_through _ { mainOk := false, altOk := false } _ _ fun i hi stops => ?_, len, List.map_map]
  · refine List.map_congr_left fun i _ => ?_
    rw [Function.comp_apply, startByte, Nat.add_comm 1 i, Nat.add_sub_cancel]
  · rw [len] at hi
    rw [Nat.add_comm 1 i] at stops
    obtain ⟨need, fails⟩ := (stepByte_stops (Nat.succ_pos i) hi).mp stops
    exact fails (pass (i + 1) (Nat.succ_pos i) hi need)

theorem run_until {m : Nat} (len : l.length = 10) (hm : m < 10) (need : StepNeeded (m + 1)) (fails : ¬ StartPasses s l (m + 1))
    (pass : ∀ k, 1 ≤ k → k < m + 1 → StepNeeded k → StartPasses s l k) :
    runSteps s.startRec.steps 1 l = (stepsTo (m + 1)).map (startByte s l) := by
  rw [runSteps_until _ { mainOk := false, altOk := false } _ 1 m (len ▸ hm) ?_ fun i hi stops => ?_, List.map_map]
  · refine List.map_congr_left fun i _ => ?_
    rw [Function.comp_apply, startByte, Nat.add_comm 1 i, Nat.add_sub_cancel]
  · rw [Nat.add_comm 1 m]
    exact (stepByte_stops (Nat.succ_pos m) hm).mpr ⟨need, fails⟩
  · rw [Nat.add_comm 1 i] at stops
    obtain ⟨need, fails⟩ := (stepByte_stops (Nat.succ_pos i) (hi.trans hm)).mp stops
    exact fails (pass (i + 1) (Nat.succ_pos i) (Nat.succ_lt_succ hi) need)

theorem failed_steps {n : Nat} (hn : n ≤ 10) : failedSteps ((stepsTo n).map (startByte s l)) =
    (stepsTo n).filter fun k => decide (¬ StartPasses s l k) := by
  refine (stepsWhere (fun b => b == 2 || b == 4) (startByte s l) n).trans (List.filter_congr fun k hk => ?_)
  obtain ⟨i, hi, rfl⟩ := List.mem_map.mp hk
  exact stepByte_failed (Nat.succ_pos i) ((List.mem_range.mp hi).trans_le hn)

theorem alternate_steps (n : Nat) : alternateSteps ((stepsTo n).map (startByte s l)) = (stepsTo n).filter fun k => decide (startByte s l k = 3) :=
  stepsWhere (fun b => b == 3) (startByte s l) n

theorem heldLow_iff (alts : List Nat) : heldLow alts = true ↔ 5 ∈ alts ∨ 6 ∈ alts ∨ 7 ∈ alts := by
  rw [heldLow, Bool.or_eq_true, Bool.or_eq_true, List.contains_iff_mem, List.contains_iff_mem, List.contains_iff_mem, or_assoc]

/-- Which marks of lifetime entries a start takes: none where its first step stops it. -/
theorem marks_of {n : Nat} (invalid : List LifeEntry) :
    (if ((stepsTo n).map (startByte s l) ++ List.replicate (10 - n) 0).getD 1 0 = 0 then [] else invalid) =
    if n ≤ 1 then [] else invalid :=
  if_congr (second_byte _ n (stepByte_ne_zero (by decide) (by decide))) rfl rfl

variable {limit no : Nat} (invalid : List LifeEntry) (fresh : s.startRec.started = false) (watts : limit ≤ 2800) (number : no < 1024)
  (len : l.length = 10)
include fresh watts number len

omit fresh watts number len in
/-- The state of a start in which its marks have cleared their entries and its failed steps are counted. -/
def countedStart (s : State) (l : List StartStep) (marks : List LifeEntry) (n : Nat) : State :=
  ((stepsTo n).filter fun k => decide (¬ StartPasses s l k)).foldl (fun t k => t.count (.startFail k) 1)
    ({ s.cold with lifetime := marks.foldl Lifetime.zero s.lifetime }.count .starts 1)

theorem start_allowed : (s.startRec.started || decide (l.length ≠ 10) || decide (2800 < limit) || decide (1024 ≤ no)) = false := by
  rw [fresh, decide_eq_false (not_not_intro len), decide_eq_false (Nat.not_lt.mpr watts), decide_eq_false (Nat.not_le.mpr number)]
  rfl

/-- A start that runs to its end. -/
theorem start_through (few : s.startRec.inARow < 2) (pass : ∀ k, 1 ≤ k → k ≤ 10 → StepNeeded k → StartPasses s l k) :
    exec (.deviceStart l invalid limit no) s = .next { countedStart s l invalid 10 with
      startRec := {
        steps := (stepsTo 10).map (startByte s l), invalid := invalid, stoppedAt := none, inARow := 0
        alternates := (stepsTo 10).filter fun k => decide (startByte s l k = 3), started := true }
      islands := startIslands ((stepsTo 10).filter fun k => decide (startByte s l k = 3))
      powerLimit := limit, deviceNo := no } := by
  show execDeviceStart l invalid limit no s = _
  simp only [execDeviceStart]
  have goes : startByte s l (9 + 1) ≠ 2 := fun stops =>
    ((stepByte_stops (by decide) (by decide)).mp stops).2 (pass 10 (by decide) (by decide) (by decide))
  rw [if_neg (Bool.eq_false_iff.mp (start_allowed fresh watts number len)), if_neg (Nat.not_le.mpr few), run_through len pass,
    getLast_bytes, if_neg fun same => goes (Option.some.inj same), failed_steps (Nat.le_refl 10), alternate_steps,
    List.length_map, List.length_map, List.length_range, marks_of]
  simp only [Nat.sub_self, List.replicate_zero, List.append_nil]
  rfl

/-- A start that stops at step `m + 1`. -/
theorem start_until {m : Nat} (few : s.startRec.inARow < 2) (hm : m < 10) (need : StepNeeded (m + 1)) (fails : ¬ StartPasses s l (m + 1))
    (pass : ∀ k, 1 ≤ k → k < m + 1 → StepNeeded k → StartPasses s l k) :
    exec (.deviceStart l invalid limit no) s = .next ({ countedStart s l (if m + 1 ≤ 1 then [] else invalid) (m + 1) with
      startRec := { s.startRec with
        steps := (stepsTo (m + 1)).map (startByte s l) ++ List.replicate (10 - (m + 1)) 0
        invalid := if m + 1 ≤ 1 then [] else invalid, stoppedAt := some (m + 1)
        inARow := if s.startRec.stoppedAt = some (m + 1) then s.startRec.inARow + 1 else 1, alternates := [], started := false } }.report
        (.startStopped (m + 1))) := by
  show execDeviceStart l invalid limit no s = _
  simp only [execDeviceStart]
  have stops : startByte s l (m + 1) = 2 := (stepByte_stops (Nat.succ_pos m) hm).mpr ⟨need, fails⟩
  rw [if_neg (Bool.eq_false_iff.mp (start_allowed fresh watts number len)), if_neg (Nat.not_le.mpr few), run_until len hm need fails pass,
    getLast_bytes, if_pos (congrArg some stops), failed_steps hm, List.length_map, List.length_map, List.length_range, marks_of]
  rfl

end Start

/-! ### Islands -/

section Islands

variable {s : State} {i : Nat} {st : IslandState}

theorem island_allowed (has : islandHas i st = true) (run : st = .run → s.held i = false) (red : st = .reduced → 24 ≤ i → s.held i = true) :
    (!islandHas i st || (st == .run && s.held i) || (st == .reduced && decide (24 ≤ i) && !s.held i)) = false := by
  rw [has]
  cases st with
  | run => rw [run rfl]; rfl
  | reduced =>
    by_cases high : 24 ≤ i
    · rw [red rfl high, Bool.not_true, Bool.and_false]
      rfl
    · rw [decide_eq_false high]
      rfl
  | stopped => rfl
  | off => rfl

/-- A core island that may take the state (R407). -/
theorem coreIsland_at (low : i < 24) (run : st = .run → s.held i = false) (sram : st = .off ∨ s.island (24 + i / 6) ≠ .off) :
    exec (.islandStateSet i st) s =
      if st ≠ .run && s.blocks.any (fun e => s.replayIsland i e.1 e.2) then .next ((s.saveBlocks (s.replayIsland i)).stopReplays i)
      else if st = .off && s.haltedOn i then .next (s.report .refused)
      else if st = .off && s.blocks.any (fun e => s.onIsland i e.1 e.2) then .next (s.saveBlocks (s.onIsland i))
      else .next (s.setCoreIsland i st) := by
  have fed : ¬ (decide (st ≠ .off) && decide (s.island (24 + i / 6) = .off)) = true := by
    rw [Bool.and_eq_true, decide_eq_true_iff, decide_eq_true_iff]
    rcases sram with h | h
    · exact fun both => both.1 h
    · exact fun both => h both.2
  show execIslandStateSet i st s = _
  simp only [execIslandStateSet]
  rw [if_neg (Bool.eq_false_iff.mp (island_allowed (if_pos low) run fun _ high => absurd low (Nat.not_lt.mpr high))), if_pos low, if_neg fed]

/-- An island of SRAM, HBM or links that may take the state. -/
theorem otherIsland_at (high : 24 ≤ i) (has : islandHas i st = true) (run : st = .run → s.held i = false)
    (red : st = .reduced → s.held i = true) : exec (.islandStateSet i st) s =
      if decide (i < 28) && st == .off then
        if (List.range 6).all fun k => s.island ((i - 24) * 6 + k) == .off then
          .next ({ s with islands := s.islands.put i st }.sramOff (i - 24))
        else .next (s.report .refused)
      else .next { s with islands := s.islands.put i st } := by
  show execIslandStateSet i st s = _
  simp only [execIslandStateSet]
  rw [if_neg (Bool.eq_false_iff.mp (island_allowed has run fun r _ => red r)), if_neg (Nat.not_lt.mpr high)]

/-- A wake that raises the state of its island. -/
theorem wake_allowed (has : islandHas i st = true) (rises : (s.island i).rank < st.rank) (on : s.island i ≠ .off)
    (run : st = .run → s.held i = false) :
    (!islandHas i st || decide (st.rank ≤ (s.island i).rank) || s.island i == .off || (st == .run && s.held i)) = false := by
  rw [has, decide_eq_false (Nat.not_le.mpr rises), beq_eq_false_iff_ne.mpr on]
  cases st with
  | run => rw [run rfl]; rfl
  | reduced => rfl
  | stopped => rfl
  | off => rfl

end Islands

/-- Settles O40: a start by the bytes of its steps, islands by their tests. -/
theorem deviceEvents : Obligations.DeviceEvents := by
  intro s limit no i invalid st refused
  refine ⟨?_, fun l bad => ?_, fun watts number fresh twice l len => ?_, rfl, fun _ _ => rfl, fun _ _ => rfl, fun d => ?_, fun low => if_pos low,
    fun high => if_neg (Nat.not_le.mpr high), fun held => ?_, fun high free => ?_, fun low on off => ?_, fun low run sram => ⟨fun less replay => ?_,
      fun still empty => ?_, fun off still halted => ?_, fun off still going on => ?_⟩, fun low high off => ?_, fun high has small run red => ?_,
    fun lacks => ?_, fun low rises on queue run => ?_, fun high has rises on run => ?_⟩
  · intro l watts number fresh few len before byAlt needed out passes byte ran counted
    have bytes : ∀ k, 1 ≤ k → k ≤ 10 → startByte s l k = byte k := fun k low high => stepByte_eq low high
    have mapped : ∀ n, n ≤ 10 → (stepsTo n).map (startByte s l) = (ran n).map byte := fun n hn => List.map_congr_left fun k hk => by
      obtain ⟨j, hj, rfl⟩ := List.mem_map.mp hk
      exact bytes (j + 1) (Nat.succ_pos j) ((List.mem_range.mp hj).trans_le hn)
    have through : ∀ n, n ≤ 10 → ((ran n).filter fun k => decide (startByte s l k = 3)) = (ran n).filter fun k => decide (byte k = 3) :=
      fun n hn => List.filter_congr fun k hk => by
        obtain ⟨j, hj, rfl⟩ := List.mem_map.mp hk
        rw [bytes (j + 1) (Nat.succ_pos j) ((List.mem_range.mp hj).trans_le hn)]
    refine ⟨fun pass => ?_, fun k low high need fails pass => ?_⟩
    · intro alts
      rw [start_through invalid fresh watts number len few pass, mapped 10 (Nat.le_refl 10), startIslands,
        show ((stepsTo 10).filter fun k => decide (startByte s l k = 3)) = alts from through 10 (Nat.le_refl 10),
        if_congr (heldLow_iff alts) rfl rfl, if_congr (List.contains_iff_mem (a := 3) (as := alts)) rfl rfl]
      rfl
    · intro marks
      obtain ⟨m, rfl⟩ : ∃ m, k = m + 1 := ⟨k - 1, (Nat.sub_add_cancel low).symm⟩
      have some_ : (if m + 1 ≤ 1 then [] else invalid) = marks := if_congr (by omega) rfl rfl
      rw [start_until invalid fresh watts number len few high need fails pass, mapped (m + 1) high, some_]
      rfl
  · show execDeviceStart l invalid limit no s = _
    have told : (s.startRec.started || decide (l.length ≠ 10) || decide (2800 < limit) || decide (1024 ≤ no)) = true := by
      rcases bad with h | h | h
      · rw [h]
        rfl
      · rw [decide_eq_true h, Bool.or_true]
        rfl
      · rw [decide_eq_true h, Bool.or_true]
    simp only [execDeviceStart]
    rw [if_pos told]
  · show execDeviceStart l invalid limit no s = _
    simp only [execDeviceStart]
    rw [if_neg (Bool.eq_false_iff.mp (start_allowed fresh watts number len)), if_pos twice]
  · cases d <;> rfl
  · show execIslandStateSet i .run s = _
    simp only [execIslandStateSet, held, beq_self_eq_true, Bool.and_self, Bool.or_true, Bool.true_or, if_true]
    rfl
  · show execIslandStateSet i .reduced s = _
    simp only [execIslandStateSet, free, decide_eq_true high, beq_self_eq_true, Bool.and_self, Bool.not_false, Bool.or_true, if_true]
    rfl
  · show execIslandStateSet i st s = _
    simp only [execIslandStateSet, if_pos low, off, decide_eq_true on, decide_true, Bool.and_self, if_true, ite_self]
    rfl
  · rw [coreIsland_at low run sram, replay, decide_eq_true less]
    rfl
  · rw [coreIsland_at low run sram]
    by_cases h : st = .off
    · obtain ⟨halted, going⟩ := empty h
      subst h
      rw [still (by decide), halted, going]
      rfl
    · rw [decide_eq_false h]
      by_cases r : st = .run
      · subst r
        rfl
      · rw [still r, Bool.and_false]
        rfl
  · subst off
    rw [coreIsland_at low run sram, still, halted]
    rfl
  · subst off
    rw [coreIsland_at low run sram, still, going, on]
    rfl
  · rw [otherIsland_at (st := .off) low (by rw [islandHas, if_neg (Nat.not_lt.mpr low), if_pos high]; rfl) (fun r => nomatch r) (fun r => nomatch r),
      decide_eq_true high]
    refine if_pos (List.all_eq_true.mpr fun k hk => beq_iff_eq.mpr (off k (List.mem_range.mp hk)))
  · rw [otherIsland_at high has run red, if_neg]
    intro both
    obtain ⟨l, o⟩ := (Bool.and_eq_true ..).mp both
    exact small (of_decide_eq_true l) (eq_of_beq o)
  · show execIslandStateSet i st s = _
    simp only [execIslandStateSet, lacks, Bool.not_false, Bool.true_or, if_true]
    rfl
  · show execIslandWake i st s = _
    have asked : ¬ ((s.die (i / 6)).queue.isEmpty && !s.coopOn i) = true := by
      rw [Bool.and_eq_true]
      rcases queue with h | h
      · exact fun both => h (List.isEmpty_iff.mp both.1)
      · rw [h]
        exact fun both => absurd both.2 (by decide)
    simp only [execIslandWake]
    rw [if_neg (Bool.eq_false_iff.mp (wake_allowed (if_pos low) rises on run)), if_pos low, if_neg asked]
  · show execIslandWake i st s = _
    simp only [execIslandWake]
    rw [if_neg (Bool.eq_false_iff.mp (wake_allowed has rises on run)), if_neg (Nat.not_lt.mpr high)]

end Sys2Proof.Proofs

/-! SUPPORT. Replay (O41): patches of tables and stores, a step of the log executed again, and the events of a replaying core. -/

namespace Sys2Proof.Proofs

open Sys2Proof.Machine Sys2Proof.Claims

/-! ### Patches -/

section Patch

variable {α : Type}

/-- The table once one entry of a patch is applied. -/
def patchOne (t : Tbl α) (e : Nat × Option α) : Tbl α :=
  match e.2 with
  | some v => t.put e.1 v
  | none => t.del e.1

theorem get_patchOne (t : Tbl α) (e : Nat × Option α) : Tbl.get (patchOne t e) e.1 = e.2 := by
  obtain ⟨n, _ | v⟩ := e
  · exact Tbl.get_del t n
  · exact Tbl.get_put t n v

theorem get_patchOne_ne (t : Tbl α) (e : Nat × Option α) {n : Nat} (h : n ≠ e.1) : Tbl.get (patchOne t e) n = Tbl.get t n := by
  obtain ⟨m, _ | v⟩ := e
  · exact Tbl.get_del_ne t h
  · exact Tbl.get_put_ne t v h

/-- A patch whose entries of a key agree leaves what they say, if the key has one or says it before. -/
theorem get_patched {o : Option α} {n : Nat} : ∀ (p : List (Nat × Option α)) (t : Tbl α), (∀ e ∈ p, e.1 = n → e.2 = o) →
    (Tbl.get t n = o ∨ ∃ e ∈ p, e.1 = n) → Tbl.get (Tbl.patched t p) n = o
  | [], _, _, has => has.elim id fun ⟨_, he, _⟩ => absurd he List.not_mem_nil
  | e :: p, t, agree, has => by
    refine get_patched p (patchOne t e) (fun f hf => agree f (List.mem_cons_of_mem _ hf)) ?_
    by_cases he : e.1 = n
    · subst he
      exact .inl ((get_patchOne t e).trans (agree e List.mem_cons_self rfl))
    · rw [get_patchOne_ne t e (Ne.symm he)]
      refine has.imp_right fun ⟨f, hf, hn⟩ => ?_
      rcases List.mem_cons.mp hf with rfl | hf
      · exact absurd hn he
      · exact ⟨f, hf, hn⟩

theorem get_of_mem {n : Nat} {v : α} : ∀ {t : Tbl α}, (t.map fun e => e.1).Nodup → (n, v) ∈ t → Tbl.get t n = some v
  | (k, x) :: t, nodup, he => by
    obtain ⟨fresh, nodup⟩ := List.nodup_cons.mp nodup
    rcases List.mem_cons.mp he with same | he
    · cases same
      rw [Tbl.get, if_pos rfl]
    · rw [Tbl.get, if_neg]
      · exact get_of_mem nodup he
      · rintro rfl
        exact fresh (List.mem_map.mpr ⟨_, he, rfl⟩)

/-- What makes one table of another does so. -/
theorem patched_patchTo [DecidableEq α] (a : Tbl α) {b : Tbl α} (nodup : (b.map fun e => e.1).Nodup) (n : Nat) :
    Tbl.get (Tbl.patched a (Tbl.patchTo a b)) n = Tbl.get b n := by
  refine get_patched _ _ (fun e he hn => ?_) ?_
  · subst hn
    rcases List.mem_append.mp he with he | he
    · obtain ⟨f, hf, rfl⟩ := List.mem_map.mp he
      exact (get_of_mem nodup (List.mem_filter.mp hf).1).symm
    · obtain ⟨f, hf, rfl⟩ := List.mem_map.mp he
      exact (Option.isNone_iff_eq_none.mp (List.mem_filter.mp hf).2).symm
  · by_cases same : Tbl.get a n = Tbl.get b n
    · exact .inl same
    · right
      cases hb : Tbl.get b n with
      | some v => exact ⟨(n, some v), List.mem_append_left _ (List.mem_map.mpr ⟨(n, v), List.mem_filter.mpr
          ⟨Tbl.mem_of_get hb, decide_eq_true fun h => same (h.trans hb.symm)⟩, rfl⟩), rfl⟩
      | none =>
        obtain ⟨x, hx⟩ := Option.ne_none_iff_exists'.mp fun h => same (h.trans hb.symm)
        exact ⟨(n, none), List.mem_append_right _ (List.mem_map.mpr ⟨(n, x), List.mem_filter.mpr
          ⟨Tbl.mem_of_get hx, Option.isNone_iff_eq_none.mpr hb⟩, rfl⟩), rfl⟩

end Patch

theorem find_ne_none {m : Memory} {n : Nat} (h : Memory.find m n ≠ none) : n ∈ m.map fun (e : Nat × Byte) => e.1 := by
  induction m with
  | nil => exact absurd rfl h
  | cons e m ih =>
    obtain ⟨k, x⟩ := e
    by_cases hk : k = n
    · exact hk ▸ List.mem_cons_self
    · rw [Memory.find, if_neg hk] at h
      exact List.mem_cons_of_mem _ (ih h)

/-- Bytes written whose entries of an address agree, if the address has one or reads so before. -/
theorem find_given {b : Byte} {n : Nat} : ∀ (p : List (Nat × Byte)) (m : Memory), Memory.wf (some 0) m = true →
    (∀ e ∈ p, e.1 = n → e.2 = b) → ((Memory.find m n).getD 0 = b ∨ ∃ e ∈ p, e.1 = n) →
    (Memory.find (p.foldl (fun m (e : Nat × Byte) => Memory.set (some 0) m e.1 e.2) m) n).getD 0 = b
  | [], _, _, _, has => has.elim id fun ⟨_, he, _⟩ => absurd he List.not_mem_nil
  | e :: p, m, wf, agree, has => by
    refine find_given p _ (Memory.wf_set wf e.1 e.2) (fun f hf => agree f (List.mem_cons_of_mem _ hf)) ?_
    by_cases he : e.1 = n
    · subst he
      exact .inl ((Memory.getD_set wf e.1 e.2).trans (agree e List.mem_cons_self rfl))
    · rw [Memory.find_set_ne (some 0) m e.2 (Ne.symm he)]
      refine has.imp_right fun ⟨f, hf, hn⟩ => ?_
      rcases List.mem_cons.mp hf with rfl | hf
      · exact absurd hn he
      · exact ⟨f, hf, hn⟩

/-- What makes one store of another does so, where the first is in canonical form. -/
theorem given_bytesTo {a b : Memory} (wf : Memory.wf (some 0) a = true) (n : Nat) :
    (Memory.find ((bytesTo a b).foldl (fun m (e : Nat × Byte) => Memory.set (some 0) m e.1 e.2) a) n).getD 0 =
      (Memory.find b n).getD 0 := by
  refine find_given _ _ wf (fun e he hn => ?_) ?_
  · subst hn
    obtain ⟨x, _, rfl⟩ := List.mem_map.mp he
    rfl
  · by_cases same : (Memory.find a n).getD 0 = (Memory.find b n).getD 0
    · exact .inl same
    · have listed : n ∈ ((a ++ b).map fun (e : Nat × Byte) => e.1).eraseDups := by
        rw [List.mem_eraseDups, List.map_append, List.mem_append]
        by_contra no
        rw [not_or] at no
        exact same (by rw [not_not.mp (mt find_ne_none no.1), not_not.mp (mt find_ne_none no.2)])
      exact .inr ⟨(n, (Memory.find b n).getD 0), List.mem_map.mpr ⟨n, List.mem_filter.mpr ⟨listed, bne_iff_ne.mpr same⟩, rfl⟩, rfl⟩

theorem listTo_getD {α : Type} [DecidableEq α] (a b : List α) : (listTo a b).getD a = b := by
  rw [listTo]
  split
  · next h => exact h
  · rfl

/-! ### A replaying core -/

theorem updCore_congr {s : State} {die core : Nat} {f g : Core → Core} (h : f (s.core die core) = g (s.core die core)) :
    s.updCore die core f = s.updCore die core g := congrArg (s.setCore die core) h

section Replaying

variable {s : State} {die core : Nat} {r : ReplayCore} (hr : (s.core die core).replay = some r)
include hr

/-- A stop judged at the core that it names (R399). -/
theorem judgeStop_at {stop : StopName} (hd : stop.die = die) (hc : stop.core = core) : s.judgeStop r.ctx stop =
    match r.interval? stop.interval with
    | none => s.refuseStop r.ctx stop true
    | some (i, steps, later) =>
      if !i.reached stop then s.refuseStop r.ctx stop false
      else if s.island (islandOf die core) != .run then s.report .refused
      else (s.haltAll r.ctx).updCore die core fun k =>
        { k with replay := some { r with replay := some {
            stop := stop
            view := s.rewound die core i later
            ahead := i.log ++ steps
            held := s.halting r.ctx ++ match r.replay with
              | some p => p.held
              | none => [] } } } := by
  subst hd
  subst hc
  unfold State.judgeStop
  rw [hr]
  dsimp only
  rw [if_pos rfl] <;> cases r.interval? stop.interval <;> rfl

/-- A step of a replay. -/
theorem replayOn_at {p : Replay} (hp : r.replay = some p) : s.replayOn die core = s.updCore die core fun k =>
    { k with replay := some { r with replay := some (p.onward die core) } } := by
  refine updCore_congr ?_
  simp only [hr, Option.map_some, ReplayCore.onward, hp]

end Replaying

/-- Settles O41: a stop by the interval that it names, a step of the log by the patch that it holds, the events by their tests. -/
theorem replayEvents : Obligations.ReplayEvents := by
  intro s die core r hr puts
  refine ⟨fun due => ?_, fun due => ?_, fun full => ?_, fun room => ?_, fun stop hd hc => ?_, ?_, fun p hp no => ?_,
    fun p e rest hp ahead mode off => ?_, fun p hp mode => ?_, ?_, fun p hp alone => ?_, ?_⟩
  · show execCheckpoint die core s = _
    simp only [execCheckpoint, hr, due, if_true]
    rfl
  · show execCheckpoint die core s = _
    simp only [execCheckpoint, hr, due, Bool.false_eq_true, if_false]
  · show execJournalFullCheckpoint die core s = _
    simp only [execJournalFullCheckpoint, hr, full, Bool.not_true, Bool.false_eq_true, if_false]
    rfl
  · show execJournalFullCheckpoint die core s = _
    simp only [execJournalFullCheckpoint, hr, room, Bool.not_false, if_true]
  · intro t
    refine ⟨fun right on => ⟨fun saving => ?_, fun still => ?_⟩, fun no => ?_, fun i steps later found reached => ⟨fun run => ?_, fun dark => ?_⟩,
      fun gone => ?_, fun q found missed => ?_, ?_⟩
    · show execReplayToStop r.ctx stop s = _
      simp only [execReplayToStop, right, on, saving, Bool.not_true, Bool.or_self, Bool.false_eq_true, if_false, if_true]
      rfl
    · show execReplayToStop r.ctx stop s = _
      simp only [execReplayToStop, right, on, still, Bool.not_true, Bool.or_self, Bool.false_eq_true, if_false]
      rfl
    · show execReplayToStop r.ctx stop s = _
      have told : (!s.attached r.ctx || !s.replays r.ctx) = true := by
        rcases no with h | h
        · rw [h]
          rfl
        · rw [h, Bool.not_false, Bool.or_true]
      simp only [execReplayToStop, told, if_true]
    · rw [judgeStop_at hr hd hc, found]
      simp only [reached, run, bne_self_eq_false, Bool.not_true, Bool.false_eq_true, if_false]
      rfl
    · rw [judgeStop_at hr hd hc, found]
      simp only [reached, bne_iff_ne.mpr dark, Bool.not_true, Bool.false_eq_true, if_false, if_true]
    · rw [judgeStop_at hr hd hc, gone]
      rfl
    · rw [judgeStop_at hr hd hc, found]
      simp only [missed, Bool.not_false, if_true]
      rfl
    · intro asked still right u
      have judged : s.judgeStops = if !u.attached r.ctx then u.report .refused
          else if u.replays r.ctx then u.judgeStop r.ctx stop else u.refuseStop r.ctx stop true := by
        simp only [State.judgeStops, asked, List.filter_cons, still, Bool.not_false, if_true, List.filter_nil, List.isEmpty_cons,
          Bool.false_eq_true, if_false, List.foldl_cons, List.foldl_nil]
        rfl
      rw [show u.attached r.ctx = true from right] at judged
      exact ⟨fun on => judged.trans (if_pos on), fun off => judged.trans (if_neg (Bool.eq_false_iff.mp off))⟩
  · intro p hp fresh stands w
    show execReplayStopReached die core s = _
    simp only [execReplayStopReached, hr, hp, fresh, stands, Bool.not_true, Bool.or_self, Bool.false_eq_true, if_false]
    rfl
  · show execReplayStopReached die core s = _
    have told : (p.reached || !p.view.stands p.stop) = true := by
      rcases no with h | h
      · rw [h]
        rfl
      · rw [h, Bool.not_false, Bool.or_true]
    simp only [execReplayStopReached, hr, hp, told, if_true]
  · rw [replayOn_at hr hp]
    have step : p.onward die core = { p with view := p.view.after die core e, ahead := rest } := by
      simp only [Replay.onward, Replay.runs, mode, off, Bool.not_false, if_true, ahead, bne_self_eq_false, Bool.false_and, Bool.false_eq_true,
        if_false]
    rw [step]
  · rw [replayOn_at hr hp]
    have still : p.onward die core = p := by
      simp only [Replay.onward, Replay.runs, mode, Bool.false_eq_true, if_false]
    rw [still, ← hp]
  · intro a b k turn n m
    exact ⟨fun nodup => patched_patchTo _ nodup n, fun nodup => patched_patchTo _ nodup n, fun wf => given_bytesTo wf n, listTo_getD ..,
      listTo_getD .., listTo_getD ..⟩
  · show execReplayContinue die core s = _
    simp only [execReplayContinue, hr, hp, alone, List.isEmpty_nil, List.map_nil, List.flatten_nil, List.append_nil, if_true]
    rfl
  · intro p hp others held here
    have led : exec (.replayContinue die core) s = execReplayContinue die core s := rfl
    conv_rhs at led => simp only [execReplayContinue, hr, hp, List.isEmpty_eq_false_iff.mpr others, Bool.false_eq_true, if_false]
    exact ⟨_, led, rfl⟩

end Sys2Proof.Proofs
